-- ==== Sys2Proof/Word.lean ====
section
/-! DEFINITION. The word types of the machine (00 R4 to R6) and their plainest arithmetic. -/

namespace Sys2Proof

/-- A byte of memory. -/
abbrev Byte := BitVec 8
/-- An instruction word (02 R45). -/
abbrev Word := BitVec 32
/-- A register word (01 R11). -/
abbrev DWord := BitVec 64
/-- A byte address of the 48-bit map (11 R318). -/
abbrev Addr := BitVec 48
/-- A vector register (01 R21). -/
abbrev VWord := BitVec 512

end Sys2Proof
end

