-- ==== Sys2Proof/Syntax.lean ====
section
/-! DEFINITION. The operand types, the data that packets and commands carry, and Instr:
one constructor for every row of spec/opcode_table.json. -/

namespace Sys2Proof

/-- A scalar register field (02 R48, Table 2-2). -/
inductive Reg where
  | p (i : Fin 8)
  | l (i : Fin 2)
  | z
  | id
  | qm (i : Fin 2)
  | qmx
  | qvx
  | qcp
  | qac
  | qam
  | qsc
  | qjn
  | qev
  | qhs
  | qtm
  | qs (i : Fin 8)
  | s (i : Fin 32)
  deriving DecidableEq, Repr

/-- A vector register field (01 R21). -/
abbrev VReg := Fin 16

/-- An access size (02 R54): 1, 2, 4 or 8 bytes. -/
inductive Size where
  | b1
  | b2
  | b4
  | b8
  deriving DecidableEq, Repr

/-- An element type (02 R53, Table 2-4). -/
inductive Ty where
  | d
  | s
  | b
  | h
  | q
  | w
  | c
  | e4m3
  | e5m2
  | mxfp4
  | l6
  deriving DecidableEq, Repr

/-- The conditions of BR (04 R135). -/
inductive Cond where
  | eqz
  | nez
  | ltz
  | gez
  | gtz
  | lez
  deriving DecidableEq, Repr

/-- The ordering suffix of an atomic (05 R166). -/
inductive Order where
  | rlx
  | acq
  | rel
  | ar
  deriving DecidableEq, Repr

/-- The scopes of FENCE but .bank (05 Table 5-5). -/
inductive Scope where
  | core
  | clus
  | die
  | pkg
  | sys
  deriving DecidableEq, Repr

/-- The operations of Table 5-4. -/
inductive AtomOp where
  | add
  | swp
  | cas
  | and
  | or
  | xor
  | min
  | max
  | minu
  | maxu
  | inc
  deriving DecidableEq, Repr

/-- A fibre of the package: the package core number (die times 2304 plus the die-local index) and its
run-queue index, with 256 for the handler slot and 257 for the urgent slot of that core. -/
structure Who where
  core : Nat
  ent : Nat
  deriving DecidableEq, Repr

/-- What an access to a scratchpad does at its bank (11 Table 11-6). -/
inductive AccKind where
  | load
  | store
  | ldfe
  | ldff
  | stfe
  | stff
  | atomic (op : AtomOp)
  | cas16
  | accw
  | accz
  | accset
  | accrd
  deriving DecidableEq, Repr

/-- One access as it travels: address, size, operands and, for ACCW, the words of its addend. -/
structure Access where
  kind : AccKind
  addr : DWord
  size : Size
  a : DWord
  b : DWord
  c : DWord
  e : DWord
  big : List DWord
  deriving DecidableEq, Repr

/-- How the issuer of an access learns of its end: a waited access, a split-phase entry of qam, or a journal entry. -/
inductive Via where
  | wait
  | qam
  | journal (j : Nat)
  deriving DecidableEq, Repr

/-- The issuer of an access: fibre, serial number of the operation, way of the reply, job. -/
structure Issuer where
  who : Who
  op : Nat
  via : Via
  job : Option Nat
  deriving DecidableEq, Repr

/-- The outcome of an access at its target: fault code (0 for success), old or loaded words. -/
structure Result where
  code : Nat
  addr : DWord
  sub : Bool
  words : List DWord
  deriving DecidableEq, Repr

/-- A tile as its message names it (06 R197): place, layout and format of its record, and the bank formats of its core
when its send issued (03 R84). -/
structure TileDesc where
  base : Nat
  stride : Nat
  rows : Nat
  cols : Nat
  fmt : Nat
  bf : List Word
  deriving DecidableEq, Repr

/-- What a channel message holds (06 R196, R197). -/
inductive Body where
  | word (v : DWord)
  | token
  | last
  | tile (t : TileDesc) (bytes : List Byte)
  deriving DecidableEq, Repr

/-- The far end of a channel: a fibre endpoint of a core, or an external party (06 Table 6-6). -/
inductive Peer where
  | core (core : Nat) (ep : Nat)
  | ext (kind : Nat) (num : Nat)
  deriving DecidableEq, Repr

/-- A channel message (06 R193): sender, sending end, receiving endpoint. -/
structure ChanMsg where
  who : Who
  op : Nat
  src : Peer
  dst : Nat
  body : Body
  offer : Bool
  job : Option Nat
  deriving DecidableEq, Repr

/-- A POST message (07 R226). -/
structure PostMsg where
  who : Who
  op : Nat
  port : Nat
  word : DWord
  wait : Bool
  job : Option Nat
  srcDie : Nat
  deriving DecidableEq, Repr

/-- The context of a new child as it travels to its core (06 Table 6-8). -/
structure Child where
  who : Who
  op : Nat
  job : Option Nat
  entry : Addr
  arg : DWord
  slot : DWord
  cid : DWord
  dl : Addr
  status : Word
  deriving DecidableEq, Repr

/-- An event operation on its way to the event's home (06 R215). -/
structure EvMsg where
  who : Who
  op : Nat
  job : Nat
  name : Nat
  die : Nat
  notify : Bool
  deriving DecidableEq, Repr

/-- A probe of the dead-letter search (06 R220): its path from the origin, each fibre with the serial number of its
operation, reason and endpoint. -/
structure Probe where
  origin : Who
  op : Nat
  path : List (Who × Nat × Nat × Nat)
  target : Nat
  ep : Nat
  deriving DecidableEq, Repr

/-- A memory-server request (14 Table 14-1): the flit's fields, the payload words, the stack that holds it now. -/
structure Req where
  stack : Nat
  routine : Nat
  priv : Bool
  w32 : Bool
  w128 : Bool
  tag : Nat
  queue : Fin 2
  origin : Nat
  who : Who
  op : Nat
  via : Via
  jent : Nat
  hops : Nat
  hinted : Bool
  va : Addr
  a : DWord
  b : DWord
  payload : List Byte
  job : Option Nat
  deriving DecidableEq, Repr

/-- A memory-server reply (14 Table 14-2): status, substitution, result, data, home. -/
structure Rep where
  status : Nat
  sub : Bool
  result : DWord
  data : List Byte
  home : Option Nat
  deriving DecidableEq, Repr

/-- A remote matrix command block with its issuer (08 Table 8-7). -/
structure MatCmd where
  who : Who
  slot : Nat
  code : Nat
  tag : Nat
  opa : DWord
  opb : DWord
  opd : DWord
  token : DWord
  job : Option Nat
  deriving DecidableEq, Repr

/-- A Symen Link frame (15 Table 15-1), named by the link it arrived on. -/
structure Frame where
  link : Nat
  kind : Nat
  srcMod : Nat
  dstMod : Nat
  stream : Nat
  arg : DWord
  arg2 : DWord
  write : Bool
  access : Option Access
  body : Body
  data : List Byte
  ok : Bool
  code : Nat
  deriving DecidableEq, Repr

/-- Who submitted a management command (16 R443). -/
inductive Submitter where
  | host
  | core (cid : Nat)
  deriving DecidableEq, Repr

/-- A management command: address of its block and submitter. -/
structure Cmd where
  block : Addr
  sub : Submitter
  deriving DecidableEq, Repr

/-- The engine command queues of 08 R284. -/
inductive EngQ where
  | mx
  | vx
  | ac
  deriving DecidableEq, Repr

/-- The sequencers of 08 R280. -/
inductive Eng where
  | mat
  | vec
  | cpy
  deriving DecidableEq, Repr

/-- Rows of a count matrix as a clock update carries them, and the agent that sent it (10 R314). -/
structure CountRows where
  src : Fin 18
  rows : List (Fin 18 × List (BitVec 16))
  deriving DecidableEq, Repr

/-- The steps of the machine: the instruction words of chapter 02 and, after them, the events of the
other agents (95), each a whole, indivisible step. -/
inductive Instr where
  | add (d : Reg) (a : Reg) (b : Reg)
  | sub (d : Reg) (a : Reg) (b : Reg)
  | mul (d : Reg) (a : Reg) (b : Reg)
  | mulh (d : Reg) (a : Reg) (b : Reg)
  | mulhu (d : Reg) (a : Reg) (b : Reg)
  | div (d : Reg) (a : Reg) (b : Reg)
  | divu (d : Reg) (a : Reg) (b : Reg)
  | rem (d : Reg) (a : Reg) (b : Reg)
  | remu (d : Reg) (a : Reg) (b : Reg)
  | and (d : Reg) (a : Reg) (b : Reg)
  | or (d : Reg) (a : Reg) (b : Reg)
  | xor (d : Reg) (a : Reg) (b : Reg)
  | andn (d : Reg) (a : Reg) (b : Reg)
  | shl (d : Reg) (a : Reg) (b : Reg)
  | shr (d : Reg) (a : Reg) (b : Reg)
  | sra (d : Reg) (a : Reg) (b : Reg)
  | rot (d : Reg) (a : Reg) (b : Reg)
  | min (d : Reg) (a : Reg) (b : Reg)
  | max (d : Reg) (a : Reg) (b : Reg)
  | minu (d : Reg) (a : Reg) (b : Reg)
  | maxu (d : Reg) (a : Reg) (b : Reg)
  | cmpeq (d : Reg) (a : Reg) (b : Reg)
  | cmpne (d : Reg) (a : Reg) (b : Reg)
  | cmplt (d : Reg) (a : Reg) (b : Reg)
  | cmpltu (d : Reg) (a : Reg) (b : Reg)
  | cmple (d : Reg) (a : Reg) (b : Reg)
  | cmpleu (d : Reg) (a : Reg) (b : Reg)
  | cmov (d : Reg) (a : Reg) (b : Reg)
  | clz (d : Reg) (a : Reg)
  | ctz (d : Reg) (a : Reg)
  | popc (d : Reg) (a : Reg)
  | brev (d : Reg) (a : Reg)
  | bswap (d : Reg) (a : Reg)
  | exts (sz : Size) (d : Reg) (a : Reg)
  | extz (sz : Size) (d : Reg) (a : Reg)
  | not (d : Reg) (a : Reg)
  | neg (d : Reg) (a : Reg)
  | abs (d : Reg) (a : Reg)
  | addi (d : Reg) (a : Reg) (imm : BitVec 14)
  | andi (d : Reg) (a : Reg) (imm : BitVec 14)
  | ori (d : Reg) (a : Reg) (imm : BitVec 14)
  | xori (d : Reg) (a : Reg) (imm : BitVec 14)
  | shli (d : Reg) (a : Reg) (n : BitVec 6)
  | shri (d : Reg) (a : Reg) (n : BitVec 6)
  | srai (d : Reg) (a : Reg) (n : BitVec 6)
  | roti (d : Reg) (a : Reg) (n : BitVec 6)
  | cmpeqi (d : Reg) (a : Reg) (imm : BitVec 14)
  | cmplti (d : Reg) (a : Reg) (imm : BitVec 14)
  | cmpltui (d : Reg) (a : Reg) (imm : BitVec 14)
  | lui (d : Reg) (imm : BitVec 20)
  | addpc (d : Reg) (imm : BitVec 20)
  | bfx (d : Reg) (a : Reg) (pos : BitVec 6) (wm1 : BitVec 6)
  | bfi (d : Reg) (a : Reg) (pos : BitVec 6) (wm1 : BitVec 6)
  | wid (d : Reg) (k : BitVec 3)
  | addx (d : Reg) (a : Reg) (b : Reg) (n : BitVec 3)
  | br (c : Cond) (a : Reg) (off : BitVec 16)
  | bra (off : BitVec 16)
  | call (d : Reg) (imm : BitVec 20)
  | jr (a : Reg)
  | callr (d : Reg) (a : Reg)
  | ret (a : Reg)
  | loop (a : Reg) (off : BitVec 16)
  | fadd (t : Ty) (d : Reg) (a : Reg) (b : Reg)
  | fsub (t : Ty) (d : Reg) (a : Reg) (b : Reg)
  | fmul (t : Ty) (d : Reg) (a : Reg) (b : Reg)
  | fdiv (t : Ty) (d : Reg) (a : Reg) (b : Reg)
  | fsqrt (t : Ty) (d : Reg) (a : Reg)
  | fmin (t : Ty) (d : Reg) (a : Reg) (b : Reg)
  | fmax (t : Ty) (d : Reg) (a : Reg) (b : Reg)
  | fabs (t : Ty) (d : Reg) (a : Reg)
  | fneg (t : Ty) (d : Reg) (a : Reg)
  | fcmpeq (t : Ty) (d : Reg) (a : Reg) (b : Reg)
  | fcmplt (t : Ty) (d : Reg) (a : Reg) (b : Reg)
  | fcmple (t : Ty) (d : Reg) (a : Reg) (b : Reg)
  | fclass (t : Ty) (d : Reg) (a : Reg)
  | frcp (t : Ty) (d : Reg) (a : Reg)
  | ffma (t : Ty) (d : Reg) (a : Reg) (b : Reg) (c : Reg)
  | fcvt (dty : Ty) (sty : Ty) (d : Reg) (a : Reg)
  | ld (sz : Size) (d : Reg) (a : Reg) (off : BitVec 12)
  | lds (sz : Size) (d : Reg) (a : Reg) (off : BitVec 12)
  | st (sz : Size) (d : Reg) (a : Reg) (off : BitVec 12)
  | ldfe (d : Reg) (a : Reg) (off : BitVec 12)
  | ldff (d : Reg) (a : Reg) (off : BitVec 12)
  | stfe (d : Reg) (a : Reg) (off : BitVec 12)
  | stff (d : Reg) (a : Reg) (off : BitVec 12)
  | pst (sz : Size) (d : Reg) (a : Reg) (off : BitVec 12)
  | ship (q : Reg) (n : BitVec 6) (a : Reg) (b : Reg)
  | aadd (o : Order) (sz : Size) (d : Reg) (a : Reg) (b : Reg)
  | aswp (o : Order) (sz : Size) (d : Reg) (a : Reg) (b : Reg)
  | acas (o : Order) (sz : Size) (d : Reg) (a : Reg) (b : Reg)
  | aand (o : Order) (sz : Size) (d : Reg) (a : Reg) (b : Reg)
  | aor (o : Order) (sz : Size) (d : Reg) (a : Reg) (b : Reg)
  | axor (o : Order) (sz : Size) (d : Reg) (a : Reg) (b : Reg)
  | amin (o : Order) (sz : Size) (d : Reg) (a : Reg) (b : Reg)
  | amax (o : Order) (sz : Size) (d : Reg) (a : Reg) (b : Reg)
  | aminu (o : Order) (sz : Size) (d : Reg) (a : Reg) (b : Reg)
  | amaxu (o : Order) (sz : Size) (d : Reg) (a : Reg) (b : Reg)
  | ainc (o : Order) (sz : Size) (d : Reg) (a : Reg)
  | fenceBank (a : Reg)
  | fence (c : Scope)
  | cpy (d : Reg) (a : Reg) (n : Reg) (tag : BitVec 6) (sh : Bool) (rr : Bool)
  | cpym (d : Reg) (a : Reg) (n : Reg) (tag : BitVec 6) (sh : Bool) (rr : Bool)
  | cpwa (d : Reg) (a : Reg)
  | cpwn (d : Reg) (a : Reg)
  | cpff (d : Reg) (a : Reg)
  | cpts (d : Reg) (a : Reg)
  | stage (n : BitVec 6)
  | wmrd (d : Reg) (ch : BitVec 6)
  | tsub (d : Reg) (a : Reg) (b : Reg)
  | trel (a : Reg) (b : Reg)
  | trelSt (a : Reg) (b : Reg)
  | send (e : BitVec 6) (a : Reg)
  | sendt (e : BitVec 6) (a : Reg)
  | recv (d : Reg) (e : BitVec 6)
  | recvt (d : Reg) (e : BitVec 6) (a : Reg)
  | sendx (d : Reg) (e : BitVec 6) (a : Reg)
  | recvx (d : Reg) (e : BitVec 6) (a : Reg)
  | probe (d : Reg) (e : BitVec 6)
  | eos (e : BitVec 6)
  | alt (d : Reg) (a : Reg)
  | altt (d : Reg) (a : Reg) (b : Reg)
  | bind (e : BitVec 6) (a : Reg)
  | unbind (e : BitVec 6)
  | chmode (e : BitVec 6) (a : Reg)
  | post (d : Reg) (pt : BitVec 6) (a : Reg)
  | jpat (n : BitVec 6) (a : Reg)
  | jarm (n : BitVec 6)
  | jdis (n : BitVec 6)
  | jrd (d : Reg) (n : BitVec 6)
  | pcfg (pt : BitVec 6) (a : Reg)
  | fork (d : Reg) (a : Reg) (b : Reg)
  | joinc (d : Reg)
  | lnch (d : Reg) (a : Reg)
  | yield
  | park
  | wake (a : Reg)
  | setpri (a : Reg)
  | setdl (a : Reg)
  | setwl (a : Reg)
  | rdtime (d : Reg)
  | getst (d : Reg)
  | evwait (a : Reg)
  | evwaitQev (a : Reg)
  | evsig (a : Reg)
  | evclr (a : Reg)
  | evtst (d : Reg) (a : Reg)
  | bar (d : Reg) (a : Reg)
  | barBrk (a : Reg)
  | vadd (t : Ty) (d : VReg) (a : VReg) (b : VReg)
  | vsub (t : Ty) (d : VReg) (a : VReg) (b : VReg)
  | vmul (t : Ty) (d : VReg) (a : VReg) (b : VReg)
  | vfma (t : Ty) (d : VReg) (a : VReg) (b : VReg)
  | vmin (t : Ty) (d : VReg) (a : VReg) (b : VReg)
  | vmax (t : Ty) (d : VReg) (a : VReg) (b : VReg)
  | vabs (t : Ty) (d : VReg) (a : VReg)
  | vneg (t : Ty) (d : VReg) (a : VReg)
  | vcmpEq (t : Ty) (d : VReg) (a : VReg) (b : VReg)
  | vcmpLt (t : Ty) (d : VReg) (a : VReg) (b : VReg)
  | vcmpLe (t : Ty) (d : VReg) (a : VReg) (b : VReg)
  | vsel (t : Ty) (d : VReg) (a : VReg) (b : VReg)
  | vand (t : Ty) (d : VReg) (a : VReg) (b : VReg)
  | vor (t : Ty) (d : VReg) (a : VReg) (b : VReg)
  | vxor (t : Ty) (d : VReg) (a : VReg) (b : VReg)
  | vshl (t : Ty) (d : VReg) (a : VReg) (b : VReg)
  | vshr (t : Ty) (d : VReg) (a : VReg) (b : VReg)
  | vld (d : VReg) (a : Reg) (off : BitVec 12)
  | vst (d : VReg) (a : Reg) (off : BitVec 12)
  | vlds (t : Ty) (d : VReg) (a : Reg) (b : Reg)
  | vsts (t : Ty) (d : VReg) (a : Reg) (b : Reg)
  | vgath (t : Ty) (d : VReg) (a : Reg) (b : VReg)
  | vscat (t : Ty) (d : VReg) (a : Reg) (b : VReg)
  | vredAdd (t : Ty) (d : Reg) (a : VReg)
  | vredMin (t : Ty) (d : Reg) (a : VReg)
  | vredMax (t : Ty) (d : Reg) (a : VReg)
  | vdot (t : Ty) (d : Reg) (a : VReg) (b : VReg)
  | vshf (t : Ty) (d : VReg) (a : VReg) (b : VReg)
  | vbcast (t : Ty) (d : VReg) (a : Reg)
  | vext (d : Reg) (a : VReg) (n : BitVec 3)
  | vins (d : VReg) (a : Reg) (n : BitVec 3)
  | vcvt (dty : Ty) (sty : Ty) (d : VReg) (a : VReg)
  | vexp2 (t : Ty) (d : VReg) (a : VReg)
  | vlog2 (t : Ty) (d : VReg) (a : VReg)
  | mwld (a : Reg)
  | mswap
  | mstrm (a : Reg) (b : Reg)
  | mmul (d : Reg) (a : Reg) (b : Reg)
  | mzero
  | mrd (d : Reg) (a : Reg)
  | mcmd (d : Reg) (a : Reg) (b : Reg)
  | mscl (d : Reg) (a : Reg)
  | accw (t : Ty) (a : Reg) (b : Reg)
  | accz (a : Reg)
  | accrd (t : Ty) (d : Reg) (a : Reg)
  | accmv (a : Reg) (b : Reg)
  | accset (a : Reg) (b : Reg)
  | xfork (a : Reg)
  | xjoin (d : Reg)
  | prgrd (d : Reg)
  | prgwr (a : Reg)
  | trap (code : BitVec 8)
  | eret
  | bkpt (code : BitVec 8)
  | rfwin (a : Reg)
  | syncid
  | mfsr (d : Reg) (sr : BitVec 12)
  | mtsr (sr : BitVec 12) (a : Reg)
  | mtsrUtask (a : Reg)
  | mtsrDlprobe (a : Reg)
  | mtsrEjrn (a : Reg)
  | himm (p : BitVec 22)
  | hsch (spin : BitVec 4)
  | hlive (lreg : BitVec 8) (bmap : BitVec 13)
  | hmod (rmv : Bool) (rm : BitVec 3) (satv : Bool) (sat : Bool) (wide : Bool)
  | timerArm (t : DWord)
  | timerCancel
  | qscPush (w : DWord)
  | qhsPush (w : DWord)
  | copyQuery
  | copyResume
  | copyCancel
  | engineQuery (q : EngQ)
  | engineStop (q : EngQ)
  | engineGo (q : EngQ)
  | dispatch
  | displacement
  | waitLimit (ent : Nat)
  | timerExpiry (ent : Nat)
  | timeoutExpiry (ent : Nat)
  | deadLetterProbe (ent : Nat)
  | deadLetterProbeArrival (p : Probe)
  | messageArrival (m : ChanMsg)
  | recvNoticeArrival (ep : Nat) (on : Bool)
  | sendReply (who : Who) (op : Nat) (code : Nat)
  | creditReturn (ep : Nat)
  | activeMessage (f : Issuer) (a : Access)
  | remoteReply (who : Who) (op : Nat) (r : Result)
  | fullemptyNotice (who : Who) (op : Nat)
  | fullemptyRetry (f : Issuer) (a : Access)
  | splitPhaseReply (who : Who) (op : Nat) (r : Result)
  | shipReply (q : Req) (r : Rep)
  | journalAck (j : Nat) (op : Nat)
  | postedStoreRefused (j : Nat) (op : Nat) (r : Result)
  | postArrival (m : PostMsg)
  | patternFire
  | wakeArrival (ent : Nat) (job : Option Nat)
  | forkChildCreate (c : Child)
  | eventWaitArrival (m : EvMsg)
  | eventSignalArrival (m : EvMsg)
  | eventClearArrival (m : EvMsg)
  | eventTestArrival (m : EvMsg)
  | eventReply (m : EvMsg) (test : Bool) (value : Bool)
  | eventOverflowRetry (m : EvMsg)
  | barrierArrival (who : Who) (op : Nat) (job : Nat) (gang : Nat)
  | barrierCompletion (who : Who) (op : Nat) (broken : Bool)
  | copyElement (ch : Fin 8) (k : Nat)
  | copyComplete (ch : Fin 8)
  | copyHalt (ch : Fin 8) (k : Nat) (code : Nat) (addr : DWord)
  | copyResend (ch : Fin 8)
  | scheduledFlitDelivery (ch : Fin 8) (k : Nat) (collide : Option Nat)
  | tilePush (ch : Fin 8)
  | tileWriteback (ch : Fin 8) (slot : Nat)
  | mcmdArrival (m : MatCmd)
  | mcmdResult (who : Who) (slot : Nat) (tag : Nat) (code : Nat) (idx : Nat)
  | matrixResume
  | sequencerWord (e : Eng)
  | scaleKeeperOp (who : Who) (op : Nat) (index : BitVec 8) (value : BitVec 8) (wr : Bool)
  | msclReply (who : Who) (op : Nat) (v : DWord)
  | trapDelivery
  | urgentTaskStart
  | forcedSave (sl : Fin 8)
  | coreSwitchOut
  | migrationPlace
  | fetchLineFill (line : Nat) (bytes : List Byte) (code : Nat)
  | shapeCacheFill (slot : Nat) (bytes : List Byte) (code : Nat)
  | shapeCacheInvalidate (slot : Nat) (op : Nat)
  | jobStart (die : Nat) (pool : Nat)
  | jobCompletionCheck (job : Nat)
  | statusRecordForward (die : Nat)
  | admissionResume (page : Nat)
  | envelopeAdmit (pkt : Nat)
  | clockUpdate (agent : Fin 18) (rows : CountRows)
  | rd8 (q : Req)
  | rd32 (q : Req)
  | rd64 (q : Req)
  | wt8 (q : Req)
  | wt32 (q : Req)
  | wt64 (q : Req)
  | wtm (q : Req)
  | routineAadd (q : Req)
  | routineAswp (q : Req)
  | routineAcas (q : Req)
  | routineAand (q : Req)
  | routineAor (q : Req)
  | routineAxor (q : Req)
  | routineAmin (q : Req)
  | routineAmax (q : Req)
  | routineAminu (q : Req)
  | routineAmaxu (q : Req)
  | fadd32 (q : Req)
  | xacc (q : Req)
  | gath8 (q : Req)
  | publish (q : Req)
  | fill64 (q : Req)
  | svcMigrate (q : Req)
  | svcInval (q : Req)
  | svcLoad (q : Req)
  | svcUnload (q : Req)
  | tsvc (q : Req)
  | loadableRoutine (q : Req)
  | tableWalk (q : Req)
  | pageCopyComplete (m : Nat)
  | endMarker (m : Nat)
  | refreshInterval (stack : Fin 8)
  | refresh (stack : Fin 8) (bank : Nat)
  | rfwinNotice (stack : Fin 8) (len : BitVec 16)
  | creditOrAcknowledgement (f : Frame)
  | streamMessage (f : Frame)
  | accessRequest (f : Frame)
  | accessReply (f : Frame)
  | writeWithEnqueue (f : Frame)
  | collectiveData (f : Frame) (down : Bool) (flags : BitVec 4)
  | collectiveControl (f : Frame) (commit : Bool) (down : Bool)
  | linkDown (link : Nat)
  | collectiveSubmit (block : Addr) (who : Who) (job : Option Nat)
  | collectiveComplete (comm : Nat) (seq : Nat)
  | collectiveLimitExpiry (comm : Nat) (seq : Nat)
  | collectiveRecordExpiry (comm : Nat) (seq : Nat)
  | mailboxIn (m : Nat) (w : DWord)
  | mailboxLp (m : Nat)
  | mailboxToken (m : Nat)
  | mailboxOut (m : Nat)
  | qhsin (m : Nat) (w : DWord)
  | registerWrite (off : Nat) (w : DWord)
  | notifyWrite (page : Nat) (reg : Nat) (w : DWord) (fromHost : Bool)
  | doorbell (page : Nat) (n : DWord)
  | hostBar4Access (off : Nat) (len : Nat) (data : List Byte) (write : Bool)
  | hostAtomicop (off : Nat) (op : AtomOp) (size : Nat) (a : DWord) (b : DWord)
  | switch (c : Cmd)
  | restore (c : Cmd)
  | migrate (c : Cmd)
  | abandon (c : Cmd)
  | urgent (c : Cmd)
  | setpstate (c : Cmd)
  | setcap (c : Cmd)
  | settamper (c : Cmd)
  | provision (c : Cmd)
  | lock (c : Cmd)
  | retire (c : Cmd)
  | release (c : Cmd)
  | debugchal (c : Cmd)
  | debugopen (c : Cmd)
  | debugend (c : Cmd)
  | dbggo (c : Cmd)
  | attest (c : Cmd)
  | fwupdate (c : Cmd)
  | dbgset (c : Cmd)
  | setclock (c : Cmd)
  | reccfg (c : Cmd)
  | counters (c : Cmd)
  | settable (c : Cmd)
  | tamperEvent (cause : Nat) (island : Nat)
  | thermalReduction (island : Nat)
  | powerSample (watts : Nat) (draws : List (Nat × Nat))
  | powerStep
  | scrub (core : Nat) (off : Nat) (bad : Option Bool)
  | bringUp (image : List Byte)
  | hschSpinExpiry (sl : Fin 8)
  | elementCommit (sl : Fin 8)
  | envelopeAcknowledgement (src : Fin 18) (dst : Fin 18) (n : Nat)
  | rfwinWindowExpiry (stack : Fin 8)
  deriving DecidableEq, Repr

/-- The events again, as a packet in flight or a turn of the agenda names one (Instr has more constructors with
fields than compiled code can build, so the machine's own data uses this type). -/
inductive Ev where
  | timerArm (t : DWord)
  | timerCancel
  | qscPush (w : DWord)
  | qhsPush (w : DWord)
  | copyQuery
  | copyResume
  | copyCancel
  | engineQuery (q : EngQ)
  | engineStop (q : EngQ)
  | engineGo (q : EngQ)
  | dispatch
  | displacement
  | waitLimit (ent : Nat)
  | timerExpiry (ent : Nat)
  | timeoutExpiry (ent : Nat)
  | deadLetterProbe (ent : Nat)
  | deadLetterProbeArrival (p : Probe)
  | messageArrival (m : ChanMsg)
  | recvNoticeArrival (ep : Nat) (on : Bool)
  | sendReply (who : Who) (op : Nat) (code : Nat)
  | creditReturn (ep : Nat)
  | activeMessage (f : Issuer) (a : Access)
  | remoteReply (who : Who) (op : Nat) (r : Result)
  | fullemptyNotice (who : Who) (op : Nat)
  | fullemptyRetry (f : Issuer) (a : Access)
  | splitPhaseReply (who : Who) (op : Nat) (r : Result)
  | shipReply (q : Req) (r : Rep)
  | journalAck (j : Nat) (op : Nat)
  | postedStoreRefused (j : Nat) (op : Nat) (r : Result)
  | postArrival (m : PostMsg)
  | patternFire
  | wakeArrival (ent : Nat) (job : Option Nat)
  | forkChildCreate (c : Child)
  | eventWaitArrival (m : EvMsg)
  | eventSignalArrival (m : EvMsg)
  | eventClearArrival (m : EvMsg)
  | eventTestArrival (m : EvMsg)
  | eventReply (m : EvMsg) (test : Bool) (value : Bool)
  | eventOverflowRetry (m : EvMsg)
  | barrierArrival (who : Who) (op : Nat) (job : Nat) (gang : Nat)
  | barrierCompletion (who : Who) (op : Nat) (broken : Bool)
  | copyElement (ch : Fin 8) (k : Nat)
  | copyComplete (ch : Fin 8)
  | copyHalt (ch : Fin 8) (k : Nat) (code : Nat) (addr : DWord)
  | copyResend (ch : Fin 8)
  | scheduledFlitDelivery (ch : Fin 8) (k : Nat) (collide : Option Nat)
  | tilePush (ch : Fin 8)
  | tileWriteback (ch : Fin 8) (slot : Nat)
  | mcmdArrival (m : MatCmd)
  | mcmdResult (who : Who) (slot : Nat) (tag : Nat) (code : Nat) (idx : Nat)
  | matrixResume
  | sequencerWord (e : Eng)
  | scaleKeeperOp (who : Who) (op : Nat) (index : BitVec 8) (value : BitVec 8) (wr : Bool)
  | msclReply (who : Who) (op : Nat) (v : DWord)
  | trapDelivery
  | urgentTaskStart
  | forcedSave (sl : Fin 8)
  | coreSwitchOut
  | migrationPlace
  | fetchLineFill (line : Nat) (bytes : List Byte) (code : Nat)
  | shapeCacheFill (slot : Nat) (bytes : List Byte) (code : Nat)
  | shapeCacheInvalidate (slot : Nat) (op : Nat)
  | jobStart (die : Nat) (pool : Nat)
  | jobCompletionCheck (job : Nat)
  | statusRecordForward (die : Nat)
  | admissionResume (page : Nat)
  | envelopeAdmit (pkt : Nat)
  | clockUpdate (agent : Fin 18) (rows : CountRows)
  | rd8 (q : Req)
  | rd32 (q : Req)
  | rd64 (q : Req)
  | wt8 (q : Req)
  | wt32 (q : Req)
  | wt64 (q : Req)
  | wtm (q : Req)
  | routineAadd (q : Req)
  | routineAswp (q : Req)
  | routineAcas (q : Req)
  | routineAand (q : Req)
  | routineAor (q : Req)
  | routineAxor (q : Req)
  | routineAmin (q : Req)
  | routineAmax (q : Req)
  | routineAminu (q : Req)
  | routineAmaxu (q : Req)
  | fadd32 (q : Req)
  | xacc (q : Req)
  | gath8 (q : Req)
  | publish (q : Req)
  | fill64 (q : Req)
  | svcMigrate (q : Req)
  | svcInval (q : Req)
  | svcLoad (q : Req)
  | svcUnload (q : Req)
  | tsvc (q : Req)
  | loadableRoutine (q : Req)
  | tableWalk (q : Req)
  | pageCopyComplete (m : Nat)
  | endMarker (m : Nat)
  | refreshInterval (stack : Fin 8)
  | refresh (stack : Fin 8) (bank : Nat)
  | rfwinNotice (stack : Fin 8) (len : BitVec 16)
  | creditOrAcknowledgement (f : Frame)
  | streamMessage (f : Frame)
  | accessRequest (f : Frame)
  | accessReply (f : Frame)
  | writeWithEnqueue (f : Frame)
  | collectiveData (f : Frame) (down : Bool) (flags : BitVec 4)
  | collectiveControl (f : Frame) (commit : Bool) (down : Bool)
  | linkDown (link : Nat)
  | collectiveSubmit (block : Addr) (who : Who) (job : Option Nat)
  | collectiveComplete (comm : Nat) (seq : Nat)
  | collectiveLimitExpiry (comm : Nat) (seq : Nat)
  | collectiveRecordExpiry (comm : Nat) (seq : Nat)
  | mailboxIn (m : Nat) (w : DWord)
  | mailboxLp (m : Nat)
  | mailboxToken (m : Nat)
  | mailboxOut (m : Nat)
  | qhsin (m : Nat) (w : DWord)
  | registerWrite (off : Nat) (w : DWord)
  | notifyWrite (page : Nat) (reg : Nat) (w : DWord) (fromHost : Bool)
  | doorbell (page : Nat) (n : DWord)
  | hostBar4Access (off : Nat) (len : Nat) (data : List Byte) (write : Bool)
  | hostAtomicop (off : Nat) (op : AtomOp) (size : Nat) (a : DWord) (b : DWord)
  | switch (c : Cmd)
  | restore (c : Cmd)
  | migrate (c : Cmd)
  | abandon (c : Cmd)
  | urgent (c : Cmd)
  | setpstate (c : Cmd)
  | setcap (c : Cmd)
  | settamper (c : Cmd)
  | provision (c : Cmd)
  | lock (c : Cmd)
  | retire (c : Cmd)
  | release (c : Cmd)
  | debugchal (c : Cmd)
  | debugopen (c : Cmd)
  | debugend (c : Cmd)
  | dbggo (c : Cmd)
  | attest (c : Cmd)
  | fwupdate (c : Cmd)
  | dbgset (c : Cmd)
  | setclock (c : Cmd)
  | reccfg (c : Cmd)
  | counters (c : Cmd)
  | settable (c : Cmd)
  | tamperEvent (cause : Nat) (island : Nat)
  | thermalReduction (island : Nat)
  | powerSample (watts : Nat) (draws : List (Nat × Nat))
  | powerStep
  | scrub (core : Nat) (off : Nat) (bad : Option Bool)
  | bringUp (image : List Byte)
  | hschSpinExpiry (sl : Fin 8)
  | elementCommit (sl : Fin 8)
  | envelopeAcknowledgement (src : Fin 18) (dst : Fin 18) (n : Nat)
  | rfwinWindowExpiry (stack : Fin 8)
  deriving DecidableEq, Repr

end Sys2Proof
end

