-- ==== Sys2Proof/Config.lean ====
section
/-! DEFINITION. What the spec fixes for every module (counts and capacities) and what it leaves to the module:
the latter are opaque constants, without a value that a proof could use. -/

namespace Sys2Proof.Config

/-- Compute cores of a die, columns and rows of a die, dies (00 Table 0-1; 01 R1). -/
def coresPerDie : Nat := 2304
def dieCols : Nat := 48
def dieRows : Nat := 48
def pkgCols : Nat := 192
def pkgRows : Nat := 96

/-- SHAKE256 with 32 bytes of output (12 R361): named by the spec, not defined there. -/
opaque shake256 : List Byte → BitVec 256

/-- Whether a Falcon-1024 signature over a message is valid under the public key with a SHAKE256 hash (16 R429). Named
by the spec, not defined there. -/
opaque falconValid : BitVec 256 → List Byte → List Byte → Bool

/-- The hash of the vendor's root key, fixed in boot ROM (16 R429). -/
opaque vendorKey : BitVec 256

/-- The Falcon-1024 signature over a message by the identity key that a key store holds (16 R429, R431); at most 1,280 bytes of it are
used. -/
opaque falconSign : List Byte → List Byte → List Byte

/-- The fused copy from which the key store is restored (16 R429): the wrapped identity key, byte by byte. -/
opaque fusedByte : Nat → Byte

/-- The module identity MID, fixed at manufacture (16 R429). -/
opaque mid : BitVec 256

/-- The n-th debug challenge (16 R427): fresh, not otherwise given. -/
opaque challenge : Nat → BitVec 256

/-- The choice of a core for a child of a job without det (06 R210): any core of the partition. Applied to a
counter of State; used only modulo the partition. -/
opaque forkChoice : Nat → Nat

/-- The base of a stack's page directory in that stack, and its count of four-entry buckets (14 R400): set at
bring-up by the firmware, not architectural. -/
opaque directoryBase : Nat → Nat
opaque directoryBuckets : Nat → Nat

/-- One less than the banks of a pseudo-channel, and the bank of a physical address within it (14 R381): the rest of the
address selects it, not otherwise given. -/
opaque lastBank : Nat
opaque bankOf : Nat → Nat

/-- The values that errors leave open: CAUSE.ARG and EADDR of a MEM_POISON of the control store (16 R439; log entry 92)
and the bytes of a granule corrected to a wrong one (14 R394; log entry 62), applied to a counter of State. -/
opaque freeByte : Nat → Byte

/-- Whether a firmware image carries a valid signature, or countersignature, of the key with a hash, and the version it
names (16 R430): the layout of an image is not given. -/
opaque imageSigned : BitVec 256 → List Byte → Bool
opaque imageVersion : List Byte → Nat

/-- The system region after bring-up, as virtual and physical numbers of its 2 MiB pages, and the ring of a die's
recorder, base and log2 of its size (16 R445 step 4): given by the firmware image, not architectural. -/
opaque systemRegion : List (Nat × Nat)
opaque recorderRing : Nat → Nat × Nat

/-- What the firmware writes at bring-up as SETTABLE would (16 R404, R405, R445 steps 3 and 5): table, index, value, LO and HI of the entries
of the host window, peer window, import and notify tables, of APBASE, of the module identity and of the ganging of links. -/
opaque bootTables : List (Nat × Nat × Nat × Nat × Nat)

/-- LEN of the envelope of a packet (10 R313), whose payload's layout the spec does not give. -/
opaque payloadFlits : Nat → Nat

/-- TRAPBASE after bring-up (16 R445 step 4): set by the firmware, not architectural; a multiple of 4,096. -/
opaque trapBase : Nat

end Sys2Proof.Config
end

