-- ==== Sys2Proof/WellFormed.lean ====
section
/-! DEFINITION. The codes of the operand types, and the limits that make an instruction's fields admissible
(02 R49, R51 step 2, and the Fields and limits columns of Tables 2-8 to 2-14). -/

namespace Sys2Proof

/-- The field value of a register (Table 2-2). -/
def Reg.code : Reg → BitVec 6
  | .p i => BitVec.ofNat 6 i.val
  | .l i => BitVec.ofNat 6 (8 + i.val)
  | .z => 10
  | .id => 11
  | .qm i => BitVec.ofNat 6 (12 + i.val)
  | .qmx => 14
  | .qvx => 15
  | .qcp => 16
  | .qac => 17
  | .qam => 18
  | .qsc => 19
  | .qjn => 20
  | .qev => 21
  | .qhs => 22
  | .qtm => 23
  | .qs i => BitVec.ofNat 6 (24 + i.val)
  | .s i => BitVec.ofNat 6 (32 + i.val)

/-- The register of a field value (Table 2-2): every value names one. -/
def Reg.ofCode (c : BitVec 6) : Reg :=
  if c.toNat < 8 then .p (Fin.ofNat 8 c.toNat)
  else if c.toNat < 10 then .l (Fin.ofNat 2 (c.toNat - 8))
  else if c.toNat = 10 then .z
  else if c.toNat = 11 then .id
  else if c.toNat < 14 then .qm (Fin.ofNat 2 (c.toNat - 12))
  else if c.toNat = 14 then .qmx
  else if c.toNat = 15 then .qvx
  else if c.toNat = 16 then .qcp
  else if c.toNat = 17 then .qac
  else if c.toNat = 18 then .qam
  else if c.toNat = 19 then .qsc
  else if c.toNat = 20 then .qjn
  else if c.toNat = 21 then .qev
  else if c.toNat = 22 then .qhs
  else if c.toNat = 23 then .qtm
  else if c.toNat < 32 then .qs (Fin.ofNat 8 (c.toNat - 24))
  else .s (Fin.ofNat 32 (c.toNat - 32))

/-- The size code (R54). -/
def Size.code : Size → BitVec 2
  | .b1 => 0
  | .b2 => 1
  | .b4 => 2
  | .b8 => 3

def Size.ofCode (c : BitVec 2) : Size :=
  if c = 0 then .b1 else if c = 1 then .b2 else if c = 2 then .b4 else .b8

/-- The bytes of an access (R54). -/
def Size.bytes : Size → Nat
  | .b1 => 1
  | .b2 => 2
  | .b4 => 4
  | .b8 => 8

/-- The element type code (Table 2-4). -/
def Ty.code : Ty → BitVec 4
  | .d => 0
  | .s => 1
  | .b => 2
  | .h => 3
  | .q => 4
  | .w => 5
  | .c => 6
  | .e4m3 => 8
  | .e5m2 => 9
  | .mxfp4 => 10
  | .l6 => 11

/-- The type of a code; 7 and 12 to 15 are reserved. -/
def Ty.ofCode (c : BitVec 4) : Option Ty :=
  if c = 0 then some .d
  else if c = 1 then some .s
  else if c = 2 then some .b
  else if c = 3 then some .h
  else if c = 4 then some .q
  else if c = 5 then some .w
  else if c = 6 then some .c
  else if c = 8 then some .e4m3
  else if c = 9 then some .e5m2
  else if c = 10 then some .mxfp4
  else if c = 11 then some .l6
  else none

/-- The type of a two-bit field (R53). -/
def Ty.ofCode2 (c : BitVec 2) : Ty :=
  if c = 0 then .d else if c = 1 then .s else if c = 2 then .b else .h

/-- The code in a two-bit or three-bit field. -/
def Ty.code2 (t : Ty) : BitVec 2 := t.code.extractLsb' 0 2
def Ty.code3 (t : Ty) : BitVec 3 := t.code.extractLsb' 0 3

/-- Whether a register holds fewer than 32 elements of a type (08 Table 8-1). -/
def Ty.few : Ty → Bool
  | .d | .q | .s | .w => true
  | _ => false

/-- Whether a type is a block format (03 R91). -/
def Ty.isBlock : Ty → Bool
  | .mxfp4 | .l6 => true
  | _ => false

/-- Codes 0 to 3: the scalar floating types. -/
def Ty.isFp : Ty → Bool
  | .d | .s | .b | .h => true
  | _ => false

/-- Codes 4 to 6: the integer types. -/
def Ty.isInt : Ty → Bool
  | .q | .w | .c => true
  | _ => false

/-- Codes 0 to 6. -/
def Ty.isLane (t : Ty) : Bool := t.isFp || t.isInt

/-- Codes 0 to 6, 8 and 9: the types of vector memory accesses. -/
def Ty.isMem (t : Ty) : Bool := t.isLane || t == .e4m3 || t == .e5m2

def Order.code : Order → BitVec 2
  | .rlx => 0
  | .acq => 1
  | .rel => 2
  | .ar => 3

def Order.ofCode (c : BitVec 2) : Order :=
  if c = 0 then .rlx else if c = 1 then .acq else if c = 2 then .rel else .ar

def Cond.code : Cond → BitVec 4
  | .eqz => 0
  | .nez => 1
  | .ltz => 2
  | .gez => 3
  | .gtz => 4
  | .lez => 5

def Scope.code : Scope → BitVec 3
  | .core => 1
  | .clus => 2
  | .die => 3
  | .pkg => 4
  | .sys => 5

/-- A destination field: l0 and l1 are refused with RESERVED_FIELD (01 R19). -/
def Reg.isDst : Reg → Bool
  | .l _ => false
  | _ => true

/-- The registers a pair may start at (R49): p0 to p6, s0 to s30, z. -/
def Reg.isPair : Reg → Bool
  | .p i => i.val < 7
  | .s i => i.val < 31
  | .z => true
  | _ => false

/-- The registers of a time-out, of a link and of FORK's child identifier (R49; 04 R136; 06 R209): p, s, z. -/
def Reg.isPlain : Reg → Bool
  | .p _ => true
  | .s _ => true
  | .z => true
  | _ => false

/-- The destinations of CMOV and BFI, which read them too: no queue register (04 R116); id is refused later, with
PRIVILEGE. -/
def Reg.isOld : Reg → Bool
  | .p _ => true
  | .s _ => true
  | .z => true
  | .id => true
  | _ => false

/-- The system registers (09 Table 9-1). -/
inductive SysReg where
  | status
  | flags
  | frm
  | pri
  | wlim
  | dln
  | core
  | time
  | tags
  | stagecnt
  | mxexc
  | captok
  | part0
  | part1
  | trapbase
  | livetab
  | travel
  | utask
  | utarg
  | dlprobe
  | dbgctl
  | cause
  | epc
  | epg
  | eaddr
  | eidx
  | ejrn
  | sig (i : Fin 4)
  | bfmt (i : Fin 8)
  deriving DecidableEq, Repr

/-- The register of a number; a number the table does not assign names none (R286). -/
def SysReg.ofNum (n : BitVec 12) : Option SysReg :=
  match n.toNat with
  | 0x000 => some .status
  | 0x001 => some .flags
  | 0x002 => some .frm
  | 0x003 => some .pri
  | 0x004 => some .wlim
  | 0x005 => some .dln
  | 0x006 => some .core
  | 0x007 => some .time
  | 0x008 => some .tags
  | 0x009 => some .stagecnt
  | 0x00A => some .mxexc
  | 0x00B => some .captok
  | 0x00C => some .part0
  | 0x00D => some .part1
  | 0x00E => some .trapbase
  | 0x00F => some .livetab
  | 0x010 => some .travel
  | 0x011 => some .utask
  | 0x012 => some .utarg
  | 0x013 => some .dlprobe
  | 0x014 => some .dbgctl
  | 0x020 => some .cause
  | 0x021 => some .epc
  | 0x022 => some .epg
  | 0x023 => some .eaddr
  | 0x024 => some .eidx
  | 0x025 => some .ejrn
  | 0x030 => some (.sig 0)
  | 0x031 => some (.sig 1)
  | 0x032 => some (.sig 2)
  | 0x033 => some (.sig 3)
  | 0x040 => some (.bfmt 0)
  | 0x041 => some (.bfmt 1)
  | 0x042 => some (.bfmt 2)
  | 0x043 => some (.bfmt 3)
  | 0x044 => some (.bfmt 4)
  | 0x045 => some (.bfmt 5)
  | 0x046 => some (.bfmt 6)
  | 0x047 => some (.bfmt 7)
  | _ => none

/-- Step 2 of R51 as a check on the fields: registers in their permitted sets, values within their limits. The
offset of LOOP (R57, off ≤ 0 reserved) is judged on its widened value, with the group it stands in. -/
def Instr.wf : Instr → Bool
  | .add d _ _ => d.isDst
  | .sub d _ _ => d.isDst
  | .mul d _ _ => d.isDst
  | .mulh d _ _ => d.isDst
  | .mulhu d _ _ => d.isDst
  | .div d _ _ => d.isDst
  | .divu d _ _ => d.isDst
  | .rem d _ _ => d.isDst
  | .remu d _ _ => d.isDst
  | .and d _ _ => d.isDst
  | .or d _ _ => d.isDst
  | .xor d _ _ => d.isDst
  | .andn d _ _ => d.isDst
  | .shl d _ _ => d.isDst
  | .shr d _ _ => d.isDst
  | .sra d _ _ => d.isDst
  | .rot d _ _ => d.isDst
  | .min d _ _ => d.isDst
  | .max d _ _ => d.isDst
  | .minu d _ _ => d.isDst
  | .maxu d _ _ => d.isDst
  | .cmpeq d _ _ => d.isDst
  | .cmpne d _ _ => d.isDst
  | .cmplt d _ _ => d.isDst
  | .cmpltu d _ _ => d.isDst
  | .cmple d _ _ => d.isDst
  | .cmpleu d _ _ => d.isDst
  | .cmov d _ _ => d.isOld
  | .clz d _ => d.isDst
  | .ctz d _ => d.isDst
  | .popc d _ => d.isDst
  | .brev d _ => d.isDst
  | .bswap d _ => d.isDst
  | .exts sz d _ => d.isDst && sz != .b8
  | .extz sz d _ => d.isDst && sz != .b8
  | .not d _ => d.isDst
  | .neg d _ => d.isDst
  | .abs d _ => d.isDst
  | .addi d _ _ => d.isDst
  | .andi d _ _ => d.isDst
  | .ori d _ _ => d.isDst
  | .xori d _ _ => d.isDst
  | .shli d _ _ => d.isDst
  | .shri d _ _ => d.isDst
  | .srai d _ _ => d.isDst
  | .roti d _ _ => d.isDst
  | .cmpeqi d _ _ => d.isDst
  | .cmplti d _ _ => d.isDst
  | .cmpltui d _ _ => d.isDst
  | .lui d _ => d.isDst
  | .addpc d _ => d.isDst
  | .bfx d _ pos wm1 => d.isDst && decide (pos.toNat + wm1.toNat < 64)
  | .bfi d _ pos wm1 => d.isOld && decide (pos.toNat + wm1.toNat < 64)
  | .wid d k => d.isDst && decide (k.toNat < 6)
  | .addx d _ _ _ => d.isDst
  | .br _ _ _ => true
  | .bra _ => true
  | .call d _ => d.isPlain
  | .jr _ => true
  | .callr d _ => d.isPlain
  | .ret _ => true
  | .loop _ _ => true
  | .fadd t d _ _ => d.isDst && t.isFp
  | .fsub t d _ _ => d.isDst && t.isFp
  | .fmul t d _ _ => d.isDst && t.isFp
  | .fdiv t d _ _ => d.isDst && t.isFp
  | .fsqrt t d _ => d.isDst && t.isFp
  | .fmin t d _ _ => d.isDst && t.isFp
  | .fmax t d _ _ => d.isDst && t.isFp
  | .fabs t d _ => d.isDst && t.isFp
  | .fneg t d _ => d.isDst && t.isFp
  | .fcmpeq t d _ _ => d.isDst && t.isFp
  | .fcmplt t d _ _ => d.isDst && t.isFp
  | .fcmple t d _ _ => d.isDst && t.isFp
  | .fclass t d _ => d.isDst && t.isFp
  | .frcp t d _ => d.isDst && t.isFp
  | .ffma t d _ _ _ => d.isDst && t.isFp
  | .fcvt dty sty d _ => d.isDst && decide (dty.code.toNat < 6) && decide (sty.code.toNat < 6) && dty != sty
  | .ld _ d _ _ => d.isDst
  | .lds _ d _ _ => d.isDst
  | .st _ _ _ _ => true
  | .ldfe d _ _ => d.isDst
  | .ldff d _ _ => d.isDst
  | .stfe _ _ _ => true
  | .stff _ _ _ => true
  | .pst _ _ _ _ => true
  | .ship _ _ _ b => b.isPair
  | .aadd _ sz d _ _ => d.isDst && (sz == .b4 || sz == .b8)
  | .aswp _ sz d _ _ => d.isDst && (sz == .b4 || sz == .b8)
  | .acas _ sz d _ b => d.isDst && (sz == .b4 || sz == .b8) && b.isPair
  | .aand _ sz d _ _ => d.isDst && (sz == .b4 || sz == .b8)
  | .aor _ sz d _ _ => d.isDst && (sz == .b4 || sz == .b8)
  | .axor _ sz d _ _ => d.isDst && (sz == .b4 || sz == .b8)
  | .amin _ sz d _ _ => d.isDst && (sz == .b4 || sz == .b8)
  | .amax _ sz d _ _ => d.isDst && (sz == .b4 || sz == .b8)
  | .aminu _ sz d _ _ => d.isDst && (sz == .b4 || sz == .b8)
  | .amaxu _ sz d _ _ => d.isDst && (sz == .b4 || sz == .b8)
  | .ainc _ sz d _ => d.isDst && (sz == .b4 || sz == .b8)
  | .fenceBank _ => true
  | .fence _ => true
  | .cpy _ _ _ tag _ rr => !(rr && tag.getLsbD 0)
  | .cpym _ _ _ tag _ rr => !(rr && tag.getLsbD 0)
  | .cpwa d _ => d.isDst
  | .cpwn d _ => d.isDst
  | .cpff d _ => d.isDst
  | .cpts d _ => d.isDst
  | .stage n => decide (n.toNat < 8)
  | .wmrd d ch => d.isDst && decide (ch.toNat < 8)
  | .tsub d _ _ => d.isDst
  | .trel _ _ => true
  | .trelSt _ _ => true
  | .send _ _ => true
  | .sendt _ _ => true
  | .recv d _ => d.isDst
  | .recvt d _ _ => d.isDst
  | .sendx d _ _ => d.isPlain
  | .recvx d _ a => d.isDst && a.isPlain
  | .probe d _ => d.isDst
  | .eos _ => true
  | .alt d _ => d.isDst
  | .altt d _ b => d.isDst && b.isPlain
  | .bind _ _ => true
  | .unbind _ => true
  | .chmode _ _ => true
  | .post _ pt _ => decide (pt.toNat < 32)
  | .jpat n _ => decide (n.toNat < 16)
  | .jarm n => decide (n.toNat < 16)
  | .jdis n => decide (n.toNat < 16)
  | .jrd d n => d.isDst && decide (n.toNat < 16)
  | .pcfg pt _ => decide (pt.toNat < 32)
  | .fork d _ _ => d.isPlain
  | .joinc d => d.isDst
  | .lnch d _ => d.isDst
  | .yield => true
  | .park => true
  | .wake _ => true
  | .setpri _ => true
  | .setdl _ => true
  | .setwl _ => true
  | .rdtime d => d.isDst
  | .getst d => d.isDst
  | .evwait _ => true
  | .evwaitQev _ => true
  | .evsig _ => true
  | .evclr _ => true
  | .evtst d _ => d.isDst
  | .bar d _ => d.isDst
  | .barBrk _ => true
  | .vadd t _ _ _ => t.isLane
  | .vsub t _ _ _ => t.isLane
  | .vmul t _ _ _ => t.isLane
  | .vfma t _ _ _ => t.isLane
  | .vmin t _ _ _ => t.isLane
  | .vmax t _ _ _ => t.isLane
  | .vabs t _ _ => t.isLane
  | .vneg t _ _ => t.isLane
  | .vcmpEq t _ _ _ => t.isLane
  | .vcmpLt t _ _ _ => t.isLane
  | .vcmpLe t _ _ _ => t.isLane
  | .vsel t _ _ _ => t.isLane
  | .vand t _ _ _ => t.isInt
  | .vor t _ _ _ => t.isInt
  | .vxor t _ _ _ => t.isInt
  | .vshl t _ _ _ => t.isInt
  | .vshr t _ _ _ => t.isInt
  | .vld _ _ _ => true
  | .vst _ _ _ => true
  | .vlds t _ _ _ => t.isMem
  | .vsts t _ _ _ => t.isMem
  | .vgath t _ _ _ => t.isMem
  | .vscat t _ _ _ => t.isMem
  | .vredAdd t d _ => d.isDst && t.isLane
  | .vredMin t d _ => d.isDst && t.isLane
  | .vredMax t d _ => d.isDst && t.isLane
  | .vdot t d _ _ => d.isDst && t.isLane
  | .vshf t _ _ _ => t.isLane
  | .vbcast t _ _ => t.isLane
  | .vext d _ _ => d.isDst
  | .vins _ _ _ => true
  | .vcvt dty sty _ _ => dty != sty && !(dty.isBlock && sty.few)
  | .vexp2 t _ _ => t.isFp
  | .vlog2 t _ _ => t.isFp
  | .mwld _ => true
  | .mswap => true
  | .mstrm _ _ => true
  | .mmul _ _ _ => true
  | .mzero => true
  | .mrd d _ => d.isDst
  | .mcmd d _ _ => d.isDst
  | .mscl d _ => d.isDst
  | .accw t _ _ => (t.isFp && t != .h || t == .q || t == .w || t == .l6)
  | .accz _ => true
  | .accrd t d _ => d.isDst && (t == .d || t == .s)
  | .accmv _ _ => true
  | .accset _ _ => true
  | .xfork _ => true
  | .xjoin d => d.isDst
  | .prgrd d => d.isDst
  | .prgwr _ => true
  | .trap _ => true
  | .eret => true
  | .bkpt _ => true
  | .rfwin _ => true
  | .syncid => true
  | .mfsr d sr => d.isDst && (SysReg.ofNum sr).isSome
  | .mtsr sr _ => (SysReg.ofNum sr).isSome && sr != 0x011#12 && sr != 0x013#12 && sr != 0x025#12
  | .mtsrUtask _ => true
  | .mtsrDlprobe _ => true
  | .mtsrEjrn _ => true
  | .himm _ => true
  | .hsch _ => true
  | .hlive _ _ => true
  | .hmod _ rm _ _ _ => decide (rm.toNat < 5)
  | .timerArm _ => true
  | .timerCancel => true
  | .qscPush _ => true
  | .qhsPush _ => true
  | .copyQuery => true
  | .copyResume => true
  | .copyCancel => true
  | .engineQuery _ => true
  | .engineStop _ => true
  | .engineGo _ => true
  | .dispatch => true
  | .displacement => true
  | .waitLimit _ => true
  | .timerExpiry _ => true
  | .timeoutExpiry _ => true
  | .deadLetterProbe _ => true
  | .deadLetterProbeArrival _ => true
  | .messageArrival _ => true
  | .recvNoticeArrival _ _ => true
  | .sendReply _ _ _ => true
  | .creditReturn _ => true
  | .activeMessage _ _ => true
  | .remoteReply _ _ _ => true
  | .fullemptyNotice _ _ => true
  | .fullemptyRetry _ _ => true
  | .splitPhaseReply _ _ _ => true
  | .shipReply _ _ => true
  | .journalAck _ _ => true
  | .postedStoreRefused _ _ _ => true
  | .postArrival _ => true
  | .patternFire => true
  | .wakeArrival _ _ => true
  | .forkChildCreate _ => true
  | .eventWaitArrival _ => true
  | .eventSignalArrival _ => true
  | .eventClearArrival _ => true
  | .eventTestArrival _ => true
  | .eventReply _ _ _ => true
  | .eventOverflowRetry _ => true
  | .barrierArrival _ _ _ _ => true
  | .barrierCompletion _ _ _ => true
  | .copyElement _ _ => true
  | .copyComplete _ => true
  | .copyHalt _ _ _ _ => true
  | .copyResend _ => true
  | .scheduledFlitDelivery _ _ _ => true
  | .tilePush _ => true
  | .tileWriteback _ _ => true
  | .mcmdArrival _ => true
  | .mcmdResult _ _ _ _ _ => true
  | .matrixResume => true
  | .sequencerWord _ => true
  | .scaleKeeperOp _ _ _ _ _ => true
  | .msclReply _ _ _ => true
  | .trapDelivery => true
  | .urgentTaskStart => true
  | .forcedSave _ => true
  | .coreSwitchOut => true
  | .migrationPlace => true
  | .fetchLineFill _ _ _ => true
  | .shapeCacheFill _ _ _ => true
  | .shapeCacheInvalidate _ _ => true
  | .jobStart _ _ => true
  | .jobCompletionCheck _ => true
  | .statusRecordForward _ => true
  | .admissionResume _ => true
  | .envelopeAdmit _ => true
  | .clockUpdate _ _ => true
  | .rd8 _ => true
  | .rd32 _ => true
  | .rd64 _ => true
  | .wt8 _ => true
  | .wt32 _ => true
  | .wt64 _ => true
  | .wtm _ => true
  | .routineAadd _ => true
  | .routineAswp _ => true
  | .routineAcas _ => true
  | .routineAand _ => true
  | .routineAor _ => true
  | .routineAxor _ => true
  | .routineAmin _ => true
  | .routineAmax _ => true
  | .routineAminu _ => true
  | .routineAmaxu _ => true
  | .fadd32 _ => true
  | .xacc _ => true
  | .gath8 _ => true
  | .publish _ => true
  | .fill64 _ => true
  | .svcMigrate _ => true
  | .svcInval _ => true
  | .svcLoad _ => true
  | .svcUnload _ => true
  | .tsvc _ => true
  | .loadableRoutine _ => true
  | .tableWalk _ => true
  | .pageCopyComplete _ => true
  | .endMarker _ => true
  | .refreshInterval _ => true
  | .refresh _ _ => true
  | .rfwinNotice _ _ => true
  | .creditOrAcknowledgement _ => true
  | .streamMessage _ => true
  | .accessRequest _ => true
  | .accessReply _ => true
  | .writeWithEnqueue _ => true
  | .collectiveData _ _ _ => true
  | .collectiveControl _ _ _ => true
  | .linkDown _ => true
  | .collectiveSubmit _ _ _ => true
  | .collectiveComplete _ _ => true
  | .collectiveLimitExpiry _ _ => true
  | .collectiveRecordExpiry _ _ => true
  | .mailboxIn _ _ => true
  | .mailboxLp _ => true
  | .mailboxToken _ => true
  | .mailboxOut _ => true
  | .qhsin _ _ => true
  | .registerWrite _ _ => true
  | .notifyWrite _ _ _ _ => true
  | .doorbell _ _ => true
  | .hostBar4Access _ _ _ _ => true
  | .hostAtomicop _ _ _ _ _ => true
  | .switch _ => true
  | .restore _ => true
  | .migrate _ => true
  | .abandon _ => true
  | .urgent _ => true
  | .setpstate _ => true
  | .setcap _ => true
  | .settamper _ => true
  | .provision _ => true
  | .lock _ => true
  | .retire _ => true
  | .release _ => true
  | .debugchal _ => true
  | .debugopen _ => true
  | .debugend _ => true
  | .dbggo _ => true
  | .attest _ => true
  | .fwupdate _ => true
  | .dbgset _ => true
  | .setclock _ => true
  | .reccfg _ => true
  | .counters _ => true
  | .settable _ => true
  | .tamperEvent _ i => decide (i < 298)
  | .thermalReduction i => decide (i < 298)
  | .powerSample _ l => l.all fun x => decide (x.1 < 298)
  | .powerStep => true
  | .scrub _ _ _ => true
  | .bringUp _ => true
  | .hschSpinExpiry _ => true
  | .elementCommit _ => true
  | .envelopeAcknowledgement _ _ _ => true
  | .rfwinWindowExpiry _ => true

end Sys2Proof
end

