-- ==== Sys2Proof/Machine/State.lean ====
section
/-! DEFINITION. The state of the module: every piece of architectural state the spec names, as plain data, and
the state right after reset. -/

namespace Sys2Proof.Machine

/-- The module stops by itself with one of these. -/
inductive Fault where
  /-- Raised by step when every slot and engine is stopped: a tamper HALT or ERASE (16 R434). Safe: the spec says
  that nothing issues until reset. -/
  | moduleHalted
  deriving DecidableEq, Repr

/-- Why the model has no step for an instruction. -/
inductive Refusal where
  /-- Raised by an arm of exec without a meaning, with the mnemonic of the row. Safe: no state follows. -/
  | notModelled (mnemonic : String)
  deriving DecidableEq, Repr

/-- A table keyed by numbers, in ascending order of keys; an absent key holds nothing. -/
abbrev Tbl (α : Type) := List (Nat × α)

/-- A run-queue entry's context (01 R12, Table 1-1). -/
structure Ctx where
  p : Vector DWord 8
  pg : DWord
  id : DWord
  pc : Addr
  dl : Addr
  status : Word
  deriving DecidableEq, Repr

/-- A liveness point: LREG and BMAP of an HLIVE hint (09 R299). -/
structure LivePoint where
  lreg : BitVec 8
  bmap : BitVec 13
  deriving DecidableEq, Repr

/-- What a waiting fibre's operation does when it ends (05, 06, 07, 08). -/
inductive WaitKind where
  | load (d : Reg) (sz : Size) (sx : Bool)
  | store
  | fe (k : AccKind) (d : Reg) (ea : DWord) (data : DWord)
  | atomic (d : Reg) (sz : Size)
  | cas16 (d : Reg)
  | accrd (t : Ty) (d : Reg) (rm : BitVec 3) (sat : Bool)
  | send (ep : Nat)
  | sendx (ep : Nat) (d : Reg)
  | recv (ep : Nat) (d : Reg)
  | recvx (ep : Nat) (d : Reg) (a : Reg)
  | tile (ep : Nat)
  | alt (mask : DWord) (d : Reg) (b : Option Reg)
  | event
  | evtst (d : Reg)
  | bar (d : Reg) (g : Nat)
  | joinc (d : Reg) (frame : Nat)
  | fork (d : Reg)
  | post
  | mscl (d : Reg)
  | submit
  deriving DecidableEq, Repr

/-- A pending operation: serial number, kind, block reason of Table 1-5 (0 for a stall in the slot), start of the
wait, own time-out, whether a dead-letter probe has left, the probe threshold in force, the endpoint, the access,
whether the wait limit has passed, the address of the instruction word (the context's PC names the first hint of its
group), the liveness point it ends with, the words its issue popped, which a withdrawal puts back (01 R36; 13 R367),
and the job that counted a message as sent for it (01 R38). -/
structure Wait where
  op : Nat
  kind : WaitKind
  reason : Nat
  since : Nat
  due : Option Nat
  thr : Nat
  probed : Bool
  ep : Nat
  acc : Option Access
  limitHit : Bool
  tpc : Addr
  live : Option LivePoint
  undo : List (Reg × DWord)
  sent : Option Nat
  deriving DecidableEq, Repr

/-- A word of qm0 or qm1; the result word of a reply frees its tag (05 R161). -/
structure QmWord where
  w : DWord
  frees : Option Nat
  deriving DecidableEq, Repr

/-- A tagged memory queue: tags in use with the operation's number and whether the reply has come, and its words. -/
structure Qm where
  tags : List (Nat × Nat × Bool)
  words : List QmWord
  deriving DecidableEq, Repr

/-- An entry of qam (05 R150): operation, address, whether it is an acquire, what it does, the word once it has come,
the job that counts it as sent (05 R148). -/
structure QamEntry where
  op : Nat
  addr : DWord
  acq : Bool
  kind : WaitKind
  val : Option DWord
  sent : Option Nat
  deriving DecidableEq, Repr

/-- An armed timer or an expired one whose word has not entered qtm (01 R26). -/
structure Timer where
  due : Nat
  num : Nat
  deriving DecidableEq, Repr

/-- A trap waiting for slot 7, or being handled (13 R363 to R368). -/
structure Trap where
  code : Nat
  async : Bool
  arg : BitVec 8
  ent : Option Nat
  slot : Nat
  epc : Addr
  epg : DWord
  eaddr : DWord
  eidx : DWord
  jent : Option Nat
  chan : Bool
  wdrawn : Bool
  lost : Bool
  extra : List DWord
  deriving DecidableEq, Repr

/-- A shape record, snapshotted (11 Table 11-7). -/
structure Shape where
  base : Nat
  fmt : Nat
  gen : Nat
  rows : Nat
  cols : Nat
  stride : Nat
  deriving DecidableEq, Repr

/-- What an interrupted or blocked element-wise instruction keeps of its issue: the address of its word; endpoint and
record of a tile operation that has waited (06 R197); the bank formats of its core and of its peer (03 R84). -/
structure Snapshot where
  tpc : Addr
  tile : Option (Nat × Shape)
  bfmt : Vector Word 8
  peer : List Word
  deriving DecidableEq, Repr

/-- A fibre: its context, and what the machine keeps for it beside the context; readyAt: the core's cycle from which it
can be dispatched (01 R17; 12 R351); atPoint: the instruction it completed
last carried an HLIVE hint; unflushed: it has accesses to the host window that no flush read stands behind, flush: the
flush read under way (10 R316). -/
structure Fibre where
  ctx : Ctx
  job : Option Nat
  stamp : Nat
  readySince : Nat
  readyAt : Nat
  row : Option Nat
  args : List (Nat × Option DWord)
  qm : Vector Qm 2
  qam : List QamEntry
  qjn : List (DWord × Bool)
  qev : List DWord
  qevPend : List Nat
  qtm : List DWord
  timers : List Timer
  expired : List Timer
  armCount : Nat
  wait : Option Wait
  live : Option LivePoint
  liveSince : Nat
  atPoint : Bool
  xfork : Bool
  gangs : List Nat
  fseq : Nat
  pend : List Trap
  unflushed : Bool
  flush : Option Nat
  snap : Option Snapshot
  deriving DecidableEq, Repr

/-- The hints collected for the target of a group (02 R63; 09 R297). -/
structure Hints where
  himm : Option (BitVec 22)
  spin : Option (BitVec 4)
  live : Option LivePoint
  hmod : Option (Bool × BitVec 3 × Bool × Bool × Bool)
  deriving DecidableEq, Repr

/-- One side of a transfer between scratchpads: core, offset, distance of rows, format of its record, bank formats. -/
structure TileEnd where
  core : Nat
  off : Nat
  stride : Nat
  fmt : Nat
  bf : List Word
  deriving DecidableEq, Repr

/-- A running element-wise instruction (01 R27): what was read at issue, next element, count; ends: the sides of a tile
transfer. -/
structure ElemRun where
  ins : Instr
  n : Nat
  k : Nat
  vals : List DWord
  vec : VWord
  off : VWord
  shapes : List Shape
  bfmt : Vector Word 8
  carry : Bool
  flags : BitVec 7
  bytes : List Byte
  ends : List TileEnd
  deriving DecidableEq, Repr

/-- What an instruction under way writes for others to see: a shared register, lanes of a vector register (those of a mask), a
word pushed into a queue of the core. -/
inductive LateWrite where
  | reg (n : Fin 32) (v : DWord)
  | vec (n : Fin 16) (mask v : VWord)
  | push (r : Reg) (v : DWord)
  deriving DecidableEq, Repr

/-- A result under way (04 R117; 08 R244, R245; 01 R20): the count of the core's cycles from which it shows, the slot it comes from
(8: the vector sequencer), and what it writes. -/
structure Late where
  due : Nat
  rank : Nat
  what : LateWrite
  deriving DecidableEq, Repr

/-- A barrel slot (01 R14): the run-queue index it holds, the working copy, the last-result file (R19), the hints
of the group being issued and its first address (R30), the running element-wise instruction, since when the slot
stalls and whether on an empty qtm (R36), the cycle of its dispatch (12 R352), spin hold of HSCH (09 R297), the
line it issues from (11 R320), LEND of the loop record whose LOOP word stands at an address (04 R141), the cycles that the
instruction being issued occupies it (04 R117), and the core's cycle from which it is free for its next instruction, its next
element or its next fibre (01 R16, R17). -/
structure Slot where
  ent : Option Nat
  busy : Bool
  fib : Fibre
  l0 : DWord
  l1 : DWord
  hints : Hints
  group : Option Addr
  run : Option ElemRun
  stall : Option Nat
  onQtm : Bool
  ran : Nat
  spin : Option Nat
  paused : Bool
  line : Option (Nat × List Byte)
  lend : Option (Nat × Option Addr)
  lat : Nat
  ready : Nat
  deriving DecidableEq, Repr

/-- An endpoint entry (06 Table 6-1), with the offers, waiting notices and buffered messages it stands for. orphan: OWNER
names no fibre (09 R292; 06 R209; 07 R238); rsv7: RSV was set by an ALT of slot 7 (R202; log entry 151). -/
structure Endpoint where
  valid : Bool
  dir : Bool
  type : BitVec 2
  mode : Bool
  nslotm1 : BitVec 4
  pkind : BitVec 3
  closed : Bool
  rsv : Bool
  rsv7 : Bool
  lpq : Bool
  owner : BitVec 8
  pep : BitVec 6
  pdie : BitVec 3
  pcore : BitVec 12
  buf : BitVec 16
  slotb : BitVec 14
  cnt : Nat
  head : Nat
  ext : BitVec 24
  offers : List ChanMsg
  kinds : List Body
  notice : Bool
  busyTile : Bool
  orphan : Bool
  deriving DecidableEq, Repr

/-- A message port (07 R221, Table 7-1): a queue port with its slots, or a counter port. -/
structure Port where
  counter : Bool
  ovf : Bool
  depth : Nat
  arm : Bool
  woff : Nat
  fifo : List DWord
  held : Nat
  waiting : List PostMsg
  deriving DecidableEq, Repr

/-- A pattern row (07 Table 7-2), with what JPAT recorded of its fibre (07 R238). -/
structure Row where
  mask : BitVec 32
  entry : Addr
  pri : BitVec 3
  rearm : Bool
  rotate : Bool
  en : Bool
  sat : Bool
  seq : Nat
  id : DWord
  frm : BitVec 3
  wlc : BitVec 8
  wlu : BitVec 2
  deriving DecidableEq, Repr

/-- An entry of the posted-store journal (05 R156); job: the job that counts it as sent (R148). -/
structure JEntry where
  idx : Nat
  op : Nat
  ent : Nat
  addr : DWord
  size : Size
  atomic : Bool
  data : DWord
  cause : Option Nat
  seq : Nat
  job : Option Nat
  deriving DecidableEq, Repr

/-- A transfer's layout (05 R176): rows, bytes of a row and distance between rows on each side, and for a converting
transfer the format words of the two banks. -/
structure Layout where
  rows : Nat
  srcRow : Nat
  dstRow : Nat
  srcStride : Nat
  dstStride : Nat
  conv : Option (Word × Word)
  deriving DecidableEq, Repr

/-- A copy-engine channel (05 R174 to R188): its copy or subscription. next counts the elements complete in sequence
(or NEXT of a halt), above those complete ahead of it, pend those a switched-out core refused, flight the requests to
the host or a peer module; receivers and formats belong to a multicast; full and back are the ring slots that hold a
tile and those being written back; enq marks a write with enqueue, haltAt the element or tile of a halt. since: the
operations numbered below it preceded its issue (10 R310); bySeq: a word of the copy sequencer issued it (08 R283);
flush: the flush read behind its writes to the host window and whether it has completed (10 R311); bad: the lowest
element that cannot be done, its fault code and address, while elements below it are under way (05 R180). -/
structure Channel where
  since : Nat
  bySeq : Bool
  flush : Option (Nat × Bool)
  bad : Option (Nat × Nat × DWord)
  busy : Bool
  halted : Bool
  subscr : Bool
  tag : Nat
  rr : Bool
  code : Nat
  pc : Addr
  who : Who
  job : Option Nat
  src : Nat
  dst : Nat
  layout : Layout
  elems : Nat
  next : Nat
  above : List Nat
  pend : List Nat
  flight : List (Nat × Nat)
  overlap : Bool
  down : Bool
  receivers : List Nat
  formats : Tbl Word
  srcFmt : Word
  sched : Option (Nat × Nat)
  collided : Bool
  wm : Nat
  slotb : Nat
  nslot : Nat
  va : Nat
  stride : Int
  full : List (Nat × Nat)
  back : List (Nat × Nat)
  enq : Bool
  haltAt : Nat
  deriving DecidableEq, Repr

/-- A matrix plane (08 Table 8-4). -/
structure Plane where
  fmt : Nat
  k : Nat
  n : Nat
  w : List (List DWord)
  scale : List (List Byte)
  src : Option (Shape × Bool × Nat)
  lost : Bool
  deriving DecidableEq, Repr

/-- An engine sequencer (08 R280, R281); ready: the core's cycle from which its next word or element may start. -/
structure Seq where
  running : Bool
  stopped : Bool
  halted : Bool
  code : Nat
  paddr : Nat
  nword : Nat
  rep : Nat
  word : Nat
  run : Option ElemRun
  flags : BitVec 7
  owner : Option Who
  joined : Bool
  ready : Nat
  deriving DecidableEq, Repr

/-- The command and result words of an engine queue (01 Table 1-4), each command with its pushing slot. -/
structure EngQueue where
  cmds : List (DWord × Nat)
  res : List DWord
  deriving DecidableEq, Repr

/-- An arrival record (11 R331): range and watermark of another core's transfer into this scratchpad. -/
structure Arrival where
  core : Nat
  ch : Nat
  lo : Nat
  hi : Nat
  wm : Nat
  deriving DecidableEq, Repr

/-- One core. recent6: the cycles of slot 6's last two issues, issued: that of its last issue (01 R16); late: its results under
way (04 R117); vecAt: the cycle in which the vector unit last accepted an instruction of a slot, vecTill: the cycle from which none of them
executes there (08 R244, R284); matAt: the cycle of the matrix unit's next element commit (08 R265); pausing: the work that slot 7
pauses commits one more element, loaded7: slot 7 has issued an MWLD over paused work (08 R266); saved: it is switched out; saving: a forced save is due, for the fibre of this handle; amq: the work that
waits for slot 6; fifoPoison: FIFOs whose head word has bad parity (16 R438; log entry 91); qhsLate: completion words of commands that wait for room in the qhs read FIFO (16 R443; 01 R23). -/
structure Core where
  slots : Vector Slot 8
  runq : Tbl Fibre
  lastIssue : Nat
  recent6 : List Nat
  issued : Option Nat
  late : List Late
  vecAt : Option Nat
  vecTill : Nat
  matAt : Nat
  pausing : Bool
  loaded7 : Bool
  stampCount : Nat
  s : Vector DWord 32
  v : Vector VWord 16
  qmx : EngQueue
  qvx : EngQueue
  qcp : EngQueue
  qac : EngQueue
  qsc : List DWord
  qhs : List DWord
  qhsLate : List DWord
  qs : Vector (List DWord) 8
  tags : DWord
  stagecnt : DWord
  exhausted : BitVec 8
  mxexc : DWord
  captok : DWord
  part0 : DWord
  part1 : DWord
  trapbase : DWord
  livetab : DWord
  utarg : DWord
  dbgbk : Bool
  cause : DWord
  epc : DWord
  epg : DWord
  eaddr : DWord
  eidx : DWord
  ejrn : DWord
  sig : Vector DWord 4
  bfmt : Vector Word 8
  utasks : List (Addr × DWord × Option Cmd)
  urgent : Option (Option Cmd)
  handling : Option Trap
  zero : Bool
  halted : Bool
  traps : List Trap
  lost : Bool
  trapSeq : BitVec 32
  endpoints : Tbl Endpoint
  ports : Tbl Port
  rows : Tbl Row
  lastfire : Vector (BitVec 4) 8
  latch : Option PostMsg
  full : List Nat
  waiters : List (Issuer × Access)
  journal : List JEntry
  channels : Vector Channel 8
  arrivals : List Arrival
  active : Plane
  shadow : Plane
  mcmds : List MatCmd
  mcmdOut : Nat
  mcmdRun : Option (MatCmd × ElemRun)
  keeper : Vector Byte 256
  seqs : Vector Seq 3
  lines : List (Nat × List Byte)
  fetching : List Nat
  shapes : List (Nat × List Byte)
  shaping : List Nat
  homes : List (Nat × Nat)
  staged : Tbl (List Byte)
  poison : List Nat
  queuePoison : List (Nat × Nat)
  fifoPoison : List Nat
  ce : BitVec 32
  ue : BitVec 32
  job : Option Nat
  saved : Bool
  saving : Option DWord
  amq : List (Issuer × Access)
  deriving DecidableEq, Repr

/-- A page entry of the directory, as a translation cache holds it (14 Table 14-8). -/
structure Page where
  giga : Bool
  ro : Bool
  tol : Bool
  mig : Bool
  home : Nat
  fill : Nat
  pfn : Nat
  key : Nat
  deriving DecidableEq, Repr

/-- A page migration in progress (14 R402). -/
structure Migration where
  num : Nat
  page : Page
  newHome : Nat
  newPfn : Nat
  req : Req
  copied : Bool
  queued : List Req
  held : List Req
  deriving DecidableEq, Repr

/-- A loaded server routine (14 R389), with its whole image. -/
structure Routine where
  num : Nat
  na : Bool
  code : List Word
  image : List Byte
  deriving DecidableEq, Repr

/-- One stack with its sixteen servers: the entries of their translation caches, each with its server (14 R383); the refresh
allowances of the banks, used: the module cycle of a bank's last request, turn: the bank of a pseudo-channel that a window
refreshed last (14 R398). -/
structure Stack where
  cache : List (Nat × Page)
  cecnt : BitVec 32
  uecnt : BitVec 32
  subcnt : BitVec 32
  rmwcnt : BitVec 32
  allow : Tbl Int
  rest : Int
  used : Tbl Nat
  turn : Tbl Nat
  window : Option Nat
  poison : List Nat
  deriving DecidableEq, Repr

/-- An event-table entry (12 R356): job, name, SET, waiters; far: the entry itself is kept in the overflow list of the die's stack,
listed: so are the last waiters, so many (R357). -/
structure Event where
  job : Nat
  name : Nat
  set : Bool
  waiters : List EvMsg
  far : Bool
  listed : Nat
  deriving DecidableEq, Repr

/-- An entry of a pending-launch pool (12 R345). -/
structure Pending where
  idx : Nat
  record : Addr
  order : Nat
  job : Option Nat
  deriving DecidableEq, Repr

/-- A flight recorder (16 R441): ring and positions. -/
structure Recorder where
  base : Nat
  log2 : Nat
  head : Nat
  tail : Nat
  deriving DecidableEq, Repr

/-- One compute die. -/
structure Die where
  events : List Event
  pool : List Pending
  status : List (Nat × List DWord)
  statusLost : Bool
  dlprobe : BitVec 32
  recorder : Recorder
  lastStart : Nat
  reported : List (List Nat)
  deriving DecidableEq, Repr

/-- A gang's barrier at its home (06 R218): members, arrivals of the current phase. -/
structure Gang where
  num : Nat
  members : List Who
  first : DWord
  last : DWord
  arrived : List (Who × Nat)
  deriving DecidableEq, Repr

/-- A live job (12 R340 to R346). switching: region, stride and command of a switch in progress; saved: the cores it
has saved, by package number; switched: region, stride, whether every image was QUIET, and the operation numbers below
which traffic is its own. -/
structure Job where
  num : Nat
  die : Nat
  pool : Nat
  record : Addr
  x0 : Nat
  y0 : Nat
  wm1 : Nat
  hm1 : Nat
  widths : List Nat
  det : Bool
  orf : BitVec 8
  recm : Nat
  pri : Nat
  evbase : Nat
  evcount : Nat
  codebase : Nat
  codelen : Nat
  shapebase : Nat
  shapecnt : Nat
  sched : List (Nat × Nat × Nat)
  ownerq : Nat
  cpladdr : Addr
  sinks : List (Nat × Nat × Bool)
  gangs : List Gang
  sent : Vector Nat 8
  consumed : Vector Nat 8
  subs : Nat
  coll : BitVec 256
  rech : BitVec 256
  start : Nat
  faulted : Bool
  switching : Option (Nat × Nat × Cmd)
  switched : Option (Nat × Nat × Bool × Nat)
  saved : List (Nat × Core)
  maxDbg : Nat
  deriving DecidableEq, Repr

/-- An envelope between two die-level agents (10 R313, Table 10-5): sender, destination, number, KIND, payload flits,
counts of the sender's causal past; upd: the packet number of the clock update sent before it (R314). -/
structure Envelope where
  src : Fin 18
  dst : Fin 18
  seq : BitVec 16
  kind : BitVec 4
  len : Nat
  vc : List (BitVec 16)
  upd : Option Nat
  deriving DecidableEq, Repr

/-- A packet in flight: what happens at its destination, where, the accesses that must be performed first, and the
intervals of places within which accesses are performed in order. admitted: the order of its envelope's admission. -/
structure Packet where
  num : Nat
  src : Nat
  dst : Nat
  after : List Nat
  afterWho : Option Who
  order : List (Nat × Nat)
  env : Option Envelope
  admitted : Option Nat
  held : Bool
  ev : Ev
  deriving DecidableEq, Repr

/-- A die-level agent's envelope counts (10 R314); heard: the rows that each agent last sent to it. -/
structure Agent where
  sent : List (BitVec 16)
  adm : List (BitVec 16)
  know : List (List (BitVec 16))
  lastRows : List (List (List (BitVec 16)))
  unacked : List Nat
  heard : List (Fin 18 × Fin 18 × List (BitVec 16))
  deriving DecidableEq, Repr

/-- A host mailbox (15 Table 15-5). -/
structure Mailbox where
  inq : List Body
  outq : List (DWord × Nat × Nat × Body)
  irqen : Bool
  drop : Bool
  qhsdst : BitVec 23
  credit : Nat
  deriving DecidableEq, Repr

/-- A launch page (12 Table 12-4). -/
structure LaunchPage where
  ringbase : DWord
  ringsize : DWord
  admitted : DWord
  target : Option DWord
  deriving DecidableEq, Repr

/-- A collective at this module (15 R413 to R420). -/
structure Collective where
  comm : Nat
  seq : Nat
  block : Addr
  who : Option Who
  job : Option Nat
  op : Nat
  dtype : Nat
  rop : Nat
  rank : Nat
  nrank : Nat
  count : Nat
  limit : Nat
  src : Nat
  dst : Nat
  parent : Option Nat
  children : List Nat
  ownpos : Nat
  links : List (Nat × Nat × Nat)
  notify : Option (Nat × Nat)
  inputs : List (Nat × List Byte × BitVec 4)
  own : List Byte
  result : Option (List Byte × BitVec 4)
  state : Nat
  start : Nat
  decided : Option Bool
  asked : Bool
  deriving DecidableEq, Repr

/-- The Sorting Office (15 R404 to R420). tilesOut: what a link SENDT under way has handed over, by link and stream; tilesIn: what
has come of a tile, by link and stream (R410); kept: frames that wait, or stand behind one that waits, by link (R406), and
submissions, as link 256; early: frames of collectives that wait for this rank's submission (R419). -/
structure Office where
  streamsIn : List (Nat × Nat × Nat × Nat)
  streamsOut : List (Nat × Nat × Nat × Nat)
  links : Tbl Nat
  down : List Nat
  peers : Tbl DWord
  imports : Tbl (DWord × DWord × DWord)
  colls : List Collective
  modid : BitVec 16
  waiting : List (Nat × Nat × Issuer)
  tilesOut : Tbl (List Byte)
  tilesIn : Tbl (TileDesc × List Byte)
  kept : List (Nat × Ev)
  early : List Ev
  deriving DecidableEq, Repr

/-- The host die (15 R421 to R424). letters: records of the dead-letter unit that wait for room in their mailbox (R422); fifoPoison:
mailbox FIFOs whose head word has bad parity (16 R438; log entry 91); kept: requests of the host that wait behind one that cannot be
served yet, in the order in which they came (10 R317). -/
structure HostDie where
  boxes : Tbl Mailbox
  windows : Tbl DWord
  notify : Tbl DWord
  notifyRegs : Tbl DWord
  bound : Tbl (Nat × Nat)
  pages : Tbl LaunchPage
  apbase : Nat
  mgmtdone : DWord
  mgmtcmd : DWord
  msix : List Nat
  waiting : List (Nat × Issuer)
  letters : List (Nat × List DWord)
  fifoPoison : List Nat
  kept : List Ev
  deriving DecidableEq, Repr

/-- Security states and debug modes (16 R425). -/
inductive Sec where
  | blank
  | provisioned
  | locked
  | retired
  deriving DecidableEq, Repr

inductive Dbg where
  | none
  | owner
  | vendor
  deriving DecidableEq, Repr

/-- Power states (16 R425); A0 or A1 follows from PCAP and thermal reduction (R436: Mgmt.capped). -/
inductive Power where
  | active
  | s1
  | s3
  | off
  deriving DecidableEq, Repr

/-- The management controller and the power manager (16). counts: for an island whose step has changed, the module cycle
of the last change and the island's own count then, in sixteenths of a cycle (R435); clockSet: SETCLOCK has set the
clock (12 R339); keyStore: the 4 KiB key store; fused: the fused copies that restore it (R429). -/
structure Mgmt where
  sec : Sec
  dbg : Dbg
  power : Power
  pcap : Nat
  thermal : List Nat
  tampcfg : BitVec 8
  tlog : List (Nat × Nat × Nat)
  steps : Tbl Nat
  counts : Tbl (Nat × Nat)
  clockSet : Bool
  samples : List Nat
  draws : List (Nat × Nat)
  ownerh : BitVec 256
  floor : Nat
  keyStore : List Byte
  fused : List Byte
  fwh : BitVec 256
  staged : Option (List Byte)
  verified : Bool
  challenge : Option (BitVec 256)
  challenges : Nat
  cmds : List Cmd
  waiting : List Cmd
  admitted : Bool
  ready : Bool
  halted : Bool
  goal : Option Power
  sleepAt : Nat
  migrating : Option (Cmd × Who × Nat)
  reports : List (Nat × Nat)
  deriving DecidableEq, Repr

/-- What leaves the module: PCI Express requests, Symen Link frames, interrupts (15). -/
inductive Outside where
  | pcieWrite (ns : Bool) (addr : Nat) (bytes : List Byte)
  | pcieRead (ns : Bool) (addr : Nat) (len : Nat) (op : Nat)
  | pcieAtomic (ns : Bool) (addr : Nat) (op : AtomOp) (len : Nat) (operands : List DWord) (num : Nat)
  | completion (data : List Byte) (abort : Bool)
  | frame (port : Nat) (f : Frame)
  | msix (vector : Nat)
  | popped (box : Nat) (w : DWord)
  deriving DecidableEq, Repr

/-- One turn that timing or the outside gives: module cycles that begin before it, then an instruction or event in a slot of a
core; with no instruction, the slot issues the word at its PC. -/
structure Turn where
  pass : Nat
  core : Nat
  slot : Fin 8
  ev : Option Ev
  deriving DecidableEq, Repr

/-- What a core may do in a cycle: re-evaluate a stalled slot (01 R16), commit an element, perform a sequenced word, what its
hardware does of its own accord, issue; and what the agents beside the cores do. -/
inductive TodoKind where
  | retry (sl : Fin 8)
  | element (sl : Fin 8)
  | sequence (e : Eng)
  | hardware
  | issue
  | side
  deriving DecidableEq, Repr

/-- One of those that is still to come in the present cycle (the model's own; log entry 5). -/
structure Todo where
  core : Nat
  kind : TodoKind
  deriving DecidableEq, Repr

/-- The state of the module. cid, core, sid: the core and slot in turn; others: every other core whose state is
not the reset state; mem: scratchpad and DRAM bytes by home address; postmark: the postmark time at the module cycle
clockAt; agenda, acts: the turns to come (the model's own); free: the model's own counter of free values (no part of the
spec's machine). -/
structure State where
  cid : Nat
  core : Core
  others : Tbl Core
  sid : Fin 8
  mem : List Host.Cell
  cycle : Nat
  postmark : Nat
  clockAt : Nat
  hbm : Vector Stack 8
  dies : Vector Die 8
  jobs : Tbl Job
  net : List Packet
  nextId : Nat
  agents : Vector Agent 18
  routines : Tbl Routine
  migrations : List Migration
  office : Office
  host : HostDie
  mgmt : Mgmt
  outside : List Outside
  agenda : List Turn
  acts : List Todo
  free : Nat
  deriving DecidableEq, Repr

/-! The state right after reset. -/

/-- A context of zeros with the reset status word (01 Tables 1-1, 1-2: STATE 1) and no deadline. -/
def Ctx.reset : Ctx :=
  ⟨Vector.replicate 8 0, 0, 0, 0, 0xFFFFFFFFFFFF, 1⟩

def Qm.reset : Qm := ⟨[], []⟩

/-- A fibre with a reset context and nothing outstanding. -/
def Fibre.reset : Fibre :=
  { ctx := Ctx.reset, job := none, stamp := 0, readySince := 0, readyAt := 0, row := none, args := [], qm := Vector.replicate 2 Qm.reset,
    qam := [], qjn := [], qev := [], qevPend := [], qtm := [], timers := [], expired := [], armCount := 0,
    wait := none, live := none, liveSince := 0, atPoint := false, xfork := false, gangs := [], fseq := 0, pend := [], unflushed := false, flush := none,
    snap := none }

def Hints.reset : Hints := ⟨none, none, none, none⟩

/-- An empty slot. -/
def Slot.reset : Slot :=
  { ent := none, busy := false, fib := Fibre.reset, l0 := 0, l1 := 0, hints := Hints.reset, group := none,
    run := none, stall := none, onQtm := false, ran := 0, spin := none, paused := false, line := none, lend := none,
    lat := 1, ready := 0 }

/-- An endpoint entry of zeros (06 R190). -/
def Endpoint.reset : Endpoint :=
  { valid := false, dir := false, type := 0, mode := false, nslotm1 := 0, pkind := 0, closed := false, rsv := false,
    rsv7 := false, lpq := false, owner := 0, pep := 0, pdie := 0, pcore := 0, buf := 0, slotb := 0, cnt := 0, head := 0, ext := 0,
    offers := [], kinds := [], notice := false, busyTile := false, orphan := false }

/-- A row as before any JPAT (07 Table 7-4). -/
def Row.reset : Row :=
  { mask := 0, entry := 0, pri := 0, rearm := false, rotate := false, en := false, sat := false, seq := 0, id := 0,
    frm := 0, wlc := 0, wlu := 0 }

/-- A free channel; its watermark is 0 (05 R185). -/
def Channel.reset : Channel :=
  { since := 0, bySeq := false, flush := none, bad := none, busy := false, halted := false, subscr := false, tag := 0, rr := false, code := 0, pc := 0, who := ⟨0, 0⟩,
    job := none, src := 0, dst := 0, layout := ⟨0, 0, 0, 0, 0, none⟩, elems := 0, next := 0, above := [], pend := [],
    flight := [], overlap := false, down := false, receivers := [], formats := [], srcFmt := 0, sched := none,
    collided := false, wm := 0, slotb := 0, nslot := 0, va := 0, stride := 0, full := [], back := [], enq := false, haltAt := 0 }

/-- An EMPTY plane (08 Table 8-4). -/
def Plane.reset : Plane := ⟨15, 0, 0, [], [], none, false⟩

def Seq.reset : Seq :=
  { running := false, stopped := false, halted := false, code := 0, paddr := 0, nword := 0, rep := 0, word := 0,
    run := none, flags := 0, owner := none, joined := true, ready := 0 }

def EngQueue.reset : EngQueue := ⟨[], []⟩

/-- A core at reset: PART0, PART1 and LIVETAB as Table 9-2 gives them, LASTFIRE 15 (07 R234), keeper entries 127
(08 R268); the registers without a reset value hold zero (log entry 2). -/
def Core.reset : Core :=
  { slots := Vector.replicate 8 Slot.reset, runq := [], lastIssue := 5, recent6 := [], issued := none, late := [], vecAt := none, vecTill := 0, matAt := 0, pausing := false,
    loaded7 := false, stampCount := 0,
    s := Vector.replicate 32 0, v := Vector.replicate 16 0, qmx := EngQueue.reset, qvx := EngQueue.reset,
    qcp := EngQueue.reset, qac := EngQueue.reset, qsc := [], qhs := [], qhsLate := [], qs := Vector.replicate 8 [], tags := 0,
    stagecnt := 0, exhausted := 0, mxexc := 0, captok := 0, part0 := 0x100000000, part1 := 0x5FBF0000,
    trapbase := 0, livetab := 20000, utarg := 0, dbgbk := false, cause := 0, epc := 0, epg := 0, eaddr := 0,
    eidx := 0, ejrn := 0, sig := Vector.replicate 4 0, bfmt := Vector.replicate 8 0, utasks := [], urgent := none,
    handling := none, zero := false, halted := false, traps := [], lost := false, trapSeq := 0, endpoints := [],
    ports := [], rows := [], lastfire := Vector.replicate 8 15, latch := none, full := [], waiters := [],
    journal := [], channels := Vector.replicate 8 Channel.reset, arrivals := [], active := Plane.reset,
    shadow := Plane.reset, mcmds := [], mcmdOut := 0, mcmdRun := none, keeper := Vector.replicate 256 127,
    seqs := Vector.replicate 3 Seq.reset, lines := [], fetching := [], shapes := [], shaping := [], homes := [], staged := [],
    poison := [], queuePoison := [], fifoPoison := [], ce := 0, ue := 0, job := none, saved := false, saving := none, amq := [] }

def Stack.reset : Stack :=
  { cache := [], cecnt := 0, uecnt := 0, subcnt := 0, rmwcnt := 0, allow := [], rest := 0, used := [], turn := [], window := none, poison := [] }

/-- A die at reset; DLPROBE is 100 (Table 9-2). -/
def Die.reset : Die :=
  { events := [], pool := [], status := [], statusLost := false, dlprobe := 100, recorder := ⟨0, 16, 0, 0⟩,
    lastStart := 0, reported := [] }

def Agent.reset : Agent :=
  { sent := List.replicate 18 0, adm := List.replicate 18 0, know := List.replicate 18 (List.replicate 18 0),
    lastRows := List.replicate 18 (List.replicate 18 (List.replicate 18 0)), unacked := List.replicate 18 0,
    heard := [] }

def Office.reset : Office :=
  { streamsIn := [], streamsOut := [], links := [], down := [], peers := [], imports := [], colls := [],
    modid := 0, waiting := [], tilesOut := [], tilesIn := [], kept := [], early := [] }

/-- A mailbox at reset (15 Table 15-5): empty, INFREE 64. -/
def Mailbox.reset : Mailbox := ⟨[], [], false, false, 0, 0⟩

/-- A launch page at reset (12 Table 12-4): RINGSIZE 1. -/
def LaunchPage.reset : LaunchPage := ⟨0, 1, 0, none⟩

def HostDie.reset : HostDie :=
  { boxes := [], windows := [], notify := [], notifyRegs := [], bound := [], pages := [], apbase := 0,
    mgmtdone := 0, mgmtcmd := 0, msix := [], waiting := [], letters := [], fifoPoison := [], kept := [] }

/-- The controller at reset: PCAP 5,600 W (16 R436), every tamper response LOG (R433), debug mode NONE (R427), not
READY before bring-up (R445); a module of the production state LOCKED (log entry 3). -/
def Mgmt.reset : Mgmt :=
  { sec := .locked, dbg := .none, power := .active, pcap := 5600, thermal := [], tampcfg := 0, tlog := [],
    steps := [], counts := [], clockSet := false, samples := [], draws := [], ownerh := 0, floor := 0, keyStore := List.replicate 4096 0,
    fused := (List.range 4096).map Config.fusedByte, fwh := 0, staged := none,
    verified := false, challenge := none, challenges := 0, cmds := [], waiting := [], admitted := false,
    ready := false, halted := false, goal := none, sleepAt := 0, migrating := none, reports := [] }

/-- The module right after reset: the core in turn is core 0 of CD0, slot 0; nothing is placed. -/
def State.reset : State :=
  { cid := 0, core := Core.reset, others := [], sid := 0, mem := [], cycle := 0, postmark := 0, clockAt := 0,
    hbm := Vector.replicate 8 Stack.reset, dies := Vector.replicate 8 Die.reset, jobs := [], net := [], nextId := 0,
    agents := Vector.replicate 18 Agent.reset, routines := [], migrations := [], office := Office.reset,
    host := HostDie.reset, mgmt := Mgmt.reset, outside := [], agenda := [], acts := [], free := 0 }

end Sys2Proof.Machine
end

