-- ==== Sys2Proof/Machine/Ops.lean ====
section
/-! DEFINITION. The named operations: tables, memory bytes, fields, slots and fibres, registers and queues, packets,
the ready queues, faults, taking a trap and returning from it. -/

namespace Sys2Proof.Machine

/-! Tables and memory. -/

/-- What a table holds under a key. -/
def Tbl.get? {α : Type} (t : Tbl α) (k : Nat) : Option α := List.lookup k t

/-- Insertion before the first larger key. -/
def Tbl.ins {α : Type} (k : Nat) (v : α) : Tbl α → Tbl α
  | [] => [(k, v)]
  | c :: t => if k < c.1 then (k, v) :: c :: t else c :: Tbl.ins k v t

/-- A table without a key. -/
def Tbl.erase {α : Type} (t : Tbl α) (k : Nat) : Tbl α := List.filter (fun c => c.1 != k) t

/-- A table with a key set. -/
def Tbl.set {α : Type} (t : Tbl α) (k : Nat) (v : α) : Tbl α := Tbl.ins k v (Tbl.erase t k)

/-- The byte at an address; an address that is not listed reads zero (16 R445 steps 3 and 4). -/
def memGet (m : List Host.Cell) (a : Nat) : Byte := (List.lookup a m).getD 0

/-- Memory with one byte written, in the canonical form: ascending addresses, no zero listed. -/
def memSet (m : List Host.Cell) (a : Nat) (v : Byte) : List Host.Cell :=
  if v = 0 then Tbl.erase m a else Tbl.set m a v

/-- The canonical form: strictly ascending addresses, no byte that an unlisted address reads as. -/
def memWf : List Host.Cell → Bool
  | [] => true
  | [c] => c.2 != 0
  | c :: d :: t => c.2 != 0 && decide (c.1 < d.1) && memWf (d :: t)

/-- The n bytes from an address, lowest first. -/
def memBytes (m : List Host.Cell) (a : Nat) : Nat → List Byte
  | 0 => []
  | n + 1 => memGet m a :: memBytes m (a + 1) n

/-- Memory with bytes written from an address upwards. -/
def memPut (m : List Host.Cell) (a : Nat) : List Byte → List Host.Cell
  | [] => m
  | b :: t => memPut (memSet m a b) (a + 1) t

/-- A little-endian number (00 R6). -/
def leNat : List Byte → Nat
  | [] => 0
  | b :: t => b.toNat + 256 * leNat t

/-- The n low bytes of a number, lowest first. -/
def leBytes (v : Nat) : Nat → List Byte
  | 0 => []
  | n + 1 => BitVec.ofNat 8 v :: leBytes (v / 256) n

/-- The 64-bit little-endian value of up to eight bytes. -/
def leWord (l : List Byte) : DWord := BitVec.ofNat 64 (leNat l)

/-- Consecutive runs of n elements (structural on a count). -/
def chunks {α : Type} (n : Nat) : Nat → List α → List (List α)
  | 0, _ => []
  | k + 1, l => l.take n :: chunks n k (l.drop n)

/-! Bit fields. -/

/-- Bits lo+len-1 to lo, as a number (01 Table 1-6, Bits). -/
def bits {n : Nat} (w : BitVec n) (lo len : Nat) : Nat := (w.toNat >>> lo) % 2 ^ len

/-- A word with bits lo+len-1 to lo replaced. -/
def putBits {n : Nat} (w : BitVec n) (lo len v : Nat) : BitVec n :=
  (w &&& ~~~(BitVec.ofNat n ((2 ^ len - 1) <<< lo))) ||| BitVec.ofNat n ((v % 2 ^ len) <<< lo)

/-- A word with one bit set to a value. -/
def putBit {n : Nat} (w : BitVec n) (i : Nat) (v : Bool) : BitVec n := putBits w i 1 v.toNat

/-! Home addresses (10 R301; 11 R318): a scratchpad byte by its peer form, a DRAM byte by stack and physical address. -/

/-- The home of a scratchpad byte. -/
def spHome (core off : Nat) : Nat :=
  0x010000000000 + core / 2304 * 2 ^ 32 + core % 2304 * 2 ^ 16 + off % 65536

/-- The home of a DRAM byte. -/
def dramHome (stack pa : Nat) : Nat := 2 ^ 48 + stack % 8 * 2 ^ 36 + pa % 2 ^ 36

/-! Time (12 R339; 00 R1; 16 R435): one cycle of 1.4 GHz is five sevenths of a nanosecond. -/

/-- The postmark time at a module cycle, and now, in nanoseconds. -/
def State.timeAt (s : State) (c : Nat) : Nat := s.postmark + (c - s.clockAt) * 5 / 7
def State.now (s : State) : Nat := s.timeAt s.cycle

/-- The 298 islands (00 R2): 36 of each compute die, of 8 by 8 cores; 288 to 295 the base dies, 296 the Sorting Office,
297 the host die. -/
def islandCount : Nat := 298

/-- The island of a core. -/
def islandOf (c : Nat) : Nat := c / 2304 * 36 + (c % 2304 / 48 / 8) * 6 + c % 48 / 8

/-- The frequency step of an island. -/
def State.stepOf (s : State) (i : Nat) : Nat := (List.lookup i s.mgmt.steps).getD 0

/-- The cycles of an island's clock by a module cycle, in sixteenths: step k passes 16 − k of them in each module cycle (R435). -/
def State.sixteenthsAt (s : State) (i cycle : Nat) : Nat :=
  match List.lookup i s.mgmt.counts with
  | some (c, n) => n + (cycle - c) * (16 - s.stepOf i)
  | none => cycle * 16
def State.islandSixteenths (s : State) (i : Nat) : Nat := s.sixteenthsAt i s.cycle

/-- The cycle count of a core, that of its island's clock, and of the core in turn. -/
def State.cyclesOf (s : State) (core : Nat) : Nat := s.islandSixteenths (islandOf core) / 16
def State.coreCycles (s : State) : Nat := s.cyclesOf s.cid

/-- Whether the present module cycle is the first of a cycle of a core (R1, R435). -/
def State.ticks (s : State) (core : Nat) : Bool := s.sixteenthsAt (islandOf core) (s.cycle - 1) / 16 != s.cyclesOf core

/-! Status words (01 Table 1-2). -/

def stRunning : Nat := 0
def stReady : Nat := 1
def stBlocked : Nat := 2
def stParked : Nat := 3
def stFaulted : Nat := 4

def Ctx.state (c : Ctx) : Nat := bits c.status 0 3
def Ctx.reason (c : Ctx) : Nat := bits c.status 3 4
def Ctx.pri (c : Ctx) : Nat := bits c.status 7 3
def Ctx.frm (c : Ctx) : Nat := bits c.status 10 3
def Ctx.flags (c : Ctx) : Nat := bits c.status 13 7

/-- A context in a state with a reason. -/
def Ctx.inState (c : Ctx) (st reason : Nat) : Ctx :=
  { c with status := putBits (putBits c.status 0 3 st) 3 4 reason }

/-- Flags become sticky (01 Table 1-6, SetFlags): NV, DZ, OF, UF, NX, ACC_OF, ACC_LOST from bit 0. -/
def Ctx.orFlags (c : Ctx) (m : BitVec 7) : Ctx :=
  { c with status := c.status ||| (m.setWidth 32 <<< 13) }

/-- The wait limit in nanoseconds, 0 for none (01 R13). -/
def Ctx.waitLimit (c : Ctx) : Nat :=
  bits c.status 20 8 *
    (match bits c.status 28 2 with
     | 0 => 1000
     | 1 => 32000
     | 2 => 1000000
     | _ => 32000000)

def Fibre.inState (f : Fibre) (st reason : Nat) : Fibre := { f with ctx := f.ctx.inState st reason }

/-- Whether a slot-scope queue of the fibre holds an unpopped word (01 R25). -/
def Fibre.unpopped (f : Fibre) : Bool :=
  !(f.qm[0].words.isEmpty && f.qm[1].words.isEmpty && f.qjn.isEmpty && f.qev.isEmpty && f.qtm.isEmpty) ||
    (match f.qam with
     | q :: _ => q.val.isSome
     | [] => false)

/-! The core and slot in turn. -/

/-- The slot in turn. -/
def State.me (s : State) : Slot := s.core.slots[s.sid]

/-- The fibre in the slot in turn. -/
def State.fib (s : State) : Fibre := s.me.fib

/-- Its context. -/
def State.ctx (s : State) : Ctx := s.me.fib.ctx

def State.setCore (s : State) (c : Core) : State := { s with core := c }
def State.setMe (s : State) (m : Slot) : State := { s with core := { s.core with slots := s.core.slots.set s.sid m } }
def State.setFib (s : State) (f : Fibre) : State := s.setMe { s.me with fib := f }
def State.setCtx (s : State) (c : Ctx) : State := s.setFib { s.fib with ctx := c }
def State.setPc (s : State) (a : Addr) : State := s.setCtx { s.ctx with pc := a }

/-- Another core of the package. -/
def State.coreAt (s : State) (c : Nat) : Core :=
  if c = s.cid then s.core else (s.others.get? c).getD Core.reset

/-- A change of a core of the package. -/
def State.modCore (s : State) (c : Nat) (f : Core → Core) : State :=
  if c = s.cid then { s with core := f s.core }
  else { s with others := s.others.set c (f ((s.others.get? c).getD Core.reset)) }

/-- The same module with another core and slot in turn. -/
def State.focus (s : State) (c : Nat) (sl : Fin 8) : State :=
  if c = s.cid then { s with sid := sl }
  else { s with cid := c, core := (s.others.get? c).getD Core.reset,
                others := (s.others.set s.cid s.core).erase c, sid := sl }

/-- The six ordinary slots (01 R14). -/
def ordinary : List (Fin 8) := [0, 1, 2, 3, 4, 5]

/-- The run-queue index of the fibre in a slot: 256 and 257 stand for slots 6 and 7. -/
def entOf (sl : Fin 8) (m : Slot) : Nat :=
  if sl.val = 6 then 256 else if sl.val = 7 then 257 else m.ent.getD 0

/-- The fibre in turn, by name. -/
def State.self (s : State) : Who := ⟨s.cid, entOf s.sid s.me⟩

/-- The slot that holds a fibre, if it is resident. -/
def Core.slotOf? (c : Core) (e : Nat) : Option (Fin 8) :=
  if e = 256 then some 6
  else if e = 257 then some 7
  else ordinary.find? fun i => c.slots[i].ent == some e

/-- A fibre of a core: its working copy when it is resident. -/
def Core.fibre? (c : Core) (e : Nat) : Option Fibre :=
  match c.slotOf? e with
  | some i => some c.slots[i].fib
  | none => c.runq.get? e

/-- A fibre of a core replaced where it stands. -/
def Core.setFibre (c : Core) (e : Nat) (f : Fibre) : Core :=
  match c.slotOf? e with
  | some i => { c with slots := c.slots.set i { c.slots[i] with fib := f } }
  | none => { c with runq := c.runq.set e f }

/-- A change of one fibre of the core in turn; a fibre that does not exist stays so. -/
def State.modFibre (s : State) (e : Nat) (f : Fibre → Fibre) : State :=
  match s.core.fibre? e with
  | some x => { s with core := s.core.setFibre e (f x) }
  | none => s

/-- The lowest free run-queue index (01 R12): not in the run queue and not resident. -/
def Core.freeEntry? (c : Core) : Option Nat :=
  (List.range 256).find? fun e => (c.runq.get? e).isNone && (c.slotOf? e).isNone

/-- A fibre's handle (06 R214); code in slots 6 and 7, entries 256 and 257 here, has ENTRY 0 and 1 (DESIGN CHOICE, log entry 166). -/
def whoHandle (w : Who) : DWord :=
  BitVec.ofNat 64 (w.ent % 256 + w.core % 2304 * 256 + w.core / 2304 * 2 ^ 20)

/-- The core of a handle. -/
def handleCore (h : DWord) : Nat := bits h 20 3 * 2304 + bits h 8 12

/-- Package coordinates of a core (01 R1; 11 R318): dies in two rows of four. -/
def coreX (c : Nat) : Nat := c / 2304 % 4 * 48 + c % 2304 % 48
def coreY (c : Nat) : Nat := c / 2304 / 4 * 48 + c % 2304 / 48

/-- The core at package coordinates. -/
def coreOfXY (x y : Nat) : Nat := (y / 48 * 4 + x / 48) * 2304 + (y % 48 * 48 + x % 48)

def State.die (s : State) : Nat := s.cid / 2304

/-! Jobs and counts (01 R38, R44). -/

/-- The job a fibre's traffic counts for: its own, else the core's. -/
def State.jobOf (s : State) (f : Fibre) : Option Nat :=
  match f.job with
  | some j => some j
  | none => s.core.job

/-- The job that what the fibre in turn sends counts for. -/
def State.myJob (s : State) : Option Nat := s.jobOf s.fib

/-- The job of the fibre in turn. -/
def State.job? (s : State) : Option Job := s.fib.job.bind s.jobs.get?

def State.modJob (s : State) (j : Option Nat) (f : Job → Job) : State :=
  match j.bind s.jobs.get?, j with
  | some x, some n => { s with jobs := s.jobs.set n (f x) }
  | _, _ => s

/-- CountSend for a job on a die. -/
def State.countSend (s : State) (j : Option Nat) (die : Nat) : State :=
  s.modJob j fun x => { x with sent := x.sent.set (Fin.ofNat 8 die) (x.sent[Fin.ofNat 8 die] + 1) }

/-- CountConsume for a job on a die. -/
def State.countConsume (s : State) (j : Option Nat) (die : Nat) : State :=
  s.modJob j fun x => { x with consumed := x.consumed.set (Fin.ofNat 8 die) (x.consumed[Fin.ofNat 8 die] + 1) }

/-! Packets. Destinations: a core by its package number; the servers of stack k by 20000 + k; the Sorting Office by
30000; the host die by 30001; the launcher and event table of die d by 40000 + d. -/

def serverDst (k : Nat) : Nat := 20000 + k % 8
def officeDst : Nat := 30000
def hostDst : Nat := 30001
def dieDst (d : Nat) : Nat := 40000 + d % 8

/-- The operations of a fibre whose reply is still to come: shipped requests and split-phase accesses (05 R172). -/
def Core.returning (c : Core) (e : Nat) : List Nat :=
  match c.fibre? e with
  | some f =>
    ((f.qm[0].tags.filter fun t => !t.2.2).map fun t => t.2.1) ++
      ((f.qm[1].tags.filter fun t => !t.2.2).map fun t => t.2.1) ++
      ((f.qam.filter fun t => t.val.isNone).map fun t => t.op)
  | none => []

/-- The operations of a fibre that are not yet performed: journal entries, shipped requests, split-phase accesses
(05 R166, R172). -/
def Core.outstanding (c : Core) (e : Nat) : List Nat :=
  ((c.journal.filter fun j => j.ent == e).map fun j => j.op) ++ c.returning e

/-- An endpoint entry of a core. -/
def Core.endpoint (c : Core) (e : Nat) : Endpoint := (c.endpoints.get? e).getD Endpoint.reset

/-- REC of a fibre's job: 0 off, 1 record, 2 replay (16 R441). -/
def State.recMode (s : State) (f : Fibre) : Nat :=
  match f.job.bind s.jobs.get? with
  | some j => j.recm
  | none => 0

/-- Whether the ring of a die's recorder has no room for one more entry (16 R441). -/
def State.ringFullAt (s : State) (die : Nat) : Bool :=
  let r := s.dies[Fin.ofNat 8 die].recorder
  decide (r.head - r.tail + 32 > 2 ^ r.log2)

/-- Whether an event of a fibre must wait for room in the ring of its die. -/
def State.recFull (s : State) (w : Who) : Bool :=
  match (s.coreAt w.core).fibre? w.ent with
  | some f => s.recMode f == 1 && s.ringFullAt (w.core / 2304)
  | none => false

/-- Posted accesses that travel without a journal entry (10 R303): event signals and clears, wakes. -/
def isSignal : Ev → Bool
  | .eventSignalArrival _ | .eventClearArrival _ | .wakeArrival _ _ => true
  | _ => false

/-- The same of a fibre, with its signals that have not reached their homes and the flush read behind its accesses to the
host window (10 R316). -/
def State.outstandingOf (s : State) (w : Who) : List Nat :=
  (s.coreAt w.core).outstanding w.ent ++ (((s.coreAt w.core).fibre? w.ent).bind fun f => f.flush).toList ++ (s.net.filter fun p => isSignal p.ev && p.afterWho == some w).map fun p => p.num

/-- The same of the fibre in turn. -/
def State.outstanding (s : State) : List Nat := s.outstandingOf s.self

/-- The element-wise instruction that a sequencer which runs has under way (08 R281). -/
def Core.seqRun (c : Core) (e : Fin 3) : Option ElemRun := if c.seqs[e].running then c.seqs[e].run else none

/-! Ready queues and slots (12 R350; 01 R17). -/

/-- A fibre of the core in turn becomes READY at the tail of its class; it can be dispatched from the next cycle on (12
R351). -/
def State.makeReady (s : State) (e : Nat) : State :=
  match s.core.fibre? e with
  | some f =>
    let f := { f.inState stReady 0 with stamp := s.core.stampCount + 1, readySince := s.now,
                                        readyAt := max f.readyAt (s.coreCycles + 1) }
    { s with core := { s.core.setFibre e f with stampCount := s.core.stampCount + 1 } }
  | none => s

/-- The slot in turn gives up its fibre: the working context goes to its run-queue entry, in three cycles, and the slot is free
from the next on (01 R17, Table 1-3). -/
def State.swapOut (s : State) (st reason : Nat) : State :=
  match s.me.ent with
  | some e =>
    { s with core := { s.core with runq := s.core.runq.set e { s.fib.inState st reason with readyAt := s.coreCycles + 4 },
                                   slots := s.core.slots.set s.sid { Slot.reset with ready := s.coreCycles + 4 } } }
  | none => s

/-- The instruction in turn cannot proceed: its slot stalls and nothing else changes (01 R44, Stall); q: it waits for a
word of an empty qtm (01 R36). -/
def State.stallOn (s : State) (q : Bool) : State := s.setMe { s.me with stall := some (s.me.stall.getD s.now), onQtm := q }
def State.stall (s : State) : State := s.stallOn false

/-- The slots of a core. -/
def eachSlot : List (Fin 8) := [0, 1, 2, 3, 4, 5, 6, 7]

/-- The address at which the instruction in turn is re-issued: the first hint of its group, else itself (01 R30). -/
def State.groupPc (s : State) : Addr := s.me.group.getD s.ctx.pc

/-! Translation of the DRAM window (14 R400) and the bytes behind it. -/

/-- PlaceHash (12 R347). -/
def placeHash (x : DWord) (count : Nat) : Nat :=
  let h := x ^^^ (x >>> 31)
  let h := h * 0xB5AD4ECEDA1CE2A9#64
  let h := h ^^^ (h >>> 29)
  let h := h * 0x8CB92BA72F3D8DD7#64
  let h := h ^^^ (h >>> 32)
  h.toNat * count / 2 ^ 64

/-- The directory stack of an address (R400). -/
def directoryOf (va : Nat) : Nat := placeHash (BitVec.ofNat 64 (va / 2 ^ 21)) 8

/-- Whether a page entry covers an address. -/
def Page.covers (p : Page) (va : Nat) : Bool :=
  if p.giga then p.key / 512 == va / 2 ^ 30 else p.key == va / 2 ^ 21

/-- The physical address of an address in its page. -/
def Page.pa (p : Page) (va : Nat) : Nat :=
  if p.giga then p.pfn * 2 ^ 21 + va % 2 ^ 30 else p.pfn * 2 ^ 21 + va % 2 ^ 21

/-- A 16-byte page entry (Table 14-8); an entry with V clear is none. -/
def pageOfBytes (l : List Byte) : Option Page :=
  let w := leNat l
  if w % 2 = 1 then
    some { giga := w / 2 % 2 == 1, ro := w / 4 % 2 == 1, tol := w / 8 % 2 == 1, mig := w / 16 % 2 == 1,
           home := w / 32 % 8, fill := w / 256 % 16, pfn := w / 2 ^ 16 % 2 ^ 15, key := w / 2 ^ 64 % 2 ^ 27 }
  else none

/-- The bytes of a page entry. -/
def Page.bytes (p : Page) : List Byte :=
  leBytes (1 + p.giga.toNat * 2 + p.ro.toNat * 4 + p.tol.toNat * 8 + p.mig.toNat * 16 + p.home * 32 + p.fill * 256 +
    p.pfn * 2 ^ 16 + p.key * 2 ^ 64) 16

/-- The home address of a bucket of a directory. -/
def bucketAt (d key : Nat) : Nat :=
  dramHome d (Config.directoryBase d + 64 * placeHash (BitVec.ofNat 64 key) (Config.directoryBuckets d))

/-- The four entries of a bucket with their addresses. -/
def bucketEntries (m : List Host.Cell) (b : Nat) : List (Nat × Option Page) :=
  [0, 1, 2, 3].map fun i => (b + 16 * i, pageOfBytes (memBytes m (b + 16 * i) 16))

/-- A walk of the directory of an address: the 1 GiB bucket first, then the 2 MiB bucket (R400); the entry's address
and the entry. -/
def State.walk (s : State) (va : Nat) : Option (Nat × Page) :=
  let d := directoryOf va
  let find (key : Nat) (g : Bool) : Option (Nat × Page) :=
    (bucketEntries s.mem (bucketAt d key)).findSome? fun e =>
      match e.2 with
      | some p => if p.giga = g && p.covers va then some (e.1, p) else none
      | none => none
  match find (va / 2 ^ 30 * 512) true with
  | some r => some r
  | none => find (va / 2 ^ 21) false

/-! Stacks, their servers and granules (14 R381, R383, R394 to R397). -/

def State.stack (s : State) (k : Nat) : Stack := s.hbm[Fin.ofNat 8 k]
def State.setStack (s : State) (k : Nat) (x : Stack) : State := { s with hbm := s.hbm.set (Fin.ofNat 8 k) x }

/-- The server of an address in its stack: a 256-byte block lies wholly at one, and virtual and physical addresses agree
there (R381, R401). -/
def serverOf (a : Nat) : Nat := a / 256 % 16

/-- The pseudo-channel that holds the block of a physical address (R381). -/
def pseudoChannel (pa : Nat) : Nat := 10 * serverOf pa + pa % 2 ^ 36 / 4096 % 10

/-- The cached entry of an address at its server of a stack. -/
def State.cached (s : State) (k : Nat) (va : Nat) : Option Page :=
  ((s.stack k).cache.find? fun c => c.1 == serverOf va && c.2.covers va).map fun c => c.2

/-- A server's cache with an entry, the most recent of those that 448 KiB hold (R383; DESIGN CHOICE, log entry 148: an
entry takes the 16 bytes of Table 14-8, and the oldest gives way). -/
def Stack.keepEntry (x : Stack) (va : Nat) (p : Page) : Stack :=
  let rest := x.cache.filter fun c => !(c.1 == serverOf va && c.2.covers va)
  let mine := (serverOf va, p) :: rest.filter fun c => c.1 == serverOf va
  { x with cache := mine.take 28672 ++ rest.filter fun c => c.1 != serverOf va }

/-- Whether an address lies in the DRAM window (11 Table 11-1). -/
def inDram (va : Nat) : Bool := decide (0x100000000000 ≤ va) && decide (va ≤ 0x1FFFFFFFFFFF)

/-- Translation for the machine's own reads and writes: a cached entry of any stack, else a walk. -/
def State.pageOf (s : State) (va : Nat) : Option Page :=
  if inDram va then
    match ([0, 1, 2, 3, 4, 5, 6, 7] : List Nat).findSome? fun k => s.cached k va with
    | some p => some p
    | none => (s.walk va).map fun r => r.2
  else none

/-- A counter that stops at all ones (R397). -/
def capAdd (c : BitVec 32) (n : Nat) : BitVec 32 := BitVec.ofNat 32 (min (2 ^ 32 - 1) (c.toNat + n))

/-- Bytes of an element and canonical NaN of the bank codes 1 to 6 (03 Table 3-5). -/
def canonOf (code : Nat) : Option (Nat × Nat) :=
  match code with
  | 1 => some (8, 0x7FF8000000000000)
  | 2 => some (4, 0x7FC00000)
  | 3 => some (2, 0x7FC0)
  | 4 => some (2, 0x7E00)
  | 5 => some (1, 0x7F)
  | 6 => some (1, 0x7E)
  | _ => none

/-- The fill pattern of a tolerant page: the canonical NaN of codes 1 to 6 repeated, else zero (R396). -/
def fillPattern (code : Nat) : List Byte :=
  match canonOf code with
  | some x => (List.replicate (32 / x.1) (leBytes x.2 x.1)).flatten
  | none => List.replicate 32 0

/-- The uncorrectable granules of a stack that n bytes at a physical address touch. -/
def Stack.bad (x : Stack) (pa n : Nat) : List Nat := x.poison.filter fun g => decide (g * 32 < pa + n) && decide (pa < g * 32 + 32)

/-- Memory with granules of a stack taken as a fill pattern. -/
def fillGranules (m : List Host.Cell) (k fill : Nat) (gs : List Nat) : List Host.Cell :=
  gs.foldl (fun m g => memPut m (dramHome k (g * 32)) (fillPattern fill)) m

/-- The job's count of substitutions, with bit 2 of ORF (R396; 12 R361). -/
def State.countSubs (s : State) (job : Option Nat) (n : Nat) : State :=
  if n = 0 then s else s.modJob job fun j => { j with subs := j.subs + n, orf := j.orf ||| 4 }

/-- n bytes of one page as a read of the machine's own gives them: none when a granule is uncorrectable and the page is not
tolerant (R396). -/
def State.pieceRead (s : State) (p : Page) (pa n : Nat) : Option (List Byte) :=
  let bad := (s.stack p.home).bad pa n
  if bad.isEmpty then some (memBytes s.mem (dramHome p.home pa) n)
  else if p.tol then some (memBytes (fillGranules s.mem p.home p.fill bad) (dramHome p.home pa) n)
  else none

/-- What such a read counts: the uncorrectable granules, and their substitutions (R396, R397). -/
def State.pieceNote (s : State) (p : Page) (pa n : Nat) (job : Option Nat) : State :=
  let x := s.stack p.home
  let k := (x.bad pa n).length
  if k = 0 then s
  else
    let t := s.setStack p.home { x with uecnt := capAdd x.uecnt k, subcnt := if p.tol then capAdd x.subcnt k else x.subcnt }
    if p.tol then t.countSubs job k else t

/-- Bytes written within one page by the machine itself (R395, R396): whole granules are replaced with their errors; an edge is a
read-modify-write, into the fill pattern of a bad granule of a tolerant page, while a bad granule of another page is left as it was. -/
def State.pieceWrite (s : State) (p : Page) (pa : Nat) (l : List Byte) (job : Option Nat) : State :=
  let n := l.length
  let x := s.stack p.home
  let whole (g : Nat) : Bool := decide (pa ≤ g * 32) && decide (g * 32 + 32 ≤ pa + n)
  let edge := (x.bad pa n).filter fun g => !whole g
  let edges := if n = 0 then 0 else (pa + n - 1) / 32 + 1 - pa / 32 - ((pa + n) / 32 - (pa + 31) / 32)
  let put := memPut (if p.tol then fillGranules s.mem p.home p.fill edge else s.mem) (dramHome p.home pa) l
  let mem := if p.tol then put
    else edge.foldl (fun m g => memPut m (dramHome p.home (g * 32)) (memBytes s.mem (dramHome p.home (g * 32)) 32)) put
  let kept := x.poison.filter fun g => !(x.bad pa n).contains g || (!p.tol && !whole g)
  let x := { x with poison := kept, rmwcnt := capAdd x.rmwcnt edges, uecnt := capAdd x.uecnt edge.length,
                    subcnt := if p.tol then capAdd x.subcnt edge.length else x.subcnt }
  (({ s with mem := mem }).setStack p.home x).countSubs job (if p.tol then edge.length else 0)

/-- n bytes of the DRAM window, page by page (structural on the count of pages they may touch). -/
def State.vBytesAux (s : State) : Nat → Nat → Nat → Option (List Byte)
  | 0, _, n => if n = 0 then some [] else none
  | fuel + 1, va, n =>
    match s.pageOf va with
    | none => none
    | some p =>
      let m := min n (2 ^ 21 - va % 2 ^ 21)
      match s.pieceRead p (p.pa va) m with
      | none => none
      | some l => if m = n then some l else (s.vBytesAux fuel (va + m) (n - m)).map fun r => l ++ r

/-- n bytes of the DRAM window as the machine's own reads give them: none when a page is not mapped or a granule cannot be read. -/
def State.vBytes (s : State) (va n : Nat) : Option (List Byte) := s.vBytesAux (n / 2 ^ 21 + 2) va n

/-- Bytes written to the DRAM window; none when a page is not mapped or is read-only. -/
def State.vPutAux (s : State) (job : Option Nat) : Nat → Nat → List Byte → Option State
  | 0, _, l => if l.isEmpty then some s else none
  | fuel + 1, va, l =>
    match s.pageOf va with
    | none => none
    | some p =>
      if p.ro then none
      else
        let m := min l.length (2 ^ 21 - va % 2 ^ 21)
        let s' := s.pieceWrite p (p.pa va) (l.take m) job
        if m = l.length then some s' else s'.vPutAux job fuel (va + m) (l.drop m)

def State.vPut (s : State) (va : Nat) (l : List Byte) (job : Option Nat := none) : Option State :=
  s.vPutAux job (l.length / 2 ^ 21 + 2) va l

/-- What a read of n bytes of the DRAM window counts, up to the first page it cannot read. -/
def State.vNoteAux (s : State) (job : Option Nat) : Nat → Nat → Nat → State
  | 0, _, _ => s
  | fuel + 1, va, n =>
    match s.pageOf va with
    | none => s
    | some p =>
      let m := min n (2 ^ 21 - va % 2 ^ 21)
      let t := s.pieceNote p (p.pa va) m job
      if m = n then t else if (s.pieceRead p (p.pa va) m).isNone then t else t.vNoteAux job fuel (va + m) (n - m)

def State.vNote (s : State) (va n : Nat) (job : Option Nat := none) : State := s.vNoteAux job (n / 2 ^ 21 + 2) va n

/-- Whether a read that gives no bytes meets an uncorrectable granule, where every page up to it is mapped. -/
def State.vPoisonAux (s : State) : Nat → Nat → Nat → Bool
  | 0, _, _ => false
  | fuel + 1, va, n =>
    match s.pageOf va with
    | none => false
    | some p =>
      let m := min n (2 ^ 21 - va % 2 ^ 21)
      (s.pieceRead p (p.pa va) m).isNone || (decide (m < n) && s.vPoisonAux fuel (va + m) (n - m))

def State.vPoison (s : State) (va n : Nat) : Bool := s.vPoisonAux (n / 2 ^ 21 + 2) va n

/-- n scratchpad bytes of a core, and bytes written there. -/
def State.spBytes (s : State) (core off n : Nat) : List Byte := memBytes s.mem (spHome core off) n
def State.spPut (s : State) (core off : Nat) (l : List Byte) : State := { s with mem := memPut s.mem (spHome core off) l }
def State.spWord (s : State) (core off : Nat) : DWord := leWord (s.spBytes core off 8)

/-! The end of a management command (16 R443). -/

/-- A word enters the qhs read FIFO of a core, once there is room among its four words (01 R23). -/
def Core.giveQhs (c : Core) (w : DWord) : Core :=
  if c.qhs.length < 4 then { c with qhs := c.qhs ++ [w] } else { c with qhsLate := c.qhsLate ++ [w] }

/-- STATUS is written, and the block's address goes to the submitter. -/
def State.finishCmd (s : State) (c : Cmd) (status : Nat) : State :=
  let s := (s.vPut (c.block.toNat + 1) [BitVec.ofNat 8 status]).getD s
  let s := { s with mgmt := { s.mgmt with waiting := s.mgmt.waiting.erase c } }
  match c.sub with
  | .host => { s with host := { s.host with mgmtdone := c.block.setWidth 64 } }
  | .core k => s.modCore k fun x => x.giveQhs (c.block.setWidth 64)

/-- The urgent task in slot 7 of the core in turn is over: a command that waits for it completes (16 R444). -/
def State.finishUrgent (s : State) (status : Nat) : State :=
  match s.core.urgent with
  | some (some c) => s.finishCmd c status
  | _ => s

/-! Faults (13 R366, R371). -/

/-- What a check found: code, EADDR, EIDX, CAUSE.ARG. -/
structure Flt where
  code : Nat
  eaddr : DWord
  eidx : DWord
  arg : BitVec 8
  deriving DecidableEq, Repr

def flt (code : Nat) : Flt := ⟨code, 0, 0, 0⟩
def fltAt (code : Nat) (ea : DWord) : Flt := ⟨code, ea, 0, 0⟩

/-- The faults of Table 13-1. -/
def illegalOp : Nat := 0x01
def reservedField : Nat := 0x02
def privilege : Nat := 0x03
def misalign : Nat := 0x04
def bankBounds : Nat := 0x05
def partitionBounds : Nat := 0x06
def staleHandle : Nat := 0x07
def reservedFormat : Nat := 0x08
def progressMismatch : Nat := 0x09
def waitLimitCode : Nat := 0x0A
def portOverflow : Nat := 0x0B
def counterUnderflow : Nat := 0x0C
def postedStoreRefusedCode : Nat := 0x0D
def memPoison : Nat := 0x0E
def capDenied : Nat := 0x0F
def schedCollision : Nat := 0x10
def hostAtomicUnsupported : Nat := 0x11
def intDivideZero : Nat := 0x12
def translation : Nat := 0x13
def channelState : Nat := 0x14
def queueMisuse : Nat := 0x15
def routineAbort : Nat := 0x16
def livenessForced : Nat := 0x17
def bkptCode : Nat := 0x18
def trapCode : Nat := 0x19
def security : Nat := 0x1A
def collectiveTimeout : Nat := 0x1B

/-- The fault of a read of the DRAM window that gives no bytes (14 R396, R399). -/
def State.vFault (s : State) (va n : Nat) : Nat := if s.vPoison va n then memPoison else translation

/-- The CAUSE word (09 Table 9-3). -/
def causeWord (code : Nat) (async : Bool) (arg : BitVec 8) (fibre : DWord) (slot : Nat) : DWord :=
  BitVec.ofNat 64 (code % 64 + async.toNat * 64 + arg.toNat * 2 ^ 8 + bits fibre 0 23 * 2 ^ 32 + slot % 8 * 2 ^ 56)

/-- The start address of a trap entry (09 R291). -/
def trapEntry (trapbase : DWord) (code : Nat) : Addr :=
  BitVec.ofNat 48 (bits trapbase 12 36 * 4096 + 64 * code)

/-- The work of the resident slot in turn ends, its code in a state. -/
def State.stopUpper (s : State) (st : Nat) : State :=
  s.setMe { s.me with busy := false, fib := s.fib.inState st 0, hints := Hints.reset, group := none, run := none, stall := none }

/-- The place of a trap's journal entry in journal order. -/
def Core.journalSeq (c : Core) (t : Trap) : Option Nat := (t.jent.bind fun i => c.journal.find? fun e => e.idx == i).map fun e => e.seq

/-- A trap joins a list of traps, behind them, but before the first that reports a later journal entry
(05 R158). -/
def Core.pendIn (c : Core) (t : Trap) : List Trap → List Trap
  | [] => [t]
  | x :: l =>
    match c.journalSeq t, c.journalSeq x with
    | some a, some b => if a < b then t :: x :: l else x :: c.pendIn t l
    | _, _ => x :: c.pendIn t l

/-- A trap record joins the core's queue (13 R368). -/
def State.queueTrap (s : State) (t : Trap) : State := { s with core := { s.core with traps := s.core.pendIn t s.core.traps } }

/-- A fault of slot 7 (13 R371): the trap registers without a frame and the code 0x00 entry; inside that handler,
every slot of the core halts and the controller is told. -/
def State.slot7Fault (s : State) (f : Flt) (epc : Addr) (epg : DWord) : State :=
  let s := s.finishUrgent f.code
  let c := s.core
  let c := { c with cause := causeWord f.code false f.arg 0 7, epc := epc.setWidth 64, epg := epg, eaddr := f.eaddr,
                    eidx := f.eidx }
  if c.zero then
    { s with core := { c with halted := true },
             mgmt := { s.mgmt with reports := s.mgmt.reports ++ [(s.cid, f.code)] } }
  else
    let fib := { s.fib with ctx := { s.ctx with pc := trapEntry c.trapbase 0, pg := 0 } }
    { s with core := { c with zero := true, urgent := none,
                              slots := c.slots.set 7 { s.me with fib := fib, busy := true, hints := Hints.reset, group := none,
                                                                 run := none, stall := none, lat := 1, ready := s.coreCycles + 1 } } }

/-- A precise fault against the fibre in turn (13 R366), with the address EPC names and the progress word EPG
holds. In slots 0 to 5 the fibre is FAULTED, leaves its slot, with the unpopped words of its slot-scope queues (DESIGN
CHOICE, log entry 118), and its trap waits for slot 7; slot 7 is R371; the work of slot 6 ends (R371, last sentence),
but its WAIT_LIMIT is a trap that stops the handler FAULTED (01 R36). -/
def State.faultAt (s : State) (f : Flt) (epc : Addr) (epg : DWord) : State :=
  if s.sid.val = 7 then s.slot7Fault f epc epg
  else
    let upper := s.sid.val = 6
    let e := if upper then 256 else s.me.ent.getD 0
    let t : Trap := { code := f.code, async := false, arg := f.arg, ent := some e, slot := s.sid.val, epc := epc,
                      epg := epg, eaddr := f.eaddr, eidx := f.eidx, jent := none, chan := false, wdrawn := false,
                      lost := false, extra := [] }
    let u := s.setFib { s.fib with ctx := { s.ctx with pc := epc, pg := epg }, wait := none }
    if upper then
      if f.code = waitLimitCode then (u.queueTrap t).stopUpper stFaulted else s.stopUpper stRunning
    else (u.queueTrap t).swapOut stFaulted 0

/-- A precise fault of the instruction in turn: EPC is the first address of its group; EPG is 0 but for
PROGRESS_MISMATCH (01 R29). -/
def State.raise (s : State) (f : Flt) : State :=
  s.faultAt f s.groupPc (if f.code = progressMismatch then s.ctx.pg else 0)

/-- A fault that an element-wise instruction meets as it issues: when it is issued again from pg, pg stands and EIDX names
its next element (01 R28; 13 R366). -/
def State.raiseMacro (s : State) (f : Flt) : State :=
  if s.ctx.pg = 0 ∨ f.code = progressMismatch then s.raise f
  else s.faultAt { f with eidx := BitVec.ofNat 64 (bits s.ctx.pg 0 48) } s.groupPc s.ctx.pg

/-- A fault of element k of an element-wise instruction (01 R28): the progress word names it. -/
def State.raiseElem (s : State) (f : Flt) (k : Nat) : State :=
  let pg : DWord := BitVec.ofNat 64 (bits s.ctx.pc 0 16 * 2 ^ 48 + k)
  s.faultAt { f with eidx := BitVec.ofNat 64 k } s.groupPc pg

/-- Whether the core queue of traps is full: it has 16 entries (13 R368). -/
def Core.trapsFull (c : Core) : Bool := decide ((c.traps.filter fun t => t.ent.isNone).length ≥ 16)

/-- A trap of a core, without a fibre (13 Table 13-1, C): one that finds the core queue full leaves LOST (R368). -/
def State.coreTrap (s : State) (code : Nat) (eaddr eidx : DWord) (extra : List DWord) : State :=
  if s.core.trapsFull = true ∧ (code = schedCollision ∨ code = livenessForced) then
    { s with core := { s.core with lost := true } }
  else
    s.queueTrap { code := code, async := true, arg := 0, ent := none, slot := 0, epc := 0, epg := 0, eaddr := eaddr,
                  eidx := eidx, jent := none, chan := false, wdrawn := false, lost := false, extra := extra }

/-- A word of a FIFO of the core in turn with bad parity, which no fibre's instruction read, is told to slot 7 (16 R438, R439; log entry
91). -/
def State.parityTrap (s : State) (field : Nat) : State :=
  s.queueTrap { code := memPoison, async := true, arg := 10, ent := none, slot := 0, epc := 0, epg := 0, eaddr := BitVec.ofNat 64 field,
                eidx := 0, jent := none, chan := false, wdrawn := false, lost := false, extra := [] }

/-- The head word of FIFO k of the core in turn is read: whether its parity is bad, and the state with the error gone. -/
def State.readFifo (s : State) (k : Nat) : Bool × State :=
  (s.core.fifoPoison.contains k, { s with core := { s.core with fifoPoison := s.core.fifoPoison.filter fun x => x != k } })

/-! Fetching (11 R320) and the loop step (04 R141). -/

/-- The word of a held line of a core's fetch buffer. -/
def lineWord (lines : List (Nat × List Byte)) (a : Nat) : Option Word :=
  (List.lookup (a / 64) lines).map fun l => BitVec.ofNat 32 (leNat ((l.drop (a % 64)).take 4))

/-- The lines the slot in turn finds its words in: the one it issues from and the fetch buffer (11 R320). -/
def State.heldLines (s : State) : List (Nat × List Byte) :=
  match s.me.line with
  | some l => l :: s.core.lines
  | none => s.core.lines

/-- Whether the slot may fetch at an address: slots 0 to 6 within their job's code image (04 R138). -/
def State.mayFetch (s : State) (a : Nat) : Bool :=
  if s.sid.val = 7 then true
  else match s.job? with
    | some j => decide (j.codebase ≤ a) && decide (a + 4 ≤ j.codebase + j.codelen)
    | none => false

/-- A word of a LOOP's group as a reader of words gives it; a word that cannot be code counts as no hint. -/
def State.groupWord (s : State) (rd : Nat → Option Word) (a : Nat) : Option Word :=
  if s.mayFetch a && inDram a then rd a else some 0

/-- An instruction word: from the fetch buffer, else as the fill of its line would bring it (log entry 119). -/
def State.codeWord (s : State) (a : Nat) : Option Word :=
  match lineWord s.heldLines a with
  | some w => some w
  | none => (s.vBytes a 4).map fun l => BitVec.ofNat 32 (leNat l)

/-- Whether a word has the hint major. -/
def isHintWord (w : Word) : Bool := bits w 26 6 == 0x3F

/-- The HIMM payload in the run of hint words that stands immediately before an address (structural on the count of words
below it), or the address of a word the reader does not give. Of several HIMM words the nearest is taken (DESIGN CHOICE,
log entry 120). -/
def himmBefore (rd : Nat → Option Word) : Nat → Nat → Except Nat (Option (BitVec 22))
  | 0, _ => .ok none
  | n + 1, a =>
    match rd (a - 4) with
    | some w =>
      if isHintWord w then
        if bits w 22 4 = 0 then .ok (some (BitVec.ofNat 22 w.toNat)) else himmBefore rd n (a - 4)
      else .ok none
    | none => .error (a - 4)

/-- LEND of the loop whose LOOP word stands at an address, from a reader of words (04 R139, R141). A word there that is
no LOOP counts by its low 16 bits (DESIGN CHOICE, log entry 119). -/
def lendOf (rd : Nat → Option Word) (a : Nat) : Except Nat Addr :=
  match rd a with
  | none => .error a
  | some w =>
    match himmBefore rd (a / 4) a with
    | .ok (some p) => .ok (BitVec.ofNat 48 a + 4 * (p ++ w.setWidth 16 : BitVec 38).signExtend 48)
    | .ok none => .ok (BitVec.ofNat 48 a + 4 * (w.setWidth 16).signExtend 48)
    | .error m => .error m

/-- LEND of the loop whose LOOP word stands at an address: as the slot has read it, else read now; none where no code can
stand (DESIGN CHOICE, log entry 119). -/
def State.loopEnd (s : State) (a : Nat) : Option Addr :=
  match s.me.lend.filter fun x => x.1 == a with
  | some x => x.2
  | none =>
    if s.mayFetch a && inDram a then (lendOf (s.groupWord s.codeWord) a).toOption else none

/-- A context whose non-hint word at an address has completed and continues in sequence (04 R141). -/
def State.stepCtx (s : State) (c : Ctx) (a : Addr) : Ctx :=
  let p7 := c.p[7]
  if p7.getLsbD 63 && s.loopEnd (bits p7 0 46 * 4) == some a then
    if bits p7 46 17 > 0 then
      { c with p := c.p.set 7 (p7 - BitVec.ofNat 64 (2 ^ 46)), pc := BitVec.ofNat 48 (bits p7 0 46 * 4 + 4) }
    else { c with p := c.p.set 7 0, pc := a + 4 }
  else { c with pc := a + 4 }

/-- An instruction of the fibre ends with the liveness point of its group, if it has one: the point is recorded and the
liveness count restarts (09 R299). -/
def Fibre.reach (f : Fibre) (l : Option LivePoint) (cycles : Nat) : Fibre :=
  match l with
  | some l => { f with live := some l, liveSince := cycles, atPoint := true }
  | none => { f with atPoint := false }

/-- The bookkeeping of a completed instruction but for its PC: the slot is free of hints and stall, and for its next
instruction when the cycles of this one have passed (04 R117); a liveness point of its group is recorded (09 R299). -/
def State.complete (s : State) : State :=
  let m := s.me
  s.setMe { m with fib := m.fib.reach m.hints.live s.coreCycles, hints := Hints.reset, group := none, run := none, stall := none, spin := none,
                   lat := 1, ready := s.coreCycles + m.lat }

/-- The instruction in turn completes and continues in sequence: PC + 4 or the loop step. -/
def State.advance (s : State) : State :=
  let s := s.complete
  s.setCtx (s.stepCtx s.ctx s.ctx.pc)

/-- The instruction in turn completes with a transfer to an address. -/
def State.jumpTo (s : State) (a : Addr) : State :=
  let s := s.complete
  s.setPc a

/-! Taking a trap (13 R364, R365, R368) and returning from it (13 R369; 09 R292). -/

/-- The 96 bytes of a context (01 Table 1-1). -/
def Ctx.bytes (c : Ctx) : List Byte :=
  (c.p.toList.flatMap fun w => leBytes w.toNat 8) ++ leBytes c.pg.toNat 8 ++ leBytes c.id.toNat 8 ++
    leBytes c.pc.toNat 6 ++ leBytes c.dl.toNat 6 ++ leBytes c.status.toNat 4

/-- FA of a core (13 R362). -/
def State.frameAddr (s : State) : Nat := bits s.core.trapbase 12 36 * 4096 + 4096 + 256 * s.cid

/-- The trap frame of Table 13-2, from the trapped fibre, the journal entry and the trap registers of a core. -/
def frameBytes (c : Core) (t : Trap) (f : Option Fibre) : List Byte :=
  let ctx := match f with
    | some f => f.ctx.bytes
    | none => List.replicate 96 0
  let regs := [c.cause, c.epc, c.epg, c.eaddr, c.eidx, c.ejrn].flatMap fun w => leBytes w.toNat 8
  let j := t.jent.bind fun i => c.journal.find? fun e => e.idx == i
  let jb := match j with
    | some e =>
      leBytes e.addr.toNat 8 ++ [BitVec.ofNat 8 (e.size.code.toNat + e.atomic.toNat * 4), BitVec.ofNat 8 (e.cause.getD 0)] ++
        List.replicate 6 0 ++ leBytes e.data.toNat 8
    | none => List.replicate 24 0
  ctx ++ regs ++ jb ++
    [BitVec.ofNat 8 (f.isSome.toNat + t.chan.toNat * 2 + t.lost.toNat * 4 + t.wdrawn.toNat * 8), 0, 0, 0] ++
    leBytes c.trapSeq.toNat 4 ++ List.replicate 80 0

/-- A trap as it is delivered: one without a fibre says whether core traps were lost before it (R368). -/
def State.lostBefore (s : State) (t : Trap) : Trap := { t with lost := t.ent.isNone && s.core.lost }

/-- The core with the trap registers of a delivery; the sequence number counts it among those of the core. -/
def State.trapCore (s : State) (t : Trap) : Core :=
  let handle := match t.ent with
    | some e => whoHandle ⟨s.cid, e⟩
    | none => if t.code = livenessForced then t.extra.headD 0 else 0
  let ej : DWord := match t.jent with
    | some j => BitVec.ofNat 64 (j + 32)
    | none => 0
  { s.core with cause := causeWord t.code t.async t.arg handle t.slot, epc := t.epc.setWidth 64, epg := t.epg,
                eaddr := t.eaddr, eidx := t.eidx, ejrn := ej, lost := s.core.lost && t.ent.isSome,
                trapSeq := s.core.trapSeq + 1 }

/-- The frame of a delivery. -/
def State.trapFrame (s : State) (t : Trap) : List Byte :=
  frameBytes (s.trapCore t) (s.lostBefore t) (t.ent.bind s.core.fibre?)

/-- Delivery of a trap to slot 7 but for its frame: the trap registers, and, when a handler runs, slot 7 at the entry of the
code. -/
def State.takeTrap (s : State) (t : Trap) (run : Bool) : State :=
  let c := s.trapCore t
  if run then
    let m := c.slots[(7 : Fin 8)]
    let q := if t.code = portOverflow then m.fib.qjn ++ (t.extra.zip [false, true]) else m.fib.qjn
    let fib := { m.fib with ctx := { m.fib.ctx with pc := trapEntry c.trapbase t.code, pg := 0 }, qjn := q }
    { s with core := { c with handling := some (s.lostBefore t),
                              slots := c.slots.set 7 { m with fib := fib, busy := true, hints := Hints.reset, group := none,
                                                              run := none, stall := none, lat := 1, ready := s.coreCycles + 1 } } }
  else { s with core := c }

/-- Slot 7 becomes idle: the handler or urgent task ends, and the matrix unit is released (08 R266). -/
def State.endSlot7 (s : State) : State :=
  let s := s.finishUrgent 0
  let m := s.core.slots[(7 : Fin 8)]
  let slots := s.core.slots.set 7 { m with busy := false, hints := Hints.reset, group := none, run := none, stall := none }
  { s with core := { s.core with slots := slots, handling := none, zero := false, urgent := none } }

/-- The context ERET takes from the frame's bytes (13 R369): the RW fields, PC from EPC, pg from EPG; none when a
status field holds a reserved code. -/
def ctxOfFrame (l : List Byte) (old : Ctx) (epc epg : DWord) : Option Ctx :=
  let p := chunks 8 8 l
  let st : Word := BitVec.ofNat 32 (leNat ((l.drop 92).take 4))
  if bits st 0 3 > 4 ∨ bits st 10 3 > 4 ∨ bits st 3 4 > 8 then none
  else
    let keep : Word := old.status &&& 0xC000007F#32
    let take : Word := st &&& 0x3FFFFF80#32
    some { old with p := Vector.ofFn fun i => leWord (p.getD i.val []), pg := epg,
                    pc := epc.setWidth 48, dl := BitVec.ofNat 48 (leNat ((l.drop 86).take 6)), status := keep ||| take }

/-- The run-queue index of the fibre that uses an endpoint entry; 999, no index, for an entry that no fibre uses. -/
def Endpoint.ownerIx (x : Endpoint) : Nat := if x.orphan then 999 else x.owner.toNat

/-- Entries whose OWNER is e name no fibre until the supervisor binds them again (09 R292; 06 R209; 07 R238). -/
def Core.disown (c : Core) (e : Nat) : Core :=
  { c with endpoints := c.endpoints.map fun p => if p.2.owner.toNat = e then (p.1, { p.2 with orphan := true }) else p }

/-- A fibre of the core in turn ceases to exist (09 R292). -/
def State.removeFibre (s : State) (e : Nat) : State :=
  let c := s.core.disown e
  { s with core := { c with runq := c.runq.erase e, traps := c.traps.filter fun t => t.ent != some e } }

/-- A fibre whose trap has been handled goes on: READY, or RUNNING for the code of slot 6 (09 R292). -/
def State.resumeFibre (s : State) (e : Nat) : State :=
  if e = 256 then
    let m := s.core.slots[(6 : Fin 8)]
    { s with core := { s.core with slots := s.core.slots.set 6 { m with busy := true, fib := m.fib.inState stRunning 0 } } }
  else s.makeReady e

/-- A trap that waits against fibre e as it is delivered: it names the context that the fibre has (09 R292; 13 R368). -/
def Trap.renew (t : Trap) (e : Nat) (c : Ctx) : Trap :=
  { t with ent := some e, epc := c.pc, epg := if t.chan then t.epg else c.pg }

/-- A trapped fibre takes its context back and becomes READY; the code of slot 6 goes on there. When another trap waits
against it, the fibre stays FAULTED and that trap is delivered next (13 R368), a channel's only where pg is 0 (R370). -/
def State.restoreFibre (s : State) (e : Nat) (c : Ctx) : State :=
  let put (l : List Trap) : State := s.modFibre e fun f => { f with ctx := c, wait := none, pend := l }
  let l := match s.core.fibre? e with
    | some f => f.pend
    | none => []
  match l with
  | t :: rest =>
    if t.chan ∧ c.pg ≠ 0 then (put l).resumeFibre e
    else
      let u := put rest
      { u with core := { u.core with traps := t.renew e c :: u.core.traps } }
  | [] => (put l).resumeFibre e

/-- ERET in a trap handler (13 R369; 09 R292): removal, restoration from the frame, or, for a trap without a
fibre, only the end of the handler. -/
def State.returnFromTrap (s : State) (t : Trap) : State :=
  match t.ent with
  | none => s.endSlot7
  | some e =>
    if s.core.cause.getLsbD 63 then (s.removeFibre e).endSlot7
    else
      let s := s.vNote s.frameAddr 256
      match s.vBytes s.frameAddr 256, s.core.fibre? e with
      | some l, some f =>
        match ctxOfFrame l f.ctx s.core.epc s.core.epg with
        | some c => (s.endSlot7).restoreFibre e c
        | none => s.raise (flt reservedField)
      | none, some _ =>
        let code := s.vFault s.frameAddr 256
        s.raise { code := code, eaddr := BitVec.ofNat 64 s.frameAddr, eidx := 0, arg := if code = memPoison then 8 else 0 }
      | _, none => s.endSlot7

end Sys2Proof.Machine
end

