-- ==== Sys2Proof/Machine/Operands.lean ====
section
/-! DEFINITION. Operands: reading, popping, pushing and writing the scalar registers (01 R18 to R26), the checks every
instruction makes before its own (02 R51 steps 3 and 4; 01 R24, R29), immediates (02 R47, R66), and the end of a
waited operation. -/

namespace Sys2Proof.Machine

/-- Whether a register is a queue register (01 Table 1-4). -/
def isQueue : Reg → Bool
  | .qm _ | .qmx | .qvx | .qcp | .qac | .qam | .qsc | .qjn | .qev | .qhs | .qtm | .qs _ => true
  | _ => false

/-- Whether a register may not be written: Table 1-4 marks the direction with a dash, or leaves it to SHIP, the
split-phase accesses and the notification forms. -/
def noPush : Reg → Bool
  | .qm _ | .qam | .qjn | .qev => true
  | _ => false

/-! Reading. -/

/-- The value of a register and the state after the read: a queue register pops its head (R23); none when its queue
is empty. -/
def State.popReg (s : State) (r : Reg) : Option (DWord × State) :=
  match r with
  | .p i => some (s.ctx.p[i], s)
  | .l i => some (if i = 0 then s.me.l0 else s.me.l1, s)
  | .z => some (0, s)
  | .id => some (s.ctx.id, s)
  | .s i => some (s.core.s[i], s)
  | .qm i =>
    match s.fib.qm[i].words with
    | [] => none
    | q :: t =>
      let tags := match q.frees with
        | some n => s.fib.qm[i].tags.filter fun x => x.1 != n
        | none => s.fib.qm[i].tags
      some (q.w, s.setFib { s.fib with qm := s.fib.qm.set i ⟨tags, t⟩ })
  | .qam =>
    match s.fib.qam with
    | [] => none
    | q :: t => q.val.map fun v => (v, s.setFib { s.fib with qam := t })
  | .qjn =>
    match s.fib.qjn with
    | [] => none
    | (v, false) :: t => some (v, s.setFib { s.fib with qjn := t })
    | (v, true) :: t =>
      let j := s.core.latch.bind fun m => m.job
      some (v, ({ (s.setFib { s.fib with qjn := t }) with
                  core := { (s.setFib { s.fib with qjn := t }).core with latch := none } }).countConsume j s.die)
  | .qev =>
    match s.fib.qev with
    | [] => none
    | v :: t => some (v, s.setFib { s.fib with qev := t })
  | .qtm =>
    match s.fib.qtm with
    | [] => none
    | v :: t => some (v, s.setFib { s.fib with qtm := t })
  | .qmx =>
    match s.core.qmx.res with
    | [] => none
    | v :: t => some (v, { s with core := { s.core with qmx := { s.core.qmx with res := t } } })
  | .qvx =>
    match s.core.qvx.res with
    | [] => none
    | v :: t => some (v, { s with core := { s.core with qvx := { s.core.qvx with res := t } } })
  | .qcp =>
    match s.core.qcp.res with
    | [] => none
    | v :: t => some (v, { s with core := { s.core with qcp := { s.core.qcp with res := t } } })
  | .qac =>
    match s.core.qac.res with
    | [] => none
    | v :: t => some (v, { s with core := { s.core with qac := { s.core.qac with res := t } } })
  | .qsc =>
    match s.core.qsc with
    | [] => none
    | v :: t => some (v, { s with core := { s.core with qsc := t } })
  | .qhs =>
    match s.core.qhs with
    | [] => none
    | v :: t => some (v, { s with core := { s.core with qhs := t ++ s.core.qhsLate.take 1, qhsLate := s.core.qhsLate.drop 1 } })
  | .qs i =>
    match s.core.qs[i] with
    | [] => none
    | v :: t => some (v, { s with core := { s.core with qs := s.core.qs.set i t } })

/-- The values of several registers in field order (R24); none when a queue is empty. -/
def State.popAll (s : State) : List Reg → Option (List DWord × State)
  | [] => some ([], s)
  | r :: t =>
    match s.popReg r with
    | none => none
    | some (v, s') =>
      match s'.popAll t with
      | none => none
      | some (vs, s'') => some (v :: vs, s'')

/-! The destinations outside the slot: host mailboxes, the scale keeper, timers. -/

def State.box (s : State) (m : Nat) : Mailbox := (s.host.boxes.get? m).getD Mailbox.reset
def State.setBox (s : State) (m : Nat) (b : Mailbox) : State := { s with host := { s.host with boxes := s.host.boxes.set m b } }

/-- A unit of words entering an outbound FIFO (15 R422, R423): kind, words; the interrupt when it was empty. -/
def State.outPush (s : State) (m kind : Nat) (words : List (DWord × Body)) : State :=
  let b := s.box m
  let unit := match words with
    | [] => []
    | w :: t => (w.1, kind, words.length, w.2) :: t.map fun x => (x.1, kind, words.length, x.2)
  let irq := b.outq.isEmpty && b.irqen && !unit.isEmpty
  let s := s.setBox m { b with outq := b.outq ++ unit }
  if irq then { s with host := { s.host with msix := s.host.msix ++ [m] }, outside := s.outside ++ [.msix m] } else s

/-- The mailbox a qhs word of the slot in turn goes to (15 R423). -/
def State.qhsBox (s : State) : Nat :=
  if s.sid.val = 7 then 0
  else match s.core.job.bind s.jobs.get? with
    | some j => j.ownerq
    | none => 0

/-- A word pushed to qhs (15 R423, 16 R443): a command from slot 7, else a unit of two words. -/
def State.pushHost (s : State) (w : DWord) : State :=
  if s.sid.val = 7 ∧ w.getLsbD 63 = true then
    { s with mgmt := { s.mgmt with cmds := s.mgmt.cmds ++ [⟨w.setWidth 48, .core s.cid⟩] } }
  else
    let src : DWord := whoHandle ⟨s.cid, 0⟩ ||| BitVec.ofNat 64 (s.sid.val * 2 ^ 24)
    s.outPush s.qhsBox 1 [(src, .word src), (w, .word w)]

/-- The keeper core of a core's 4x4 cluster (00 R4). -/
def keeperOf (c : Nat) : Nat := coreOfXY (coreX c / 4 * 4) (coreY c / 4 * 4)

/-- Whether a core lies in the partition rectangle of another (11 R322). -/
def Core.inPart1 (c : Core) (target : Nat) : Bool :=
  let x0 := bits c.part1 0 8
  let y0 := bits c.part1 8 8
  decide (x0 ≤ coreX target) && decide (coreX target ≤ x0 + bits c.part1 16 8) &&
    decide (y0 ≤ coreY target) && decide (coreY target ≤ y0 + bits c.part1 24 8)

/-- The cores whose qsc a word reaches (08 R270): the keeper's, or, from the keeper, the other cores of its cluster
in the partition. -/
def State.qscTargets (s : State) : List Nat :=
  let k := keeperOf s.cid
  if s.cid = k then
    ((List.range 16).map fun i => coreOfXY (coreX k + i % 4) (coreY k + i / 4)).filter fun c => c != k && s.core.inPart1 c
  else [k]

/-- A word pushed to qsc enters every target's read FIFO. -/
def State.pushScale (s : State) (w : DWord) : State :=
  s.qscTargets.foldl (fun t c => t.modCore c fun x => { x with qsc := x.qsc ++ [w] }) s

/-- A write to qtm that passed its checks (01 R26). -/
def State.setTimer (s : State) (t : DWord) : State :=
  if t = 0 then s.setFib { s.fib with timers := [], expired := [], qtm := [] }
  else s.setFib { s.fib with timers := s.fib.timers ++ [⟨s.now + t.toNat, s.fib.armCount % 65536⟩],
                             armCount := s.fib.armCount + 1 }

/-! Writing. -/

/-- Whether a destination can take a value now. -/
inductive Dst where
  | ok
  | stall
  | fault (f : Flt)
  deriving DecidableEq, Repr

/-- Whether a word is a command of slot 7 and not one for the host (16 R443). -/
def isCommand (r : Reg) (v : DWord) : Bool := r == .qhs && v.getLsbD 63

/-- The words under way to a queue register of a core that enter it by a count of its cycles (04 R117). -/
def Core.pushes (c : Core) (r : Reg) (due : Nat) : Nat :=
  (c.late.filter fun w => match w.what with
    | .push q v => q == r && !isCommand q v && decide (w.due ≤ due)
    | _ => false).length

/-- Whether n words more have room in a queue register, beside k of other instructions (01 Table 1-4; 15 R422). -/
def State.room (s : State) (r : Reg) (k : Nat) : Bool :=
  match r with
  | .qmx => decide (s.core.qmx.cmds.length + k < 4)
  | .qvx => decide (s.core.qvx.cmds.length + k < 4)
  | .qcp => decide (s.core.qcp.cmds.length + k < 4)
  | .qac => decide (s.core.qac.cmds.length + k < 4)
  | .qs i => decide (s.core.qs[i].length + k < 8)
  | .qsc => s.qscTargets.all fun c => decide ((s.coreAt c).qsc.length + k < 4)
  | .qhs => decide ((s.box s.qhsBox).outq.length + 2 * k + 2 ≤ 256)
  | _ => true

/-- The room that an instruction which issues now finds: the words that enter at the end of this cycle stand in the queue. -/
def State.hasRoom (s : State) (r : Reg) : Bool := s.room r (s.core.pushes r (s.coreCycles + 1))

/-- A queue that has room, or stalls. -/
def State.roomFor (s : State) (r : Reg) : Dst := if s.hasRoom r then .ok else .stall

/-- The checks of a destination on the value written: room in the queue (R23), the range of a timer (R26), the
command bit of qhs (16 R443). -/
def State.dstCheck (s : State) (d : Reg) (v : DWord) : Dst :=
  match d with
  | .qmx | .qvx | .qcp | .qac | .qs _ | .qsc => s.roomFor d
  | .qtm =>
    if v.toNat ≥ 2 ^ 40 then .fault (flt reservedField)
    else if v ≠ 0 ∧ s.fib.timers.length + s.fib.expired.length + s.fib.qtm.length ≥ 4 then .stall
    else .ok
  | .qhs =>
    if v.getLsbD 63 = true then (if s.sid.val = 7 then .ok else .fault (flt privilege))
    else s.roomFor d
  | _ => .ok

/-- The last-result file takes a result (01 R19). -/
def State.setLast (s : State) (v : DWord) : State := s.setMe { s.me with l1 := s.me.l0, l0 := v }

/-- What the slot in turn writes for others to see is under way until the cycles of its instruction have passed (04 R117; 01
R20). A fibre that is not resident writes as slot 0 (log entry 147). -/
def State.later (s : State) (w : LateWrite) : State :=
  { s with core := { s.core with late := s.core.late ++ [⟨s.coreCycles + s.me.lat, s.sid.val, w⟩] } }

/-- A word enters a queue register of the core, pushed by the slot in turn (R23). -/
def State.pushQueue (s : State) (d : Reg) (v : DWord) : State :=
  match d with
  | .qmx => { s with core := { s.core with qmx := { s.core.qmx with cmds := s.core.qmx.cmds ++ [(v, s.sid.val)] } } }
  | .qvx => { s with core := { s.core with qvx := { s.core.qvx with cmds := s.core.qvx.cmds ++ [(v, s.sid.val)] } } }
  | .qcp => { s with core := { s.core with qcp := { s.core.qcp with cmds := s.core.qcp.cmds ++ [(v, s.sid.val)] } } }
  | .qac => { s with core := { s.core with qac := { s.core.qac with cmds := s.core.qac.cmds ++ [(v, s.sid.val)] } } }
  | .qs i => { s with core := { s.core with qs := s.core.qs.set i (s.core.qs[i] ++ [v]) } }
  | .qsc => s.pushScale v
  | .qhs => s.pushHost v
  | _ => s

/-- A result written to a register that can take it (R19, R20, R23): in a register of the core it shows, and into a queue of the
core it goes, when the cycles of the instruction have passed (04 R117); a timer counts from the issue (R26). -/
def State.writeReg (s : State) (d : Reg) (v : DWord) : State :=
  match d with
  | .p i => (s.setCtx { s.ctx with p := s.ctx.p.set i v }).setLast v
  | .s i => (s.later (.reg i v)).setLast v
  | .z => s.setLast v
  | .qmx | .qvx | .qcp | .qac | .qs _ | .qsc | .qhs => s.later (.push d v)
  | .qtm => s.setTimer v
  | _ => s

/-- A pair written at a register, low word first (05 R168). -/
def State.writePair (s : State) (d : Reg) (lo hi : DWord) : State :=
  match d with
  | .p i => (s.writeReg d lo).writeReg (.p (i + 1)) hi
  | .s i => (s.writeReg d lo).writeReg (.s (i + 1)) hi
  | _ => (s.writeReg d lo).writeReg .z hi

/-- The second register of a pair (02 R49). -/
def pairNext : Reg → Reg
  | .p i => .p (i + 1)
  | .s i => .s (i + 1)
  | r => r

/-! Issue: the checks every instruction makes first. -/

/-- What an instruction's fields ask of the gate: sources in field order, destination, privilege, whether its work
is counted in elements (01 R27). -/
structure Opnds where
  reads : List Reg
  dst : Option Reg
  sup : Bool
  elems : Bool
  deriving DecidableEq, Repr

/-- The outcome of the gate: a fault, a stall, or the source values with the state after the pops. -/
inductive Gate where
  | fault (f : Flt)
  | stall
  | go (vals : List DWord) (s : State)
  deriving DecidableEq, Repr

/-- Whether a gate stalls. -/
def Gate.isStall : Gate → Bool
  | .stall => true
  | _ => false

/-- Whether a queue register belongs to the core and not to the fibre in the slot (01 Table 1-4). -/
def coreWide : Reg → Bool
  | .qmx | .qvx | .qcp | .qac | .qsc | .qhs | .qs _ => true
  | _ => false

/-- Whether a bad word is kept for the register r of the fibre in turn. -/
def State.badKey (s : State) (r : Reg) (p : Nat × Nat) : Bool := p.2 == r.code.toNat && (coreWide r || p.1 == s.self.ent)

/-- Whether the word that r would pop has bad parity (16 R438, R439). -/
def State.badWord (s : State) (r : Reg) : Bool :=
  isQueue r && (s.core.queuePoison.any (s.badKey r)) && (s.popReg r).isSome

/-- The fault of the fields before any operand is read: privilege and id as destination (R51 step 3), pg not zero
(R29), queue direction and queue sources of element-wise instructions (R23, R27), a source word with bad parity
(16 R439). -/
def State.gateFault (s : State) (o : Opnds) : Option Flt :=
  if o.sup = true ∧ s.sid.val ≠ 7 then some (flt privilege)
  else if o.dst = some .id then some (flt privilege)
  else if s.ctx.pg ≠ 0 ∧ o.elems = false then some (flt progressMismatch)
  else
    match o.dst.filter noPush with
    | some d => some (fltAt queueMisuse (d.code.setWidth 64))
    | none =>
      match (if o.elems then o.reads.find? isQueue else none) with
      | some r => some (fltAt queueMisuse (r.code.setWidth 64))
      | none =>
        match o.reads.find? s.badWord with
        | some r => some { code := memPoison, eaddr := r.code.setWidth 64, eidx := 0, arg := 10 }
        | none => none

/-- The first of several registers whose queue has no word left for it. -/
def State.emptyRead (s : State) : List Reg → Option Reg
  | [] => none
  | r :: t =>
    match s.popReg r with
    | none => some r
    | some (_, s') => s'.emptyRead t

/-- The slot stalls for a word of an empty queue register. -/
def State.stallRead (s : State) (reads : List Reg) : State := s.stallOn (s.emptyRead reads == some .qtm)

/-- The gate of an instruction. -/
def State.gate (s : State) (o : Opnds) : Gate :=
  match s.gateFault o with
  | some f => .fault f
  | none =>
    match s.popAll o.reads with
    | none => .stall
    | some (vs, s') => .go vs s'

/-- A fault of an instruction as it issues. -/
def State.raiseOf (s : State) (o : Opnds) (f : Flt) : State := if o.elems then s.raiseMacro f else s.raise f

/-- A fault of the fields is raised before any operand is read; a word with bad parity is consumed (16 R439). -/
def State.gateRaise (s : State) (o : Opnds) (f : Flt) : State :=
  if f.code = memPoison then
    match (o.reads.find? s.badWord).bind fun r => (s.popReg r).map fun x => (r, x.2) with
    | some (r, t) => ({ t with core := { t.core with queuePoison := t.core.queuePoison.filter fun p => !s.badKey r p } }).raiseOf o f
    | none => s.raiseOf o f
  else s.raiseOf o f

/-- An instruction behind its gate: k gets the source values and the state after the pops. -/
def State.issue (s : State) (o : Opnds) (k : List DWord → State → State) : Host.Outcome State Fault Refusal :=
  .next (match s.gate o with
    | .fault f => s.gateRaise o f
    | .stall => s.stallRead o.reads
    | .go vs s' => k vs s')

/-- The end of an instruction with a destination: s is the state before the pops, s' after them. -/
def State.done (s s' : State) (d : Reg) (v : DWord) : State :=
  match s'.dstCheck d v with
  | .ok => (s'.writeReg d v).advance
  | .stall => s.stall
  | .fault f => s.raise f

/-- An instruction that only computes: sources, destination, function of the source values. -/
def State.compute (s : State) (reads : List Reg) (d : Reg) (f : List DWord → DWord) : Host.Outcome State Fault Refusal :=
  s.issue ⟨reads, some d, false, false⟩ fun vs s' => s.done s' d (f vs)

/-- The i-th source value. -/
def arg (vs : List DWord) (i : Nat) : DWord := vs.getD i 0

/-! Immediates, widened by HIMM (02 R47, R66). -/

def State.immI (s : State) (imm : BitVec 14) : DWord :=
  match s.me.hints.himm with
  | some p => (p ++ imm : BitVec 36).signExtend 64
  | none => imm.signExtend 64

def State.immU (s : State) (imm : BitVec 20) : DWord :=
  match s.me.hints.himm with
  | some p => (p ++ imm : BitVec 42).signExtend 64
  | none => imm.signExtend 64

def State.immB (s : State) (off : BitVec 16) : DWord :=
  match s.me.hints.himm with
  | some p => (p ++ off : BitVec 38).signExtend 64
  | none => off.signExtend 64

def State.immM (s : State) (off : BitVec 12) : DWord :=
  match s.me.hints.himm with
  | some p => (p ++ off : BitVec 34).signExtend 64
  | none => off.signExtend 64

/-- The rounding mode and saturation of the instruction in turn: FRM and off, unless HMOD replaces them (03 R101). -/
def State.rmode (s : State) : Nat :=
  match s.me.hints.hmod with
  | some (true, rm, _, _, _) => rm.toNat
  | _ => s.ctx.frm

def State.satOn (s : State) : Bool :=
  match s.me.hints.hmod with
  | some (_, _, true, sat, _) => sat
  | _ => false

def State.wideOn (s : State) : Bool :=
  match s.me.hints.hmod with
  | some (_, _, _, _, w) => w
  | none => false

/-! Acting for a fibre that may be resident or not. -/

/-- The state with a fibre's slot in turn; a fibre that is not resident is read into slot 0 for the moment. -/
def State.borrow (s : State) (e : Nat) (f : Fibre) : State :=
  match s.core.slotOf? e with
  | some i => { s with sid := i }
  | none => { s with sid := 0, core := { s.core with slots := s.core.slots.set 0 { Slot.reset with ent := some e, fib := f } } }

/-- The slot given back: the fibre's copy returns to its run-queue entry. -/
def State.giveBack (s0 s1 : State) (e : Nat) : State :=
  match s0.core.slotOf? e with
  | some _ => { s1 with sid := s0.sid }
  | none =>
    let m := s1.core.slots[(0 : Fin 8)]
    let runq := if m.ent == some e then s1.core.runq.set e m.fib else s1.core.runq
    { s1 with sid := s0.sid, core := { s1.core with runq := runq, slots := s1.core.slots.set 0 s0.core.slots[(0 : Fin 8)] } }

/-- A change made as the fibre e of the core in turn; nothing when there is none. -/
def State.asFibre (s : State) (e : Nat) (g : State → State) : State :=
  match s.core.fibre? e with
  | some f => s.giveBack (g (s.borrow e f)) e
  | none => s

/-! Waiting (01 R35, R44 Block) and the end of a wait. -/

/-- A new pending operation of the instruction in turn. -/
def State.newWait (s : State) (kind : WaitKind) (reason : Nat) (due : Option Nat) (ep : Nat) (acc : Option Access) : Wait :=
  { op := s.nextId, kind := kind, reason := reason, since := s.now, due := due,
    thr := (s.dies[Fin.ofNat 8 s.die]).dlprobe.toNat * 1000, probed := false, ep := ep, acc := acc,
    limitHit := false, tpc := s.ctx.pc, live := s.me.hints.live, undo := [], sent := none }

/-- The queue words among what an instruction's registers gave, which a withdrawal puts back. -/
def queueWords (reads : List Reg) (vs : List DWord) : List (Reg × DWord) := (reads.zip vs).filter fun x => isQueue x.1

/-- A pending operation that has popped words, from their registers or as they are listed, and one for which a job counts a message as sent. -/
def Wait.popped (w : Wait) (reads : List Reg) (vs : List DWord) : Wait := { w with undo := queueWords reads vs }
def Wait.keeps (w : Wait) (ws : List (Reg × DWord)) : Wait := { w with undo := ws }
def Wait.counted (w : Wait) (j : Option Nat) : Wait := { w with sent := j }

/-- A popped word returned to the head of its queue. -/
def State.unpopReg (s : State) (x : Reg × DWord) : State :=
  let c := s.core
  let f := s.fib
  match x.1 with
  | .qm i => s.setFib { f with qm := f.qm.set i ⟨f.qm[i].tags, ⟨x.2, none⟩ :: f.qm[i].words⟩ }
  | .qam => s.setFib { f with qam := ⟨s.nextId, 0, false, .store, some x.2, none⟩ :: f.qam }
  | .qjn => s.setFib { f with qjn := (x.2, false) :: f.qjn }
  | .qev => s.setFib { f with qev := x.2 :: f.qev }
  | .qtm => s.setFib { f with qtm := x.2 :: f.qtm }
  | .qmx => s.setCore { c with qmx := { c.qmx with res := x.2 :: c.qmx.res } }
  | .qvx => s.setCore { c with qvx := { c.qvx with res := x.2 :: c.qvx.res } }
  | .qcp => s.setCore { c with qcp := { c.qcp with res := x.2 :: c.qcp.res } }
  | .qac => s.setCore { c with qac := { c.qac with res := x.2 :: c.qac.res } }
  | .qsc => s.setCore { c with qsc := x.2 :: c.qsc }
  | .qhs => s.setCore { c with qhs := x.2 :: c.qhs }
  | .qs i => s.setCore { c with qs := c.qs.set i (x.2 :: c.qs[i]) }
  | _ => s

/-- Popped words of the fibre in turn return, the last popped first. -/
def State.putBack (s : State) (ws : List (Reg × DWord)) : State := ws.foldr (fun x u => u.unpopReg x) s

/-- The words a withdrawn operation of fibre e had popped return. -/
def State.unpop (s : State) (e : Nat) (w : Wait) : State :=
  if w.undo.isEmpty then s else s.asFibre e fun t => t.putBack w.undo

/-- The cycles of an HSCH hold (09 Table 9-4). -/
def spinCycles (n : Nat) : Nat := 8 * 2 ^ n - 8

/-- The fibre in turn waits with an operation (01 Table 1-6, Block): slots 6 and 7, a slot whose slot-scope queues
hold words and one held by HSCH keep it; else it is swapped out, with its PC at the first hint of its group. The
operation's number is taken. -/
def State.block (s : State) (w : Wait) : State :=
  let s := { s with nextId := s.nextId + 1 }
  let spin := match s.me.hints.spin with
    | some n => spinCycles n.toNat
    | none => 0
  let s := s.setFib { s.fib with wait := some w }
  if s.sid.val ≥ 6 ∨ s.fib.unpopped = true then s.setMe { s.me with stall := some s.now, lat := 1 }
  else if spin > 0 then s.setMe { s.me with stall := some s.now, spin := some (s.coreCycles + spin), lat := 1 }
  else (s.setPc s.groupPc).swapOut stBlocked w.reason

/-- The fibre in turn waits in its slot for an operation, RUNNING (07 R227). The operation's number is taken. -/
def State.holdSlot (s : State) (w : Wait) : State :=
  let s := { s with nextId := s.nextId + 1 }
  let s := s.setFib { s.fib with wait := some w }
  s.setMe { s.me with stall := some s.now, lat := 1 }

/-- The fibre in turn, whose waited operation has ended with its results in place, continues after it (01 R17). -/
def State.endWait (s : State) (w : Wait) : State :=
  let fib := { (s.fib.reach w.live s.coreCycles) with wait := none, ctx := s.stepCtx s.ctx w.tpc }
  s.setMe { s.me with fib := fib, hints := Hints.reset, group := none, run := none, stall := none, spin := none,
                      lat := 1, ready := s.coreCycles + 1 }

/-- The wait limit of a REMOTE wait, or a trap that waited for its reply, is taken now, EPC after the instruction
(01 R36; 13 R367). -/
def State.afterWait (s : State) (w : Wait) : State :=
  if w.limitHit then s.faultAt (fltAt waitLimitCode (BitVec.ofNat 64 w.reason)) s.ctx.pc 0 else s

/-- A waited operation of fibre e is refused: a precise fault, EPC at its group (05 R146). -/
def State.faultWait (s : State) (e : Nat) (w : Wait) (f : Flt) : State :=
  s.asFibre e fun t =>
    let t := t.setFib { t.fib with wait := none }
    let epc := if t.fib.ctx.state = stBlocked then t.ctx.pc else (t.me.group.getD w.tpc)
    t.faultAt f epc 0

/-- The end of a waited operation of fibre e with a result: none while the destination queue has no room. A fibre
that was swapped out becomes READY. -/
def State.finishWait (s : State) (e : Nat) (w : Wait) (d : Option Reg) (v : DWord) : Option State :=
  match s.core.fibre? e with
  | none => some s
  | some f =>
    let b := s.borrow e f
    match (match d with
      | some r => b.dstCheck r v
      | none => .ok) with
    | .stall => none
    | .fault f => some (s.faultWait e w f)
    | .ok =>
      let b1 := match d with
        | some r => b.writeReg r v
        | none => b
      let b2 := b1.endWait w
      let r := s.giveBack b2 e
      let r := if f.ctx.state = stBlocked then r.makeReady e else r
      some (if w.limitHit then r.asFibre e fun t => t.afterWait w else r)

/-- The same for an operation that writes a second register after its result. -/
def State.finishWait2 (s : State) (e : Nat) (w : Wait) (d : Reg) (v : DWord) (d2 : Reg) (v2 : DWord) : Option State :=
  match s.core.fibre? e with
  | none => some s
  | some f =>
    match (s.borrow e f).dstCheck d v with
    | .stall => none
    | .fault f => some (s.faultWait e w f)
    | .ok => (s.asFibre e fun t => t.writeReg d v).finishWait e w (some d2) v2

/-- An asynchronous trap against fibre e (13 R367): it is taken at the fibre's next boundary. -/
def State.asyncTrap (s : State) (e : Nat) (t : Trap) : State :=
  s.modFibre e fun f => { f with pend := s.core.pendIn t f.pend }

/-- An asynchronous trap record. -/
def asyncOf (code : Nat) (arg : BitVec 8) (eaddr eidx : DWord) (epg : DWord) (jent : Option Nat) (chan : Bool) : Trap :=
  { code := code, async := true, arg := arg, ent := none, slot := 0, epc := 0, epg := epg, eaddr := eaddr, eidx := eidx,
    jent := jent, chan := chan, wdrawn := false, lost := false, extra := [] }

end Sys2Proof.Machine
end

