-- ==== Sys2Proof/Machine/Flags.lean ====
section
/-! DEFINITION. Floating-point values, exact results, rounding and the sticky flags (03 R88 to R101, R111). -/

namespace Sys2Proof.Machine

/-! Sticky flags (01 Table 1-2; 03 Table 3-11), bit 0 NV. -/

def fNV : BitVec 7 := 1
def fDZ : BitVec 7 := 2
def fOF : BitVec 7 := 4
def fUF : BitVec 7 := 8
def fNX : BitVec 7 := 16
def fACCOF : BitVec 7 := 32
def fACCLOST : BitVec 7 := 64

/-- A flag or none. -/
def flagIf (b : Bool) (f : BitVec 7) : BitVec 7 := if b then f else 0

/-- A floating-point layout (Table 3-4): exponent bits, fraction bits, bias, the largest finite value as a count of
its last place, whether an exponent of ones is infinity or NaN, and the canonical NaN (Table 3-5). -/
structure FpFmt where
  eb : Nat
  fb : Nat
  bias : Nat
  maxN : Nat
  maxE : Int
  ieee : Bool
  canon : Nat
  deriving DecidableEq, Repr

def fp64 : FpFmt := ⟨11, 52, 1023, 2 ^ 53 - 1, 971, true, 0x7FF8000000000000⟩
def fp32 : FpFmt := ⟨8, 23, 127, 2 ^ 24 - 1, 104, true, 0x7FC00000⟩
def bf16 : FpFmt := ⟨8, 7, 127, 255, 120, true, 0x7FC0⟩
def fp16 : FpFmt := ⟨5, 10, 15, 2047, 5, true, 0x7E00⟩
def fpE5M2 : FpFmt := ⟨5, 2, 15, 7, 13, true, 0x7E⟩
def fpE4M3 : FpFmt := ⟨4, 3, 7, 14, 5, false, 0x7F⟩
def fpE2M1 : FpFmt := ⟨2, 1, 1, 3, 1, false, 0⟩

/-- The exponent of the last place of the smallest values. -/
def FpFmt.qmin (f : FpFmt) : Int := 1 - (f.bias : Int) - (f.fb : Int)

/-- A value: NaN (signalling or not), infinity, or (-1)^neg times mag times 2^exp. -/
inductive Fp where
  | nan (sig : Bool)
  | inf (neg : Bool)
  | fin (neg : Bool) (mag : Nat) (exp : Int)
  deriving DecidableEq, Repr

def Fp.isNan : Fp → Bool
  | .nan _ => true
  | _ => false

def Fp.isSig : Fp → Bool
  | .nan b => b
  | _ => false

def Fp.isFin : Fp → Bool
  | .fin _ _ _ => true
  | _ => false

def Fp.isZero : Fp → Bool
  | .fin _ m _ => m == 0
  | _ => false

def Fp.neg? : Fp → Bool
  | .nan _ => false
  | .inf n => n
  | .fin n _ _ => n

/-- The value of a bit pattern (R88). E4M3 has NaN at its top code alone, E2M1 none (Table 3-4). -/
def FpFmt.decode (f : FpFmt) (w : Nat) : Fp :=
  let neg := w / 2 ^ (f.eb + f.fb) % 2 == 1
  let e := w / 2 ^ f.fb % 2 ^ f.eb
  let m := w % 2 ^ f.fb
  if f.ieee && e == 2 ^ f.eb - 1 then
    if m = 0 then .inf neg else .nan (m / 2 ^ (f.fb - 1) == 0 && decide (f.eb ≠ 5 ∨ f.fb ≠ 2))
  else if f.eb == 4 && e == 15 && m == 7 then .nan false
  else if e = 0 then .fin neg m f.qmin
  else .fin neg (2 ^ f.fb + m) (f.qmin + (e : Int) - 1)

/-- The pattern of n times 2^q with n at most 2^(fb+1), q at least the smallest last place. -/
def FpFmt.pack (f : FpFmt) (neg : Bool) (n : Nat) (q : Int) : Nat :=
  neg.toNat * 2 ^ (f.eb + f.fb) + ((q - f.qmin).toNat * 2 ^ f.fb + n)

def FpFmt.zero (f : FpFmt) (neg : Bool) : Nat := neg.toNat * 2 ^ (f.eb + f.fb)
def FpFmt.infinity (f : FpFmt) (neg : Bool) : Nat := f.zero neg + (2 ^ f.eb - 1) * 2 ^ f.fb
def FpFmt.largest (f : FpFmt) (neg : Bool) : Nat := f.pack neg f.maxN f.maxE

/-- mag times 2^exp, and a positive rest below mag's last bit when rest holds, in units of 2^q: the whole part and
how the remainder compares with half a unit: 0 nothing, 1 below, 2 half, 3 above. -/
def splitAt (mag : Nat) (exp : Int) (rest : Bool) (q : Int) : Nat × Nat :=
  if q ≤ exp then (mag * 2 ^ (exp - q).toNat, if rest then 1 else 0)
  else
    let d := (q - exp).toNat
    let n := mag / 2 ^ d
    let r := mag % 2 ^ d
    let h := 2 ^ (d - 1)
    (n, if r = 0 ∧ rest = false then 0 else if r < h then 1 else if r = h ∧ rest = false then 2 else 3)

/-- Whether a mode of Table 3-7 takes the neighbour of larger magnitude; odd: the lower neighbour is not even. -/
def roundsUp (mode : Nat) (neg odd : Bool) (c : Nat) : Bool :=
  match mode with
  | 0 => decide (c = 3) || (decide (c = 2) && odd)
  | 1 => false
  | 2 => decide (c ≠ 0) && !neg
  | 3 => decide (c ≠ 0) && neg
  | _ => decide (c ≥ 2)

/-- A magnitude rounded to a multiple of 2^q, and whether it was inexact. -/
def roundMag (mode : Nat) (neg : Bool) (mag : Nat) (exp : Int) (rest : Bool) (q : Int) : Nat × Bool :=
  let r := splitAt mag exp rest q
  (r.1 + (roundsUp mode neg (r.1 % 2 == 1) r.2).toNat, r.2 != 0)

/-- The away column of Table 3-8. -/
def away (mode : Nat) (neg : Bool) : Bool :=
  match mode with
  | 0 | 4 => true
  | 2 => !neg
  | 3 => neg
  | _ => false

/-- The result of an overflow (Table 3-8). -/
def FpFmt.overflow (f : FpFmt) (mode : Nat) (sat neg : Bool) : Nat :=
  if sat || !away mode neg then f.largest neg
  else if f.ieee then f.infinity neg
  else f.canon

/-- RoundTo for a finite exact result: pattern and flags OF, UF, NX (R98 to R100). -/
def FpFmt.round (f : FpFmt) (mode : Nat) (sat neg : Bool) (mag : Nat) (exp : Int) (rest : Bool) : Nat × BitVec 7 :=
  if mag = 0 ∧ rest = false then (f.zero neg, 0)
  else
    let qU : Int := exp + (Nat.log2 mag : Int) - (f.fb : Int)
    let u := roundMag mode neg mag exp rest qU
    if qU > f.maxE ∨ (qU = f.maxE ∧ u.1 > f.maxN) then (f.overflow mode sat neg, fOF ||| fNX)
    else
      let q := max qU f.qmin
      let r := roundMag mode neg mag exp rest q
      let tiny := decide (qU + (Nat.log2 u.1 : Int) < f.qmin + (f.fb : Int))
      (f.pack neg r.1 q, flagIf r.2 fNX ||| flagIf (r.2 && tiny) fUF)

/-- A value delivered in a format: NaN is canonical; an infinity given to E4M3 is an overflow away (R99). -/
def FpFmt.deliver (f : FpFmt) (mode : Nat) (sat : Bool) : Fp → Nat × BitVec 7
  | .nan _ => (f.canon, 0)
  | .inf n => if f.ieee then (f.infinity n, 0) else (if sat then f.largest n else f.canon, fOF ||| fNX)
  | .fin n m e => f.round mode sat n m e false

/-! Exact sums and products. -/

/-- The exact sum of two finite values; an exact zero from operands of unlike sign is -0 only towards -infinity. -/
def exactAdd (mode : Nat) (n1 : Bool) (m1 : Nat) (e1 : Int) (n2 : Bool) (m2 : Nat) (e2 : Int) : Fp :=
  let e := min e1 e2
  let a : Int := (m1 : Int) * 2 ^ (e1 - e).toNat
  let b : Int := (m2 : Int) * 2 ^ (e2 - e).toNat
  let v := (if n1 then -a else a) + (if n2 then -b else b)
  if v = 0 then .fin (if n1 = n2 then n1 else decide (mode = 3)) 0 0
  else .fin (decide (v < 0)) v.natAbs e

/-- The exact sum of two values with its NV. -/
def fpAdd (mode : Nat) (a b : Fp) : Fp × BitVec 7 :=
  let sig := flagIf (a.isSig || b.isSig) fNV
  match a, b with
  | .nan _, _ => (.nan false, sig)
  | _, .nan _ => (.nan false, sig)
  | .inf x, .inf y => if x = y then (.inf x, 0) else (.nan false, fNV)
  | .inf x, _ => (.inf x, 0)
  | _, .inf y => (.inf y, 0)
  | .fin n1 m1 e1, .fin n2 m2 e2 => (exactAdd mode n1 m1 e1 n2 m2 e2, 0)

/-- The exact product with its NV; zero times infinity is NaN. -/
def fpMul (a b : Fp) : Fp × BitVec 7 :=
  let sig := flagIf (a.isSig || b.isSig) fNV
  match a, b with
  | .nan _, _ => (.nan false, sig)
  | _, .nan _ => (.nan false, sig)
  | .inf x, .inf y => (.inf (x != y), 0)
  | .inf x, .fin n m _ => if m = 0 then (.nan false, fNV) else (.inf (x != n), 0)
  | .fin n m _, .inf y => if m = 0 then (.nan false, fNV) else (.inf (n != y), 0)
  | .fin n1 m1 e1, .fin n2 m2 e2 => (.fin (n1 != n2) (m1 * m2) (e1 + e2), 0)

/-- A value with the opposite sign; a NaN stays what it is. -/
def Fp.negate : Fp → Fp
  | .nan s => .nan s
  | .inf n => .inf (!n)
  | .fin n m e => .fin (!n) m e

/-- a times b plus c, exact; zero times infinity sets NV even when c is a quiet NaN (04 R132). -/
def fpFma (mode : Nat) (a b c : Fp) : Fp × BitVec 7 :=
  let p := fpMul a b
  let r := fpAdd mode p.1 c
  (r.1, p.2 ||| r.2 ||| flagIf c.isSig fNV)

/-- The order of two finite or infinite values: -1, 0 or 1. -/
def fpCompare (a b : Fp) : Int :=
  match a, b with
  | .inf x, .inf y => if x = y then 0 else if x then -1 else 1
  | .inf x, _ => if x then -1 else 1
  | _, .inf y => if y then 1 else -1
  | .fin n1 m1 e1, .fin n2 m2 e2 =>
    match exactAdd 0 n1 m1 e1 (!n2) m2 e2 with
    | .fin n m _ => if m = 0 then 0 else if n then -1 else 1
    | _ => 0
  | _, _ => 0

/-! The results of the operations of 04 Table 4-4 on values: pattern of the result and flags. -/

/-- A pair of an exact value and NV, delivered. -/
def FpFmt.out (f : FpFmt) (mode : Nat) (sat : Bool) (r : Fp × BitVec 7) : Nat × BitVec 7 :=
  let d := f.deliver mode sat r.1
  (d.1, d.2 ||| r.2)

/-- Division (04 R129, R130): the quotient to 140 bits and a rest. -/
def FpFmt.divide (f : FpFmt) (mode : Nat) (sat : Bool) (a b : Fp) : Nat × BitVec 7 :=
  let sig := flagIf (a.isSig || b.isSig) fNV
  match a, b with
  | .nan _, _ => (f.canon, sig)
  | _, .nan _ => (f.canon, sig)
  | .inf _, .inf _ => (f.canon, fNV)
  | .inf x, .fin n _ _ => (f.infinity (x != n), 0)
  | .fin n _ _, .inf y => (f.zero (n != y), 0)
  | .fin n1 m1 e1, .fin n2 m2 e2 =>
    if m2 = 0 then (if m1 = 0 then (f.canon, fNV) else (f.infinity (n1 != n2), fDZ))
    else if m1 = 0 then (f.zero (n1 != n2), 0)
    else f.round mode sat (n1 != n2) (m1 * 2 ^ 140 / m2) (e1 - e2 - 140) (m1 * 2 ^ 140 % m2 != 0)

/-- The integer square root, bit by bit from bit n - 1 down. -/
def rootBits (x : Nat) : Nat → Nat → Nat
  | 0, r => r
  | n + 1, r => if (r + 2 ^ n) * (r + 2 ^ n) ≤ x then rootBits x n (r + 2 ^ n) else rootBits x n r

/-- Square root (04 R129, R130). -/
def FpFmt.squareRoot (f : FpFmt) (mode : Nat) (sat : Bool) (a : Fp) : Nat × BitVec 7 :=
  match a with
  | .nan s => (f.canon, flagIf s fNV)
  | .inf n => if n then (f.canon, fNV) else (f.infinity false, 0)
  | .fin n m e =>
    if m = 0 then (f.zero n, 0)
    else if n then (f.canon, fNV)
    else
      let odd := (e % 2).toNat
      let x := m * 2 ^ (odd + 128)
      let r := rootBits x 96 0
      f.round mode sat false r ((e - (odd : Int)) / 2 - 64) (r * r != x)

/-- Minimum and maximum (R130): -0 orders below +0; any NaN gives the canonical NaN. -/
def FpFmt.minMax (f : FpFmt) (larger : Bool) (wa wb : Nat) : Nat × BitVec 7 :=
  let a := f.decode wa
  let b := f.decode wb
  if a.isNan || b.isNan then (f.canon, flagIf (a.isSig || b.isSig) fNV)
  else
    let c := fpCompare a b
    let aFirst := if c = 0 then a.neg? || !b.neg? else decide (c < 0)
    (if aFirst != larger then wa else wb, 0)

/-- The three comparisons (R130): 0 equal, 1 less, 2 less or equal. -/
def FpFmt.test (kind : Nat) (a b : Fp) : Bool × BitVec 7 :=
  if a.isNan || b.isNan then (false, flagIf (kind != 0 || a.isSig || b.isSig) fNV)
  else
    let c := fpCompare a b
    (match kind with
     | 0 => decide (c = 0)
     | 1 => decide (c < 0)
     | _ => decide (c ≤ 0), 0)

/-- Absolute value and negation (R130). -/
def FpFmt.signOp (f : FpFmt) (flip : Bool) (w : Nat) : Nat × BitVec 7 :=
  let a := f.decode w
  if a.isNan then (f.canon, flagIf a.isSig fNV)
  else
    let m := w % 2 ^ (f.eb + f.fb)
    (f.zero (flip && !a.neg?) + m, 0)

/-- The class mask of 04 Table 4-5. -/
def FpFmt.classMask (f : FpFmt) (w : Nat) : Nat :=
  match f.decode w with
  | .nan s => if s then 2 ^ 8 else 2 ^ 9
  | .inf n => if n then 2 ^ 0 else 2 ^ 7
  | .fin n m _ =>
    if m = 0 then (if n then 2 ^ 3 else 2 ^ 4)
    else if m < 2 ^ f.fb then (if n then 2 ^ 2 else 2 ^ 5)
    else if n then 2 ^ 1 else 2 ^ 6

/-! Integers (R97). -/

/-- The signed value of the low n bits. -/
def signedOf (n w : Nat) : Int := (BitVec.ofNat n w).toInt

/-- The n-bit pattern of an integer. -/
def patternOf (n : Nat) (v : Int) : Nat := (BitVec.ofInt n v).toNat

/-- An integer clamped to n bits. -/
def clampInt (n : Nat) (v : Int) : Int := max (-(2 ^ (n - 1))) (min (2 ^ (n - 1) - 1) v)

/-- Floating point to an n-bit integer: NaN gives 0; out of range clamps; both set NV; an inexact result sets NX. -/
def fpToInt (n mode : Nat) (a : Fp) : Nat × BitVec 7 :=
  match a with
  | .nan _ => (0, fNV)
  | .inf s => (patternOf n (if s then -(2 ^ (n - 1)) else 2 ^ (n - 1) - 1), fNV)
  | .fin s m e =>
    let r := roundMag mode s m e false 0
    let v : Int := if s then -(r.1 : Int) else r.1
    if clampInt n v = v then (patternOf n v, flagIf r.2 fNX) else (patternOf n (clampInt n v), fNV)

/-- An integer as an exact value. -/
def fpOfInt (v : Int) : Fp := .fin (decide (v < 0)) v.natAbs 0

/-- An integer narrowed to n bits: low bits, or clamped with OF (R97). -/
def narrow (n : Nat) (sat : Bool) (v : Int) : Nat × BitVec 7 :=
  if sat && clampInt n v != v then (patternOf n (clampInt n v), fOF) else (patternOf n v, 0)

end Sys2Proof.Machine
end

