-- ==== Sys2Proof/Machine/Formats.lean ====
section
/-! DEFINITION. Element types, bank formats, block-scaled formats and conversions (03 R79 to R100, R114). -/

namespace Sys2Proof.Machine

/-! Types and bank codes (Table 3-1). -/

/-- The floating layout of an element type. -/
def tyFmt : Ty → Option FpFmt
  | .d => some fp64
  | .s => some fp32
  | .b => some bf16
  | .h => some fp16
  | .e4m3 => some fpE4M3
  | .e5m2 => some fpE5M2
  | _ => none

/-- The floating layout of the types that scalar and vector arithmetic takes; the others are integers. -/
def fmtOr64 (t : Ty) : FpFmt := (tyFmt t).getD fp64

/-- The bits of an element of a type in a register lane or in memory (Table 3-1); 4 and 6 for the block formats. -/
def tyBits : Ty → Nat
  | .d => 64
  | .s => 32
  | .b => 16
  | .h => 16
  | .q => 64
  | .w => 32
  | .c => 8
  | .e4m3 => 8
  | .e5m2 => 8
  | .mxfp4 => 4
  | .l6 => 6

/-- The bank code of a type; INT64 and none have RAW. -/
def tyBank : Ty → Nat
  | .d => 1
  | .s => 2
  | .b => 3
  | .h => 4
  | .e4m3 => 5
  | .e5m2 => 6
  | .mxfp4 => 7
  | .l6 => 8
  | .c => 9
  | .w => 10
  | .q => 0

def bankFmt (c : Nat) : Option FpFmt :=
  match c with
  | 1 => some fp64
  | 2 => some fp32
  | 3 => some bf16
  | 4 => some fp16
  | 5 => some fpE4M3
  | 6 => some fpE5M2
  | _ => none

/-- The bits of an element in a bank of a code (Table 3-1). -/
def bankBits (c : Nat) : Nat :=
  match c with
  | 1 => 64
  | 2 => 32
  | 3 => 16
  | 4 => 16
  | 5 => 8
  | 6 => 8
  | 7 => 4
  | 8 => 6
  | 9 => 8
  | 10 => 32
  | 11 => 576
  | _ => 8

/-- The bytes of 32 values (R86). -/
def groupBytes (c : Nat) : Nat := bankBits c * 4

/-- Whether a code is a block format; whether it is an integer format. -/
def isBlock (c : Nat) : Bool := c == 7 || c == 8
def isIntBank (c : Nat) : Bool := c == 9 || c == 10

/-! Block formats (R91 to R94). -/

/-- The table T of R93 in units of 2^-8. -/
def l6T (i : Nat) : Nat :=
  match i % 4 with
  | 0 => 256
  | 1 => 304
  | 2 => 362
  | _ => 431

/-- The magnitude of code e at scale 127 in units of 2^-12. -/
def l6Mag (e : Nat) : Nat := l6T e * 2 ^ (e / 4)

/-- The value of an L6 code under a scale byte; NaR and the scale 0xFF are quiet NaNs. -/
def l6Decode (code scale : Nat) : Fp :=
  let s := code / 32 % 2 == 1
  let e := code % 32
  if scale % 256 = 255 then .nan false
  else if e = 0 then (if s then .nan false else .fin false 0 0)
  else .fin s (l6Mag e) ((scale % 256 : Nat) - 127 - 12)

/-- The product of two L6 codes with the sum of their unbiased scales (R95). -/
def l6Product (ca cb : Nat) (scale : Int) : Fp :=
  let ea := ca % 32
  let eb := cb % 32
  if (ea = 0 ∧ ca / 32 % 2 = 1) ∨ (eb = 0 ∧ cb / 32 % 2 = 1) then .nan false
  else if ea = 0 ∨ eb = 0 then .fin false 0 0
  else .fin (ca / 32 % 2 != cb / 32 % 2) (l6T (ea + eb)) (scale - 8 + ((ea + eb : Nat) / 4 : Nat) - 8)

/-- The value of an E2M1 code under a scale byte (R92). -/
def mxDecode (code scale : Nat) : Fp :=
  if scale % 256 = 255 then .nan false
  else match fpE2M1.decode (code % 16) with
    | .fin n m e => .fin n m (e + ((scale % 256 : Nat) - 127))
    | v => v

/-- Element j of a packed block or array: bits from width times j of the bytes as a little-endian number. -/
def packedAt (bytes : Nat) (width j : Nat) : Nat := bytes >>> (width * j) % 2 ^ width

/-- Values packed from bit 0. -/
def pack (width : Nat) : List Nat → Nat
  | [] => 0
  | v :: t => v % 2 ^ width + 2 ^ width * pack width t

/-- A value of a bank code from its pattern and scale byte. -/
def bankDecode (c w scale : Nat) : Fp :=
  match bankFmt c with
  | some f => f.decode w
  | none =>
    match c with
    | 7 => mxDecode w scale
    | 8 => l6Decode w scale
    | 9 => fpOfInt (signedOf 8 w)
    | 10 => fpOfInt (signedOf 32 w)
    | 11 => .fin (decide (signedOf 576 w < 0)) (signedOf 576 w).natAbs (-320)
    | _ => .fin false (w % 256) 0

/-- 32 values of a group (or n values) of a bank code. -/
def groupDecode (c scale bytes : Nat) (n : Nat) : List Fp :=
  (List.range n).map fun j => bankDecode c (packedAt bytes (bankBits c) j) scale

/-! Conversion into block formats (R96). -/

/-- floor(log2) of a finite non-zero magnitude. -/
def log2Of : Fp → Option Int
  | .fin _ m e => if m = 0 then none else some (e + (Nat.log2 m : Int))
  | _ => none

/-- The scale byte of a group: the largest exponent less m, biased and clamped; 0 when every value is zero. -/
def scaleByte (m : Int) (vs : List Fp) : Nat :=
  match (vs.filterMap log2Of).max? with
  | none => 0
  | some x => (min 254 (max 0 (x - m + 127))).toNat

/-- How a magnitude compares with n times 2^q: -1, 0, 1. -/
def magCompare (mag : Nat) (exp : Int) (n : Nat) (q : Int) : Int :=
  let e := min exp q
  let a := mag * 2 ^ (exp - e).toNat
  let b := n * 2 ^ (q - e).toNat
  if a < b then -1 else if a = b then 0 else 1

/-- A magnitude rounded between two neighbours lo and hi in units of 2^q (the choice of R98): whether hi is taken. -/
def takesUpper (mode : Nat) (neg loOdd : Bool) (mag : Nat) (exp : Int) (lo hi : Nat) (q : Int) : Bool :=
  if magCompare mag exp lo q = 0 then false
  else
    let c := magCompare mag exp (lo + hi) (q - 1)
    roundsUp mode neg loOdd (if c < 0 then 1 else if c = 0 then 2 else 3)

/-- The largest code e below or at a magnitude, from n down. -/
def l6Below (mag : Nat) (exp : Int) : Nat → Nat
  | 0 => 0
  | n + 1 => if magCompare mag exp (l6Mag (n + 1)) (-12) ≥ 0 then n + 1 else l6Below mag exp n

/-- A finite value in an L6 code: code, flags; a magnitude beyond the largest element saturates (R96). -/
def l6Encode (mode : Nat) (neg : Bool) (mag : Nat) (exp : Int) : Nat × BitVec 7 :=
  if mag = 0 then (0, 0)
  else
    let s := neg.toNat * 32
    let lo := l6Below mag exp 31
    if lo = 31 then
      if magCompare mag exp (l6Mag 31) (-12) = 0 then (s + 31, 0) else (s + 31, fOF ||| fNX)
    else
      let lv := if lo = 0 then 0 else l6Mag lo
      if magCompare mag exp lv (-12) = 0 then (s + lo, 0)
      else
        let e := if takesUpper mode neg (lo % 2 == 1) mag exp lv (l6Mag (lo + 1)) (-12) then lo + 1 else lo
        let tiny := lo == 0 && !(decide (magCompare mag exp 256 (-12) ≥ 0) && takesUpper mode neg false mag exp 256 304 (-12))
        ((if e = 0 then 0 else s + e), fNX ||| flagIf tiny fUF)

/-- A finite value in an E2M1 code (R92, R96). -/
def mxEncode (mode : Nat) (neg : Bool) (mag : Nat) (exp : Int) : Nat × BitVec 7 :=
  if magCompare mag exp 3 1 > 0 then (fpE2M1.largest neg, fOF ||| fNX) else fpE2M1.round mode true neg mag exp false

/-- The three counts of MXEXC that a conversion adds (R114): OVF, NAN, SAT. -/
structure Counts where
  ovf : Nat
  nan : Nat
  sat : Nat
  deriving DecidableEq, Repr

def Counts.zero : Counts := ⟨0, 0, 0⟩
def Counts.add (a b : Counts) : Counts := ⟨a.ovf + b.ovf, a.nan + b.nan, a.sat + b.sat⟩

/-- 32 values into a block format: packed codes, scale byte, flags, counts (R96, R114). -/
def blockEncode (c mode : Nat) (vs : List Fp) : Nat × Nat × BitVec 7 × Counts :=
  if vs.any fun v => !v.isFin then (0, 255, fNV, ⟨0, 1, 0⟩)
  else
    let b := scaleByte (if c = 7 then 2 else 3) vs
    let rs := vs.map fun v =>
      match v with
      | .fin n m e =>
        let e := e - ((b : Int) - 127)
        if c = 7 then mxEncode mode n m e else l6Encode mode n m e
      | _ => (0, 0)
    let ovr := (rs.filter fun r => r.2 &&& fOF != 0).length
    (pack (bankBits c) (rs.map fun r => r.1), b, rs.foldl (fun f r => f ||| r.2) 0, ⟨ovr, 0, ovr⟩)

/-- The integer that an integral value is. -/
def Fp.int : Fp → Int
  | .fin n m e => (if n then -1 else 1) * ((m * 2 ^ e.toNat : Nat) : Int)
  | _ => 0

/-- One value of a source code into a bank code that is no block format: pattern, flags, counts (R97, R99, R114). A NaR or
0xFF-scaled element counts one NAN in every destination (R91). A float clamped to an integer counts under SAT when the
bank's SAT is on (DESIGN CHOICE, log entry 125). -/
def bankEncode (src c mode : Nat) (sat : Bool) (v : Fp) : Nat × BitVec 7 × Counts :=
  match bankFmt c with
  | some f =>
    let r := f.deliver mode sat v
    let ovr := r.2 &&& fOF != 0
    let isNan := (f.decode r.1).isNan
    (r.1, r.2 ||| flagIf v.isSig fNV, ⟨(ovr && v.isFin).toNat, isNan.toNat, (ovr && sat).toNat⟩)
  | none =>
    let n := if c = 9 then 8 else 32
    if isIntBank src then
      let r := narrow n sat v.int
      (r.1, r.2, ⟨(r.2 != 0).toNat, 0, (r.2 != 0).toNat⟩)
    else
      let r := fpToInt n mode v
      let clamped := r.2 == fNV && !v.isNan
      (r.1, r.2, ⟨(clamped && v.isFin).toNat, (isBlock src && v.isNan).toNat, (clamped && sat).toNat⟩)

/-- A group of values of a source code into a bank code: bytes as a number, scale byte for the block formats, flags, counts. -/
def groupEncode (src c mode : Nat) (sat : Bool) (vs : List Fp) : Nat × Option Nat × BitVec 7 × Counts :=
  if isBlock c then
    let r := blockEncode c mode vs
    (r.1, some r.2.1, r.2.2.1, r.2.2.2)
  else
    let rs := vs.map (bankEncode src c mode sat)
    (pack (bankBits c) (rs.map fun r => r.1), none, rs.foldl (fun f r => f ||| r.2.1) 0,
     rs.foldl (fun k r => k.add r.2.2) Counts.zero)

/-- The counters of MXEXC with counts added; each stops at 0xFFFF (R113). -/
def addCounts (w : DWord) (k : Counts) : DWord :=
  let f (lo v : Nat) := min 0xFFFF (bits w lo 16 + v) * 2 ^ lo
  BitVec.ofNat 64 (f 0 k.ovf + f 16 k.nan + f 32 k.sat)

/-! Accumulator cells (R102 to R105). -/

/-- The integer n of R103 with its flags; none when the value leaves the cell unchanged (NV). -/
def accAddend (v : Fp) : Option Int × BitVec 7 :=
  match v with
  | .fin s m e =>
    let sh := e + 320
    let a := if sh ≥ 0 then m * 2 ^ sh.toNat else m / 2 ^ (-sh).toNat
    let lost := decide (sh < 0) && m % 2 ^ (-sh).toNat != 0
    let n : Int := if s then -(a : Int) - (lost.toNat : Int) else a
    (some n, flagIf lost fACCLOST ||| flagIf (decide (n < -(2 ^ 575) ∨ n ≥ 2 ^ 575)) fACCOF)
  | _ => (none, fNV)

/-- The nine words of n modulo 2^576. -/
def accWords (n : Int) : List DWord :=
  let w := (BitVec.ofInt 576 n).toNat
  (List.range 9).map fun i => BitVec.ofNat 64 (w >>> (64 * i))

/-- The value of a type given to ACCW. -/
def accValue (t : Ty) (w : DWord) : Fp :=
  match t with
  | .q => fpOfInt w.toInt
  | .w => fpOfInt (signedOf 32 w.toNat)
  | .l6 => l6Decode (bits w 0 6) (bits w 8 8)
  | _ => (fmtOr64 t).decode w.toNat

/-- A cell rounded to a floating type (R105). -/
def accRead (t : Ty) (mode : Nat) (sat : Bool) (words : List DWord) : Nat × BitVec 7 :=
  let w := leNat (words.flatMap fun d => leBytes d.toNat 8)
  let v := signedOf 576 w
  (fmtOr64 t).round mode sat (decide (v < 0)) v.natAbs (-320) false

end Sys2Proof.Machine
end

