-- ==== Sys2Proof/Machine/Net.lean ====
section
/-! DEFINITION. Packets in flight: sending, the envelopes between die-level agents (10 R312 to R315), and what may be
delivered next. -/

namespace Sys2Proof.Machine

/-- The die-level agent of a destination (10, before R312): 0 to 7 compute dies, 8 to 15 base dies, 16 the Sorting
Office, 17 the host die. -/
def agentOf (dst : Nat) : Fin 18 :=
  if dst ≥ 40000 then Fin.ofNat 18 (dst % 8)
  else if dst < 20000 then Fin.ofNat 18 (dst / 2304 % 8)
  else if dst < 30000 then Fin.ofNat 18 (8 + dst % 8)
  else if dst = officeDst then 16
  else 17

/-- The row of a count matrix, and an element of a row. -/
def rowOf (l : List (List (BitVec 16))) (j : Nat) : List (BitVec 16) := l.getD j []
def cnt (l : List (BitVec 16)) (j : Nat) : BitVec 16 := l.getD j 0

/-- Serial-number comparison (R313): a is at or after b. -/
def geSerial (a b : BitVec 16) : Bool := decide ((a - b).toNat < 2 ^ 15)

def maxSerial (a b : BitVec 16) : BitVec 16 := if geSerial a b then a else b

/-- The element-wise maximum of two rows, of two matrices. -/
def maxRow (a b : List (BitVec 16)) : List (BitVec 16) := List.zipWith maxSerial a b
def maxMatrix (a b : List (List (BitVec 16))) : List (List (BitVec 16)) := List.zipWith maxRow a b

/-- Which events travel as credit flits or on no general-plane packet, and so without an envelope (R312). -/
def unenveloped : Ev → Bool
  | .creditReturn _ | .envelopeAcknowledgement _ _ _ | .clockUpdate _ _ | .scheduledFlitDelivery _ _ _ => true
  | _ => false

/-- The KIND of an envelope by what it carries (Table 10-5). -/
def envelopeKind : Ev → BitVec 4
  | .sendReply _ _ _ | .recvNoticeArrival _ _ | .remoteReply _ _ _ | .fullemptyNotice _ _ | .splitPhaseReply _ _ _
  | .shipReply _ _ | .journalAck _ _ | .postedStoreRefused _ _ _ | .eventReply _ _ _ | .barrierCompletion _ _ _
  | .mcmdResult _ _ _ _ _ | .msclReply _ _ _ | .fetchLineFill _ _ _ | .shapeCacheFill _ _ _ => 1
  | .messageArrival _ | .postArrival _ | .wakeArrival _ _ | .forkChildCreate _ | .eventWaitArrival _
  | .eventSignalArrival _ | .eventClearArrival _ | .eventTestArrival _ | .barrierArrival _ _ _ _
  | .deadLetterProbeArrival _ => 2
  | .activeMessage _ _ | .fullemptyRetry _ _ => 3
  | .copyElement _ _ | .tilePush _ | .tileWriteback _ _ | .mcmdArrival _ | .tsvc _ => 4
  | .clockUpdate _ _ => 5
  | .collectiveSubmit _ _ _ | .collectiveData _ _ _ | .collectiveControl _ _ _ | .collectiveComplete _ _ => 6
  | _ => 0

/-- The payload flits of a packet: two for each row of a clock update (R314); the layouts of the others are not given
(log entry 121). -/
def payloadFlits (num : Nat) : Ev → Nat
  | .clockUpdate _ rows => 2 * rows.rows.length
  | _ => Config.payloadFlits num % 2049

/-- The 64 bytes of an envelope's header (Table 10-5). -/
def Envelope.bytes (e : Envelope) : List Byte :=
  [BitVec.ofNat 8 e.src.val, BitVec.ofNat 8 e.dst.val] ++ leBytes e.seq.toNat 2 ++ [e.kind.setWidth 8] ++ leBytes e.len 2 ++
    List.replicate 21 0 ++ ((List.range 18).flatMap fun k => leBytes (cnt e.vc k).toNat 2)

/-- The rows of KNOW that changed since the last envelope from i to j, as i keeps them. -/
def changedRows (a : Agent) (j : Fin 18) : List (Fin 18 × List (BitVec 16)) :=
  ((List.range 18).filter fun r => rowOf a.know r != rowOf (a.lastRows.getD j.val []) r).map fun r =>
    (Fin.ofNat 18 r, rowOf a.know r)

/-- Agent i after it has sent an envelope to j (R314). -/
def Agent.sends (a : Agent) (i j : Fin 18) : Agent :=
  let q := cnt a.sent j.val + 1
  { a with sent := a.sent.set j.val q, know := a.know.set j.val ((rowOf a.know j.val).set i.val q),
           lastRows := a.lastRows.set j.val a.know }

/-- A row of a matrix merged with the row that arrives. -/
def mergeRow (know : List (List (BitVec 16))) (r : Fin 18 × List (BitVec 16)) : List (List (BitVec 16)) :=
  know.set r.1.val (maxRow (rowOf know r.1.val) r.2)

/-- Agent j after the rows of a clock update of agent i have arrived: they are the ones it last sent (R314). -/
def Agent.hears (a : Agent) (i : Fin 18) (rows : List (Fin 18 × List (BitVec 16))) : Agent :=
  { a with heard := (a.heard.filter fun h => !(h.1 == i && rows.any fun r => r.1 == h.2.1)) ++ rows.map fun r => (i, r) }

/-- Agent j after it has admitted the envelope numbered q of agent i: the rows that i last sent are merged (R314). -/
def Agent.admits (a : Agent) (i j : Fin 18) (q : BitVec 16) : Agent :=
  let know := ((a.heard.filter fun h => h.1 == i).map fun h => h.2).foldl mergeRow a.know
  let row := rowOf know j.val
  { a with adm := a.adm.set i.val q, know := know.set j.val (row.set i.val (maxSerial (cnt row i.val) q)) }

/-- Whether agent j admits next the envelope numbered q of agent i with the counts vc (R314). -/
def Agent.ready (a : Agent) (i : Fin 18) (q : BitVec 16) (vc : List (BitVec 16)) : Bool :=
  q == cnt a.adm i.val + 1 && (List.range 18).all fun k => k == i.val || geSerial (cnt a.adm k) (cnt vc k)

/-- The header of agent i's next envelope to agent j (R314). -/
def Agent.header (a : Agent) (i j : Fin 18) (kind : BitVec 4) (len : Nat) (upd : Option Nat) : Envelope :=
  { src := i, dst := j, seq := cnt a.sent j.val + 1, kind := kind, len := len, vc := rowOf a.know j.val, upd := upd }

/-- A packet enters the network in an envelope, behind a clock update of what changed; the header of an update has the number of
the envelope that it goes before (DESIGN CHOICE, log entry 149). -/
def State.stamp (s : State) (p : Packet) : State :=
  let i := agentOf p.src
  let j := agentOf p.dst
  let a := s.agents[i]
  let rows := changedRows a j
  let u : Ev := .clockUpdate j ⟨i, rows⟩
  let upd : List Packet :=
    if rows.isEmpty then []
    else [{ p with num := s.nextId, after := [], afterWho := none, order := [], held := false, ev := u,
                   env := some (a.header i j (envelopeKind u) (payloadFlits s.nextId u) none) }]
  let e := a.header i j (envelopeKind p.ev) (payloadFlits p.num p.ev) (if rows.isEmpty then none else some s.nextId)
  let a' := a.sends i j
  { s with net := s.net ++ upd ++ [{ p with env := some e, held := false }], nextId := s.nextId + upd.length,
           agents := s.agents.set i { a' with unacked := a.unacked.set j.val (a.unacked.getD j.val 0 + 1) } }

/-- Whether an agent may send another envelope to j now: fewer than 8,192 are unacknowledged (R314). -/
def State.window (s : State) (i j : Fin 18) : Bool := decide ((s.agents[i]).unacked.getD j.val 0 < 8192)

/-- Whether a packet from i to j is held at its sender. -/
def State.holds (s : State) (i j : Fin 18) : Bool :=
  s.net.any fun p => p.held && p.after.isEmpty && agentOf p.src == i && agentOf p.dst == j

/-- A packet sent from one destination code to another, with the operations of a fibre that must be performed before
it leaves, and the intervals of places within which it keeps its sender's order (05 R147). Between two agents it is
enveloped; a release that waits, and a packet beyond 8,192 unacknowledged, is held. -/
def State.sendRange (s : State) (src dst : Nat) (who : Option Who) (after : List Nat) (order : List (Nat × Nat)) (ev : Ev) :
    State :=
  let i := agentOf src
  let j := agentOf dst
  let base : Packet := { num := s.nextId, src := src, dst := dst, after := after, afterWho := who, order := order,
                         env := none, admitted := none, held := false, ev := ev }
  let t := { s with nextId := s.nextId + 1 }
  if i = j ∨ unenveloped ev = true then { t with net := s.net ++ [base] }
  else if !after.isEmpty || !s.window i j || s.holds i j then { t with net := s.net ++ [{ base with held := true }] }
  else t.stamp base

/-- The same with one place, or none. -/
def State.sendFrom (s : State) (src dst : Nat) (who : Option Who) (after : List Nat) (order : Option Nat) (ev : Ev) :
    State :=
  s.sendRange src dst who after (order.toList.map fun k => (k, k + 1)) ev

/-- A packet sent from the core in turn. -/
def State.send (s : State) (dst : Nat) (ev : Ev) : State := s.sendFrom s.cid dst none [] none ev

/-- A packet sent from the core in turn that keeps program order at a place. -/
def State.sendTo (s : State) (dst : Nat) (order : Option Nat) (ev : Ev) : State :=
  s.sendFrom s.cid dst none [] order ev

/-- A packet that is a release (05 R166): every outstanding operation of the fibre in turn is performed first. -/
def State.sendRel (s : State) (dst : Nat) (order : Option Nat) (ev : Ev) : State :=
  s.sendFrom s.cid dst (some s.self) s.outstanding order ev

/-- Whether the operations a packet waits for have been performed. -/
def State.released (s : State) (p : Packet) : Bool :=
  match p.afterWho with
  | none => true
  | some w =>
    let out := s.outstandingOf w
    p.after.all fun i => !out.contains i

/-- The held packets of a list that may leave do: released, with room in the window, in the order of their sending. -/
def State.stampHeld (s : State) : List Packet → State
  | [] => s
  | p :: l =>
    if p.held && s.released p && s.window (agentOf p.src) (agentOf p.dst) then
      State.stampHeld ({ s with net := s.net.filter fun x => x.num != p.num }.stamp { p with after := [] }) l
    else State.stampHeld s l

/-- Whether two lists of intervals of places meet. -/
def placesMeet (a b : List (Nat × Nat)) : Bool := a.any fun x => b.any fun y => decide (x.1 < y.2) && decide (y.1 < x.2)

/-- Whether a packet keeps its sender's order at a place. -/
def Packet.keeps (p : Packet) (k : Nat) : Bool := placesMeet p.order [(k, k + 1)]

/-! The places of requests. -/

/-- The request that a packet carries to a server. -/
def requestOf : Ev → Option Req
  | .rd8 q | .rd32 q | .rd64 q | .wt8 q | .wt32 q | .wt64 q | .wtm q | .routineAadd q | .routineAswp q
  | .routineAcas q | .routineAand q | .routineAor q | .routineAxor q | .routineAmin q | .routineAmax q
  | .routineAminu q | .routineAmaxu q | .fadd32 q | .xacc q | .gath8 q | .publish q | .fill64 q | .svcMigrate q
  | .svcInval q | .svcLoad q | .svcUnload q | .tsvc q | .loadableRoutine q | .tableWalk q => some q
  | _ => none

/-- The places that keep program order (05 R147): the bank of a scratchpad offset, the 32-byte granules of n bytes of the
DRAM window. -/
def bankPlace (core off : Nat) : Nat := core * 8 + off % 65536 / 8192
def granulePlaces (va n : Nat) : Nat × Nat := (2 ^ 20 + va / 32, 2 ^ 20 + (va + n + 31) / 32)

/-- The DRAM bytes, as address and count, that a routine of a SHIP touches (14 Table 14-3, R388, R390): va and a: its
operands, bytes: its payload. -/
def shipTouches (n va a : Nat) (bytes : List Byte) : List (Nat × Nat) :=
  match n with
  | 1 | 4 => [(va, 32)]
  | 2 | 5 | 21 => [(va, 64)]
  | 17 => [(va, 4)]
  | 18 => [(va, 72)]
  | 19 => (va, 1) :: (chunks 4 8 bytes).map fun o => (va + leNat o, 8)
  | 20 => [(va, 32), (a, 32)]
  | 22 | 23 => [(va, 1)]
  | _ => if n ≥ 24 then [(va / 256 * 256, 256)] else [(va, 8)]

/-- The granules of a request. -/
def reqPlaces (q : Req) : List (Nat × Nat) :=
  (shipTouches q.routine q.va.toNat q.a.toNat q.payload).map fun x => granulePlaces x.1 x.2

/-- The core that a packet's access comes from and the number it was issued by: a request on a further hop keeps those of its
issue. -/
def Packet.origin (p : Packet) : Nat × Nat :=
  match (if p.src < 20000 then none else requestOf p.ev) with
  | some q => (q.who.core, q.op)
  | none => (p.src, p.num)

/-- Whether accesses of a core numbered below n wait at some places: for slot 6 of a core (11 R333), or for a migration (14 R402). -/
def State.waitsAt (s : State) (src n : Nat) (order : List (Nat × Nat)) : Bool :=
  (((s.cid, s.core) :: s.others).any fun c => c.2.amq.any fun x =>
    x.1.who.core == src && decide (x.1.op < n) &&
      placesMeet [(bankPlace c.1 x.2.addr.toNat, bankPlace c.1 x.2.addr.toNat + 1)] order) ||
    s.migrations.any fun m => (m.queued ++ m.held).any fun q =>
      q.who.core == src && decide (q.op < n) && placesMeet (reqPlaces q) order

/-- Whether requests of a core numbered below n are not yet performed at some of the places (05 R147; 10 R310). -/
def State.busyPlaces (s : State) (src n : Nat) (order : List (Nat × Nat)) : Bool :=
  (s.net.any fun p => p.origin.1 == src && decide (p.origin.2 < n) && placesMeet p.order order) || s.waitsAt src n order

/-- Whether a packet's accesses come before another's at the places they share: sent earlier by the same sender
(05 R147), or admitted earlier at the same agent (R314). -/
def Packet.precedes (q p : Packet) : Bool :=
  (decide (q.num < p.num) && q.src == p.src) ||
    (match q.admitted, p.admitted with
     | some m, some n => decide (m < n) && agentOf q.dst == agentOf p.dst
     | _, _ => false)

/-- Whether nothing that precedes a packet at its places is still in flight. -/
def inOrder (net : List Packet) (p : Packet) : Bool := net.all fun q => !(q.precedes p && placesMeet q.order p.order)

/-- The job that an event belongs to, where it says so. -/
def jobOfEv : Ev → Option Nat
  | .messageArrival m => m.job
  | .activeMessage f _ => f.job
  | .fullemptyRetry f _ => f.job
  | .postArrival m => m.job
  | .wakeArrival _ job => job
  | .forkChildCreate c => c.job
  | .mcmdArrival m => m.job
  | .barrierArrival _ _ job _ => some job
  | .shipReply q _ => q.job
  | .eventReply m _ _ => some m.job
  | _ => none

/-- The fibre and operation that an event answers. -/
def answersOf : Ev → Option (Who × Nat)
  | .sendReply who op _ => some (who, op)
  | .remoteReply who op _ => some (who, op)
  | .fullemptyNotice who op => some (who, op)
  | .splitPhaseReply who op _ => some (who, op)
  | .shipReply q _ => some (q.who, q.op)
  | .eventReply m _ _ => some (m.who, m.op)
  | .barrierCompletion who op _ => some (who, op)
  | .msclReply who op _ => some (who, op)
  | _ => none

/-- Whether a packet towards a core is traffic of a job that was switched out there: by its job, or by its number or the
number of the operation it answers, which is older than the switch. -/
def Job.owns (j : Job) (p : Packet) : Bool :=
  let old (n : Nat) : Bool :=
    match j.switched with
    | some (_, _, _, m) => decide (n < m)
    | none => true
  match jobOfEv p.ev with
  | some n => n == j.num
  | none =>
    match answersOf p.ev with
    | some (w, op) => w.ent != 257 && old op
    | none => old p.num

/-- Whether a packet is held at the router of a switched-out core (13 R377). -/
def State.heldForSwitch (s : State) (p : Packet) : Bool :=
  decide (p.dst < 20000) && s.jobs.any fun j => (j.2.saved.any fun c => c.1 == p.dst) && j.2.owns p

/-- Whether a request that waits for a walk has one of its server's sixteen walkers: they are taken in order of arrival (14 R383,
R401). -/
def State.hasWalker (s : State) (num : Nat) (q : Req) : Bool :=
  decide ((s.net.filter fun u =>
    match u.ev with
    | .tableWalk w => decide (u.num < num) && w.stack == q.stack && serverOf w.va.toNat == serverOf q.va.toNat
    | _ => false).length < 16)

/-- Whether the queue of 4,096 operations for the page of a request is full at its old home: the request waits in the channel (14
R402). -/
def State.pageQueueFull (s : State) (q : Req) : Bool :=
  s.migrations.any fun m => !m.copied && m.page.home == q.stack && m.page.covers q.va.toNat && decide (m.queued.length ≥ 4096)

/-- Whether a message from outside must wait at its endpoint: the ring of the recorder is full (16 R441). -/
def State.arrivalWaits (s : State) (core : Nat) (m : ChanMsg) : Bool :=
  match m.src with
  | .core _ _ => false
  | .ext _ _ => s.recFull ⟨core, ((s.coreAt core).endpoint m.dst).ownerIx⟩

/-- Whether a request waits at its home: a substitution that it meets could not be recorded (16 R441). -/
def State.substWaits (s : State) (q : Req) : Bool :=
  decide (q.who.core < 18432) && decide (q.who.ent < 256) && s.recFull q.who &&
    (shipTouches q.routine q.va.toNat q.a.toNat q.payload).any fun x =>
      match s.pageOf x.1 with
      | some p => p.tol && !((s.stack p.home).bad (p.pa x.1) x.2).isEmpty
      | none => false

/-- Whether a packet may be delivered: released, in order, admitted when enveloped (a clock update is not), not held, its core present
(13 R377), the queue of a core's slot 6 with room (11 R333), a walk with a walker of its server, the queue of a migration with room, what would be recorded only with room in the ring (16 R441), and a publish's reply only once every
invalidation has been acknowledged (11 R338). -/
def State.deliverable (s : State) (p : Packet) : Bool :=
  !p.held && (p.env.all (fun e => e.kind == 5) || p.admitted.isSome) && s.released p && inOrder s.net p && !s.heldForSwitch p &&
    (match p.ev with
     | .shipReply q _ => q.routine != 20 || !(s.net.any fun u =>
         match u.ev with
         | .shapeCacheInvalidate _ op => op == q.op
         | _ => false)
     | .activeMessage _ _ => decide (p.dst ≥ 20000) || decide ((s.coreAt p.dst).amq.length < 32)
     | .tableWalk q => s.hasWalker p.num q && !s.pageQueueFull q
     | .messageArrival m => !s.arrivalWaits p.dst m
     | e => !(requestOf e).any fun q => s.pageQueueFull q || s.substWaits q)

/-- Whether an enveloped packet may be admitted (R314): its counts are reached, its clock update has arrived. -/
def State.admissible (s : State) (p : Packet) : Bool :=
  match p.env with
  | none => false
  | some e =>
    e.kind != 5 && p.admitted.isNone && (s.agents[e.dst]).ready e.src e.seq e.vc &&
      (match e.upd with
       | some n => s.net.all fun u => u.num != n
       | none => true)

/-- Whether an access that an agent admitted earlier is not yet performed at some places: it travels on to its core or server, waits
for slot 6 of its core, or waits for a migration (R314). -/
def State.admittedAt (s : State) (j : Fin 18) (order : List (Nat × Nat)) : Bool :=
  (s.net.any fun p => p.admitted.isSome && agentOf p.dst == j && placesMeet p.order order) ||
    (((s.cid, s.core) :: s.others).any fun c => agentOf c.1 == j && c.2.amq.any fun x =>
      x.1.who.core / 2304 != c.1 / 2304 &&
        placesMeet [(bankPlace c.1 x.2.addr.toNat, bankPlace c.1 x.2.addr.toNat + 1)] order) ||
    s.migrations.any fun m => (m.queued ++ m.held).any fun q => agentOf (serverDst q.stack) == j && placesMeet (reqPlaces q) order

/-- A request or the data of an engine passes from one destination code to another, in an envelope of so many payload flits that is
admitted at once (R312, R314; log entry 122): none while it must wait, for earlier envelopes or for accesses admitted before it. -/
def State.cross (s : State) (src dst : Nat) (order : List (Nat × Nat)) (len : Nat := 0) : Option State :=
  let i := agentOf src
  let j := agentOf dst
  if i = j then some s
  else
    let a := s.agents[i]
    let e := a.header i j 4 len none
    let b := s.agents[j]
    if b.ready i e.seq e.vc && s.window i j && !s.holds i j && !s.admittedAt j order then
      some { s with agents := (s.agents.set i (a.sends i j)).set j ((b.hears i (changedRows a j)).admits i j e.seq) }
    else none

/-- Packets that a condition names leave the network; one that has been numbered goes on without effect, so that the
numbers of its sender stay whole (R314). -/
def State.cull (s : State) (f : Packet → Bool) : State :=
  { s with net := s.net.filterMap fun p =>
      if !f p then some p
      else match p.env with
        | some e => if p.admitted.isNone then some { p with order := [], after := [], ev := .clockUpdate e.dst ⟨e.src, []⟩ } else none
        | none => none }

/-- The network without a packet. -/
def State.dropPacket (s : State) (n : Nat) : State := { s with net := s.net.filter fun p => p.num != n }

/-- A change made with a core in turn; the core and slot in turn are as before. -/
def State.onCore (s : State) (c : Nat) (f : State → State) : State :=
  if c = s.cid then f s else (f (s.focus c 0)).focus s.cid s.sid

end Sys2Proof.Machine
end

