-- ==== Sys2Proof/Machine/Traps.lean ====
section
/-! DEFINITION. Asynchronous traps and the withdrawal of blocking operations (13 R367; 01 R36), and the interruption
of an element-wise instruction (01 R28). -/

namespace Sys2Proof.Machine

/-- The operation a packet carries to its far side, when a withdrawal may still take it back. -/
def askOp : Ev → Option Nat
  | .messageArrival m => if m.offer then some m.op else none
  | .fullemptyRetry f _ => some f.op
  | .eventWaitArrival m => if m.notify then none else some m.op
  | .eventOverflowRetry m => if m.notify then none else some m.op
  | .eventTestArrival m => if m.notify then none else some m.op
  | .barrierArrival _ op _ _ => some op
  | .postArrival m => some m.op
  | _ => none

/-- The operation a packet completes at its issuer. -/
def replyOp : Ev → Option Nat
  | .sendReply _ op _ => some op
  | .remoteReply _ op _ => some op
  | .eventReply m _ _ => some m.op
  | .barrierCompletion _ op _ => some op
  | .msclReply _ op _ => some op
  | _ => none

/-- Whether an operation's completion is already on its way. -/
def State.completing (s : State) (op : Nat) : Bool := s.net.any fun p => replyOp p.ev == some op

/-- The core of a peer of an endpoint entry; a PCORE above 2,303 counts on into the next die (DESIGN CHOICE, log entry 164). -/
def Endpoint.peerCore (x : Endpoint) : Nat := x.pdie.toNat * 2304 + x.pcore.toNat

/-- A change of an endpoint entry. -/
def Core.modEndpoint (c : Core) (e : Nat) (f : Endpoint → Endpoint) : Core :=
  { c with endpoints := c.endpoints.set e (f (c.endpoint e)) }

/-- A waiting post leaves the wait lists of a core. -/
def State.dropPost (s : State) (core op : Nat) : State :=
  s.modCore core fun c => { c with ports := c.ports.map fun p =>
    (p.1, { p.2 with waiting := p.2.waiting.filter fun m => m.op != op }) }

/-- Whether a wait is that of a SENDT or RECVT. -/
def isTile : WaitKind → Bool
  | .tile _ => true
  | _ => false

/-- A change of a fibre of any core. -/
def State.onFibre (s : State) (w : Who) (f : Fibre → Fibre) : State :=
  s.modCore w.core fun c => match c.fibre? w.ent with
    | some x => c.setFibre w.ent (f x)
    | none => c

/-- Whether a tile that a blocked SENDT offers is being transferred (06 R198): its receiver's entry says so. -/
def State.tileMoving (s : State) (w : Wait) : Bool :=
  isTile w.kind && (s.core.endpoint w.ep).busyTile &&
    (let x := s.core.endpoint w.ep
     let y := (s.coreAt x.peerCore).endpoint x.pep.toNat
     y.busyTile && (y.offers.head?.any fun m => m.op == w.op))

/-- An event without the waiter of an operation. -/
def Event.without (v : Event) (op : Nat) : Event :=
  let n := v.waiters.length - v.listed
  let keep (l : List EvMsg) : List EvMsg := l.filter fun m => m.op != op
  { v with waiters := keep v.waiters, listed := (keep (v.waiters.drop n)).length }

/-- Every trace of an operation at its far side is removed: packets, offers, waiting notices, wait-table entries,
event waiters, barrier arrivals; a message counted as sent for it is counted as consumed (07 R227). -/
def State.eraseOp (s : State) (who : Who) (w : Wait) : State :=
  let s := s.cull fun p => askOp p.ev == some w.op
  let x := (s.coreAt who.core).endpoint w.ep
  let entryOff (u : State) : State := u.modCore who.core fun c => c.modEndpoint w.ep fun y => { y with busyTile := false }
  let noticeOff (u : State) : State :=
    if x.pkind = 0 ∧ x.mode = false then
      (u.cull fun p => p.ev == .recvNoticeArrival x.pep.toNat true && p.src == who.core && p.dst == x.peerCore).modCore x.peerCore
        fun c => c.modEndpoint x.pep.toNat fun y => { y with notice := false }
    else u
  let s : State := match w.kind with
    | .send _ | .sendx _ _ | .tile _ =>
      let s := if w.reason = 2 then noticeOff s else s
      let s := if isTile w.kind then (entryOff s).onFibre who fun f => { f with snap := none } else s
      let s := { s with host := { s.host with waiting := s.host.waiting.filter fun q => q.2.op != w.op } }
      (s.modCore x.peerCore fun c => c.modEndpoint x.pep.toNat fun y =>
        { y with offers := y.offers.filter fun m => m.op != w.op }).dropPost x.peerCore w.op
    | .recv _ _ | .recvx _ _ _ => noticeOff s
    | .fe _ _ ea _ =>
      let owner := if ea.toNat < 0x10000 then who.core else bits ea 32 3 * 2304 + bits ea 16 12
      s.modCore owner fun c => { c with waiters := c.waiters.filter fun q => q.1.op != w.op }
    | .event | .evtst _ =>
      { s with dies := s.dies.map fun d =>
          { d with events := d.events.map fun v => v.without w.op } }
    | .joinc _ _ => s.modCore who.core fun c => { c with waiters := c.waiters.filter fun q => q.1.op != w.op }
    | .post => s.dropPost who.core w.op
    | .bar _ _ =>
      { s with jobs := s.jobs.map fun j => (j.1, { j.2 with gangs := j.2.gangs.map fun g =>
          { g with arrived := g.arrived.filter fun a => a.2 != w.op } }) }
    | _ => s
  s.countConsume w.sent (who.core / 2304)

/-- Whether a wait may be withdrawn (13 R367): every reason but REMOTE, with no completion on its way. -/
def State.withdrawable (s : State) (w : Wait) : Bool := w.reason != 7 && !s.completing w.op && !s.tileMoving w

/-- The blocking operation of fibre e of the core in turn is withdrawn; it has had no effect, and the queue words it had
popped stand where they stood. -/
def State.withdraw (s : State) (e : Nat) : State :=
  match (s.core.fibre? e).bind fun f => f.wait with
  | some w => ((s.eraseOp ⟨s.cid, e⟩ w).unpop e w).modFibre e fun f => { f with wait := none }
  | none => s

/-- The fibre in turn is interrupted at an instruction or element boundary (01 R28): a running element-wise
instruction leaves pg naming its next element, and the PC stands at its group. -/
def State.interruptPg (s : State) : State :=
  match s.me.run with
  | some r =>
    s.setCtx { s.ctx with pg := BitVec.ofNat 64 (bits s.ctx.pc 0 16 * 2 ^ 48 + r.k), pc := s.groupPc }
  | none => s.setPc s.groupPc

/-- What the fibre in turn keeps of a tile operation that has waited goes: it is issued anew. -/
def State.forget (s : State) : State := if s.me.run.isSome then s else s.setFib { s.fib with snap := s.fib.snap.filter fun x => x.tile.isNone }

/-- A pending asynchronous trap is taken by the fibre in turn, at a boundary: it is FAULTED and leaves its slot. -/
def State.takeAsync (s : State) (t : Trap) (wdrawn : Bool) : State :=
  let s := s.forget.interruptPg
  let epg := if t.chan then t.epg else s.ctx.pg
  let t := { t with ent := s.me.ent, slot := s.sid.val, epc := s.ctx.pc, epg := epg, wdrawn := wdrawn }
  (s.queueTrap t).swapOut stFaulted 0

/-- Whether the first pending trap of the fibre in turn can be taken at this boundary: a channel's trap only where pg
is 0 (13 R370), none while a slot-scope queue holds an unpopped word (01 R25) or a carry is pending (08 R273), none in
a wait that stands. -/
def State.canTake (s : State) : Bool :=
  match s.fib.pend with
  | [] => false
  | t :: _ =>
    !(t.chan && (s.ctx.pg != 0 || s.me.run.isSome)) && !s.fib.unpopped && !(s.me.run.any fun r => r.carry) &&
      (match s.fib.wait with
       | none => true
       | some w => s.withdrawable w)

/-- The first pending trap of fibre e is taken now if the fibre's state allows it (13 R367): READY and PARKED at
once, BLOCKED after a withdrawal, RUNNING at a boundary, REMOTE after the reply; against a FAULTED fibre it waits for the
return from the trap before it (R368). -/
def State.takePend (s : State) (e : Nat) : State :=
  match s.core.fibre? e with
  | none => s
  | some f =>
    match f.pend with
    | [] => s
    | t :: rest =>
      if t.chan ∧ f.ctx.pg ≠ 0 then s
      else if f.ctx.state = stFaulted then s
      else
        match f.wait with
        | none =>
          if f.unpopped ∧ f.ctx.state = stRunning then s
          else s.asFibre e fun u => (u.setFib { u.fib with pend := rest }).takeAsync t false
        | some w =>
          if s.withdrawable w then
            let s := s.withdraw e
            s.asFibre e fun u => (u.setFib { u.fib with pend := rest }).takeAsync t true
          else s

/-- A fault that an access of slot 7's own meets after its instruction: the path of R371, with the place that slot 7 has
reached. -/
def State.lateFault7 (s : State) (t : Trap) : State :=
  let u := { s with sid := 7 }
  { u.slot7Fault ⟨t.code, t.eaddr, t.eidx, t.arg⟩ u.groupPc u.ctx.pg with sid := s.sid }

/-- An asynchronous trap is raised against fibre e of the core in turn: taken at once unless the fibre is RUNNING,
which takes it at its next boundary; slot 7 takes it as its own fault, and slot 6 faults nothing (13 R371). -/
def State.raiseAsync (s : State) (e : Nat) (t : Trap) : State :=
  if e = 257 then s.lateFault7 t
  else if e = 256 then s
  else
  let s := s.asyncTrap e t
  match s.core.fibre? e with
  | some f => if f.ctx.state = stRunning then s else s.takePend e
  | none => s

end Sys2Proof.Machine
end

