-- ==== Sys2Proof/Machine/Bank.lean ====
section
/-! DEFINITION. What an access does at the bank of a scratchpad: reads, writes, full/empty operations, atomics and
accumulator words (05 R154, R164; 08 R274, R275; 11 R333, R334; 16 R439). -/

namespace Sys2Proof.Machine

/-! Atomic operations (05 Table 5-4). -/

/-- NewValue on words of n bits. -/
def newValue (op : AtomOp) (n old b c : Nat) : Nat :=
  match op with
  | .add => (old + b) % 2 ^ n
  | .swp => b % 2 ^ n
  | .cas => if old = b % 2 ^ n then c % 2 ^ n else old
  | .and => old &&& (b % 2 ^ n)
  | .or => old ||| (b % 2 ^ n)
  | .xor => old ^^^ (b % 2 ^ n)
  | .min => if signedOf n b < signedOf n old then b % 2 ^ n else old
  | .max => if signedOf n old < signedOf n b then b % 2 ^ n else old
  | .minu => if b % 2 ^ n < old then b % 2 ^ n else old
  | .maxu => if old < b % 2 ^ n then b % 2 ^ n else old
  | .inc => (old + 1) % 2 ^ n

/-- The bytes of an access size. -/
def sizeBytes : Size → Nat
  | .b1 => 1
  | .b2 => 2
  | .b4 => 4
  | .b8 => 8

/-- The bytes an access touches. -/
def accSpan (a : Access) : Nat :=
  match a.kind with
  | .load | .store | .atomic _ => sizeBytes a.size
  | .cas16 => 16
  | .accw | .accz | .accset | .accrd => 72
  | _ => 8

/-- The lowest index of a non-zero word, or 9. -/
def firstWord : List DWord → Nat
  | [] => 0
  | w :: t => if w = 0 then 1 + firstWord t else 0

/-- Where in its span the bytes begin that an access brings or reads: an ACCW message brings words w0 to 8 alone (08 R274). -/
def accFrom (a : Access) : Nat :=
  match a.kind with
  | .accw => 8 * min 9 (firstWord a.big)
  | _ => 0

/-! Words of a scratchpad: full/empty bits, poison, counter ports. -/

/-- The word offsets that n bytes from off touch. -/
def wordsOf (off n : Nat) : List Nat := (List.range ((off % 8 + n + 7) / 8)).map fun i => off / 8 * 8 + 8 * i

/-- Whether some word of a range is uncorrectable (16 R439). -/
def Core.poisoned (c : Core) (off n : Nat) : Bool := (wordsOf off n).any fun w => c.poison.contains w

/-- A write of n bytes clears the error of every word it covers whole. -/
def Core.heal (c : Core) (off n : Nat) : Core :=
  { c with poison := c.poison.filter fun w => !(decide (off ≤ w) && decide (w + 8 ≤ off + n)) }

/-- Bytes written to a core's scratchpad. -/
def State.spWrite (s : State) (core off : Nat) (l : List Byte) : State :=
  (s.spPut core off l).modCore core fun c => c.heal off l.length

def Core.isFull (c : Core) (off : Nat) : Bool := c.full.contains off

/-- A word's full/empty bit set to a value. -/
def Core.setFull (c : Core) (off : Nat) (v : Bool) : Core :=
  let rest := c.full.filter fun w => w != off
  { c with full := if v then off :: rest else rest }

/-- The counter port bound to the word at an offset (07 R221). -/
def Core.counterAt (c : Core) (off : Nat) : Option (Nat × Port) :=
  c.ports.find? fun p => p.2.counter && p.2.woff == off / 8 * 8

/-- Whether an address names the own scratchpad of a core: directly or in the peer form (05 R145). -/
def ownAddr (self a : Nat) : Bool := decide (a < 65536) || a / 65536 == spHome self 0 / 65536

/-- The bytes from a side's start to its end, stride gaps within it included. -/
def Layout.srcSpan (l : Layout) : Nat := (l.rows - 1) * l.srcStride + l.srcRow
def Layout.dstSpan (l : Layout) : Nat := (l.rows - 1) * l.dstStride + l.dstRow

/-- Whether a range of scratchpad bytes still waits for the data of a channel: from the watermark to the end of a
copy (05 R178), or a ring slot that awaits its next tile (R187). -/
def Channel.awaits (x : Channel) (self off n : Nat) : Bool :=
  let hit (lo hi : Nat) := decide (off < hi) && decide (lo < off + n)
  if !x.busy then false
  else if x.subscr then
    (List.range x.nslot).any fun k =>
      let j := x.next + k
      decide (j < x.elems) && !(x.full.any fun f => f.1 == j % x.nslot) &&
        hit (x.dst + j % x.nslot * x.slotb) (x.dst + j % x.nslot * x.slotb + x.slotb)
  else x.receivers.isEmpty && ownAddr self x.dst && hit (x.dst % 65536 + (x.wm - x.dst)) (x.dst % 65536 + x.layout.dstSpan)

/-- A range that stalls: a local channel's, or an arriving transfer's (11 R331). -/
def Core.rangeStall (c : Core) (self off n : Nat) : Bool :=
  (c.channels.toList.any fun x => x.awaits self off n) ||
    c.arrivals.any fun a => decide (off < a.hi) && decide (a.wm < off + n)

/-- A range that stalls an access at offset off: the words it brings or reads (08 R274). -/
def Core.accessStall (c : Core) (self off : Nat) (a : Access) : Bool :=
  c.rangeStall self (off + accFrom a) (accSpan a - accFrom a)

/-! Accumulator cells as nine words (08 R273 to R275). -/

/-- The words of a cell from a scratchpad. -/
def State.cellWords (s : State) (core off : Nat) : List DWord :=
  (List.range 9).map fun i => s.spWord core (off + 8 * i)

/-- One word update with carry: the new word and the carry out. -/
def addCarry (w p : DWord) (c : Bool) : DWord × Bool :=
  let t := w.toNat + p.toNat + c.toNat
  (BitVec.ofNat 64 t, decide (t ≥ 2 ^ 64))

/-- Every word update of an addend, lowest first. -/
def addWords : List DWord → List DWord → Bool → List DWord
  | w :: ws, p :: ps, c => let r := addCarry w p c; r.1 :: addWords ws ps r.2
  | _, _, _ => []

/-- The number of elements of an addition that act: a zero word without a carry, below zero words alone, changes nothing
(08 R273). -/
def addSteps : List DWord → List DWord → Bool → Nat
  | w :: ws, p :: ps, c =>
    if !c && (p :: ps).all (fun x => x == 0) then 0 else 1 + addSteps ws ps (addCarry w p c).2
  | _, _, _ => 0

def wordBytes (l : List DWord) : List Byte := l.flatMap fun w => leBytes w.toNat 8

/-- The words of ACCSET. -/
def accSetWords (b : DWord) : List DWord :=
  List.replicate 5 0 ++ [b] ++ List.replicate 3 (if b.msb then BitVec.allOnes 64 else 0)

/-! One access at its bank. -/

inductive BankOut where
  | wait
  | refuse (code : Nat)
  | done (words : List DWord) (s : State) (flip : Bool)

/-- The fault the owner finds (05 R146; 11 R322): a bank crossing, its own coordinates outside its PART1, an offset outside
its PART0 (DEDUCED, log entry 123). -/
def Core.ownerFault (c : Core) (self off n : Nat) : Option Nat :=
  if off % 8192 + n > 8192 then some bankBounds
  else if !c.inPart1 self then some partitionBounds
  else if off < bits c.part0 0 16 ∨ off + n > bits c.part0 16 17 then some partitionBounds
  else none

/-- The address a refusal names: of a counter that would turn negative its word (05 R167; 13 Table 13-1). -/
def State.refusedAt (s : State) (core off : Nat) (a : Access) (code : Nat) : DWord :=
  if code ≠ counterUnderflow then a.addr
  else if a.kind = .cas16 ∧ ((s.coreAt core).counterAt off).isNone ∨ a.kind = .cas16 ∧ a.c.msb = false then a.addr + 8
  else a.addr &&& ~~~(7 : DWord)

/-- The access at a core's bank: indivisible (05 R164; 11 R334). -/
def State.atBank (s : State) (core off : Nat) (a : Access) : BankOut :=
  let c := s.coreAt core
  let n := accSpan a
  let poison := c.poisoned off n
  match a.kind with
  | .load =>
    if poison then .refuse memPoison
    else .done [leWord (s.spBytes core off n)] s false
  | .store => .done [] (s.spWrite core off (leBytes a.a.toNat n)) false
  | .ldfe =>
    if !c.isFull off then .wait
    else if poison then .refuse memPoison
    else .done [s.spWord core off] (s.modCore core fun x => x.setFull off false) true
  | .ldff =>
    if !c.isFull off then .wait
    else if poison then .refuse memPoison
    else .done [s.spWord core off] s false
  | .stfe =>
    if c.isFull off then .wait
    else .done [] ((s.spWrite core off (leBytes a.a.toNat 8)).modCore core fun x => x.setFull off true) true
  | .stff =>
    .done [] ((s.spWrite core off (leBytes a.a.toNat 8)).modCore core fun x => x.setFull off true) (!c.isFull off)
  | .atomic op =>
    if poison then .refuse memPoison
    else
      let old := leNat (s.spBytes core off n)
      let new := newValue op (8 * n) old a.a.toNat a.b.toNat
      let s' := s.spWrite core off (leBytes new n)
      if (c.counterAt off).isSome && (s'.spWord core (off / 8 * 8)).msb then .refuse counterUnderflow
      else .done [BitVec.ofNat 64 old] s' false
  | .cas16 =>
    if poison then .refuse memPoison
    else
      let old := [s.spWord core off, s.spWord core (off + 8)]
      let s' := if old = [a.a, a.b] then s.spWrite core off (wordBytes [a.c, a.e]) else s
      if ((c.counterAt off).isSome && (s'.spWord core off).msb) ||
          ((c.counterAt (off + 8)).isSome && (s'.spWord core (off + 8)).msb) then .refuse counterUnderflow
      else .done old s' false
  | .accw =>
    let w0 := min 9 (firstWord a.big)
    let cell := (s.cellWords core off).drop w0
    let n := addSteps cell (a.big.drop w0) false
    if c.poisoned (off + 8 * w0) (8 * n) then .refuse memPoison
    else .done [] (s.spWrite core (off + 8 * w0) (wordBytes ((addWords cell (a.big.drop w0) false).take n))) false
  | .accz => .done [] (s.spWrite core off (List.replicate 72 0)) false
  | .accset => .done [] (s.spWrite core off (wordBytes (accSetWords a.a))) false
  | .accrd => if poison then .refuse memPoison else .done (s.cellWords core off) s false

end Sys2Proof.Machine
end

