-- ==== Sys2Proof/Machine/Access.lean ====
section
/-! DEFINITION. Plain, posted, full/empty and atomic accesses: regions, checks, paths, completion (05 R145 to R173;
11 R318, R322; 13 R362). -/

namespace Sys2Proof.Machine

/-! Regions and checks. -/

/-- The region classes of 11 Table 11-1. -/
inductive Region where
  | own (off : Nat)
  | peer (core : Nat) (off : Nat)
  | dram
  | host
  | pkg
  | notify (page : Nat) (reg : Nat)
  | none
  deriving DecidableEq, Repr

/-- The class of an effective address for a core (R145; R318). -/
def regionOf (self : Nat) (ea : DWord) : Region :=
  let a := ea.toNat
  if a < 0x10000 then .own a
  else if 0x010000000000 ≤ a ∧ a ≤ 0x0107FFFFFFFF ∧ bits ea 28 4 = 0 ∧ bits ea 16 12 ≤ 2303 then
    let c := bits ea 32 3 * 2304 + bits ea 16 12
    if c = self then .own (a % 65536) else .peer c (a % 65536)
  else if 0x100000000000 ≤ a ∧ a ≤ 0x1FFFFFFFFFFF then .dram
  else if 0x200000000000 ≤ a ∧ a ≤ 0x2FFFFFFFFFFF then .host
  else if 0x300000000000 ≤ a ∧ a ≤ 0x3EFFFFFFFFFF then .pkg
  else if 0x3F0000000000 ≤ a ∧ a ≤ 0x3F0007FFFFFF then .notify (a / 4096 % 32768) (a / 8 % 512)
  else .none

/-- Whether n bytes touch the trap region (13 R362). -/
def State.inTrapRegion (s : State) (a n : Nat) : Bool :=
  let b := bits s.core.trapbase 12 36 * 4096
  decide (a < b + 4722688) && decide (b < a + n)

/-- Whether n bytes at an offset lie in the core's PART0 (11 R322). -/
def Core.inPart0 (c : Core) (off n : Nat) : Bool :=
  decide (bits c.part0 0 16 ≤ off) && decide (off + n ≤ bits c.part0 16 17)

/-- CheckScratch (01 Table 1-6). -/
def State.checkScratch (s : State) (ea : DWord) (n : Nat) : Except Flt Nat :=
  match regionOf s.cid ea with
  | .own off =>
    if off % n ≠ 0 then .error (fltAt misalign ea)
    else if off % 8192 + n > 8192 then .error (fltAt bankBounds ea)
    else if !s.core.inPart0 off n then .error (fltAt partitionBounds ea)
    else .ok off
  | _ => .error (fltAt translation ea)

/-- The checks of R146 in their order: region (with what the instruction refuses of it), the trap region (13 R362),
alignment, the own scratchpad, the partition. -/
def State.checkAccess (s : State) (ea : DWord) (n align : Nat) (refuses : Region → Option Nat) : Except Flt Region :=
  let r := regionOf s.cid ea
  match (if r = .none then some translation else refuses r) with
  | some c => .error (fltAt c ea)
  | none =>
    if r = .dram ∧ s.sid.val ≠ 7 ∧ s.inTrapRegion ea.toNat n = true then .error (fltAt privilege ea)
    else if ea.toNat % align ≠ 0 then .error (fltAt misalign ea)
    else
      match r with
      | .own off =>
        if off % 8192 + n > 8192 then .error (fltAt bankBounds ea)
        else if !s.core.inPart0 off n then .error (fltAt partitionBounds ea)
        else .ok r
      | .peer c _ => if s.core.inPart1 c then .ok r else .error (fltAt partitionBounds ea)
      | .notify _ _ => if n = 8 then .ok r else .error (fltAt misalign ea)
      | _ => .ok r

/-! Paths. -/

/-- The stack a request for an address goes to: the home hint, else the directory (14 R401); whether hinted. -/
def State.route (s : State) (va : Nat) : Nat × Bool :=
  match List.lookup (va / 2 ^ 21) s.core.homes with
  | some k => (k, true)
  | none => (directoryOf va, false)

/-- The use of a home hint makes it the most recent of 64 (14 R401). -/
def State.touchHome (s : State) (va : Nat) : State :=
  match List.lookup (va / 2 ^ 21) s.core.homes with
  | some k => { s with core := { s.core with homes := (va / 2 ^ 21, k) :: s.core.homes.filter fun h => h.1 != va / 2 ^ 21 } }
  | none => s

/-- The event of a request's routine (14 Table 14-3). -/
def routineEv (q : Req) : Ev :=
  match q.routine with
  | 0 => .rd8 q
  | 1 => .rd32 q
  | 2 => .rd64 q
  | 3 => .wt8 q
  | 4 => .wt32 q
  | 5 => .wt64 q
  | 6 => .wtm q
  | 7 => .routineAadd q
  | 8 => .routineAswp q
  | 9 => .routineAcas q
  | 10 => .routineAand q
  | 11 => .routineAor q
  | 12 => .routineAxor q
  | 13 => .routineAmin q
  | 14 => .routineAmax q
  | 15 => .routineAminu q
  | 16 => .routineAmaxu q
  | 17 => .fadd32 q
  | 18 => .xacc q
  | 19 => .gath8 q
  | 20 => .publish q
  | 21 => .fill64 q
  | 22 => if bits q.b 0 8 = 0 then .svcMigrate q else if bits q.b 0 8 = 1 then .svcInval q
          else if bits q.b 0 8 = 2 then .svcLoad q else .svcUnload q
  | 23 => .tsvc q
  | _ => .loadableRoutine q

/-- The routine of an atomic operation (14 Table 14-3); AINC is AADD. -/
def atomRoutine : AtomOp → Nat
  | .add => 7
  | .swp => 8
  | .cas => 9
  | .and => 10
  | .or => 11
  | .xor => 12
  | .min => 13
  | .max => 14
  | .minu => 15
  | .maxu => 16
  | .inc => 7

/-- The request of a plain access or atomic to DRAM (R151; 14 R384, R388). -/
def State.reqOf (s : State) (i : Issuer) (a : Access) : Req :=
  let va := a.addr.toNat
  let r := s.route va
  let sh := va % 8
  let n := accSpan a
  let part := a.kind == .store && n != 8
  let aligned := a.kind == .load || part
  { stack := r.1,
    routine := match a.kind with
      | .load => 0
      | .store => if part then 6 else 3
      | .atomic op => atomRoutine op
      | .cas16 => 9
      | _ => 0
    priv := false, w32 := (match a.kind with
      | .atomic _ => a.size == .b4
      | _ => false), w128 := a.kind == .cas16, tag := 0, queue := 0,
    origin := match i.via with
      | .journal _ => 2
      | _ => 1
    who := i.who, op := i.op, via := i.via, jent := match i.via with
      | .journal j => j
      | _ => 0
    hops := 0, hinted := r.2, va := BitVec.ofNat 48 (if aligned then va / 8 * 8 else va),
    a := if part then BitVec.ofNat 64 ((a.a.toNat % 2 ^ (8 * n)) * 2 ^ (8 * sh)) else if a.kind == .atomic .inc then 1 else a.a,
    b := if part then BitVec.ofNat 64 ((2 ^ n - 1) * 2 ^ sh) else a.b,
    payload := if a.kind == .cas16 then wordBytes [a.a, a.b, a.c, a.e] else [], job := i.job }

/-- Where an access leaves the core to, and the place that keeps program order: a bank, a granule, a window. -/
def State.goes (s : State) (r : Region) (i : Issuer) (a : Access) : Nat × Nat × Ev :=
  match r with
  | .peer c off => (c, bankPlace c off, .activeMessage i a)
  | .dram => (serverDst (s.route a.addr.toNat).1, 2 ^ 20 + a.addr.toNat / 32, routineEv (s.reqOf i a))
  | .pkg => (officeDst, 2 ^ 19 + 1, .activeMessage i a)
  | _ => (hostDst, 2 ^ 19, .activeMessage i a)

/-- An access leaves the core, after the operations a release waits for (R166); it is counted as sent (R148). -/
def State.launch (s : State) (r : Region) (i : Issuer) (a : Access) (after : List Nat) : State :=
  let g := s.goes r i a
  ((if r = .dram then s.touchHome a.addr.toNat else s).countSend i.job s.die).sendFrom s.cid g.1 (if after.isEmpty then none else some i.who) after (some g.2.1) g.2.2

/-! Results. -/

/-- The register and value that an operation delivers. -/
def resultOf (k : WaitKind) (words : List DWord) : Option (Reg × DWord) :=
  let w := words.headD 0
  match k with
  | .load d sz sx =>
    some (d, if sx then (w.setWidth (8 * sizeBytes sz)).signExtend 64 else (w.setWidth (8 * sizeBytes sz)).setWidth 64)
  | .fe .ldfe d _ _ => some (d, w)
  | .fe .ldff d _ _ => some (d, w)
  | .atomic d _ => some (d, w)
  | .accrd t d rm sat => some (d, BitVec.ofNat 64 (accRead t rm.toNat sat words).1)
  | .mscl d => some (d, w)
  | .sendx _ d => some (d, 0)
  | .joinc d _ => some (d, w)
  | _ => none

/-- What else the result changes: the pair of a 16-byte ACAS (R168), the flags of ACCRD (03 R105), JOIN of a fork
frame (06 R212). -/
def State.sideResult (s : State) (k : WaitKind) (words : List DWord) : State :=
  match k with
  | .cas16 d => s.writePair d (words.getD 0 0) (words.getD 1 0)
  | .accrd t _ rm sat => s.setCtx (s.ctx.orFlags (accRead t rm.toNat sat words).2)
  | .joinc _ f => s.spWrite s.cid f (leBytes (s.spWord s.cid f + 0x100).toNat 8)
  | _ => s

/-- The tag of a MEM_POISON (R151; 16 R439): 9 for a scratchpad, else 8. -/
def poisonArg (code : Nat) (ea : DWord) : BitVec 8 :=
  if code = memPoison then (if ea.toNat < 0x100000000000 then 9 else 8) else 0

def accessFlt (code : Nat) (ea : DWord) : Flt := ⟨code, ea, 0, poisonArg code ea⟩

/-- The end of fibre e's waited access with its result; none while a destination queue is full. -/
def State.finishAccess (s : State) (e : Nat) (w : Wait) (r : Result) : Option State :=
  if r.code ≠ 0 then some (s.faultWait e w (accessFlt r.code r.addr))
  else
    let s1 := s.asFibre e fun t => t.sideResult w.kind r.words
    match resultOf w.kind r.words with
    | some (d, v) => s1.finishWait e w (some d) v
    | none => s1.finishWait e w none 0

/-- The value a split-phase access pushes. -/
def splitValue (k : WaitKind) (words : List DWord) : DWord :=
  match resultOf k words with
  | some (_, v) => v
  | none => 0

/-- The word of a split-phase access comes (R150); a refused one brings 0. -/
def State.fillQam (s : State) (e op : Nat) (words : Option (List DWord)) : State :=
  let fill (q : QamEntry) : QamEntry :=
    if q.op = op then { q with val := some (match words with
      | some l => splitValue q.kind l
      | none => 0) } else q
  s.modFibre e fun f => { f with qam := f.qam.map fill }

/-- The event that answers an access at its issuer. -/
def answerEv (i : Issuer) (r : Result) : Ev :=
  match i.via with
  | .wait => .remoteReply i.who i.op r
  | .qam => .splitPhaseReply i.who i.op r
  | .journal j => if r.code = 0 then .journalAck j i.op else .postedStoreRefused j i.op r

/-- The answer of an access to its issuer; the answers of one core to another keep their order (11 R323). -/
def State.answer (s : State) (i : Issuer) (r : Result) : State := s.sendTo i.who.core (some (2 ^ 57 + i.who.core)) (answerEv i r)

/-- A refused access tells its issuer: in one step when it waits on this core. -/
def State.refuseTo (s : State) (i : Issuer) (addr : DWord) (code : Nat) : State :=
  match (if i.who.core = s.cid ∧ i.via = .wait then (s.core.fibre? i.who.ent).bind fun f => f.wait else none) with
  | some w => if w.op = i.op then s.faultWait i.who.ent w (accessFlt code addr) else s
  | none => s.answer i ⟨code, addr, false, []⟩

/-- The value of a split-phase full/empty load or of an access by an issuer of this core, delivered in one step. -/
def State.satisfy (s : State) (i : Issuer) (a : Access) (words : List DWord) : Option State :=
  let r : Result := ⟨0, a.addr, false, words⟩
  if i.who.core = s.cid then
    match i.via with
    | .qam => some (s.fillQam i.who.ent i.op (some words))
    | _ =>
      match (s.core.fibre? i.who.ent).bind fun f => f.wait with
      | some w => if w.op = i.op then s.finishAccess i.who.ent w r else some s
      | none => some s
  else some (s.answer i r)

/-- The first waiter of a word, in table order, that can proceed now: the state after it has. A word above the watermark of
a transfer holds its waiters (R178). -/
def State.serveFirst (s : State) (off : Nat) : List (Issuer × Access) → Option State
  | [] => none
  | (i, a) :: t =>
    if a.addr.toNat % 65536 = off ∧ s.core.accessStall s.cid off a = false then
      match s.atBank s.cid off a with
      | .done ws s' _ =>
        match ({ s' with core := { s'.core with waiters := s'.core.waiters.filter fun q => q.1 != i } }).satisfy i a ws with
        | some s'' => some s''
        | none => s.serveFirst off t
      | .refuse c =>
        some (({ s with core := { s.core with waiters := s.core.waiters.filter fun q => q.1 != i } }).refuseTo i a.addr c)
      | .wait => s.serveFirst off t
    else s.serveFirst off t

/-- The waiters of a word are re-tested after its bit has changed (R155), in table order, until none can proceed. -/
def State.retest : Nat → State → Nat → State
  | 0, s, _ => s
  | n + 1, s, off =>
    match s.serveFirst off s.core.waiters with
    | some s' => State.retest n s' off
    | none => s

/-- A waiter joins the core's wait table, or, when it is full, retries 64 cycles later (R155). -/
def State.recordWaiter (s : State) (i : Issuer) (a : Access) : State :=
  if s.core.waiters.length < 32 then { s with core := { s.core with waiters := s.core.waiters ++ [(i, a)] } }
  else s.send s.cid (.fullemptyRetry i a)

/-! Issue. -/

/-- Whether an earlier split-phase acquire of the fibre is not performed yet (R150): later accesses wait. -/
def State.heldByAcquire (s : State) : Bool := s.fib.qam.any fun q => q.acq && q.val.isNone

/-- A qam entry is reserved for the operation numbered next. -/
def State.reserveQam (s : State) (ea : DWord) (acq : Bool) (k : WaitKind) (v : Option DWord) (job : Option Nat) : State :=
  { (s.setFib { s.fib with qam := s.fib.qam ++ [⟨s.nextId, ea, acq, k, v, job⟩] }) with nextId := s.nextId + 1 }

/-- The lowest free journal entry (R157; which free index an entry takes is a DESIGN CHOICE, log entry 124). -/
def Core.freeJournal? (c : Core) : Option Nat := (List.range 32).find? fun i => c.journal.all fun j => j.idx != i

/-- A journal entry for the operation numbered next (R156). -/
def State.addJournal (s : State) (j : Nat) (a : Access) : State :=
  let e : JEntry := { idx := j, op := s.nextId, ent := s.self.ent, addr := a.addr, size := a.size,
                      atomic := a.kind != .store, data := a.a, cause := none, seq := s.nextId, job := s.myJob }
  { s with core := { s.core with journal := s.core.journal ++ [e] }, nextId := s.nextId + 1 }

/-- A posted access that leaves the core occupies its slot for one cycle (05 R156; log entry 147). -/
def State.quick (s : State) : State := s.setMe { s.me with lat := 1 }

/-- How an access reports: it waits, it is split-phase, it is posted. -/
inductive Path where
  | wait
  | split
  | post
  deriving DecidableEq, Repr

/-- The result of a bank access of the instruction in turn, written and completed; s is the state before any pop. -/
def State.bankDone (s s' : State) (k : WaitKind) (words : List DWord) (off : Nat) : State :=
  let s1 := s'.sideResult k words
  match resultOf k words with
  | some (d, v) =>
    match s1.dstCheck d v with
    | .ok => State.retest 33 (s1.writeReg d v).advance off
    | .stall => s.stall
    | .fault f => s.raise f
  | none => State.retest 33 s1.advance off

/-- The trap of a split-phase access refused at its target (R150): MEM_POISON with tag 8. -/
def splitRefused (code : Nat) (addr : DWord) : Trap :=
  asyncOf code (if code = memPoison then 8 else 0) addr 0 0 none false

/-- Whether an access is a write that the host die posts (10 R316). -/
def writesHost (k : AccKind) : Bool := k == .store

/-- An access whose operands are read: s before the pops, s' after them; reads and vs: the registers read and what they
gave; after: what a release waits for. -/
def State.accessOf (s s' : State) (reads : List Reg) (vs : List DWord) (a : Access) (k : WaitKind) (path : Path)
    (rel acq : Bool) (align : Nat) (refuses : Region → Option Nat) : State :=
  match s.checkAccess a.addr (accSpan a) align refuses with
  | .error f => s.raise f
  | .ok r =>
    let after := if rel then s.outstanding else []
    if s.heldByAcquire then s.stall
    else if path = .split ∧ s'.fib.qam.length ≥ 4 then s.stall
    else
      match r with
      | .own off =>
        if s.core.accessStall s.cid off a then s.stall
        else if !after.isEmpty then s.stall
        else
          match s'.atBank s.cid off a with
          | .refuse c =>
            if path = .split then
              ((s'.reserveQam a.addr acq k (some 0) none).advance).raiseAsync s'.self.ent (splitRefused c (s'.refusedAt s.cid off a c))
            else s.raise (accessFlt c (s'.refusedAt s.cid off a c))
          | .done ws s'' _ =>
            if path = .split then State.retest 33 (s''.reserveQam a.addr acq k (some (splitValue k ws)) none).advance off
            else s.bankDone s'' k ws off
          | .wait =>
            let i : Issuer := ⟨s'.self, s'.nextId, if path = .split then .qam else .wait, s'.myJob⟩
            if path = .split then ((s'.reserveQam a.addr acq k none none).advance).recordWaiter i a
            else (s'.block ((s'.newWait k 4 none 0 (some a)).popped reads vs)).recordWaiter i a
      | _ =>
        let job := s'.myJob
        let s' := if r = .host ∧ writesHost a.kind = true then s'.setFib { s'.fib with unflushed := true } else s'
        match path with
        | .split =>
          let i : Issuer := ⟨s'.self, s'.nextId, .qam, job⟩
          ((s'.reserveQam a.addr acq k none job).advance).launch r i a after
        | .post =>
          match s.core.freeJournal? with
          | none => s.stall
          | some j =>
            let i : Issuer := ⟨s'.self, s'.nextId, .journal j, job⟩
            ((s'.addJournal j a).quick.advance).launch r i a after
        | .wait =>
          let i : Issuer := ⟨s'.self, s'.nextId, .wait, job⟩
          (s'.block (((s'.newWait k 7 none 0 (some a)).popped reads vs).counted job)).launch r i a after

/-- The same of an access whose words a withdrawal need not return. -/
def State.access (s s' : State) (a : Access) (k : WaitKind) (path : Path) (rel acq : Bool) (align : Nat)
    (refuses : Region → Option Nat) : State := s.accessOf s' [] [] a k path rel acq align refuses

/-- The gate's view of a destination: the split-phase forms may name qam (R150). -/
def splitDst (d : Reg) : Option Reg := if d = .qam then none else some d

def pathOf (d : Reg) : Path := if d = .qam then .split else .wait

def noAccess : Access := ⟨.load, 0, .b8, 0, 0, 0, 0, []⟩

/-- The effective address of R149. -/
def effective (base off : DWord) (n : Nat) : DWord := base + off * BitVec.ofNat 64 n

/-- What Table 5-1 refuses of a plain access: nothing but the size of a notify access, which is an alignment fault. -/
def plainRefuses (_ : Region) : Option Nat := none

/-- A plain load. -/
def State.load (s : State) (sx : Bool) (sz : Size) (d a : Reg) (off : BitVec 12) : Host.Outcome State Fault Refusal :=
  s.issue ⟨[a], splitDst d, false, false⟩ fun v s' =>
    let ea := effective (arg v 0) (s.immM off) (sizeBytes sz)
    s.access s' { noAccess with addr := ea, size := sz } (.load d sz sx) (pathOf d) false false (sizeBytes sz) plainRefuses

/-- LD. -/
def execLd (sz : Size) (d a : Reg) (off : BitVec 12) (s : State) : Host.Outcome State Fault Refusal := s.load false sz d a off

/-- LDS. -/
def execLds (sz : Size) (d a : Reg) (off : BitVec 12) (s : State) : Host.Outcome State Fault Refusal := s.load true sz d a off

/-- A store, waited for or posted. -/
def State.store (s : State) (path : Path) (sz : Size) (d a : Reg) (off : BitVec 12) : Host.Outcome State Fault Refusal :=
  s.issue ⟨[a, d], none, false, false⟩ fun v s' =>
    let ea := effective (arg v 0) (s.immM off) (sizeBytes sz)
    s.access s' { noAccess with kind := .store, addr := ea, size := sz, a := arg v 1 } .store path false false
      (sizeBytes sz) plainRefuses

/-- ST. -/
def execSt (sz : Size) (d a : Reg) (off : BitVec 12) (s : State) : Host.Outcome State Fault Refusal := s.store .wait sz d a off

/-- PST (R156): to the own scratchpad exactly ST. -/
def execPst (sz : Size) (d a : Reg) (off : BitVec 12) (s : State) : Host.Outcome State Fault Refusal := s.store .post sz d a off

/-- The regions of the full/empty group (Table 5-1). -/
def feRefuses : Region → Option Nat
  | .own _ | .peer _ _ => none
  | _ => some translation

/-- LDFE and LDFF (R154): acquires. -/
def State.feLoad (s : State) (k : AccKind) (d a : Reg) (off : BitVec 12) : Host.Outcome State Fault Refusal :=
  s.issue ⟨[a], splitDst d, false, false⟩ fun v s' =>
    let ea := effective (arg v 0) (off.signExtend 64) 8
    s.accessOf s' [a] v { noAccess with kind := k, addr := ea } (.fe k d ea 0) (pathOf d) false true 8 feRefuses

/-- LDFE. -/
def execLdfe (d a : Reg) (off : BitVec 12) (s : State) : Host.Outcome State Fault Refusal := s.feLoad .ldfe d a off

/-- LDFF. -/
def execLdff (d a : Reg) (off : BitVec 12) (s : State) : Host.Outcome State Fault Refusal := s.feLoad .ldff d a off

/-- STFE and STFF (R154): releases; d is read after a. -/
def State.feStore (s : State) (k : AccKind) (d a : Reg) (off : BitVec 12) : Host.Outcome State Fault Refusal :=
  s.issue ⟨[a, d], none, false, false⟩ fun v s' =>
    let ea := effective (arg v 0) (off.signExtend 64) 8
    s.accessOf s' [a, d] v { noAccess with kind := k, addr := ea, a := arg v 1 } (.fe k .z ea (arg v 1)) .wait true false 8 feRefuses

/-- STFE. -/
def execStfe (d a : Reg) (off : BitVec 12) (s : State) : Host.Outcome State Fault Refusal := s.feStore .stfe d a off

/-- STFF. -/
def execStff (d a : Reg) (off : BitVec 12) (s : State) : Host.Outcome State Fault Refusal := s.feStore .stff d a off

/-! Atomics (R163 to R170). -/

/-- What Table 5-1 and R169 refuse of an atomic. -/
def atomRefuses (op : AtomOp) : Region → Option Nat
  | .notify _ _ => some translation
  | .host => if op = .add ∨ op = .swp ∨ op = .cas then none else some hostAtomicUnsupported
  | _ => none

def isRel (o : Order) : Bool := o == .rel || o == .ar
def isAcq (o : Order) : Bool := o == .acq || o == .ar

/-- How an atomic reports (R165): posted with d = z and no acquire, never towards the host. -/
def State.atomPath (s : State) (o : Order) (d : Reg) (ea : DWord) : Path :=
  if d = .qam then .split
  else if d = .z ∧ isAcq o = false ∧ regionOf s.cid ea ≠ .host then .post
  else .wait

/-- An atomic on one word. -/
def State.atomicOp (s : State) (op : AtomOp) (o : Order) (sz : Size) (d a : Reg) (bs : List Reg) :
    Host.Outcome State Fault Refusal :=
  s.issue ⟨a :: bs, splitDst d, false, false⟩ fun v s' =>
    let ea := arg v 0
    s.access s' { noAccess with kind := .atomic op, addr := ea, size := sz, a := arg v 1, b := arg v 2 } (.atomic d sz)
      (s.atomPath o d ea) (isRel o) (isAcq o) (sizeBytes sz) (atomRefuses op)

/-- ACAS on 16 bytes (R168): the pair d is read before the swap. -/
def State.wideCas (s : State) (o : Order) (d a b : Reg) : Host.Outcome State Fault Refusal :=
  s.issue ⟨[a, b, pairNext b, d, pairNext d], some d, false, false⟩ fun v s' =>
    let ea := arg v 0
    s.access s' { noAccess with kind := .cas16, addr := ea, a := arg v 1, b := arg v 2, c := arg v 3, e := arg v 4 }
      (.cas16 d) (s.atomPath o d ea) (isRel o) (isAcq o) 16 (atomRefuses .cas)

/-- AADD. -/
def execAadd (o : Order) (sz : Size) (d a b : Reg) (s : State) : Host.Outcome State Fault Refusal := s.atomicOp .add o sz d a [b]

/-- ASWP. -/
def execAswp (o : Order) (sz : Size) (d a b : Reg) (s : State) : Host.Outcome State Fault Refusal := s.atomicOp .swp o sz d a [b]

/-- ACAS; with WIDE on 16 bytes (R168), for which d must be a pair (02 R49). -/
def execAcas (o : Order) (sz : Size) (d a b : Reg) (s : State) : Host.Outcome State Fault Refusal :=
  if s.wideOn then
    if d.isPair then s.wideCas o d a b else .next (s.raise (flt reservedField))
  else s.atomicOp .cas o sz d a [b, pairNext b]

/-- AAND. -/
def execAand (o : Order) (sz : Size) (d a b : Reg) (s : State) : Host.Outcome State Fault Refusal := s.atomicOp .and o sz d a [b]

/-- AOR. -/
def execAor (o : Order) (sz : Size) (d a b : Reg) (s : State) : Host.Outcome State Fault Refusal := s.atomicOp .or o sz d a [b]

/-- AXOR. -/
def execAxor (o : Order) (sz : Size) (d a b : Reg) (s : State) : Host.Outcome State Fault Refusal := s.atomicOp .xor o sz d a [b]

/-- AMIN. -/
def execAmin (o : Order) (sz : Size) (d a b : Reg) (s : State) : Host.Outcome State Fault Refusal := s.atomicOp .min o sz d a [b]

/-- AMAX. -/
def execAmax (o : Order) (sz : Size) (d a b : Reg) (s : State) : Host.Outcome State Fault Refusal := s.atomicOp .max o sz d a [b]

/-- AMINU. -/
def execAminu (o : Order) (sz : Size) (d a b : Reg) (s : State) : Host.Outcome State Fault Refusal := s.atomicOp .minu o sz d a [b]

/-- AMAXU. -/
def execAmaxu (o : Order) (sz : Size) (d a b : Reg) (s : State) : Host.Outcome State Fault Refusal := s.atomicOp .maxu o sz d a [b]

/-- AINC. -/
def execAinc (o : Order) (sz : Size) (d a : Reg) (s : State) : Host.Outcome State Fault Refusal := s.atomicOp .inc o sz d a []

/-! Fences (R171 to R173; 10 R304, R316). -/

/-- The operation of a fibre that a packet carries to its target. -/
def carriedOp (p : Packet) : Option (Who × Nat) :=
  match p.ev with
  | .activeMessage f _ => some (f.who, f.op)
  | e => if isSignal e then p.afterWho.map fun w => (w, p.num) else (requestOf e).map fun q => (q.who, q.op)

/-- Whether a posted access of the fibre in turn has not yet come as far as a scope below the package asks (10 Table
10-2): left the core, or, for .clus and .die, performed at a home on the die, or numbered into an envelope. -/
def State.travelling (s : State) (c : Scope) (op : Nat) : Bool :=
  let near (w : DWord) : Bool := match regionOf s.cid w with
    | .peer k _ => k / 2304 == s.die
    | _ => false
  (c != .core && s.core.journal.any fun j => j.op == op && j.ent == s.self.ent && near j.addr) ||
    s.net.any fun p => carriedOp p == some (s.self, op) &&
      (match c with
       | .core => !s.released p
       | _ => p.env.isNone)

/-- The operations of the fibre in turn that a FENCE of a scope still waits for: reads until they have returned; writes
as far as Table 10-2 says. -/
def State.fenced (s : State) (c : Scope) : List Nat :=
  match c with
  | .pkg | .sys => s.outstanding
  | _ =>
    s.core.returning s.self.ent ++
      s.outstanding.filter fun op => !(s.core.returning s.self.ent).contains op && s.travelling c op

/-- FENCE.bank: the accesses to the bank that a names. -/
def execFenceBank (a : Reg) (s : State) : Host.Outcome State Fault Refusal :=
  s.issue ⟨[a], none, false, false⟩ fun v s' =>
    let bank (w : DWord) : Option (Nat × Nat) :=
      match regionOf s.cid w with
      | .own off => some (s.cid, off / 8192)
      | .peer c off => some (c, off / 8192)
      | _ => none
    match bank (arg v 0) with
    | none => s.raise (fltAt translation (arg v 0))
    | some b =>
      let j := s.core.journal.any fun e => e.ent == s.self.ent && bank e.addr == some b
      let q := s.fib.qam.any fun e => e.val.isNone && bank e.addr == some b
      if j || q then s.stall else s'.advance

/-- The zero-length read that the host die issues behind the host-window writes of a fibre (10 R316). -/
def State.startFlush (s : State) (w : Who) : State :=
  let t := s.onFibre w fun f => { f with flush := some s.nextId, unflushed := false }
  { t with nextId := s.nextId + 1, outside := t.outside ++ [Outside.pcieRead false 0 0 s.nextId] }

/-- A flush read of fibre e of the core in turn has completed. -/
def State.flushed (s : State) (e op : Nat) : State :=
  s.modFibre e fun f => if f.flush = some op then { f with flush := none } else f

/-- FENCE at the other scopes; .sys ends once a flush read has completed behind the fibre's host-window writes. -/
def execFence (c : Scope) (s : State) : Host.Outcome State Fault Refusal :=
  s.issue ⟨[], none, false, false⟩ fun _ s' =>
    if !(s.fenced c).isEmpty then s.stall
    else if c = .sys ∧ s.fib.flush.isSome = true then s.stall
    else if c = .sys ∧ s.fib.unflushed = true then (s.startFlush s.self).stall
    else s'.advance

end Sys2Proof.Machine
end

