-- ==== Sys2Proof/Machine/Record.lean ====
section
/-! DEFINITION. The flight recorder (16 R441, R442) and the records of status and dead letters (12 R353; 06 R205, R220). -/

namespace Sys2Proof.Machine

/-! Recorder entries (16 Table 16-6). -/

def kArrival : Nat := 1
def kNotify : Nat := 2
def kAlt : Nat := 3
def kExpiry : Nat := 4
def kTime : Nat := 5
def kLaunch : Nat := 6
def kSent : Nat := 7
def kSubst : Nat := 8

/-- The recorder of the die in turn. -/
def State.rec0 (s : State) : Recorder := s.dies[Fin.ofNat 8 s.die].recorder

/-- Whether the ring of the die in turn has no room for one more entry. -/
def State.ringFull (s : State) : Bool := s.ringFullAt s.die

/-- Whether the instruction in turn must wait for room in the ring. -/
def State.recStall (s : State) : Bool := s.recMode s.fib == 1 && s.ringFull

/-- One entry for an event of fibre e of the core in turn; mark: what Table 16-6 has no field for, the form of an arrival or a
timer's expiry, in the bits of bytes 4 to 7 above the handle (DESIGN CHOICE, log entry 152). A full ring keeps its entries. -/
def State.record (s : State) (e kind ep : Nat) (value : DWord) (mark : Nat := 0) : State :=
  match s.core.fibre? e with
  | none => s
  | some f =>
    if s.recMode f = 0 then s
    else
      let s1 := s.modFibre e fun x => { x with fseq := x.fseq + 1 }
      if s.recMode f = 1 ∧ s.ringFull = false then
        let r := s.rec0
        let bytes := [BitVec.ofNat 8 kind, BitVec.ofNat 8 ep] ++ leBytes (f.job.getD 0 % 4096) 2 ++
          leBytes ((whoHandle ⟨s.cid, e⟩).toNat + mark * 2 ^ 28) 4 ++ leBytes f.fseq 8 ++ leBytes value.toNat 8 ++ leBytes s.now 8
        let s2 := (s1.vPut (r.base + r.head % 2 ^ r.log2) bytes).getD s1
        let d := s2.dies[Fin.ofNat 8 s.die]
        { s2 with dies := s2.dies.set (Fin.ofNat 8 s.die) { d with recorder := { r with head := r.head + 32 } } }
      else s1

/-- The entry of a ring for a handle and count (structural on the count of entries): kind with 256 times its mark, endpoint, value. -/
def State.findEntry (s : State) (r : Recorder) (h : DWord) (n : Nat) : Nat → Nat → Option (Nat × Nat × DWord)
  | 0, _ => none
  | k + 1, pos =>
    match s.vBytes (r.base + pos % 2 ^ r.log2) 32 with
    | none => none
    | some l =>
      if leNat ((l.drop 4).take 4) % 2 ^ 23 = h.toNat ∧ leNat ((l.drop 8).take 8) = n then
        some ((l.getD 0 0).toNat + (l.getD 7 0).toNat / 16 * 256, (l.getD 1 0).toNat, leWord ((l.drop 16).take 8))
      else s.findEntry r h n k (pos + 32)

/-- In replay, the next entry of fibre e of the core in turn. -/
def State.replayed (s : State) (e : Nat) : Option (Nat × Nat × DWord) :=
  match s.core.fibre? e with
  | none => none
  | some f =>
    if s.recMode f = 2 then
      let r := s.rec0
      s.findEntry r (whoHandle ⟨s.cid, e⟩) f.fseq ((r.head - r.tail) / 32) r.tail
    else none

/-! Records to the host mailboxes. -/

/-- A status record (12 Table 12-6). -/
def statusWords (kind code pool die : Nat) (handle : DWord) (time : Nat) (data : DWord) (lost : Bool) : List DWord :=
  [BitVec.ofNat 64 (kind + code * 2 ^ 8 + pool % 4096 * 2 ^ 16 + lost.toNat * 2 ^ 28 + die % 8 * 2 ^ 29 +
      bits handle 0 23 * 2 ^ 32), BitVec.ofNat 64 time, data]

/-- A status record filed in a die's queue for a mailbox; at most 1,024 are kept, the oldest is then overwritten. -/
def State.fileStatus (s : State) (die box : Nat) (words : List DWord) : State :=
  let d := s.dies[Fin.ofNat 8 die]
  let q := d.status ++ [(box, words)]
  let d := if q.length > 1024 then { d with status := q.drop 1, statusLost := true } else { d with status := q }
  { s with dies := s.dies.set (Fin.ofNat 8 die) d }

/-- A dead-letter or misdelivery record (06 Table 6-12): header and entry words. -/
def deadLetterWords (n kind die time : Nat) (entries : List DWord) : List DWord :=
  BitVec.ofNat 64 (n % 256 + kind * 2 ^ 8 + die % 8 * 2 ^ 10 + time % 2 ^ 48 * 2 ^ 16) :: entries

/-- Whether a unit of n words has room in an outbound FIFO (15 R422). -/
def State.boxRoom (s : State) (m n : Nat) : Bool := decide ((s.box m).outq.length + n ≤ 256)

/-- A record of the dead-letter unit goes to a host mailbox, whole and once there is room for it (15 R422). -/
def State.fileDeadLetter (s : State) (box : Nat) (words : List DWord) : State :=
  if (s.host.letters.any fun l => l.1 == box) || !s.boxRoom box words.length then
    { s with host := { s.host with letters := s.host.letters ++ [(box, words)] } }
  else s.outPush box 3 (words.map fun w => (w, Body.word w))

/-- The waiting records of the dead-letter unit enter a mailbox in their order, as far as there is room (structural on a count). -/
def State.sendLetters : Nat → State → Nat → State
  | 0, s, _ => s
  | n + 1, s, box =>
    match s.host.letters.find? fun l => l.1 == box with
    | none => s
    | some l =>
      if s.boxRoom box l.2.length then
        State.sendLetters n (({ s with host := { s.host with letters := s.host.letters.erase l } }).outPush box 3
          (l.2.map fun w => (w, Body.word w))) box
      else s

/-- Entry word 0 and 1 of Table 6-12. -/
def entryWord0 (handle : DWord) (reason ep : Nat) : DWord :=
  BitVec.ofNat 64 (bits handle 0 23 + reason % 16 * 2 ^ 24 + ep % 64 * 2 ^ 32)

def entryWord1 (handle : DWord) (ep : Nat) : DWord := BitVec.ofNat 64 (bits handle 0 23 + ep % 64 * 2 ^ 32)

/-- The mailbox of a job's owner; mailbox 0 without a job. -/
def State.ownerBox (s : State) (j : Option Nat) : Nat :=
  match j.bind s.jobs.get? with
  | some x => x.ownerq
  | none => 0

/-- A misdelivery record (R205): the sender, zero from outside, and the refusing receiver of the core in turn. -/
def State.misdelivery (s : State) (job : Option Nat) (src : Option (Who × Nat)) (e : Nat) : State :=
  let x := s.core.endpoint e
  let w0 := match src with
    | some (w, ep) => entryWord0 (whoHandle w) 0 ep
    | none => 0
  let w1 := entryWord1 (whoHandle ⟨s.cid, if x.valid then x.owner.toNat else 0⟩) e
  s.fileDeadLetter (s.ownerBox job) (deadLetterWords 1 1 s.die s.now [w0, w1])

end Sys2Proof.Machine
end

