-- ==== Sys2Proof/Machine/Replies.lean ====
section
/-! DEFINITION. Replies and acknowledgements that reach a core (05 R149, R150, R155 to R158, R167). -/

namespace Sys2Proof.Machine

/-- The wait of a fibre of the core in turn, if it is the operation named. -/
def State.waitOf (s : State) (e op : Nat) : Option (Fibre × Wait) :=
  match s.core.fibre? e with
  | none => none
  | some f =>
    match f.wait with
    | none => none
    | some w => if w.op = op then some (f, w) else none

/-- The operations whose message is consumed elsewhere. -/
def isPost : WaitKind → Bool
  | .post | .send _ | .sendx _ _ | .submit => true
  | _ => false

/-- The reply or refusal of a waited access at the core in turn; it is consumed when it is delivered (R148). While the
destination queue has no room the reply waits at the core. -/
def State.remoteReply (s : State) (who : Who) (op : Nat) (r : Result) : State :=
  match s.waitOf who.ent op with
  | none => s
  | some (_, w) =>
    match s.finishAccess who.ent w r with
    | some s' => if isPost w.kind then s' else s'.countConsume w.sent s.die
    | none => s.send s.cid (.remoteReply who op r)

/-- SPLIT_PHASE_REPLY: the word enters qam in issue order; a refusal pushes 0 and traps asynchronously, MEM_POISON
with tag 8 (R150). A reply for a fibre that is not resident is held (01 R25). -/
def State.splitReply (s : State) (who : Who) (op : Nat) (r : Result) : State :=
  match s.core.fibre? who.ent with
  | none => s
  | some f =>
    if (s.core.slotOf? who.ent).isNone then s.send s.cid (.splitPhaseReply who op r)
    else
      let s1 := (s.fillQam who.ent op (if r.code = 0 then some r.words else none)).countConsume
        ((f.qam.find? fun q => q.op = op).bind fun q => q.sent) s.die
      if r.code = 0 then s1 else s1.raiseAsync who.ent (splitRefused r.code r.addr)

def execSplitPhaseReply (who : Who) (op : Nat) (r : Result) (s : State) : Host.Outcome State Fault Refusal :=
  .next (s.onCore who.core fun t => t.splitReply who op r)

/-- FULLEMPTY_NOTICE: the reason of a remote full/empty wait turns from REMOTE to FULLEMPTY (R155). -/
def State.feNotice (s : State) (who : Who) (op : Nat) : State :=
  match s.waitOf who.ent op with
  | none => s
  | some (f, w) =>
    let c := if f.ctx.state = stBlocked then f.ctx.inState stBlocked 4 else f.ctx
    s.modFibre who.ent fun x => { x with ctx := c, wait := some { w with reason := 4 } }

def execFullemptyNotice (who : Who) (op : Nat) (s : State) : Host.Outcome State Fault Refusal :=
  .next (s.onCore who.core fun t => t.feNotice who op)

/-- FULLEMPTY_RETRY: a waiter that found the wait table full tries again (R155), not above a watermark (R178). -/
def execFullemptyRetry (f : Issuer) (a : Access) (s : State) : Host.Outcome State Fault Refusal :=
  .next (let off := a.addr.toNat % 65536
    match (if s.core.accessStall s.cid off a then .wait else s.atBank s.cid off a) with
    | .wait => s.recordWaiter f a
    | .refuse c => s.refuseTo f a.addr c
    | .done ws s' flip =>
      match s'.satisfy f a ws with
      | some t => if flip then State.retest 33 t off else t
      | none => s.recordWaiter f a)

/-- The journal entry of an operation. -/
def Core.journalEntry (c : Core) (j op : Nat) : Option JEntry := c.journal.find? fun e => e.idx == j && e.op == op

/-- A journal entry is freed (R157). -/
def Core.freeJournal (c : Core) (j : Nat) : Core := { c with journal := c.journal.filter fun e => e.idx != j }

/-- JOURNAL_ACK. -/
def execJournalAck (j op : Nat) (s : State) : Host.Outcome State Fault Refusal :=
  .next (match s.core.journalEntry j op with
    | some _ => { s with core := s.core.freeJournal j }
    | none => s)

/-- POSTED_STORE_REFUSED: the entry is kept with its cause and trapped (R158); a counter underflow frees it and
traps with the word's address (R167). -/
def execPostedStoreRefused (j op : Nat) (r : Result) (s : State) : Host.Outcome State Fault Refusal :=
  .next (match s.core.journalEntry j op with
    | none => s
    | some e =>
      let s := s.countConsume e.job s.die
      if r.code = counterUnderflow then
        ({ s with core := s.core.freeJournal j }).raiseAsync e.ent (asyncOf counterUnderflow 0 r.addr 0 0 none false)
      else
        let jn := s.core.journal.map fun x => if x.idx = j then { x with cause := some r.code } else x
        ({ s with core := { s.core with journal := jn } }).raiseAsync e.ent
          (asyncOf postedStoreRefusedCode 0 e.addr 0 0 (some j) false))

end Sys2Proof.Machine
end

