-- ==== Sys2Proof/Machine/Ship.lean ====
section
/-! DEFINITION. Shipped requests and the replies of memory servers at the core (05 R151, R160 to R162; 14 R384, R385,
R387, R392). -/

namespace Sys2Proof.Machine

/-- The scratch operands of a routine (14 R387): address, bytes and alignment of what is read at issue, and of what
the reply writes. -/
def scratchRead (n : Nat) (a : DWord) : Option (DWord × Nat) :=
  match n with
  | 4 => some (a, 32)
  | 5 => some (a, 64)
  | 19 => some (a, 32)
  | _ => none

def scratchWrite (n : Nat) (a b : DWord) : Option (DWord × Nat) :=
  match n with
  | 1 => some (a, 32)
  | 2 => some (a, 64)
  | 19 => some (b, 64)
  | _ => none

/-- The status of a scratch operand (R387): 0 when it is good. -/
def State.scratchStatus (s : State) (x : Option (DWord × Nat)) : Nat :=
  match x with
  | none => 0
  | some (a, n) =>
    match s.checkScratch a n with
    | .ok _ => 0
    | .error f => if f.code = misalign ∨ f.code = bankBounds then misalign else translation

/-- The reply header word of Table 5-3. -/
def headerWord (tag : Nat) (sub : Bool) (status routine : Nat) (va : Addr) : DWord :=
  BitVec.ofNat 64 (tag % 8 + sub.toNat * 8 + status % 64 * 16 + routine % 64 * 1024 + va.toNat * 65536)

/-- A reply enters a memory queue: header and result, which frees the tag (R161). -/
def pushReply (m : Qm) (tag : Nat) (hdr res : DWord) : Qm :=
  { tags := m.tags.map fun t => if t.1 = tag then (t.1, t.2.1, true) else t,
    words := m.words ++ [⟨hdr, none⟩, ⟨res, some tag⟩] }

/-- The lowest free tag of a queue (R160). -/
def freeTag? (m : Qm) : Option Nat := (List.range 8).find? fun i => m.tags.all fun t => t.1 != i

/-- The number of a memory queue register. -/
def qmIndex : Reg → Option (Fin 2)
  | .qm i => some i
  | _ => none

/-- SHIP (R160): the checks in their order, the lowest free tag, the request. Every byte that its routine names is kept out
of the trap region (13 R362). -/
def execShip (q : Reg) (n : BitVec 6) (a b : Reg) (s : State) : Host.Outcome State Fault Refusal :=
  match qmIndex q with
  | none => s.issue ⟨[], none, false, false⟩ fun _ _ => s.raise (fltAt queueMisuse (q.code.setWidth 64))
  | some i =>
    s.issue ⟨[a, b, pairNext b], none, false, false⟩ fun v s' =>
      let va := arg v 0
      let rd := scratchRead n.toNat (arg v 1)
      let bytes := match rd.filter fun _ => s.scratchStatus rd == 0 with
        | some (x, k) => s.spBytes s.cid (x.toNat % 65536) k
        | none => []
      let touch := shipTouches n.toNat va.toNat (arg v 1).toNat bytes
      if regionOf s.cid va ≠ .dram then s.raise (fltAt translation va)
      else if s.sid.val ≠ 7 ∧ (touch.any fun x => s.inTrapRegion x.1 x.2) = true then s.raise (fltAt privilege va)
      else if s.heldByAcquire then s.stall
      else
        match freeTag? s'.fib.qm[i] with
        | none => s.stall
        | some t =>
          let op := s'.nextId
          let wr := scratchWrite n.toNat (arg v 1) (arg v 2)
          let st := if s.scratchStatus rd ≠ 0 then s.scratchStatus rd else s.scratchStatus wr
          let m : Qm := { s'.fib.qm[i] with tags := s'.fib.qm[i].tags ++ [(t, op, false)] }
          if st ≠ 0 then
            let m := pushReply m t (headerWord t false st n.toNat (va.setWidth 48)) 0
            ({ (s'.setFib { s'.fib with qm := s'.fib.qm.set i m }) with nextId := op + 1 }).advance
          else
            if (match rd with
                | some (x, k) => s.core.poisoned (x.toNat % 65536) k
                | none => false) then s.raise (accessFlt memPoison (arg v 1))
            else
              let r := s.route va.toNat
              let req : Req :=
                { stack := r.1, routine := n.toNat, priv := s.sid.val == 7, w32 := false, w128 := false, tag := t,
                  queue := i, origin := 0, who := s'.self, op := op, via := .wait, jent := 0, hops := 0, hinted := r.2,
                  va := va.setWidth 48, a := arg v 1, b := arg v 2, payload := bytes, job := s'.myJob }
              let s1 := ({ (s'.setFib { s'.fib with qm := s'.fib.qm.set i m }) with nextId := op + 1 }).advance
              ((s1.touchHome va.toNat).countSend req.job s.die).sendRange s.cid (serverDst r.1) none [] (touch.map fun x => granulePlaces x.1 x.2)
                (routineEv req)

/-! The writes of a trap frame (13 R364). -/

/-- The frame's 256 bytes leave as four 64-byte shipped writes on behalf of slot 7, which hold no tag; their replies go nowhere. All
four are issued in the step of the delivery (DESIGN CHOICE, log entry 150). -/
def State.sendFrame (s : State) (l : List Byte) : State :=
  (List.range 4).foldl (fun t i =>
    let va := t.frameAddr + 64 * i
    let r := t.route va
    let q : Req :=
      { stack := r.1, routine := 5, priv := true, w32 := false, w128 := false, tag := 0, queue := 0, origin := 1, who := ⟨t.cid, 257⟩,
        op := t.nextId, via := .wait, jent := 0, hops := 0, hinted := r.2, va := BitVec.ofNat 48 va, a := 0, b := 0,
        payload := (l.drop (64 * i)).take 64, job := none }
    (({ t with nextId := t.nextId + 1 }).touchHome va).sendRange t.cid (serverDst r.1) none [] [granulePlaces va 64] (routineEv q)) s

/-- Whether an access of the core in turn to its frame is not yet performed: a read of the frame waits behind it (05 R147; 13 R364,
R369). -/
def State.frameBusy (s : State) : Bool := s.busyPlaces s.cid s.nextId [granulePlaces s.frameAddr 256]

/-! Replies. -/

/-- Whether the core in turn has a request to a page outstanding (14 R392). -/
def State.requesting (s : State) (page : Nat) : Bool :=
  let ours (q : Req) : Bool := q.who.core == s.cid && q.va.toNat / 2 ^ 21 == page
  (s.net.any fun p =>
    match p.ev with
    | .shipReply q _ => ours q
    | .shapeCacheFill _ _ _ => p.dst == s.cid
    | e => (requestOf e).any ours) ||
    (s.migrations.any fun m => (m.queued ++ m.held).any ours) || s.core.fetching.any fun l => l * 64 / 2 ^ 21 == page

/-- A home learned from a reply is applied when the core has no request to the page outstanding; the least recent of 64 gives way, but
none to whose page a request is outstanding (14 R392, R401; DESIGN CHOICE, log entry 148). -/
def State.learnHome (s : State) (va : Nat) (home : Option Nat) : State :=
  match home with
  | none => s
  | some k =>
    let page := va / 2 ^ 21
    let rest := s.core.homes.filter fun h => h.1 != page
    let put (l : List (Nat × Nat)) : State := { s with core := { s.core with homes := (page, k) :: l } }
    if s.requesting page then s
    else if rest.length < 64 then put rest
    else
      match rest.reverse.find? fun h => !s.requesting h.1 with
      | some h => put (rest.filter fun x => x.1 != h.1)
      | none => s

/-- The words a plain access takes from a reply (R151; 14 R388): the named bytes of the 8 read, the old value, or the
old pair. -/
def replyWords (ea : DWord) (k : WaitKind) (r : Rep) : List DWord :=
  match k with
  | .load _ _ _ => [r.result >>> (8 * (ea.toNat % 8))]
  | .cas16 _ => [leWord (r.data.take 8), leWord ((r.data.drop 8).take 8)]
  | _ => [r.result]

/-- A server's reply at the core of the request. -/
def State.shipReply (s : State) (q : Req) (r : Rep) : State :=
  let e := q.who.ent
  match s.core.fibre? e with
  | none => s
  | some f =>
    if q.origin = 0 then
      if (s.core.slotOf? e).isNone then s.send s.cid (.shipReply q r)
      else
        let s := s.learnHome q.va.toNat r.home
        let s := match (if r.status = 0 then scratchWrite q.routine q.a q.b else none) with
          | some (x, _) => s.spWrite s.cid (x.toNat % 65536) r.data
          | none => s
        let m := pushReply f.qm[q.queue] q.tag (headerWord q.tag r.sub r.status q.routine q.va)
          (if r.status = 0 then r.result else 0)
        let s := (s.modFibre e fun x => { x with qm := x.qm.set q.queue m }).countConsume q.job s.die
        if r.status = memPoison then
          s.raiseAsync e (asyncOf memPoison (BitVec.ofNat 8 q.tag) (q.va.setWidth 64) 0 0 none false)
        else s
    else
      let s := s.learnHome q.va.toNat r.home
      match q.via with
      | .wait =>
        match f.wait with
        | some w =>
          if w.op = q.op then
            let ea := (w.acc.getD noAccess).addr
            s.remoteReply q.who q.op ⟨r.status, ea, r.sub, replyWords ea w.kind r⟩
          else s
        | none => s
      | .qam =>
        match f.qam.find? fun x => x.op = q.op with
        | some x => s.splitReply q.who q.op ⟨r.status, x.addr, r.sub, replyWords x.addr x.kind r⟩
        | none => s
      | .journal j =>
        if r.status = 0 then (if (s.core.journalEntry j q.op).isSome then { s with core := s.core.freeJournal j } else s)
        else s.sendTo s.cid (some (2 ^ 58)) (.postedStoreRefused j q.op ⟨r.status, q.va.setWidth 64, r.sub, []⟩)

end Sys2Proof.Machine
end

