-- ==== Sys2Proof/Machine/Server.lean ====
section
/-! DEFINITION. Memory servers: translation, granules, the fixed routines, service functions, page migration, refresh
(14). -/

namespace Sys2Proof.Machine

/-- What a request comes to at its home: a status, or a result. -/
def okRep (result : DWord) : Rep := ⟨0, false, result, [], none⟩
def badRep (status : Nat) : Rep := ⟨status, false, 0, [], none⟩

/-- The reply leaves the server (R385, R391): to the fetch unit or shape cache for ORIGIN 3, else as SHIP_REPLY; a
posted access is consumed here (05 R148). The replies of one granule keep their order (R392, R393). -/
def State.reply (s : State) (q : Req) (r : Rep) : State :=
  let r := if r.status = 0 then { r with home := some q.stack } else r
  let s := if q.origin = 2 ∧ r.status = 0 then s.countConsume q.job q.stack else s
  let ev : Ev :=
    if q.origin = 3 then
      if q.routine = 2 then .fetchLineFill (q.va.toNat / 64) r.data r.status else .shapeCacheFill q.op r.data r.status
    else .shipReply q r
  s.sendFrom (serverDst q.stack) q.who.core none [] (some (2 ^ 64 * (q.who.core + 1) + q.va.toNat / 32)) ev

/-! Granules (R394 to R396). -/

/-- Substitution (R396): the granules take the fill pattern; counted for the stack and the job, with bit 2 of ORF. -/
def State.substitute (s : State) (k fill : Nat) (bad : List Nat) (job : Option Nat) : State :=
  let x := s.stack k
  let s := s.setStack k { x with subcnt := capAdd x.subcnt bad.length }
  ({ s with mem := fillGranules s.mem k fill bad }).countSubs job bad.length

/-- Whether a granule of a tolerant page is substituted for a fibre's access: when it is uncorrectable, and in replay when
the fibre's next entry names it (16 R442). The substitution is the fibre's recorded event of kind 8 (16 R441); in replay
another entry faults the fibre. -/
def State.noteSubst (s : State) (q : Req) (va : DWord) (bad : Bool) : State × Bool :=
  if 18432 ≤ q.who.core ∨ 256 ≤ q.who.ent then (s, bad)
  else
    let kept (s : State) := s.onCore q.who.core fun t => t.record q.who.ent kSubst 0xFF va
    match (s.focus q.who.core 0).replayed q.who.ent with
    | some (k, _, v) =>
      if k = kSubst ∧ v = va then (kept s, true)
      else if bad then
        (s.onCore q.who.core fun t => t.raiseAsync q.who.ent (asyncOf channelState 0 0xFF 0 0 none false), true)
      else (s, false)
    | none => (if bad then kept s else s, bad)

/-- The granules that n bytes at a physical address touch and that are substituted, in ascending order. -/
def State.substituted (s : State) (q : Req) (p : Page) (pa n : Nat) : State × List Nat :=
  let bad := (s.stack q.stack).bad pa n
  let size := if p.giga then 2 ^ 30 else 2 ^ 21
  ((List.range ((pa + n - 1) / 32 - pa / 32 + 1)).map fun i => pa / 32 + i).foldl
    (fun r g =>
      let x := r.1.noteSubst q (BitVec.ofNat 64 (q.va.toNat / size * size + (32 * g - p.pfn * 2 ^ 21))) (bad.contains g)
      (x.1, if x.2 then r.2 ++ [g] else r.2))
    (s, [])

/-- The uncorrectable granules that an operation finds are counted (R397). -/
def State.countBad (s : State) (k pa n : Nat) : State :=
  let x := s.stack k
  s.setStack k { x with uecnt := capAdd x.uecnt (x.bad pa n).length }

/-- A read of n bytes at the home; the pattern substituted for a bad granule is not kept. -/
def State.dramRead (s : State) (q : Req) (p : Page) (pa n : Nat) : State × Except Nat (List Byte × Bool) :=
  let k := q.stack
  if p.tol then
    let r := (s.countBad k pa n).substituted q p pa n
    if r.2.isEmpty then (r.1, .ok (memBytes r.1.mem (dramHome k pa) n, false))
    else
      let t := r.1.substitute k p.fill r.2 q.job
      ({ t with mem := r.1.mem }, .ok (memBytes t.mem (dramHome k pa) n, true))
  else if ((s.stack k).bad pa n).isEmpty then (s, .ok (memBytes s.mem (dramHome k pa) n, false))
  else (s.countBad k pa n, .error memPoison)

/-- A write of whole granules: no read, the uncorrectable state is cleared (R395). -/
def State.dramWrite (s : State) (k pa : Nat) (l : List Byte) : State :=
  let x := s.stack k
  let s := s.setStack k { x with poison := x.poison.filter fun g => !(decide (pa ≤ g * 32) && decide (g * 32 + 32 ≤ pa + l.length)) }
  { s with mem := memPut s.mem (dramHome k pa) l }

/-- A read-modify-write of bytes within granules (R395, R396): f gives the new bytes from the old. -/
def State.dramUpdate (s : State) (q : Req) (p : Page) (pa n : Nat) (f : List Byte → List Byte) :
    State × Except Nat (List Byte × Bool) :=
  let k := q.stack
  let x := s.stack k
  let s := s.countBad k pa n
  if !p.tol && !(x.bad pa n).isEmpty then (s, .error memPoison)
  else
    let r := if p.tol then s.substituted q p pa n else (s, [])
    let bad := r.2
    let s := if bad.isEmpty then r.1 else r.1.substitute k p.fill bad q.job
    let x := s.stack k
    let s := s.setStack k { x with rmwcnt := capAdd x.rmwcnt 1, poison := x.poison.filter fun g => !bad.contains g }
    let old := memBytes s.mem (dramHome k pa) n
    ({ s with mem := memPut s.mem (dramHome k pa) (f old) }, .ok (old, !bad.isEmpty))

/-- The reply of a read or update. -/
def repOf (r : State × Except Nat (List Byte × Bool)) (f : List Byte → Rep) : State × Rep :=
  match r.2 with
  | .ok (l, sub) => (r.1, { f l with sub := sub })
  | .error c => (r.1, badRep c)

/-! The fixed routines (Table 14-3, R386 to R388), at the home with the page and physical address. -/

/-- A routine's act at its home. -/
abbrev Act := State → Req → Page → Nat → State × Rep

def bodyRead (n : Nat) : Act := fun s q p pa =>
  repOf (s.dramRead q p pa n) fun l => if n = 8 then okRep (leWord l) else { okRep 0 with data := l }

def bodyWt8 : Act := fun s q p pa => repOf (s.dramUpdate q p pa 8 fun _ => leBytes q.a.toNat 8) fun _ => okRep 0

def bodyWrite : Act := fun s q _ pa => (s.dramWrite q.stack pa q.payload, okRep 0)

/-- Bytes merged under a mask, bit i for byte i. -/
def mergeMask (mask : Nat) : Nat → List Byte → List Byte → List Byte
  | i, o :: os, n :: ns => (if mask / 2 ^ i % 2 = 1 then n else o) :: mergeMask mask (i + 1) os ns
  | _, _, _ => []

def bodyWtm : Act := fun s q p pa =>
  repOf (s.dramUpdate q p pa 8 fun old => mergeMask (bits q.b 0 8) 0 old (leBytes q.a.toNat 8)) fun _ => okRep 0

/-- An atomic on 64 or, with W32, 32 bits. -/
def bodyAtomic (op : AtomOp) : Act := fun s q p pa =>
  let n := if q.w32 then 4 else 8
  repOf (s.dramUpdate q p pa n fun old => leBytes (newValue op (8 * n) (leNat old) q.a.toNat q.b.toNat) n)
    fun old => okRep (leWord old)

/-- ACAS, on 16 bytes with W128 (R388). -/
def bodyCas : Act := fun s q p pa =>
  if q.w128 then
    repOf (s.dramUpdate q p pa 16 fun old => if old = q.payload.take 16 then q.payload.drop 16 else old)
      fun old => { okRep 0 with data := old }
  else bodyAtomic .cas s q p pa

def bodyFadd32 : Act := fun s q p pa =>
  repOf (s.dramUpdate q p pa 4 fun old =>
      leBytes (fp32.out 0 false (fpAdd 0 (fp32.decode (leNat old)) (fp32.decode (bits q.a 0 32)))).1 4)
    fun old => okRep (leWord old)

/-- The types XACC admits (08 R273). -/
def xaccType (c : Nat) : Option Ty :=
  match c with
  | 0 => some .d
  | 1 => some .s
  | 2 => some .b
  | 4 => some .q
  | 5 => some .w
  | 11 => some .l6
  | _ => none

/-- The flags XACC returns (R388): NV, ACC_OF, ACC_LOST. -/
def xaccFlags (f : BitVec 7) : DWord :=
  BitVec.ofNat 64 ((f.getLsbD 0).toNat + 2 * (f.getLsbD 5).toNat + 4 * (f.getLsbD 6).toNat)

def wordsOfBytes (l : List Byte) : List DWord := (chunks 8 (l.length / 8) l).map leWord

def bodyXacc : Act := fun s q p pa =>
  if pa % 256 + 72 > 256 then (s, badRep misalign)
  else match xaccType (bits q.b 0 4) with
    | none => (s, badRep misalign)
    | some t =>
      match accAddend (accValue t q.a) with
      | (none, f) => (s, okRep (xaccFlags f))
      | (some n, f) =>
        repOf (s.dramUpdate q p pa 72 fun old => wordBytes (addWords (wordsOfBytes old) (accWords n) false))
          fun _ => okRep (xaccFlags f)

/-- One element of GATH8: its status or bytes. -/
def State.gather (s : State) (q : Req) (p : Page) (off : Nat) : State × Except Nat (List Byte × Bool) :=
  let va := q.va.toNat + off
  if va % 8 ≠ 0 then (s, .error misalign)
  else if !p.covers va then (s, .error translation)
  else s.dramRead q p (p.pa va) 8

/-- The elements of GATH8 in order; the first failing one ends it. -/
def State.gatherAll (s : State) (q : Req) (p : Page) : List Nat → State × Except Nat (List Byte × Bool)
  | [] => (s, .ok ([], false))
  | o :: t =>
    match s.gather q p o with
    | (s', .error c) => (s', .error c)
    | (s', .ok (l, sub)) =>
      match s'.gatherAll q p t with
      | (s'', .error c) => (s'', .error c)
      | (s'', .ok (r, sub')) => (s'', .ok (l ++ r, sub || sub'))

def bodyGath8 : Act := fun s q p _ =>
  repOf (s.gatherAll q p ((chunks 4 8 q.payload).map leNat)) fun l => { okRep 0 with data := l }

def bodyFill64 : Act := fun s q _ pa => (s.dramWrite q.stack pa (List.replicate 8 (leBytes q.a.toNat 8)).flatten, okRep 0)

/-! Shape records (11 R336 to R338). -/

/-- The cores of a job's rectangle (12 R347). -/
def Job.width (j : Job) : Nat := j.wm1 + 1
def Job.count (j : Job) : Nat := (j.wm1 + 1) * (j.hm1 + 1)
def Job.core (j : Job) (i : Nat) : Nat := coreOfXY (j.x0 + i % (j.wm1 + 1)) (j.y0 + i / (j.wm1 + 1))
def Job.cores (j : Job) : List Nat := (List.range j.count).map j.core
def Job.holds (j : Job) (c : Nat) : Bool :=
  decide (j.x0 ≤ coreX c) && decide (coreX c ≤ j.x0 + j.wm1) && decide (j.y0 ≤ coreY c) && decide (coreY c ≤ j.y0 + j.hm1)

/-- The record after a publish: the image's fields with the generation. -/
def publishedRecord (img : List Byte) (gen : Nat) : List Byte :=
  img.take 6 ++ [(img.getD 6 0) &&& 0xF, 0] ++ leBytes (gen % 4096) 2 ++ (img.drop 10).take 4 ++ [0, 0] ++
    (img.drop 16).take 4 ++ List.replicate 12 0

/-- PUBLISH (R388): every core of the partition that holds or awaits the record is told; the reply follows their
acknowledgements. -/
def bodyPublish : Act := fun s q p pa =>
  match q.job.bind s.jobs.get? with
  | none => (s, badRep routineAbort)
  | some j =>
    let va := q.va.toNat
    if va < j.shapebase ∨ va ≥ j.shapebase + 32 * j.shapecnt ∨ (va - j.shapebase) % 32 ≠ 0 then (s, badRep routineAbort)
    else if q.a.toNat % 32 ≠ 0 then (s, badRep misalign)
    else if !inDram q.a.toNat then (s, badRep translation)
    else match s.vBytes q.a.toNat 32 with
      | none => (s.vNote q.a.toNat 32, badRep (s.vFault q.a.toNat 32))
      | some img =>
        let s := s.vNote q.a.toNat 32 q.job
        let slot := (va - j.shapebase) / 32
        match s.dramRead q p pa 32 with
        | (s, .error c) => (s, badRep c)
        | (s, .ok (old, sub)) =>
          let gen := leNat ((old.drop 8).take 2) % 4096
          if q.b ≠ 0 ∧ q.b ≠ BitVec.ofNat 64 (slot * 4096 + gen) then (s, badRep routineAbort)
          else
            let fresh1 := publishedRecord img (gen + 1)
            let s := s.dramWrite q.stack pa fresh1
            let fresh (e : Ev) : Ev :=
              match e with
              | .shapeCacheFill sl _ 0 => if sl = slot then .shapeCacheFill sl fresh1 0 else e
              | _ => e
            let s := { s with net := s.net.map fun x => if j.holds x.dst then { x with ev := fresh x.ev } else x }
            let tell := j.cores.filter fun c => (s.coreAt c).shapes.any fun r => r.1 == slot
            let s := tell.foldl (fun t c => t.sendFrom (serverDst q.stack) c none [] none (.shapeCacheInvalidate slot q.op)) s
            (s, { okRep (BitVec.ofNat 64 (slot * 4096 + (gen + 1) % 4096)) with sub := sub })

/-! Service functions (R388, R389, R402). -/

/-- Every cached translation of the page of an address is dropped in every server. -/
def State.dropTranslations (s : State) (va : Nat) : State :=
  { s with hbm := s.hbm.map fun x => { x with cache := x.cache.filter fun c => !c.2.covers va } }

/-- The directory entry of a page replaced, in all eight directories for 1 GiB (R400). -/
def State.setEntry (s : State) (p : Page) (va : Nat) : State :=
  let dirs := if p.giga then [0, 1, 2, 3, 4, 5, 6, 7] else [directoryOf va]
  dirs.foldl (fun t d =>
    match (bucketEntries t.mem (bucketAt d p.key)).find? (fun e =>
        match e.2 with
        | some x => x.giga == p.giga && x.key == p.key
        | none => false) with
    | some e => { t with mem := memPut t.mem e.1 p.bytes }
    | none => t) s

/-- MIGRATE: the page is marked and its copy begins; operations queue until it is done. -/
def bodyMigrate : Act := fun s q p _ =>
  let m : Migration := { num := s.nextId, page := p, newHome := bits q.a 0 3, newPfn := bits q.a 16 15, req := q,
                         copied := false, queued := [], held := [] }
  let p' := { p with mig := true }
  let s := s.setEntry p' q.va.toNat
  let x := s.stack q.stack
  let s := s.setStack q.stack { x with cache := x.cache.map fun c => if c.2 = p then (c.1, p') else c }
  ({ s with migrations := s.migrations ++ [m], nextId := s.nextId + 1 }, badRep 0)

/-- The bytes that a routine image's signature covers, and the image (R389). -/
def State.loadImage (s : State) (a : Nat) : Option Routine :=
  if a % 64 ≠ 0 ∨ !inDram a then none
  else match s.vBytes a 64 with
    | none => none
    | some h =>
      let num := (h.getD 0 0).toNat
      let nword := leNat ((h.drop 2).take 2)
      let siglen := leNat ((h.drop 4).take 2)
      if num < 24 ∨ num > 63 ∨ (h.getD 1 0).toNat > 1 ∨ nword = 0 ∨ nword > 2048 ∨ siglen = 0 ∨ siglen > 1280 ∨
          (h.drop 6).any (· != 0) then none
      else match s.vBytes (a + 64) (4 * nword), s.vBytes (a + 64 + 4 * nword) siglen with
        | some code, some sig =>
          if Config.falconValid s.mgmt.ownerh (h ++ code) sig then
            some ⟨num, (h.getD 1 0).toNat == 1, (chunks 4 nword code).map fun w => BitVec.ofNat 32 (leNat w), h ++ code ++ sig⟩
          else none
        | _, _ => none

/-- The bytes of an image, as far as its header says. -/
def State.imageSpan (s : State) (a : Nat) : Nat :=
  match s.vBytes a 64 with
  | none => 64
  | some h => 64 + 4 * leNat ((h.drop 2).take 2) + leNat ((h.drop 4).take 2)

/-- LOAD: into all 128 servers, within the 320 KiB store. -/
def bodyLoad : Act := fun s q _ _ =>
  match s.loadImage q.a.toNat with
  | none => (s.vNote q.a.toNat (s.imageSpan q.a.toNat), badRep routineAbort)
  | some r =>
    let s := s.vNote q.a.toNat (s.imageSpan q.a.toNat)
    let rest := s.routines.erase r.num
    if ((rest.map fun x => 4 * x.2.code.length).sum + 4 * r.code.length) > 327680 then (s, badRep routineAbort)
    else ({ s with routines := rest.set r.num r }, okRep 0)

/-- UNLOAD. -/
def bodyUnload : Act := fun s q _ _ =>
  if q.a.toNat % 64 < 24 then (s, badRep routineAbort) else ({ s with routines := s.routines.erase (bits q.a 0 6) }, okRep 0)

/-- SVC by function; others give STATUS 0x16. -/
def bodySvc : Act := fun s q p pa =>
  match bits q.b 0 8 with
  | 0 => bodyMigrate s q p pa
  | 1 => (s.dropTranslations q.va.toNat, okRep 0)
  | 2 => bodyLoad s q p pa
  | 3 => bodyUnload s q p pa
  | _ => (s, badRep routineAbort)

/-! Arrival at a server (R391, R401, R402). -/

/-- The alignment of a routine's VA, whether it stores, and its act (Table 14-3). -/
def fixedBody (q : Req) : Nat × Bool × Act :=
  let n := if q.w128 then 16 else if q.w32 then 4 else 8
  match q.routine with
  | 0 => (8, false, bodyRead 8)
  | 1 => (32, false, bodyRead 32)
  | 2 => (64, false, bodyRead 64)
  | 3 => (8, true, bodyWt8)
  | 4 => (32, true, bodyWrite)
  | 5 => (64, true, bodyWrite)
  | 6 => (8, true, bodyWtm)
  | 7 => (n, true, bodyAtomic .add)
  | 8 => (n, true, bodyAtomic .swp)
  | 9 => (n, true, bodyCas)
  | 10 => (n, true, bodyAtomic .and)
  | 11 => (n, true, bodyAtomic .or)
  | 12 => (n, true, bodyAtomic .xor)
  | 13 => (n, true, bodyAtomic .min)
  | 14 => (n, true, bodyAtomic .max)
  | 15 => (n, true, bodyAtomic .minu)
  | 16 => (n, true, bodyAtomic .maxu)
  | 17 => (4, true, bodyFadd32)
  | 18 => (8, true, bodyXacc)
  | 19 => (8, false, bodyGath8)
  | 20 => (32, true, bodyPublish)
  | 21 => (64, true, bodyFill64)
  | 23 => (32, false, bodySvc)
  | _ => (1, false, bodySvc)

/-- Whether the migration of a request's page holds it back at its stack: queued at the old home during the copy,
held at the new home before the end marker unless it was forwarded (R402). -/
inductive MigHold where
  | free
  | queue (m : Migration)
  | hold (m : Migration)

def State.migHold (s : State) (q : Req) : MigHold :=
  match s.migrations.find? fun m => m.page.covers q.va.toNat with
  | none => .free
  | some m =>
    if !m.copied && m.page.home == q.stack then .queue m
    else if m.copied && m.newHome == q.stack && !(m.queued.any fun x => x.op == q.op && x.who == q.who) then .hold m
    else .free

def State.setMig (s : State) (m : Migration) : State :=
  { s with migrations := s.migrations.map fun x => if x.num = m.num then m else x }

/-- A request passes on from its server to the one of another stack, or of its own, in order at its granules. -/
def State.passOn (s : State) (q : Req) (k : Nat) (first : List (Nat × Nat)) (ev : Ev) : State :=
  s.sendRange (serverDst q.stack) (serverDst k) none [] (first ++ reqPlaces q) ev

/-- The bank of a physical address of a stack, among all of it (R381). -/
def bankOf (pa : Nat) : Nat := pseudoChannel pa * (Config.lastBank + 1) + Config.bankOf pa % (Config.lastBank + 1)

/-- A request reaches a bank (R398). -/
def State.useBank (s : State) (k pa : Nat) : State :=
  let x := s.stack k
  s.setStack k { x with used := x.used.set (bankOf pa) s.cycle }

/-- A request with its translation known: forwarded to another home, refused, or performed; act is the routine. -/
def State.servePage (s : State) (q : Req) (p : Page) (stores : Bool) (act : Act) : State :=
  match s.migHold q with
  | .queue m => s.setMig { m with queued := m.queued ++ [q] }
  | .hold m => s.setMig { m with held := m.held ++ [q] }
  | .free =>
    if p.home ≠ q.stack then
      if q.hops ≥ 2 then s.reply q (badRep translation)
      else s.passOn q p.home [] (routineEv { q with stack := p.home, hops := q.hops + 1 })
    else if stores && p.ro then s.reply q (badRep translation)
    else
      let r := act (s.useBank q.stack (p.pa q.va.toNat)) q p (p.pa q.va.toNat)
      if q.routine = 22 ∧ bits q.b 0 8 = 0 then r.1 else r.1.reply q r.2

/-- Whether a walk for the page of a request is already under way at its stack. -/
def State.walking (s : State) (q : Req) : Bool :=
  s.net.any fun x =>
    match x.ev with
    | .tableWalk w => w.stack == q.stack && w.va.toNat / 2 ^ 21 == q.va.toNat / 2 ^ 21
    | _ => false

/-- The walk of a request, in order behind earlier walks for its page. -/
def State.sendWalk (s : State) (q : Req) : State :=
  s.passOn q q.stack [(2 ^ 50 + q.va.toNat / 2 ^ 21, 2 ^ 50 + q.va.toNat / 2 ^ 21 + 1)] (.tableWalk q)

/-- A request arrives at a server: marks and alignment, then the translation cache or a walk. -/
def State.request (s : State) (q : Req) : State :=
  let b := fixedBody q
  if (q.routine = 22 ∧ q.priv = false) ∨ (q.routine = 23 ∧ q.origin = 0) then s.reply q (badRep routineAbort)
  else if q.va.toNat % b.1 ≠ 0 then s.reply q (badRep misalign)
  else if s.walking q then s.sendWalk q
  else match s.cached q.stack q.va.toNat with
    | some p => s.servePage q p b.2.1 b.2.2
    | none => s.sendWalk q

/-- RD8. -/
def execRd8 (q : Req) (s : State) : Host.Outcome State Fault Refusal := .next (s.request { q with routine := 0 })
/-- RD32. -/
def execRd32 (q : Req) (s : State) : Host.Outcome State Fault Refusal := .next (s.request { q with routine := 1 })
/-- RD64. -/
def execRd64 (q : Req) (s : State) : Host.Outcome State Fault Refusal := .next (s.request { q with routine := 2 })
/-- WT8. -/
def execWt8 (q : Req) (s : State) : Host.Outcome State Fault Refusal := .next (s.request { q with routine := 3 })
/-- WT32. -/
def execWt32 (q : Req) (s : State) : Host.Outcome State Fault Refusal := .next (s.request { q with routine := 4 })
/-- WT64. -/
def execWt64 (q : Req) (s : State) : Host.Outcome State Fault Refusal := .next (s.request { q with routine := 5 })
/-- WTM. -/
def execWtm (q : Req) (s : State) : Host.Outcome State Fault Refusal := .next (s.request { q with routine := 6 })
/-- AADD at a server. -/
def execRoutineAadd (q : Req) (s : State) : Host.Outcome State Fault Refusal := .next (s.request { q with routine := 7 })
/-- ASWP at a server. -/
def execRoutineAswp (q : Req) (s : State) : Host.Outcome State Fault Refusal := .next (s.request { q with routine := 8 })
/-- ACAS at a server. -/
def execRoutineAcas (q : Req) (s : State) : Host.Outcome State Fault Refusal := .next (s.request { q with routine := 9 })
/-- AAND at a server. -/
def execRoutineAand (q : Req) (s : State) : Host.Outcome State Fault Refusal := .next (s.request { q with routine := 10 })
/-- AOR at a server. -/
def execRoutineAor (q : Req) (s : State) : Host.Outcome State Fault Refusal := .next (s.request { q with routine := 11 })
/-- AXOR at a server. -/
def execRoutineAxor (q : Req) (s : State) : Host.Outcome State Fault Refusal := .next (s.request { q with routine := 12 })
/-- AMIN at a server. -/
def execRoutineAmin (q : Req) (s : State) : Host.Outcome State Fault Refusal := .next (s.request { q with routine := 13 })
/-- AMAX at a server. -/
def execRoutineAmax (q : Req) (s : State) : Host.Outcome State Fault Refusal := .next (s.request { q with routine := 14 })
/-- AMINU at a server. -/
def execRoutineAminu (q : Req) (s : State) : Host.Outcome State Fault Refusal := .next (s.request { q with routine := 15 })
/-- AMAXU at a server. -/
def execRoutineAmaxu (q : Req) (s : State) : Host.Outcome State Fault Refusal := .next (s.request { q with routine := 16 })
/-- FADD32. -/
def execFadd32 (q : Req) (s : State) : Host.Outcome State Fault Refusal := .next (s.request { q with routine := 17 })
/-- XACC. -/
def execXacc (q : Req) (s : State) : Host.Outcome State Fault Refusal := .next (s.request { q with routine := 18 })
/-- GATH8. -/
def execGath8 (q : Req) (s : State) : Host.Outcome State Fault Refusal := .next (s.request { q with routine := 19 })
/-- PUBLISH. -/
def execPublish (q : Req) (s : State) : Host.Outcome State Fault Refusal := .next (s.request { q with routine := 20 })
/-- FILL64. -/
def execFill64 (q : Req) (s : State) : Host.Outcome State Fault Refusal := .next (s.request { q with routine := 21 })
/-- SVC MIGRATE; the reply follows the end marker. -/
def execSvcMigrate (q : Req) (s : State) : Host.Outcome State Fault Refusal :=
  .next (s.request { q with routine := 22, b := putBits q.b 0 8 0 })
/-- SVC INVAL. -/
def execSvcInval (q : Req) (s : State) : Host.Outcome State Fault Refusal :=
  .next (s.request { q with routine := 22, b := putBits q.b 0 8 1 })
/-- SVC LOAD. -/
def execSvcLoad (q : Req) (s : State) : Host.Outcome State Fault Refusal :=
  .next (s.request { q with routine := 22, b := putBits q.b 0 8 2 })
/-- SVC UNLOAD, and the functions that do not exist (STATUS 0x16). -/
def execSvcUnload (q : Req) (s : State) : Host.Outcome State Fault Refusal := .next (s.request { q with routine := 22 })

/-! Page migration (R402). -/

/-- The cells and uncorrectable granules of a page at its new place. -/
def State.copyPage (s : State) (m : Migration) : State :=
  let size := if m.page.giga then 2 ^ 30 else 2 ^ 21
  let lo := dramHome m.page.home (m.page.pfn * 2 ^ 21)
  let dst := dramHome m.newHome (m.newPfn * 2 ^ 21)
  let cells := s.mem.filter fun c => decide (lo ≤ c.1) && decide (c.1 < lo + size)
  let clean := s.mem.filter fun c => !(decide (dst ≤ c.1) && decide (c.1 < dst + size))
  let mem := cells.foldl (fun x c => memSet x (c.1 - lo + dst) c.2) clean
  let g0 := m.page.pfn * 2 ^ 16
  let bad := (s.stack m.page.home).poison.filter fun g => decide (g0 ≤ g) && decide (g < g0 + size / 32)
  let x := s.stack m.newHome
  ({ s with mem := mem }).setStack m.newHome
    { x with poison := (x.poison.filter fun g => !(decide (m.newPfn * 2 ^ 16 ≤ g) && decide (g < m.newPfn * 2 ^ 16 + size / 32))) ++
                        bad.map fun g => g - g0 + m.newPfn * 2 ^ 16 }

/-- PAGE_COPY_COMPLETE: the directory names the new home, every cached translation goes, the queued operations are
forwarded in order and the end marker follows them. -/
def execPageCopyComplete (n : Nat) (s : State) : Host.Outcome State Fault Refusal :=
  .next (match s.migrations.find? fun m => m.num == n && !m.copied with
    | none => s
    | some m =>
      let s := s.copyPage m
      let p := { m.page with home := m.newHome, pfn := m.newPfn, mig := false }
      let s := (s.setEntry p m.req.va.toNat).dropTranslations m.req.va.toNat
      let s := s.setMig { m with copied := true, page := { p with home := m.page.home } }
      let s := m.queued.foldl (fun t q =>
        t.passOn { q with stack := m.page.home } m.newHome [(2 ^ 51 + m.num, 2 ^ 51 + m.num + 1)]
          (routineEv { q with stack := m.newHome, hops := min 2 (q.hops + 1) })) s
      s.sendFrom (serverDst m.page.home) (serverDst m.newHome) none [] (some (2 ^ 51 + m.num)) (.endMarker m.num))

/-! Refresh (R398, R399) changes only timing: allowances and windows. -/

/-- The allowance of a bank: rest is that of every bank that allow does not list. -/
def Stack.allowance (x : Stack) (b : Nat) : Int := (x.allow.get? b).getD x.rest

/-- An allowance at the end of an interval: it falls by 1, and a bank that comes to -8 is refreshed at once. -/
def intervalEnd (a : Int) : Int := if a - 1 ≤ -8 then -7 else a - 1

/-- REFRESH_INTERVAL: every allowance falls by 1. -/
def execRefreshInterval (stack : Fin 8) (s : State) : Host.Outcome State Fault Refusal :=
  .next (let x := s.hbm[stack]
    { s with hbm := s.hbm.set stack { x with rest := intervalEnd x.rest, allow := x.allow.map fun a => (a.1, intervalEnd a.2) } })

/-- The bank of a pseudo-channel that a window refreshes next: the first after the last with an allowance below 8. -/
def Stack.nextBank (x : Stack) (ch : Nat) : Option Nat :=
  let n := Config.lastBank + 1
  ((List.range n).map fun k => ch * n + ((x.turn.get? ch).getD (n - 1) + 1 + k) % n).find? fun b => decide (x.allowance b < 8)

/-- Whether no request has reached a bank for 64 cycles. -/
def State.idleBank (s : State) (x : Stack) (bank : Nat) : Bool :=
  match x.used.get? bank with
  | some t => decide (t + 64 ≤ s.cycle)
  | none => true

/-- Whether the stack stands in a refresh window. -/
def State.inWindow (s : State) (x : Stack) : Bool :=
  match x.window with
  | some t => decide (s.now < t)
  | none => false

/-- REFRESH of a bank, where Table 14-7 has the controller refresh: round robin in a window, else a bank that owes one and is idle. -/
def execRefresh (stack : Fin 8) (bank : Nat) (s : State) : Host.Outcome State Fault Refusal :=
  .next (let x := s.hbm[stack]
    let n := Config.lastBank + 1
    let x' := { x with allow := x.allow.set bank (x.allowance bank + 1) }
    if bank ≥ 160 * n then s
    else if s.inWindow x then
      if x.nextBank (bank / n) = some bank then
        { s with hbm := s.hbm.set stack { x' with turn := x.turn.set (bank / n) (bank % n) } }
      else s
    else if x.allowance bank < 0 ∧ s.idleBank x bank = true then { s with hbm := s.hbm.set stack x' }
    else s)

/-- RFWIN_NOTICE (09 R294): opens a window of LEN ns, replaces one, or closes it with LEN 0. -/
def execRfwinNotice (stack : Fin 8) (len : BitVec 16) (s : State) : Host.Outcome State Fault Refusal :=
  .next (let x := s.hbm[stack]
    { s with hbm := s.hbm.set stack { x with window := if len = 0 then none else some (s.now + len.toNat) } })

/-- RFWIN_WINDOW_EXPIRY: the window closes once its time has come. -/
def execRfwinWindowExpiry (stack : Fin 8) (s : State) : Host.Outcome State Fault Refusal :=
  .next (let x := s.hbm[stack]
    match x.window with
    | some t => if s.now ≥ t then { s with hbm := s.hbm.set stack { x with window := none } } else s
    | none => s)

end Sys2Proof.Machine
end

