-- ==== Sys2Proof/Machine/Shapes.lean ====
section
/-! DEFINITION. Shape handles (11 R336, R337), the layout of tiles and copies (05 R176) and the conversion of their
elements between bank formats (03 R82 to R87). -/

namespace Sys2Proof.Machine

/-! Handles. -/

/-- The fields of a shape record (Table 11-7). -/
def shapeOf (l : List Byte) : Shape :=
  { base := leNat (l.take 6), fmt := (l.getD 6 0).toNat % 16, gen := leNat ((l.drop 8).take 2) % 4096,
    rows := leNat ((l.drop 10).take 2), cols := leNat ((l.drop 12).take 2), stride := leNat ((l.drop 16).take 4) }

/-- The bytes of a row of n values of a bank format. -/
def rowBytes (fmt n : Nat) : Nat := n * bankBits fmt / 8

/-- Whether a reserved byte or bit of a record is set. -/
def shapeReserved (l : List Byte) : Bool :=
  decide ((l.getD 6 0).toNat ≥ 16) || (l.getD 7 0 != 0) || decide ((l.getD 9 0).toNat ≥ 16) ||
    (l.getD 14 0 != 0) || (l.getD 15 0 != 0) || (l.drop 20).any (· != 0)

/-- The fault of a record's fields (R337). -/
def shapeFault (l : List Byte) : Option Flt :=
  let r := shapeOf l
  if shapeReserved l || r.rows == 0 || r.cols == 0 || r.stride % 8 != 0 || decide (r.stride < rowBytes r.fmt r.cols) then some (flt reservedField)
  else if r.fmt ≥ 12 then some (fltAt reservedFormat (BitVec.ofNat 64 (r.base / 8192 * 8192)))
  else none

/-- What a handle comes to: its record, a fault, or a miss of the core's cache. -/
inductive Resolved where
  | ok (r : Shape)
  | fault (f : Flt)
  | miss (slot : Nat) (va : Nat)

/-- The job whose shape table a slot's handles name: its fibre's, else the core's. -/
def State.shapeJob (s : State) : Option Job :=
  match s.job? with
  | some j => some j
  | none => s.core.job.bind s.jobs.get?

/-- A 32-bit handle against a job's table and the core's cache; a failed fetch is one byte in the cache. -/
def State.resolveIn (s : State) (j : Option Job) (h : Nat) : Resolved :=
  let slot := h / 4096
  match j with
  | none => .fault (fltAt staleHandle (BitVec.ofNat 64 h))
  | some j =>
    if slot ≥ j.shapecnt then .fault (fltAt staleHandle (BitVec.ofNat 64 h))
    else
      match List.lookup slot s.core.shapes with
      | none => .miss slot (j.shapebase + 32 * slot)
      | some [c] => .fault (fltAt c.toNat (BitVec.ofNat 64 (j.shapebase + 32 * slot)))
      | some l =>
        if (shapeOf l).gen ≠ h % 4096 then .fault (fltAt staleHandle (BitVec.ofNat 64 h))
        else
          match shapeFault l with
          | some f => .fault f
          | none => .ok (shapeOf l)

/-- The handle of a register (R337). -/
def State.resolve (s : State) (h : DWord) : Resolved :=
  if bits h 32 32 ≠ 0 then .fault (flt reservedField) else s.resolveIn s.shapeJob (bits h 0 32)

/-- The fetch of a record on a miss (R337), unless it is under way. -/
def State.wantShape (s : State) (slot va : Nat) : State :=
  if s.core.shaping.contains slot then s
  else
    let s := { s with core := { s.core with shaping := s.core.shaping ++ [slot] } }
    let r := s.route va
    (s.touchHome va).sendRange s.cid (serverDst r.1) none [] [granulePlaces va 32]
      (.rd32 { stack := r.1, routine := 1, priv := false, w32 := false, w128 := false, tag := 0, queue := 0, origin := 3,
               who := s.self, op := slot, via := .wait, jent := 0, hops := 0, hinted := r.2,
               va := BitVec.ofNat 48 va, a := 0, b := 0, payload := [], job := s.myJob })

/-- A failed record leaves the cache when its fault is taken. -/
def State.dropFailed (s : State) : State :=
  { s with core := { s.core with shapes := s.core.shapes.filter fun x => x.2.length != 1 } }

/-- The instruction in turn, a copy or tile transfer, with a handle: s before the pops; a miss fetches and stalls. Columns
that are not whole blocks break Table 11-7 (RESERVED_FIELD: DESIGN CHOICE, log entry 132). -/
def State.withShape (s : State) (h : DWord) (k : Shape → State) : State :=
  match s.resolve h with
  | .ok r => if isBlock r.fmt && r.cols % 32 != 0 then s.raiseMacro (flt reservedField) else k r
  | .fault f => (s.dropFailed).raiseMacro f
  | .miss slot va => (s.wantShape slot va).stall

/-! Layouts. -/

/-- The bank format code of a format word. -/
def wordFmt (w : Word) : Nat := bits w 0 4

/-- The elements of a row (R176). -/
def Layout.perRow (l : Layout) : Nat :=
  match l.conv with
  | some c => l.srcRow / groupBytes (wordFmt c.1)
  | none => (l.srcRow + 31) / 32

def Layout.elems (l : Layout) : Nat := l.rows * l.perRow

/-- Element k: source offset and length, destination offset and length. -/
def Layout.elem (l : Layout) (k : Nat) : Nat × Nat × Nat × Nat :=
  let r := k / l.perRow
  let j := k % l.perRow
  match l.conv with
  | some c =>
    let gs := groupBytes (wordFmt c.1)
    let gd := groupBytes (wordFmt c.2)
    (r * l.srcStride + j * gs, gs, r * l.dstStride + j * gd, gd)
  | none =>
    let n := min 32 (l.srcRow - 32 * j)
    (r * l.srcStride + 32 * j, n, r * l.dstStride + 32 * j, n)

/-- The banks that n bytes from an offset touch. -/
def banksOf (off n : Nat) : List Nat :=
  if n = 0 then [] else (List.range ((off + n - 1) / 8192 + 1)).drop (off / 8192)

/-- What the formats of two sides make of a transfer (Table 3-3). -/
inductive Pairing where
  | plain
  | convert (a b : Word)
  | reserved (bank : Nat)
  deriving DecidableEq, Repr

/-- The pairing of one source and one destination bank: (bank, format word) each. -/
def pairOf (a b : Nat × Word) : Pairing :=
  let x := wordFmt a.2
  let y := wordFmt b.2
  if x ≥ 12 then .reserved a.1
  else if y ≥ 12 then .reserved b.1
  else if x = 0 ∨ y = 0 ∨ x = y then .plain
  else if x = 11 then .reserved a.1
  else if y = 11 then .reserved b.1
  else .convert a.2 b.2

/-- The pairing of two ranges: every source bank with every destination bank. -/
def pairAll (src dst : List (Nat × Word)) : Pairing :=
  let ps := src.flatMap fun a => dst.map fun b => pairOf a b
  match ps.find? fun p => match p with
    | .reserved _ => true
    | _ => false with
  | some p => p
  | none =>
    match ps.find? fun p => match p with
      | .convert _ _ => true
      | _ => false with
    | some p => p
    | none => .plain

/-- The counts of source and destination banks that a converting transfer is held to one of (05 R175): where the first banks convert, those
of the converted ranges, cs and cd; else those of the plain ranges, of which a later bank converts. -/
def bankCounts (ws wd : List (Nat × Word)) (cs cd : Nat) : Nat × Nat :=
  match ws, wd with
  | a :: _, b :: _ =>
    match pairOf a b with
    | .convert _ _ => (cs, cd)
    | _ => (ws.length, wd.length)
  | _, _ => (ws.length, wd.length)

/-- The first bank of a list whose FORMAT is reserved (R82). -/
def reservedBank (l : List (Nat × Word)) : Option Nat := (l.find? fun b => wordFmt b.2 ≥ 12).map fun b => b.1

/-- The format words of the banks that n bytes from an offset touch. -/
def bankWords (bf : List Word) (off n : Nat) : List (Nat × Word) := (banksOf off n).map fun b => (b, bf.getD b 0)

/-! Conversion of a group (R85 to R87). -/

def blockBytes (fmt : Nat) : Nat := groupBytes fmt

/-- The offset of the scale byte of the block at an offset (R83). -/
def scaleOff (w : Word) (off : Nat) : Nat :=
  off / 8192 * 8192 + (bits w 16 13 + off % 8192 / blockBytes (wordFmt w)) % 8192

/-- The scale byte of a block, for block formats. -/
def State.scaleByteAt (s : State) (core off : Nat) (w : Word) : Nat :=
  if isBlock (wordFmt w) then (memGet s.mem (spHome core (scaleOff w off))).toNat else 0

/-- 32 values converted from one bank's format into another's: bytes, scale byte, counts. -/
def convertGroup (sw dw : Word) (scale : Nat) (bytes : List Byte) : List Byte × Option Nat × Counts :=
  let sf := wordFmt sw
  let df := wordFmt dw
  let r := groupEncode sf df (bits dw 4 3) (dw.getLsbD 7) (groupDecode sf scale (leNat bytes) 32)
  (leBytes r.1 (groupBytes df), r.2.1, r.2.2.2)

/-- The watermark after the first k elements of a layout from a destination. -/
def Layout.markAfter (l : Layout) (dst k : Nat) : Nat :=
  if k = 0 then dst
  else
    let e := l.elem (k - 1)
    dst + e.2.2.1 + e.2.2.2

/-! Macro-instructions (01 R27, R28). -/

/-- MacroStart (01 Table 1-6). -/
def State.macroStart (s : State) (n : Nat) : Option Nat :=
  if s.ctx.pg = 0 then some 0
  else if bits s.ctx.pg 48 16 ≠ bits s.ctx.pc 0 16 ∨ bits s.ctx.pg 0 48 ≥ n then none
  else some (bits s.ctx.pg 0 48)

def ElemRun.start (ins : Instr) (n k : Nat) : ElemRun :=
  { ins := ins, n := n, k := k, vals := [], vec := 0, off := 0, shapes := [], bfmt := Vector.replicate 8 0, carry := false,
    flags := 0, bytes := [], ends := [] }

/-- What the instruction in turn keeps of an earlier issue, when it is issued again. -/
def State.kept (s : State) : Option Snapshot := s.fib.snap.filter fun x => x.tpc == s.ctx.pc

/-- The bank formats that the instruction in turn uses: those of its first issue when it goes on from pg (03 R84). -/
def State.formats (s : State) : Vector Word 8 :=
  match s.kept with
  | some x => if s.ctx.pg = 0 ∧ x.tile.isNone then s.core.bfmt else x.bfmt
  | none => s.core.bfmt

/-- The instruction in turn begins its elements at the index the progress word gives, when its own cycles have passed (08 R244); fin
completes one of none. -/
def State.startRun (s : State) (n : Nat) (r : ElemRun) (fin : State → State) : State :=
  if n = 0 ∧ s.ctx.pg = 0 then fin s
  else
    match s.macroStart n with
    | none => s.raise (flt progressMismatch)
    | some k =>
      let snap : Snapshot := { tpc := s.ctx.pc, tile := none, bfmt := r.bfmt, peer := (r.ends.getLast?.map TileEnd.bf).getD [] }
      s.setMe { s.me with run := some { r with n := n, k := k }, stall := none, fib := { s.fib with snap := some snap },
                          lat := 1, ready := s.coreCycles + s.me.lat }

/-- The element in turn is done: the next one, from the next cycle on, or the end of the instruction by fin. -/
def State.stepRun (s : State) (r : ElemRun) (fin : State → State) : State :=
  if r.k + 1 < r.n then s.setMe { s.me with run := some { r with k := r.k + 1 }, ready := s.coreCycles + 1 }
  else fin ((s.setMe { s.me with run := none, fib := { s.fib with snap := none } }).setCtx { s.ctx with pg := 0 })

end Sys2Proof.Machine
end

