-- ==== Sys2Proof/Machine/Accum.lean ====
section
/-! DEFINITION. The accumulator unit (08 R273 to R276; 03 R102 to R105). -/

namespace Sys2Proof.Machine

/-- The regions of the accumulator group (R273). -/
def accRefuses : Region → Option Nat
  | .own _ | .peer _ _ => none
  | _ => some translation

/-- Whether a register's value at issue names the own scratchpad (R273, R274). -/
def State.namesOwn (s : State) (a : Reg) : Bool :=
  match s.popReg a with
  | some (v, _) =>
    (match regionOf s.cid v with
     | .own _ => true
     | _ => false)
  | none => false

/-- The checks of a cell of the own scratchpad: CheckScratch of its first word, one bank, the partition. -/
def State.cellCheck (s : State) (ea : DWord) : Except Flt Nat :=
  match s.checkScratch ea 8 with
  | .error f => .error f
  | .ok off =>
    if off % 8192 + 72 > 8192 then .error (fltAt bankBounds ea)
    else if !s.core.inPart0 off 72 then .error (fltAt partitionBounds ea)
    else .ok off

/-- The words of n, 0 for NaN and infinity, with the flags of R103. -/
def addendOf (t : Ty) (v : DWord) : List DWord × BitVec 7 :=
  let r := accAddend (accValue t v)
  (accWords (r.1.getD 0), r.2)

/-- The end of an ACCW without elements: its flags. -/
def State.accwNone (s : State) (f : BitVec 7) : State := (s.setCtx (s.ctx.orFlags f)).advance

/-- ACCW: elements on an own cell, for which it is a macro-instruction, one posted message to a peer's. -/
def execAccw (t : Ty) (a b : Reg) (s : State) : Host.Outcome State Fault Refusal :=
  s.issue ⟨[a, b], none, false, s.namesOwn a⟩ fun v s' =>
    let ea := arg v 0
    let r := addendOf t (arg v 1)
    match regionOf s.cid ea with
    | .own _ =>
      (match s.cellCheck ea with
       | .error f => s.raiseMacro f
       | .ok off =>
         if s.heldByAcquire then s.stall else
         let w0 := firstWord r.1
         let run := { ElemRun.start (.accw t a b) (9 - w0) 0 with vals := BitVec.ofNat 64 (off + 8 * w0) :: r.1.drop w0, flags := r.2 }
         s'.startRun (9 - w0) run fun u => u.accwNone r.2)
    | _ =>
      let x := { noAccess with kind := .accw, addr := ea, a := arg v 1, big := r.1 }
      let u := s'.setCtx (s'.ctx.orFlags r.2)
      if firstWord r.1 = 9 then
        (match s.checkAccess ea 72 8 accRefuses with
         | .error f => s.raise f
         | .ok _ => u.advance)
      else s.access u x .store .post false false 8 accRefuses

/-- Element j of ACCW: word w0 + j with its carry; without a carry, zero words to the last change nothing and take no
cycle. -/
def State.accwElem (s : State) (r : ElemRun) : State :=
  let off := (r.vals.getD 0 0).toNat + 8 * r.k
  if !r.carry && (r.vals.drop (r.k + 1)).all fun w => w == 0 then s.stepRun { r with k := r.n - 1 } State.advance
  else if s.core.rangeStall s.cid off 8 then s.stall
  else if s.core.poisoned off 8 then s.raiseElem (accessFlt memPoison (BitVec.ofNat 64 off)) r.k
  else
    let q := addCarry (s.spWord s.cid off) (r.vals.getD (r.k + 1) 0) r.carry
    let s := s.spWrite s.cid off (leBytes q.1.toNat 8)
    let s := if r.k = 0 then s.setCtx (s.ctx.orFlags r.flags) else s
    (s.setMe { s.me with stall := none }).stepRun { r with carry := q.2 } State.advance

/-- ACCZ. -/
def execAccz (a : Reg) (s : State) : Host.Outcome State Fault Refusal :=
  s.issue ⟨[a], none, false, false⟩ fun v s' =>
    s.access s' { noAccess with kind := .accz, addr := arg v 0 } .store .post false false 8 accRefuses

/-- ACCSET. -/
def execAccset (a b : Reg) (s : State) : Host.Outcome State Fault Refusal :=
  s.issue ⟨[a, b], none, false, false⟩ fun v s' =>
    s.access s' { noAccess with kind := .accset, addr := arg v 0, a := arg v 1 } .store .post false false 8 accRefuses

/-- ACCRD: one snapshot of the nine words, rounded in FRM's or HMOD's mode, saturated as HMOD says (R285). -/
def execAccrd (t : Ty) (d a : Reg) (s : State) : Host.Outcome State Fault Refusal :=
  s.issue ⟨[a], some d, false, false⟩ fun v s' =>
    s.access s' { noAccess with kind := .accrd, addr := arg v 0 } (.accrd t d (BitVec.ofNat 3 s.rmode) s.satOn) .wait false false 8
      accRefuses

/-- ACCMV. -/
def execAccmv (a b : Reg) (s : State) : Host.Outcome State Fault Refusal :=
  s.issue ⟨[a, b], none, false, true⟩ fun v s' =>
    match s.cellCheck (arg v 0), s.cellCheck (arg v 1) with
    | .error f, _ => s.raiseMacro f
    | _, .error f => s.raiseMacro f
    | .ok x, .ok y =>
      if x < y + 72 ∧ y < x + 72 then s.raiseMacro (flt reservedField)
      else if s.heldByAcquire then s.stall
      else
        s'.startRun 9 { ElemRun.start (.accmv a b) 9 0 with vals := [BitVec.ofNat 64 x, BitVec.ofNat 64 y] } State.advance

/-- Element k of ACCMV: word k of both cells. -/
def State.accmvElem (s : State) (r : ElemRun) : State :=
  let x := (r.vals.getD 0 0).toNat + 8 * r.k
  let y := (r.vals.getD 1 0).toNat + 8 * r.k
  if s.core.rangeStall s.cid x 8 || s.core.rangeStall s.cid y 8 then s.stall
  else if s.core.poisoned x 8 then s.raiseElem (accessFlt memPoison (BitVec.ofNat 64 x)) r.k
  else if s.core.poisoned y 8 then s.raiseElem (accessFlt memPoison (BitVec.ofNat 64 y)) r.k
  else
    let q := addCarry (s.spWord s.cid x) (s.spWord s.cid y) r.carry
    let s := (s.spWrite s.cid x (leBytes q.1.toNat 8)).spWrite s.cid y (leBytes 0 8)
    (s.setMe { s.me with stall := none }).stepRun { r with carry := q.2 } State.advance

end Sys2Proof.Machine
end

