-- ==== Sys2Proof/Decode.lean ====
section
/-! DEFINITION. Decoding of instruction words (02 R45 to R66) and, after it, the encoder. -/

namespace Sys2Proof

/-- Bits 31:26. -/
def fOp (w : Word) : BitVec 6 := w.extractLsb' 26 6
/-- Bits 25:20, field d. -/
def fD (w : Word) : BitVec 6 := w.extractLsb' 20 6
/-- Bits 19:14, field a. -/
def fA (w : Word) : BitVec 6 := w.extractLsb' 14 6
/-- Bits 13:8, field b or e. -/
def fB (w : Word) : BitVec 6 := w.extractLsb' 8 6
/-- Bits 7:0, fn. -/
def fFn (w : Word) : BitVec 8 := w.extractLsb' 0 8
/-- The F-I immediate. -/
def fImm (w : Word) : BitVec 14 := w.extractLsb' 0 14
/-- The F-U immediate. -/
def fImmU (w : Word) : BitVec 20 := w.extractLsb' 0 20
/-- The condition code of F-B. -/
def fCc (w : Word) : BitVec 4 := w.extractLsb' 22 4
/-- Field a of F-B. -/
def fBa (w : Word) : BitVec 6 := w.extractLsb' 16 6
/-- The F-B offset. -/
def fOff (w : Word) : BitVec 16 := w.extractLsb' 0 16
/-- Bits 13:12: sz of F-M, and the group selector of F-I. -/
def fGrp (w : Word) : BitVec 2 := w.extractLsb' 12 2
/-- Bits 11:0. -/
def fOff12 (w : Word) : BitVec 12 := w.extractLsb' 0 12
/-- The payload of a hint. -/
def fPay (w : Word) : BitVec 22 := w.extractLsb' 0 22
def fLo2 (w : Word) : BitVec 2 := w.extractLsb' 0 2
def fLo3 (w : Word) : BitVec 3 := w.extractLsb' 0 3
def fLo4 (w : Word) : BitVec 4 := w.extractLsb' 0 4
def fLo6 (w : Word) : BitVec 6 := w.extractLsb' 0 6
def fMid2 (w : Word) : BitVec 2 := w.extractLsb' 2 2
def fMid6 (w : Word) : BitVec 6 := w.extractLsb' 6 6
def fFn54 (w : Word) : BitVec 2 := w.extractLsb' 4 2
def fFn76 (w : Word) : BitVec 2 := w.extractLsb' 6 2
def fFnHi (w : Word) : BitVec 4 := w.extractLsb' 4 4
def fFnHi5 (w : Word) : BitVec 5 := w.extractLsb' 3 5
def fFnHi6 (w : Word) : BitVec 6 := w.extractLsb' 2 6
def fBit (w : Word) (i : Nat) : Bool := w.getLsbD i
def fRm (w : Word) : BitVec 3 := w.extractLsb' 1 3
def fBmap (w : Word) : BitVec 13 := w.extractLsb' 8 13
/-- The sub-selector imm[11:8] of the system group. -/
def fSys (w : Word) : BitVec 4 := w.extractLsb' 8 4

/-- The scalar register of field d, a, b; of field a of F-B. -/
def rd (w : Word) : Reg := Reg.ofCode (fD w)
def ra (w : Word) : Reg := Reg.ofCode (fA w)
def rb (w : Word) : Reg := Reg.ofCode (fB w)
def rba (w : Word) : Reg := Reg.ofCode (fBa w)

/-- The vector register of a field's bits 3:0. -/
def vreg (f : BitVec 6) : VReg := (f.extractLsb' 0 4).toFin
def vd (w : Word) : VReg := vreg (fD w)
def va (w : Word) : VReg := vreg (fA w)
def vb (w : Word) : VReg := vreg (fB w)

/-- Why a word is not an instruction (02 R51, steps 1 and 2). -/
inductive DecodeError where
  | illegalOp
  | reservedField
  deriving DecidableEq, Repr

/-- A type field: a code that Table 2-4 does not assign is a reserved value. -/
def withTy (f : BitVec 4) (k : Ty → Instr) : Except DecodeError Instr :=
  match Ty.ofCode f with
  | some t => .ok (k t)
  | none => .error .reservedField

/-- Major 0x01. -/
def select01 (w : Word) : Except DecodeError Instr :=
  match (fFn w).toNat with
  | 0 => .ok (.add (rd w) (ra w) (rb w))
  | 1 => .ok (.sub (rd w) (ra w) (rb w))
  | 2 => .ok (.mul (rd w) (ra w) (rb w))
  | 3 => .ok (.mulh (rd w) (ra w) (rb w))
  | 4 => .ok (.mulhu (rd w) (ra w) (rb w))
  | 5 => .ok (.div (rd w) (ra w) (rb w))
  | 6 => .ok (.divu (rd w) (ra w) (rb w))
  | 7 => .ok (.rem (rd w) (ra w) (rb w))
  | 8 => .ok (.remu (rd w) (ra w) (rb w))
  | 9 => .ok (.and (rd w) (ra w) (rb w))
  | 10 => .ok (.or (rd w) (ra w) (rb w))
  | 11 => .ok (.xor (rd w) (ra w) (rb w))
  | 12 => .ok (.andn (rd w) (ra w) (rb w))
  | 13 => .ok (.shl (rd w) (ra w) (rb w))
  | 14 => .ok (.shr (rd w) (ra w) (rb w))
  | 15 => .ok (.sra (rd w) (ra w) (rb w))
  | 16 => .ok (.rot (rd w) (ra w) (rb w))
  | 17 => .ok (.min (rd w) (ra w) (rb w))
  | 18 => .ok (.max (rd w) (ra w) (rb w))
  | 19 => .ok (.minu (rd w) (ra w) (rb w))
  | 20 => .ok (.maxu (rd w) (ra w) (rb w))
  | 21 => .ok (.cmpeq (rd w) (ra w) (rb w))
  | 22 => .ok (.cmpne (rd w) (ra w) (rb w))
  | 23 => .ok (.cmplt (rd w) (ra w) (rb w))
  | 24 => .ok (.cmpltu (rd w) (ra w) (rb w))
  | 25 => .ok (.cmple (rd w) (ra w) (rb w))
  | 26 => .ok (.cmpleu (rd w) (ra w) (rb w))
  | 27 => .ok (.cmov (rd w) (ra w) (rb w))
  | _ => .error .illegalOp

/-- Major 0x02 (Table 2-6): fn[7:6] must be zero. -/
def select02 (w : Word) : Except DecodeError Instr :=
  if fFn76 w ≠ 0#2 then .error .illegalOp else
  match (fLo4 w).toNat with
  | 0 => .ok (.clz (rd w) (ra w))
  | 1 => .ok (.ctz (rd w) (ra w))
  | 2 => .ok (.popc (rd w) (ra w))
  | 3 => .ok (.brev (rd w) (ra w))
  | 4 => .ok (.bswap (rd w) (ra w))
  | 5 => .ok (.exts (Size.ofCode (fFn54 w)) (rd w) (ra w))
  | 6 => .ok (.extz (Size.ofCode (fFn54 w)) (rd w) (ra w))
  | 7 => .ok (.not (rd w) (ra w))
  | 8 => .ok (.neg (rd w) (ra w))
  | 9 => .ok (.abs (rd w) (ra w))
  | _ => .error .illegalOp

/-- Major 0x03: ADDI. -/
def select03 (w : Word) : Except DecodeError Instr := .ok (.addi (rd w) (ra w) (fImm w))

/-- Major 0x04: ANDI. -/
def select04 (w : Word) : Except DecodeError Instr := .ok (.andi (rd w) (ra w) (fImm w))

/-- Major 0x05: ORI. -/
def select05 (w : Word) : Except DecodeError Instr := .ok (.ori (rd w) (ra w) (fImm w))

/-- Major 0x06: XORI. -/
def select06 (w : Word) : Except DecodeError Instr := .ok (.xori (rd w) (ra w) (fImm w))

/-- Major 0x07. -/
def select07 (w : Word) : Except DecodeError Instr :=
  match (fGrp w).toNat with
  | 0 => .ok (.shli (rd w) (ra w) (fLo6 w))
  | 1 => .ok (.shri (rd w) (ra w) (fLo6 w))
  | 2 => .ok (.srai (rd w) (ra w) (fLo6 w))
  | 3 => .ok (.roti (rd w) (ra w) (fLo6 w))
  | _ => .error .illegalOp

/-- Major 0x08: CMPEQI. -/
def select08 (w : Word) : Except DecodeError Instr := .ok (.cmpeqi (rd w) (ra w) (fImm w))

/-- Major 0x09: CMPLTI. -/
def select09 (w : Word) : Except DecodeError Instr := .ok (.cmplti (rd w) (ra w) (fImm w))

/-- Major 0x0A: CMPLTUI. -/
def select0A (w : Word) : Except DecodeError Instr := .ok (.cmpltui (rd w) (ra w) (fImm w))

/-- Major 0x0B: LUI. -/
def select0B (w : Word) : Except DecodeError Instr := .ok (.lui (rd w) (fImmU w))

/-- Major 0x0C: ADDPC. -/
def select0C (w : Word) : Except DecodeError Instr := .ok (.addpc (rd w) (fImmU w))

/-- Major 0x0D (Table 2-8). -/
def select0D (w : Word) : Except DecodeError Instr :=
  if fBit w 13 then .ok (.bfi (rd w) (ra w) (fLo6 w) (fMid6 w)) else .ok (.bfx (rd w) (ra w) (fLo6 w) (fMid6 w))

/-- Major 0x0E. -/
def select0E (w : Word) : Except DecodeError Instr :=
  match (fFnHi w).toNat with
  | 0 => .ok (.wid (rd w) (fLo3 w))
  | 1 => .ok (.addx (rd w) (ra w) (rb w) (fLo3 w))
  | _ => .error .illegalOp

/-- Major 0x10 (Table 2-9). -/
def select10 (w : Word) : Except DecodeError Instr :=
  match (fCc w).toNat with
  | 0 => .ok (.br .eqz (rba w) (fOff w))
  | 1 => .ok (.br .nez (rba w) (fOff w))
  | 2 => .ok (.br .ltz (rba w) (fOff w))
  | 3 => .ok (.br .gez (rba w) (fOff w))
  | 4 => .ok (.br .gtz (rba w) (fOff w))
  | 5 => .ok (.br .lez (rba w) (fOff w))
  | 6 => .ok (.bra (fOff w))
  | _ => .error .illegalOp

/-- Major 0x11: CALL. -/
def select11 (w : Word) : Except DecodeError Instr := .ok (.call (rd w) (fImmU w))

/-- Major 0x12. -/
def select12 (w : Word) : Except DecodeError Instr :=
  match (fFn w).toNat with
  | 0 => .ok (.jr (ra w))
  | 1 => .ok (.callr (rd w) (ra w))
  | 2 => .ok (.ret (ra w))
  | _ => .error .illegalOp

/-- Major 0x13: LOOP. -/
def select13 (w : Word) : Except DecodeError Instr := .ok (.loop (rba w) (fOff w))

/-- Major 0x14. -/
def select14 (w : Word) : Except DecodeError Instr :=
  match (fFnHi6 w).toNat with
  | 0 => .ok (.fadd (Ty.ofCode2 (fLo2 w)) (rd w) (ra w) (rb w))
  | 1 => .ok (.fsub (Ty.ofCode2 (fLo2 w)) (rd w) (ra w) (rb w))
  | 2 => .ok (.fmul (Ty.ofCode2 (fLo2 w)) (rd w) (ra w) (rb w))
  | 3 => .ok (.fdiv (Ty.ofCode2 (fLo2 w)) (rd w) (ra w) (rb w))
  | 4 => .ok (.fsqrt (Ty.ofCode2 (fLo2 w)) (rd w) (ra w))
  | 5 => .ok (.fmin (Ty.ofCode2 (fLo2 w)) (rd w) (ra w) (rb w))
  | 6 => .ok (.fmax (Ty.ofCode2 (fLo2 w)) (rd w) (ra w) (rb w))
  | 7 => .ok (.fabs (Ty.ofCode2 (fLo2 w)) (rd w) (ra w))
  | 8 => .ok (.fneg (Ty.ofCode2 (fLo2 w)) (rd w) (ra w))
  | 9 => .ok (.fcmpeq (Ty.ofCode2 (fLo2 w)) (rd w) (ra w) (rb w))
  | 10 => .ok (.fcmplt (Ty.ofCode2 (fLo2 w)) (rd w) (ra w) (rb w))
  | 11 => .ok (.fcmple (Ty.ofCode2 (fLo2 w)) (rd w) (ra w) (rb w))
  | 12 => .ok (.fclass (Ty.ofCode2 (fLo2 w)) (rd w) (ra w))
  | 13 => .ok (.frcp (Ty.ofCode2 (fLo2 w)) (rd w) (ra w))
  | _ => .error .illegalOp

/-- Major 0x15: FFMA. -/
def select15 (w : Word) : Except DecodeError Instr := .ok (.ffma (Ty.ofCode2 (fLo2 w)) (rd w) (ra w) (rb w) (Reg.ofCode (fFnHi6 w)))

/-- Major 0x16 (Table 2-10). -/
def select16 (w : Word) : Except DecodeError Instr :=
  match Ty.ofCode (fFnHi w), Ty.ofCode (fLo4 w) with
  | some dty, some sty => .ok (.fcvt dty sty (rd w) (ra w))
  | _, _ => .error .reservedField

/-- Major 0x18: LD. -/
def select18 (w : Word) : Except DecodeError Instr := .ok (.ld (Size.ofCode (fGrp w)) (rd w) (ra w) (fOff12 w))

/-- Major 0x19: LDS. -/
def select19 (w : Word) : Except DecodeError Instr := .ok (.lds (Size.ofCode (fGrp w)) (rd w) (ra w) (fOff12 w))

/-- Major 0x1A: ST. -/
def select1A (w : Word) : Except DecodeError Instr := .ok (.st (Size.ofCode (fGrp w)) (rd w) (ra w) (fOff12 w))

/-- Major 0x1B. -/
def select1B (w : Word) : Except DecodeError Instr :=
  match (fGrp w).toNat with
  | 0 => .ok (.ldfe (rd w) (ra w) (fOff12 w))
  | 1 => .ok (.ldff (rd w) (ra w) (fOff12 w))
  | 2 => .ok (.stfe (rd w) (ra w) (fOff12 w))
  | 3 => .ok (.stff (rd w) (ra w) (fOff12 w))
  | _ => .error .illegalOp

/-- Major 0x1C: PST. -/
def select1C (w : Word) : Except DecodeError Instr := .ok (.pst (Size.ofCode (fGrp w)) (rd w) (ra w) (fOff12 w))

/-- Major 0x1D: SHIP. -/
def select1D (w : Word) : Except DecodeError Instr := .ok (.ship (rd w) (fB w) (ra w) (Reg.ofCode (fLo6 w)))

/-- Major 0x1E. -/
def select1E (w : Word) : Except DecodeError Instr :=
  match (fFnHi w).toNat with
  | 0 => .ok (.aadd (Order.ofCode (fMid2 w)) (Size.ofCode (fLo2 w)) (rd w) (ra w) (rb w))
  | 1 => .ok (.aswp (Order.ofCode (fMid2 w)) (Size.ofCode (fLo2 w)) (rd w) (ra w) (rb w))
  | 2 => .ok (.acas (Order.ofCode (fMid2 w)) (Size.ofCode (fLo2 w)) (rd w) (ra w) (rb w))
  | 3 => .ok (.aand (Order.ofCode (fMid2 w)) (Size.ofCode (fLo2 w)) (rd w) (ra w) (rb w))
  | 4 => .ok (.aor (Order.ofCode (fMid2 w)) (Size.ofCode (fLo2 w)) (rd w) (ra w) (rb w))
  | 5 => .ok (.axor (Order.ofCode (fMid2 w)) (Size.ofCode (fLo2 w)) (rd w) (ra w) (rb w))
  | 6 => .ok (.amin (Order.ofCode (fMid2 w)) (Size.ofCode (fLo2 w)) (rd w) (ra w) (rb w))
  | 7 => .ok (.amax (Order.ofCode (fMid2 w)) (Size.ofCode (fLo2 w)) (rd w) (ra w) (rb w))
  | 8 => .ok (.aminu (Order.ofCode (fMid2 w)) (Size.ofCode (fLo2 w)) (rd w) (ra w) (rb w))
  | 9 => .ok (.amaxu (Order.ofCode (fMid2 w)) (Size.ofCode (fLo2 w)) (rd w) (ra w) (rb w))
  | 10 => .ok (.ainc (Order.ofCode (fMid2 w)) (Size.ofCode (fLo2 w)) (rd w) (ra w))
  | _ => .error .illegalOp

/-- Major 0x1F (Table 2-11). -/
def select1F (w : Word) : Except DecodeError Instr :=
  match (fLo3 w).toNat with
  | 0 => .ok (.fenceBank (ra w))
  | 1 => .ok (.fence .core)
  | 2 => .ok (.fence .clus)
  | 3 => .ok (.fence .die)
  | 4 => .ok (.fence .pkg)
  | 5 => .ok (.fence .sys)
  | _ => .error .illegalOp

/-- Major 0x20: CPY. -/
def select20 (w : Word) : Except DecodeError Instr := .ok (.cpy (rd w) (ra w) (Reg.ofCode (fLo6 w)) (fB w) (fBit w 6) (fBit w 7))

/-- Major 0x21: CPYM. -/
def select21 (w : Word) : Except DecodeError Instr := .ok (.cpym (rd w) (ra w) (Reg.ofCode (fLo6 w)) (fB w) (fBit w 6) (fBit w 7))

/-- Major 0x22. -/
def select22 (w : Word) : Except DecodeError Instr :=
  match (fFn w).toNat with
  | 0 => .ok (.cpwa (rd w) (ra w))
  | 1 => .ok (.cpwn (rd w) (ra w))
  | 2 => .ok (.cpff (rd w) (ra w))
  | 3 => .ok (.cpts (rd w) (ra w))
  | _ => .error .illegalOp

/-- Major 0x23. -/
def select23 (w : Word) : Except DecodeError Instr :=
  match (fFn w).toNat with
  | 0 => .ok (.stage (fB w))
  | 1 => .ok (.wmrd (rd w) (fB w))
  | _ => .error .illegalOp

/-- Major 0x24. -/
def select24 (w : Word) : Except DecodeError Instr :=
  match (fFn w).toNat with
  | 0 => .ok (.tsub (rd w) (ra w) (rb w))
  | 1 => .ok (.trel (ra w) (rb w))
  | 2 => .ok (.trelSt (ra w) (rb w))
  | _ => .error .illegalOp

/-- Major 0x28. -/
def select28 (w : Word) : Except DecodeError Instr :=
  match (fLo3 w).toNat with
  | 0 => .ok (.send (fB w) (ra w))
  | 1 => .ok (.sendt (fB w) (ra w))
  | 2 => .ok (.recv (rd w) (fB w))
  | 3 => .ok (.recvt (rd w) (fB w) (ra w))
  | 4 => .ok (.sendx (rd w) (fB w) (ra w))
  | 5 => .ok (.recvx (rd w) (fB w) (ra w))
  | 6 => .ok (.probe (rd w) (fB w))
  | 7 => .ok (.eos (fB w))
  | _ => .error .illegalOp

/-- Major 0x29. -/
def select29 (w : Word) : Except DecodeError Instr :=
  match (fFn w).toNat with
  | 0 => .ok (.alt (rd w) (ra w))
  | 1 => .ok (.altt (rd w) (ra w) (rb w))
  | _ => .error .illegalOp

/-- Major 0x2A. -/
def select2A (w : Word) : Except DecodeError Instr :=
  match (fFn w).toNat with
  | 0 => .ok (.bind (fB w) (ra w))
  | 1 => .ok (.unbind (fB w))
  | 2 => .ok (.chmode (fB w) (ra w))
  | _ => .error .illegalOp

/-- Major 0x2B. -/
def select2B (w : Word) : Except DecodeError Instr :=
  match (fFn w).toNat with
  | 0 => .ok (.post (rd w) (fB w) (ra w))
  | 1 => .ok (.jpat (fB w) (ra w))
  | 2 => .ok (.jarm (fB w))
  | 3 => .ok (.jdis (fB w))
  | 4 => .ok (.jrd (rd w) (fB w))
  | 5 => .ok (.pcfg (fB w) (ra w))
  | _ => .error .illegalOp

/-- Major 0x2C. -/
def select2C (w : Word) : Except DecodeError Instr :=
  match (fFn w).toNat with
  | 0 => .ok (.fork (rd w) (ra w) (rb w))
  | 1 => .ok (.joinc (rd w))
  | 2 => .ok (.lnch (rd w) (ra w))
  | _ => .error .illegalOp

/-- Major 0x2D. -/
def select2D (w : Word) : Except DecodeError Instr :=
  match (fFn w).toNat with
  | 0 => .ok (.yield)
  | 1 => .ok (.park)
  | 2 => .ok (.wake (ra w))
  | 3 => .ok (.setpri (ra w))
  | 4 => .ok (.setdl (ra w))
  | 5 => .ok (.setwl (ra w))
  | 6 => .ok (.rdtime (rd w))
  | 7 => .ok (.getst (rd w))
  | _ => .error .illegalOp

/-- Major 0x2E (Table 2-12; the d field of EVWAIT, 06 R217). -/
def select2E (w : Word) : Except DecodeError Instr :=
  match (fFn w).toNat with
  | 0 => if fD w = 21#6 then .ok (.evwaitQev (ra w)) else .ok (.evwait (ra w))
  | 1 => .ok (.evsig (ra w))
  | 2 => .ok (.evclr (ra w))
  | 3 => .ok (.evtst (rd w) (ra w))
  | _ => .error .illegalOp

/-- Major 0x2F. -/
def select2F (w : Word) : Except DecodeError Instr :=
  match (fFn w).toNat with
  | 0 => .ok (.bar (rd w) (ra w))
  | 1 => .ok (.barBrk (ra w))
  | _ => .error .illegalOp

/-- Major 0x30. -/
def select30 (w : Word) : Except DecodeError Instr :=
  match (fFnHi5 w).toNat with
  | 0 => withTy (0#1 ++ fLo3 w) fun t => .vadd t (vd w) (va w) (vb w)
  | 1 => withTy (0#1 ++ fLo3 w) fun t => .vsub t (vd w) (va w) (vb w)
  | 2 => withTy (0#1 ++ fLo3 w) fun t => .vmul t (vd w) (va w) (vb w)
  | 3 => withTy (0#1 ++ fLo3 w) fun t => .vfma t (vd w) (va w) (vb w)
  | 4 => withTy (0#1 ++ fLo3 w) fun t => .vmin t (vd w) (va w) (vb w)
  | 5 => withTy (0#1 ++ fLo3 w) fun t => .vmax t (vd w) (va w) (vb w)
  | 6 => withTy (0#1 ++ fLo3 w) fun t => .vabs t (vd w) (va w)
  | 7 => withTy (0#1 ++ fLo3 w) fun t => .vneg t (vd w) (va w)
  | 8 => withTy (0#1 ++ fLo3 w) fun t => .vcmpEq t (vd w) (va w) (vb w)
  | 9 => withTy (0#1 ++ fLo3 w) fun t => .vcmpLt t (vd w) (va w) (vb w)
  | 10 => withTy (0#1 ++ fLo3 w) fun t => .vcmpLe t (vd w) (va w) (vb w)
  | 11 => withTy (0#1 ++ fLo3 w) fun t => .vsel t (vd w) (va w) (vb w)
  | 12 => withTy (0#1 ++ fLo3 w) fun t => .vand t (vd w) (va w) (vb w)
  | 13 => withTy (0#1 ++ fLo3 w) fun t => .vor t (vd w) (va w) (vb w)
  | 14 => withTy (0#1 ++ fLo3 w) fun t => .vxor t (vd w) (va w) (vb w)
  | 15 => withTy (0#1 ++ fLo3 w) fun t => .vshl t (vd w) (va w) (vb w)
  | 16 => withTy (0#1 ++ fLo3 w) fun t => .vshr t (vd w) (va w) (vb w)
  | _ => .error .illegalOp

/-- Major 0x31. -/
def select31 (w : Word) : Except DecodeError Instr :=
  match (fGrp w).toNat with
  | 0 => .ok (.vld (vd w) (ra w) (fOff12 w))
  | 1 => .ok (.vst (vd w) (ra w) (fOff12 w))
  | 2 => withTy (fLo4 w) fun t => .vlds t (vd w) (ra w) (Reg.ofCode (fMid6 w))
  | 3 => withTy (fLo4 w) fun t => .vsts t (vd w) (ra w) (Reg.ofCode (fMid6 w))
  | _ => .error .illegalOp

/-- Major 0x32. -/
def select32 (w : Word) : Except DecodeError Instr :=
  match (fFnHi w).toNat with
  | 0 => withTy (fLo4 w) fun t => .vgath t (vd w) (ra w) (vb w)
  | 1 => withTy (fLo4 w) fun t => .vscat t (vd w) (ra w) (vb w)
  | _ => .error .illegalOp

/-- Major 0x33. -/
def select33 (w : Word) : Except DecodeError Instr :=
  match (fFnHi w).toNat with
  | 0 => withTy (fLo4 w) fun t => .vredAdd t (rd w) (va w)
  | 1 => withTy (fLo4 w) fun t => .vredMin t (rd w) (va w)
  | 2 => withTy (fLo4 w) fun t => .vredMax t (rd w) (va w)
  | 3 => withTy (fLo4 w) fun t => .vdot t (rd w) (va w) (vb w)
  | _ => .error .illegalOp

/-- Major 0x34. -/
def select34 (w : Word) : Except DecodeError Instr :=
  match (fFn76 w).toNat with
  | 0 => withTy (fLo4 w) fun t => .vshf t (vd w) (va w) (vb w)
  | 1 => withTy (fLo4 w) fun t => .vbcast t (vd w) (ra w)
  | 2 => .ok (.vext (rd w) (va w) (fLo3 w))
  | 3 => .ok (.vins (vd w) (ra w) (fLo3 w))
  | _ => .error .illegalOp

/-- Major 0x35 (Table 2-13). -/
def select35 (w : Word) : Except DecodeError Instr :=
  match (fB w).toNat with
  | 0 =>
    match Ty.ofCode (fFnHi w), Ty.ofCode (fLo4 w) with
    | some dty, some sty => .ok (.vcvt dty sty (vd w) (va w))
    | _, _ => .error .reservedField
  | 1 => withTy (fLo4 w) fun t => .vexp2 t (vd w) (va w)
  | 2 => withTy (fLo4 w) fun t => .vlog2 t (vd w) (va w)
  | _ => .error .illegalOp

/-- Major 0x36. -/
def select36 (w : Word) : Except DecodeError Instr :=
  match (fFn w).toNat with
  | 0 => .ok (.mwld (ra w))
  | 1 => .ok (.mswap)
  | 2 => .ok (.mstrm (ra w) (rb w))
  | 3 => .ok (.mmul (rd w) (ra w) (rb w))
  | 4 => .ok (.mzero)
  | 5 => .ok (.mrd (rd w) (ra w))
  | _ => .error .illegalOp

/-- Major 0x37. -/
def select37 (w : Word) : Except DecodeError Instr :=
  match (fFn w).toNat with
  | 0 => .ok (.mcmd (rd w) (ra w) (rb w))
  | 1 => .ok (.mscl (rd w) (ra w))
  | _ => .error .illegalOp

/-- Major 0x38. -/
def select38 (w : Word) : Except DecodeError Instr :=
  match (fFnHi w).toNat with
  | 0 => withTy (fLo4 w) fun t => .accw t (ra w) (rb w)
  | 1 => .ok (.accz (ra w))
  | 2 => withTy (fLo4 w) fun t => .accrd t (rd w) (ra w)
  | 3 => .ok (.accmv (ra w) (rb w))
  | 4 => .ok (.accset (ra w) (rb w))
  | _ => .error .illegalOp

/-- Major 0x39. -/
def select39 (w : Word) : Except DecodeError Instr :=
  match (fFn w).toNat with
  | 0 => .ok (.xfork (ra w))
  | 1 => .ok (.xjoin (rd w))
  | _ => .error .illegalOp

/-- Major 0x3A. -/
def select3A (w : Word) : Except DecodeError Instr :=
  match (fFn w).toNat with
  | 0 => .ok (.prgrd (rd w))
  | 1 => .ok (.prgwr (ra w))
  | _ => .error .illegalOp

/-- Major 0x3C (Table 2-14). -/
def select3C (w : Word) : Except DecodeError Instr :=
  match (fGrp w).toNat with
  | 0 =>
    match (fSys w).toNat with
    | 0 => .ok (.trap (fFn w))
    | 1 => .ok .eret
    | 2 => .ok (.bkpt (fFn w))
    | 3 => .ok (.rfwin (ra w))
    | 4 => .ok .syncid
    | _ => .error .illegalOp
  | 1 => .ok (.mfsr (rd w) (fOff12 w))
  | 2 =>
    if fOff12 w = 0x011#12 then .ok (.mtsrUtask (ra w))
    else if fOff12 w = 0x013#12 then .ok (.mtsrDlprobe (ra w))
    else if fOff12 w = 0x025#12 then .ok (.mtsrEjrn (ra w))
    else .ok (.mtsr (fOff12 w) (ra w))
  | _ => .error .illegalOp

/-- Major 0x3F (Table 2-15). -/
def select3F (w : Word) : Except DecodeError Instr :=
  match (fCc w).toNat with
  | 0 => .ok (.himm (fPay w))
  | 1 => .ok (.hsch (fLo4 w))
  | 2 => .ok (.hlive (fFn w) (fBmap w))
  | 3 => .ok (.hmod (fBit w 0) (fRm w) (fBit w 4) (fBit w 5) (fBit w 6))
  | _ => .error .illegalOp

/-- The row of the opcode table that a word selects (02 R50, R55 to R63), reserved fields not yet looked at. -/
def select (w : Word) : Except DecodeError Instr :=
  match (fOp w).toNat with
  | 0x01 => select01 w
  | 0x02 => select02 w
  | 0x03 => select03 w
  | 0x04 => select04 w
  | 0x05 => select05 w
  | 0x06 => select06 w
  | 0x07 => select07 w
  | 0x08 => select08 w
  | 0x09 => select09 w
  | 0x0A => select0A w
  | 0x0B => select0B w
  | 0x0C => select0C w
  | 0x0D => select0D w
  | 0x0E => select0E w
  | 0x10 => select10 w
  | 0x11 => select11 w
  | 0x12 => select12 w
  | 0x13 => select13 w
  | 0x14 => select14 w
  | 0x15 => select15 w
  | 0x16 => select16 w
  | 0x18 => select18 w
  | 0x19 => select19 w
  | 0x1A => select1A w
  | 0x1B => select1B w
  | 0x1C => select1C w
  | 0x1D => select1D w
  | 0x1E => select1E w
  | 0x1F => select1F w
  | 0x20 => select20 w
  | 0x21 => select21 w
  | 0x22 => select22 w
  | 0x23 => select23 w
  | 0x24 => select24 w
  | 0x28 => select28 w
  | 0x29 => select29 w
  | 0x2A => select2A w
  | 0x2B => select2B w
  | 0x2C => select2C w
  | 0x2D => select2D w
  | 0x2E => select2E w
  | 0x2F => select2F w
  | 0x30 => select30 w
  | 0x31 => select31 w
  | 0x32 => select32 w
  | 0x33 => select33 w
  | 0x34 => select34 w
  | 0x35 => select35 w
  | 0x36 => select36 w
  | 0x37 => select37 w
  | 0x38 => select38 w
  | 0x39 => select39 w
  | 0x3A => select3A w
  | 0x3C => select3C w
  | 0x3F => select3F w
  | _ => .error .illegalOp

/-- The formats of Table 2-1. -/
def mkR (op d a b : BitVec 6) (fn : BitVec 8) : Word := op ++ d ++ a ++ b ++ fn
def mkI (op d a : BitVec 6) (imm : BitVec 14) : Word := op ++ d ++ a ++ imm
def mkU (op d : BitVec 6) (imm : BitVec 20) : Word := op ++ d ++ imm
def mkB (op : BitVec 6) (cc : BitVec 4) (a : BitVec 6) (off : BitVec 16) : Word := op ++ cc ++ a ++ off
def mkM (op d a : BitVec 6) (sz : BitVec 2) (off : BitVec 12) : Word := op ++ d ++ a ++ sz ++ off
def mkH (kind : BitVec 4) (pay : BitVec 22) : Word := 0x3F#6 ++ kind ++ pay

/-- The field of a vector register: bits 5:4 zero (01 R21). -/
def vc (v : VReg) : BitVec 6 := BitVec.ofNat 6 v.val

/-- The word of an instruction, written from the tables of chapter 02; none for an event, which has no word. -/
def encode : Instr → Option Word
  | .add d a b => some (mkR 0x01 d.code a.code b.code 0#8)
  | .sub d a b => some (mkR 0x01 d.code a.code b.code 1#8)
  | .mul d a b => some (mkR 0x01 d.code a.code b.code 2#8)
  | .mulh d a b => some (mkR 0x01 d.code a.code b.code 3#8)
  | .mulhu d a b => some (mkR 0x01 d.code a.code b.code 4#8)
  | .div d a b => some (mkR 0x01 d.code a.code b.code 5#8)
  | .divu d a b => some (mkR 0x01 d.code a.code b.code 6#8)
  | .rem d a b => some (mkR 0x01 d.code a.code b.code 7#8)
  | .remu d a b => some (mkR 0x01 d.code a.code b.code 8#8)
  | .and d a b => some (mkR 0x01 d.code a.code b.code 9#8)
  | .or d a b => some (mkR 0x01 d.code a.code b.code 10#8)
  | .xor d a b => some (mkR 0x01 d.code a.code b.code 11#8)
  | .andn d a b => some (mkR 0x01 d.code a.code b.code 12#8)
  | .shl d a b => some (mkR 0x01 d.code a.code b.code 13#8)
  | .shr d a b => some (mkR 0x01 d.code a.code b.code 14#8)
  | .sra d a b => some (mkR 0x01 d.code a.code b.code 15#8)
  | .rot d a b => some (mkR 0x01 d.code a.code b.code 16#8)
  | .min d a b => some (mkR 0x01 d.code a.code b.code 17#8)
  | .max d a b => some (mkR 0x01 d.code a.code b.code 18#8)
  | .minu d a b => some (mkR 0x01 d.code a.code b.code 19#8)
  | .maxu d a b => some (mkR 0x01 d.code a.code b.code 20#8)
  | .cmpeq d a b => some (mkR 0x01 d.code a.code b.code 21#8)
  | .cmpne d a b => some (mkR 0x01 d.code a.code b.code 22#8)
  | .cmplt d a b => some (mkR 0x01 d.code a.code b.code 23#8)
  | .cmpltu d a b => some (mkR 0x01 d.code a.code b.code 24#8)
  | .cmple d a b => some (mkR 0x01 d.code a.code b.code 25#8)
  | .cmpleu d a b => some (mkR 0x01 d.code a.code b.code 26#8)
  | .cmov d a b => some (mkR 0x01 d.code a.code b.code 27#8)
  | .clz d a => some (mkR 0x02 d.code a.code 0 0#8)
  | .ctz d a => some (mkR 0x02 d.code a.code 0 1#8)
  | .popc d a => some (mkR 0x02 d.code a.code 0 2#8)
  | .brev d a => some (mkR 0x02 d.code a.code 0 3#8)
  | .bswap d a => some (mkR 0x02 d.code a.code 0 4#8)
  | .exts sz d a => some (mkR 0x02 d.code a.code 0 (0#2 ++ sz.code ++ 5#4))
  | .extz sz d a => some (mkR 0x02 d.code a.code 0 (0#2 ++ sz.code ++ 6#4))
  | .not d a => some (mkR 0x02 d.code a.code 0 7#8)
  | .neg d a => some (mkR 0x02 d.code a.code 0 8#8)
  | .abs d a => some (mkR 0x02 d.code a.code 0 9#8)
  | .addi d a imm => some (mkI 0x03 d.code a.code imm)
  | .andi d a imm => some (mkI 0x04 d.code a.code imm)
  | .ori d a imm => some (mkI 0x05 d.code a.code imm)
  | .xori d a imm => some (mkI 0x06 d.code a.code imm)
  | .shli d a n => some (mkI 0x07 d.code a.code (0#2 ++ 0#6 ++ n))
  | .shri d a n => some (mkI 0x07 d.code a.code (1#2 ++ 0#6 ++ n))
  | .srai d a n => some (mkI 0x07 d.code a.code (2#2 ++ 0#6 ++ n))
  | .roti d a n => some (mkI 0x07 d.code a.code (3#2 ++ 0#6 ++ n))
  | .cmpeqi d a imm => some (mkI 0x08 d.code a.code imm)
  | .cmplti d a imm => some (mkI 0x09 d.code a.code imm)
  | .cmpltui d a imm => some (mkI 0x0A d.code a.code imm)
  | .lui d imm => some (mkU 0x0B d.code imm)
  | .addpc d imm => some (mkU 0x0C d.code imm)
  | .bfx d a pos wm1 => some (mkI 0x0D d.code a.code (0#2 ++ wm1 ++ pos))
  | .bfi d a pos wm1 => some (mkI 0x0D d.code a.code (2#2 ++ wm1 ++ pos))
  | .wid d k => some (mkR 0x0E d.code 0 0 (0#5 ++ k))
  | .addx d a b n => some (mkR 0x0E d.code a.code b.code (1#4 ++ 0#1 ++ n))
  | .br c a off => some (mkB 0x10 c.code a.code off)
  | .bra off => some (mkB 0x10 6 0 off)
  | .call d imm => some (mkU 0x11 d.code imm)
  | .jr a => some (mkR 0x12 0 a.code 0 0)
  | .callr d a => some (mkR 0x12 d.code a.code 0 1)
  | .ret a => some (mkR 0x12 0 a.code 0 2)
  | .loop a off => some (mkB 0x13 0 a.code off)
  | .fadd t d a b => some (mkR 0x14 d.code a.code b.code (0#6 ++ t.code2))
  | .fsub t d a b => some (mkR 0x14 d.code a.code b.code (1#6 ++ t.code2))
  | .fmul t d a b => some (mkR 0x14 d.code a.code b.code (2#6 ++ t.code2))
  | .fdiv t d a b => some (mkR 0x14 d.code a.code b.code (3#6 ++ t.code2))
  | .fsqrt t d a => some (mkR 0x14 d.code a.code 0 (4#6 ++ t.code2))
  | .fmin t d a b => some (mkR 0x14 d.code a.code b.code (5#6 ++ t.code2))
  | .fmax t d a b => some (mkR 0x14 d.code a.code b.code (6#6 ++ t.code2))
  | .fabs t d a => some (mkR 0x14 d.code a.code 0 (7#6 ++ t.code2))
  | .fneg t d a => some (mkR 0x14 d.code a.code 0 (8#6 ++ t.code2))
  | .fcmpeq t d a b => some (mkR 0x14 d.code a.code b.code (9#6 ++ t.code2))
  | .fcmplt t d a b => some (mkR 0x14 d.code a.code b.code (10#6 ++ t.code2))
  | .fcmple t d a b => some (mkR 0x14 d.code a.code b.code (11#6 ++ t.code2))
  | .fclass t d a => some (mkR 0x14 d.code a.code 0 (12#6 ++ t.code2))
  | .frcp t d a => some (mkR 0x14 d.code a.code 0 (13#6 ++ t.code2))
  | .ffma t d a b c => some (mkR 0x15 d.code a.code b.code (c.code ++ t.code2))
  | .fcvt dty sty d a => some (mkR 0x16 d.code a.code 0 (dty.code ++ sty.code))
  | .ld sz d a off => some (mkM 0x18 d.code a.code sz.code off)
  | .lds sz d a off => some (mkM 0x19 d.code a.code sz.code off)
  | .st sz d a off => some (mkM 0x1A d.code a.code sz.code off)
  | .ldfe d a off => some (mkM 0x1B d.code a.code 0 off)
  | .ldff d a off => some (mkM 0x1B d.code a.code 1 off)
  | .stfe d a off => some (mkM 0x1B d.code a.code 2 off)
  | .stff d a off => some (mkM 0x1B d.code a.code 3 off)
  | .pst sz d a off => some (mkM 0x1C d.code a.code sz.code off)
  | .ship q n a b => some (mkR 0x1D q.code a.code n (0#2 ++ b.code))
  | .aadd o sz d a b => some (mkR 0x1E d.code a.code b.code (0#4 ++ o.code ++ sz.code))
  | .aswp o sz d a b => some (mkR 0x1E d.code a.code b.code (1#4 ++ o.code ++ sz.code))
  | .acas o sz d a b => some (mkR 0x1E d.code a.code b.code (2#4 ++ o.code ++ sz.code))
  | .aand o sz d a b => some (mkR 0x1E d.code a.code b.code (3#4 ++ o.code ++ sz.code))
  | .aor o sz d a b => some (mkR 0x1E d.code a.code b.code (4#4 ++ o.code ++ sz.code))
  | .axor o sz d a b => some (mkR 0x1E d.code a.code b.code (5#4 ++ o.code ++ sz.code))
  | .amin o sz d a b => some (mkR 0x1E d.code a.code b.code (6#4 ++ o.code ++ sz.code))
  | .amax o sz d a b => some (mkR 0x1E d.code a.code b.code (7#4 ++ o.code ++ sz.code))
  | .aminu o sz d a b => some (mkR 0x1E d.code a.code b.code (8#4 ++ o.code ++ sz.code))
  | .amaxu o sz d a b => some (mkR 0x1E d.code a.code b.code (9#4 ++ o.code ++ sz.code))
  | .ainc o sz d a => some (mkR 0x1E d.code a.code 0 (10#4 ++ o.code ++ sz.code))
  | .fenceBank a => some (mkR 0x1F 0 a.code 0 0)
  | .fence c => some (mkR 0x1F 0 0 0 (0#5 ++ c.code))
  | .cpy d a n tag sh rr => some (mkR 0x20 d.code a.code tag (BitVec.ofBool rr ++ BitVec.ofBool sh ++ n.code))
  | .cpym d a n tag sh rr => some (mkR 0x21 d.code a.code tag (BitVec.ofBool rr ++ BitVec.ofBool sh ++ n.code))
  | .cpwa d a => some (mkR 0x22 d.code a.code 0 0)
  | .cpwn d a => some (mkR 0x22 d.code a.code 0 1)
  | .cpff d a => some (mkR 0x22 d.code a.code 0 2)
  | .cpts d a => some (mkR 0x22 d.code a.code 0 3)
  | .stage n => some (mkR 0x23 0 0 n 0)
  | .wmrd d ch => some (mkR 0x23 d.code 0 ch 1)
  | .tsub d a b => some (mkR 0x24 d.code a.code b.code 0)
  | .trel a b => some (mkR 0x24 0 a.code b.code 1)
  | .trelSt a b => some (mkR 0x24 0 a.code b.code 2)
  | .send e a => some (mkR 0x28 0 a.code e 0)
  | .sendt e a => some (mkR 0x28 0 a.code e 1)
  | .recv d e => some (mkR 0x28 d.code 0 e 2)
  | .recvt d e a => some (mkR 0x28 d.code a.code e 3)
  | .sendx d e a => some (mkR 0x28 d.code a.code e 4)
  | .recvx d e a => some (mkR 0x28 d.code a.code e 5)
  | .probe d e => some (mkR 0x28 d.code 0 e 6)
  | .eos e => some (mkR 0x28 0 0 e 7)
  | .alt d a => some (mkR 0x29 d.code a.code 0 0)
  | .altt d a b => some (mkR 0x29 d.code a.code b.code 1)
  | .bind e a => some (mkR 0x2A 0 a.code e 0)
  | .unbind e => some (mkR 0x2A 0 0 e 1)
  | .chmode e a => some (mkR 0x2A 0 a.code e 2)
  | .post d pt a => some (mkR 0x2B d.code a.code pt 0)
  | .jpat n a => some (mkR 0x2B 0 a.code n 1)
  | .jarm n => some (mkR 0x2B 0 0 n 2)
  | .jdis n => some (mkR 0x2B 0 0 n 3)
  | .jrd d n => some (mkR 0x2B d.code 0 n 4)
  | .pcfg pt a => some (mkR 0x2B 0 a.code pt 5)
  | .fork d a b => some (mkR 0x2C d.code a.code b.code 0)
  | .joinc d => some (mkR 0x2C d.code 0 0 1)
  | .lnch d a => some (mkR 0x2C d.code a.code 0 2)
  | .yield => some (mkR 0x2D 0 0 0 0)
  | .park => some (mkR 0x2D 0 0 0 1)
  | .wake a => some (mkR 0x2D 0 a.code 0 2)
  | .setpri a => some (mkR 0x2D 0 a.code 0 3)
  | .setdl a => some (mkR 0x2D 0 a.code 0 4)
  | .setwl a => some (mkR 0x2D 0 a.code 0 5)
  | .rdtime d => some (mkR 0x2D d.code 0 0 6)
  | .getst d => some (mkR 0x2D d.code 0 0 7)
  | .evwait a => some (mkR 0x2E 0 a.code 0 0)
  | .evwaitQev a => some (mkR 0x2E 21 a.code 0 0)
  | .evsig a => some (mkR 0x2E 0 a.code 0 1)
  | .evclr a => some (mkR 0x2E 0 a.code 0 2)
  | .evtst d a => some (mkR 0x2E d.code a.code 0 3)
  | .bar d a => some (mkR 0x2F d.code a.code 0 0)
  | .barBrk a => some (mkR 0x2F 0 a.code 0 1)
  | .vadd t d a b => some (mkR 0x30 (vc d) (vc a) (vc b) (0#5 ++ t.code3))
  | .vsub t d a b => some (mkR 0x30 (vc d) (vc a) (vc b) (1#5 ++ t.code3))
  | .vmul t d a b => some (mkR 0x30 (vc d) (vc a) (vc b) (2#5 ++ t.code3))
  | .vfma t d a b => some (mkR 0x30 (vc d) (vc a) (vc b) (3#5 ++ t.code3))
  | .vmin t d a b => some (mkR 0x30 (vc d) (vc a) (vc b) (4#5 ++ t.code3))
  | .vmax t d a b => some (mkR 0x30 (vc d) (vc a) (vc b) (5#5 ++ t.code3))
  | .vabs t d a => some (mkR 0x30 (vc d) (vc a) 0 (6#5 ++ t.code3))
  | .vneg t d a => some (mkR 0x30 (vc d) (vc a) 0 (7#5 ++ t.code3))
  | .vcmpEq t d a b => some (mkR 0x30 (vc d) (vc a) (vc b) (8#5 ++ t.code3))
  | .vcmpLt t d a b => some (mkR 0x30 (vc d) (vc a) (vc b) (9#5 ++ t.code3))
  | .vcmpLe t d a b => some (mkR 0x30 (vc d) (vc a) (vc b) (10#5 ++ t.code3))
  | .vsel t d a b => some (mkR 0x30 (vc d) (vc a) (vc b) (11#5 ++ t.code3))
  | .vand t d a b => some (mkR 0x30 (vc d) (vc a) (vc b) (12#5 ++ t.code3))
  | .vor t d a b => some (mkR 0x30 (vc d) (vc a) (vc b) (13#5 ++ t.code3))
  | .vxor t d a b => some (mkR 0x30 (vc d) (vc a) (vc b) (14#5 ++ t.code3))
  | .vshl t d a b => some (mkR 0x30 (vc d) (vc a) (vc b) (15#5 ++ t.code3))
  | .vshr t d a b => some (mkR 0x30 (vc d) (vc a) (vc b) (16#5 ++ t.code3))
  | .vld d a off => some (mkM 0x31 (vc d) a.code 0 off)
  | .vst d a off => some (mkM 0x31 (vc d) a.code 1 off)
  | .vlds t d a b => some (mkM 0x31 (vc d) a.code 2 (b.code ++ 0#2 ++ t.code))
  | .vsts t d a b => some (mkM 0x31 (vc d) a.code 3 (b.code ++ 0#2 ++ t.code))
  | .vgath t d a b => some (mkR 0x32 (vc d) a.code (vc b) (0#4 ++ t.code))
  | .vscat t d a b => some (mkR 0x32 (vc d) a.code (vc b) (1#4 ++ t.code))
  | .vredAdd t d a => some (mkR 0x33 d.code (vc a) 0 (0#4 ++ t.code))
  | .vredMin t d a => some (mkR 0x33 d.code (vc a) 0 (1#4 ++ t.code))
  | .vredMax t d a => some (mkR 0x33 d.code (vc a) 0 (2#4 ++ t.code))
  | .vdot t d a b => some (mkR 0x33 d.code (vc a) (vc b) (3#4 ++ t.code))
  | .vshf t d a b => some (mkR 0x34 (vc d) (vc a) (vc b) (0#4 ++ t.code))
  | .vbcast t d a => some (mkR 0x34 (vc d) a.code 0 (4#4 ++ t.code))
  | .vext d a n => some (mkR 0x34 d.code (vc a) 0 (16#5 ++ n))
  | .vins d a n => some (mkR 0x34 (vc d) a.code 0 (24#5 ++ n))
  | .vcvt dty sty d a => some (mkR 0x35 (vc d) (vc a) 0 (dty.code ++ sty.code))
  | .vexp2 t d a => some (mkR 0x35 (vc d) (vc a) 1 (t.code ++ t.code))
  | .vlog2 t d a => some (mkR 0x35 (vc d) (vc a) 2 (t.code ++ t.code))
  | .mwld a => some (mkR 0x36 0 a.code 0 0)
  | .mswap => some (mkR 0x36 0 0 0 1)
  | .mstrm a b => some (mkR 0x36 0 a.code b.code 2)
  | .mmul d a b => some (mkR 0x36 d.code a.code b.code 3)
  | .mzero => some (mkR 0x36 0 0 0 4)
  | .mrd d a => some (mkR 0x36 d.code a.code 0 5)
  | .mcmd d a b => some (mkR 0x37 d.code a.code b.code 0)
  | .mscl d a => some (mkR 0x37 d.code a.code 0 1)
  | .accw t a b => some (mkR 0x38 0 a.code b.code (0#4 ++ t.code))
  | .accz a => some (mkR 0x38 0 a.code 0 0x10)
  | .accrd t d a => some (mkR 0x38 d.code a.code 0 (2#4 ++ t.code))
  | .accmv a b => some (mkR 0x38 0 a.code b.code 0x30)
  | .accset a b => some (mkR 0x38 0 a.code b.code 0x40)
  | .xfork a => some (mkR 0x39 0 a.code 0 0)
  | .xjoin d => some (mkR 0x39 d.code 0 0 1)
  | .prgrd d => some (mkR 0x3A d.code 0 0 0)
  | .prgwr a => some (mkR 0x3A 0 a.code 0 1)
  | .trap code => some (mkI 0x3C 0 0 (0#6 ++ code))
  | .eret => some (mkI 0x3C 0 0 0x100)
  | .bkpt code => some (mkI 0x3C 0 0 (2#6 ++ code))
  | .rfwin a => some (mkI 0x3C 0 a.code 0x300)
  | .syncid => some (mkI 0x3C 0 0 0x400)
  | .mfsr d sr => some (mkI 0x3C d.code 0 (1#2 ++ sr))
  | .mtsr sr a => some (mkI 0x3C 0 a.code (2#2 ++ sr))
  | .mtsrUtask a => some (mkI 0x3C 0 a.code 0x2011)
  | .mtsrDlprobe a => some (mkI 0x3C 0 a.code 0x2013)
  | .mtsrEjrn a => some (mkI 0x3C 0 a.code 0x2025)
  | .himm p => some (mkH 0 p)
  | .hsch spin => some (mkH 1 (0#18 ++ spin))
  | .hlive lreg bmap => some (mkH 2 (0#1 ++ bmap ++ lreg))
  | .hmod rmv rm satv sat wide => some (mkH 3 (0#15 ++ BitVec.ofBool wide ++ BitVec.ofBool sat ++ BitVec.ofBool satv ++ rm ++ BitVec.ofBool rmv))
  | .timerArm _ => none
  | .timerCancel => none
  | .qscPush _ => none
  | .qhsPush _ => none
  | .copyQuery => none
  | .copyResume => none
  | .copyCancel => none
  | .engineQuery _ => none
  | .engineStop _ => none
  | .engineGo _ => none
  | .dispatch => none
  | .displacement => none
  | .waitLimit _ => none
  | .timerExpiry _ => none
  | .timeoutExpiry _ => none
  | .deadLetterProbe _ => none
  | .deadLetterProbeArrival _ => none
  | .messageArrival _ => none
  | .recvNoticeArrival _ _ => none
  | .sendReply _ _ _ => none
  | .creditReturn _ => none
  | .activeMessage _ _ => none
  | .remoteReply _ _ _ => none
  | .fullemptyNotice _ _ => none
  | .fullemptyRetry _ _ => none
  | .splitPhaseReply _ _ _ => none
  | .shipReply _ _ => none
  | .journalAck _ _ => none
  | .postedStoreRefused _ _ _ => none
  | .postArrival _ => none
  | .patternFire => none
  | .wakeArrival _ _ => none
  | .forkChildCreate _ => none
  | .eventWaitArrival _ => none
  | .eventSignalArrival _ => none
  | .eventClearArrival _ => none
  | .eventTestArrival _ => none
  | .eventReply _ _ _ => none
  | .eventOverflowRetry _ => none
  | .barrierArrival _ _ _ _ => none
  | .barrierCompletion _ _ _ => none
  | .copyElement _ _ => none
  | .copyComplete _ => none
  | .copyHalt _ _ _ _ => none
  | .copyResend _ => none
  | .scheduledFlitDelivery _ _ _ => none
  | .tilePush _ => none
  | .tileWriteback _ _ => none
  | .mcmdArrival _ => none
  | .mcmdResult _ _ _ _ _ => none
  | .matrixResume => none
  | .sequencerWord _ => none
  | .scaleKeeperOp _ _ _ _ _ => none
  | .msclReply _ _ _ => none
  | .trapDelivery => none
  | .urgentTaskStart => none
  | .forcedSave _ => none
  | .coreSwitchOut => none
  | .migrationPlace => none
  | .fetchLineFill _ _ _ => none
  | .shapeCacheFill _ _ _ => none
  | .shapeCacheInvalidate _ _ => none
  | .jobStart _ _ => none
  | .jobCompletionCheck _ => none
  | .statusRecordForward _ => none
  | .admissionResume _ => none
  | .envelopeAdmit _ => none
  | .clockUpdate _ _ => none
  | .rd8 _ => none
  | .rd32 _ => none
  | .rd64 _ => none
  | .wt8 _ => none
  | .wt32 _ => none
  | .wt64 _ => none
  | .wtm _ => none
  | .routineAadd _ => none
  | .routineAswp _ => none
  | .routineAcas _ => none
  | .routineAand _ => none
  | .routineAor _ => none
  | .routineAxor _ => none
  | .routineAmin _ => none
  | .routineAmax _ => none
  | .routineAminu _ => none
  | .routineAmaxu _ => none
  | .fadd32 _ => none
  | .xacc _ => none
  | .gath8 _ => none
  | .publish _ => none
  | .fill64 _ => none
  | .svcMigrate _ => none
  | .svcInval _ => none
  | .svcLoad _ => none
  | .svcUnload _ => none
  | .tsvc _ => none
  | .loadableRoutine _ => none
  | .tableWalk _ => none
  | .pageCopyComplete _ => none
  | .endMarker _ => none
  | .refreshInterval _ => none
  | .refresh _ _ => none
  | .rfwinNotice _ _ => none
  | .creditOrAcknowledgement _ => none
  | .streamMessage _ => none
  | .accessRequest _ => none
  | .accessReply _ => none
  | .writeWithEnqueue _ => none
  | .collectiveData _ _ _ => none
  | .collectiveControl _ _ _ => none
  | .linkDown _ => none
  | .collectiveSubmit _ _ _ => none
  | .collectiveComplete _ _ => none
  | .collectiveLimitExpiry _ _ => none
  | .collectiveRecordExpiry _ _ => none
  | .mailboxIn _ _ => none
  | .mailboxLp _ => none
  | .mailboxToken _ => none
  | .mailboxOut _ => none
  | .qhsin _ _ => none
  | .registerWrite _ _ => none
  | .notifyWrite _ _ _ _ => none
  | .doorbell _ _ => none
  | .hostBar4Access _ _ _ _ => none
  | .hostAtomicop _ _ _ _ _ => none
  | .switch _ => none
  | .restore _ => none
  | .migrate _ => none
  | .abandon _ => none
  | .urgent _ => none
  | .setpstate _ => none
  | .setcap _ => none
  | .settamper _ => none
  | .provision _ => none
  | .lock _ => none
  | .retire _ => none
  | .release _ => none
  | .debugchal _ => none
  | .debugopen _ => none
  | .debugend _ => none
  | .dbggo _ => none
  | .attest _ => none
  | .fwupdate _ => none
  | .dbgset _ => none
  | .setclock _ => none
  | .reccfg _ => none
  | .counters _ => none
  | .settable _ => none
  | .tamperEvent _ _ => none
  | .thermalReduction _ => none
  | .powerSample _ _ => none
  | .powerStep => none
  | .scrub _ _ _ => none
  | .bringUp _ => none
  | .hschSpinExpiry _ => none
  | .elementCommit _ => none
  | .envelopeAcknowledgement _ _ _ => none
  | .rfwinWindowExpiry _ => none

/-- Steps 1 and 2 of R51 for one word: the selected row, refused with RESERVED_FIELD when a field lies outside its
limits or a reserved field is not zero, that is, when the row's own word is another. -/
def decode (w : Word) : Except DecodeError Instr :=
  match select w with
  | .error e => .error e
  | .ok i => if i.wf && encode i == some w then .ok i else .error .reservedField

/-- Four bytes, little-endian (02 R45). -/
def wordOfBytes (b0 b1 b2 b3 : Byte) : Word := b3 ++ b2 ++ b1 ++ b0

/-- The decoder over bytes: the first four are the word; fewer are no instruction. -/
def decodeBytes : List Byte → Except DecodeError (Instr × List Byte)
  | b0 :: b1 :: b2 :: b3 :: rest =>
    match decode (wordOfBytes b0 b1 b2 b3) with
    | .ok i => .ok (i, rest)
    | .error e => .error e
  | _ => .error .illegalOp

/-- The bytes of a word as the hardware stores it. -/
def bytesOfWord (w : Word) : List Byte :=
  [w.extractLsb' 0 8, w.extractLsb' 8 8, w.extractLsb' 16 8, w.extractLsb' 24 8]

/-- The instruction read from the bits of an opcode-table row (02 R45: one 32-bit word, little-endian). -/
def decodeTableWord (nbits w : Nat) : Option Instr :=
  if nbits = 32 then
    match decodeBytes (bytesOfWord (BitVec.ofNat 32 w)) with
    | .ok (i, _) => some i
    | .error _ => none
  else none

end Sys2Proof
end

