-- ==== Sys2Proof/Machine/Ports.lean ====
section
/-! DEFINITION. Ports, posts, pattern rows and their firings (07 R221 to R242). -/

namespace Sys2Proof.Machine

/-! Ports. -/

def Core.port? (c : Core) (i : Nat) : Option Port := c.ports.get? i
def Core.setPort (c : Core) (i : Nat) (p : Port) : Core := { c with ports := c.ports.set i p }

/-- Whether a port of the core in turn holds a message (R221). -/
def State.holdsMessage (s : State) (p : Port) : Bool :=
  if p.counter then p.arm && s.spWord s.cid p.woff == 0 else !p.fifo.isEmpty

/-- What a POST comes to at its port. -/
inductive PostOut where
  | accepted (s : State)
  | waiting (s : State)
  | refused

/-- A message taken by its port p of the core in turn (R227 to R229): none when it must wait. The overflow latch takes none while the
core queue of traps is full (13 R368). -/
def State.takePost (s : State) (m : PostMsg) (p : Port) : Option State :=
  if p.counter then
    let s1 := s.spWrite s.cid p.woff (leBytes m.word.toNat 8)
    some (({ s1 with core := s1.core.setPort m.port { p with arm := true } }).countConsume m.job s.die)
  else if p.fifo.length + p.held < p.depth then
    some { s with core := s.core.setPort m.port { p with fifo := p.fifo ++ [m.word] } }
  else if p.ovf ∧ s.core.latch = none ∧ s.core.trapsFull = false then
    let h := whoHandle m.who
    let hdr : DWord := BitVec.ofNat 64 (m.port + bits h 0 23 * 2 ^ 32)
    some (({ s with core := { (s.core.setPort m.port p) with latch := some m } }).coreTrap portOverflow h
      (BitVec.ofNat 64 m.port) [hdr, m.word])
  else none

/-- Whether messages wait at a port of the core, or at another one for the overflow latch (R227, R228). -/
def Core.postsWait (c : Core) (p : Port) : Bool := !p.waiting.isEmpty || (p.ovf && c.ports.any fun q => q.2.ovf && !q.2.waiting.isEmpty)

/-- A message at a port of the core in turn, behind those that wait there (R227 to R229). -/
def State.offerPost (s : State) (m : PostMsg) : PostOut :=
  match s.core.port? m.port with
  | none => .refused
  | some p =>
    match (if s.core.postsWait p then none else s.takePost m p) with
    | some t => .accepted t
    | none => .waiting { s with core := s.core.setPort m.port { p with waiting := p.waiting ++ [m] } }

/-- The sender of a message learns of its acceptance or refusal: in one step on this core, else by a reply. -/
def State.tellSender (s : State) (m : PostMsg) (code : Nat) : State :=
  if !m.wait then s
  else
    let r : Result := ⟨code, BitVec.ofNat 64 m.port, false, []⟩
    if m.who.core = s.cid then s.remoteReply m.who m.op r else s.send m.who.core (.remoteReply m.who m.op r)

/-- The first waiting message of a port that can be taken now. -/
def State.admitWaiting (s : State) (i : Nat) : Option State :=
  match s.core.port? i with
  | none => none
  | some p =>
    match p.waiting with
    | [] => none
    | m :: rest => (s.takePost m { p with waiting := rest }).map fun t => t.tellSender m 0

/-- Waiting messages are accepted in the order in which they were recorded (R227). -/
def State.drainPort : Nat → State → Nat → State
  | 0, s, _ => s
  | n + 1, s, i =>
    match s.admitWaiting i with
    | some t => State.drainPort n t i
    | none => s

/-- Every port with waiting messages is served; of several ports that wait for the overflow latch the lowest comes first
(DESIGN CHOICE, log entry 126). -/
def State.settlePorts (s : State) : State :=
  s.core.ports.foldl (fun t p => if p.2.waiting.isEmpty then t else State.drainPort p.2.waiting.length t p.1) s

/-- POST_ARRIVAL at the core in turn. -/
def execPostArrival (m : PostMsg) (s : State) : Host.Outcome State Fault Refusal :=
  .next (match s.offerPost m with
    | .accepted t => t.tellSender m 0
    | .waiting t => t
    | .refused => (s.tellSender m channelState).countConsume m.job s.die)

/-- Whether the time-out of the instruction in turn has come already. -/
def State.expired (s : State) (due : Option Nat) : Bool :=
  match due with
  | some t => decide (t ≤ s.now)
  | none => false

/-- The expiry of the instruction in turn on endpoint e: status 1 in its time-out register r and nothing else (06 R199), once the
recorder has room for it (16 R441); u: the state without what the instruction took. -/
def State.timesOut (s u : State) (e : Nat) (r : Reg) : State :=
  if s.recStall then s.stall else ((u.record s.self.ent kExpiry e (BitVec.ofNat 64 s.now)).writeReg r 1).advance

/-- A send that cannot proceed now expires or stalls; s: before its pops, s': after them, ws: the words popped. -/
def State.expireOrStall (s s' : State) (ws : List (Reg × DWord)) (k : WaitKind) (due : Option Nat) : State :=
  match k with
  | .sendx e d => if s.expired due then s.timesOut (s'.putBack ws) e d else s.stall
  | _ => s.stall

/-- The place of a port, for the order of posts. -/
def portPlace (core port : Nat) : Nat := 2 ^ 42 + core * 32 + port

/-- A word posted to a port by the instruction in turn: s before the pops, s' after them, ws the words popped (R226, R227,
R240). A SENDX whose time-out has come as it issues is posted only where it is accepted in the step (06 R199; log entry 153). -/
def State.postTo (s s' : State) (ws : List (Reg × DWord)) (k : WaitKind) (due : Option Nat) (ep core port : Nat)
    (w : DWord) : State :=
  let m : PostMsg := { who := s'.self, op := s'.nextId, port := port, word := w, wait := true, job := s'.myJob,
                       srcDie := s.die }
  let wait (reason : Nat) : Wait := ((s'.newWait k reason due ep none).keeps ws).counted m.job
  if core = s.cid then
    if !s.outstanding.isEmpty then s.expireOrStall s' ws k due
    else
      match s'.offerPost m with
      | .refused => s.raise (fltAt channelState (BitVec.ofNat 64 port))
      | .accepted t =>
        let t := t.countSend m.job s.die
        match k with
        | .sendx _ d => (t.writeReg d 0).advance
        | _ => t.advance
      | .waiting t => if s.expired due then s.expireOrStall s' ws k due else (t.countSend m.job s.die).holdSlot (wait 0)
  else if s.expired due then s.expireOrStall s' ws k due
  else
    let t := (s'.block (wait 7)).countSend m.job s.die
    t.sendFrom s.cid core (some s.self) s.outstanding (some (portPlace core port)) (.postArrival m)

/-- POST (R226): the target handle in d, read after the word. -/
def execPost (d : Reg) (pt : BitVec 6) (a : Reg) (s : State) : Host.Outcome State Fault Refusal :=
  s.issue ⟨[a, d], none, false, false⟩ fun v s' =>
    let h := arg v 1
    if bits h 0 8 ≠ 0 ∨ bits h 23 41 ≠ 0 ∨ bits h 8 12 > 2303 then s.raise (flt reservedField)
    else if !s.core.inPart1 (handleCore h) then s.raise (fltAt partitionBounds h)
    else s.postTo s' (queueWords [a, d] v) .post none 0 (handleCore h) pt.toNat (arg v 0)

/-! Configuration. -/

/-- The rows that name a port in their MASK and are enabled. -/
def Core.namedByRow (c : Core) (i : Nat) : Bool := c.rows.any fun r => r.2.en && r.2.mask.getLsbD i

/-- Whether a port is idle (R223). -/
def State.portIdle (s : State) (i : Nat) : Bool :=
  (match s.core.port? i with
   | none => true
   | some p => !s.holdsMessage p && p.held == 0 && p.waiting.isEmpty) &&
    (match s.core.latch with
     | none => true
     | some m => m.port != i)

/-- The message slots in use by ports other than one. -/
def Core.slotsUsed (c : Core) (i : Nat) : Nat := (c.ports.map fun p => if p.1 = i || p.2.counter then 0 else p.2.depth).sum

/-- The reserved-field checks of R222. -/
def portReserved (d : DWord) : Bool :=
  bits d 10 6 != 0 || bits d 32 32 != 0 ||
    (d.getLsbD 0 && (if d.getLsbD 1 then d.getLsbD 2 || bits d 3 6 != 0 else d.getLsbD 9 || bits d 16 16 != 0))

/-- PCFG (R223). -/
def execPcfg (pt : BitVec 6) (a : Reg) (s : State) : Host.Outcome State Fault Refusal :=
  s.issue ⟨[a], none, false, false⟩ fun v s' =>
    let i := pt.toNat
    match s.checkScratch (arg v 0) 8 with
    | .error f => s.raise f
    | .ok off =>
      if s.heldByAcquire || s.core.rangeStall s.cid off 8 then s.stall
      else if s.core.poisoned off 8 then s.raise (accessFlt memPoison (arg v 0))
      else
        let d := s.spWord s.cid off
        let chan := fltAt channelState (BitVec.ofNat 64 i)
        if portReserved d then s.raise (flt reservedField)
        else if s.core.namedByRow i || !s.portIdle i then s.raise chan
        else
          let free := { s'.core with ports := s'.core.ports.erase i }
          if !d.getLsbD 0 then ({ s' with core := free }).advance
          else if !d.getLsbD 1 then
            if s.core.slotsUsed i + bits d 3 6 + 1 > 256 then s.raise chan
            else
              let p : Port := { counter := false, ovf := d.getLsbD 2, depth := bits d 3 6 + 1, arm := false, woff := 0,
                                fifo := [], held := 0, waiting := [] }
              ({ s' with core := free.setPort i p }).advance
          else
            let w := bits d 16 16
            match s.checkScratch (BitVec.ofNat 64 w) 8 with
            | .error f => s.raise f
            | .ok _ =>
              if free.ports.any fun p => p.2.counter && p.2.woff == w then s.raise chan
              else
                let p : Port := { counter := true, ovf := false, depth := 0, arm := d.getLsbD 9, woff := w, fifo := [],
                                  held := 0, waiting := [] }
                ({ s' with core := free.setPort i p }).advance

/-! Rows (R230, R231). -/

/-- JPAT. CheckScratch covers the first 8 of the 16 bytes alone, the rest is read unchecked, and the checks of the fields follow one another
as RESERVED_FIELD, MISALIGN, PRIVILEGE, CHANNEL_STATE (DESIGN CHOICE, log entry 167). -/
def execJpat (n : BitVec 6) (a : Reg) (s : State) : Host.Outcome State Fault Refusal :=
  s.issue ⟨[a], none, false, false⟩ fun v s' =>
    match s.checkScratch (arg v 0) 8 with
    | .error f => s.raise f
    | .ok off =>
      if s.heldByAcquire || s.core.rangeStall s.cid off 16 then s.stall
      else if s.core.poisoned off 16 then s.raise (accessFlt memPoison (arg v 0))
      else
        let l := s.spBytes s.cid off 16
        let mask : BitVec 32 := BitVec.ofNat 32 (leNat (l.take 4))
        let entry := leNat ((l.drop 4).take 6)
        let k := (l.getD 10 0).toNat
        let top := match s.job? with
          | some j => j.pri
          | none => 7
        if mask = 0 ∨ k ≥ 32 ∨ (l.drop 11).any (· != 0) then s.raise (flt reservedField)
        else if entry % 4 ≠ 0 then s.raise (fltAt misalign (BitVec.ofNat 64 entry))
        else if s.sid.val ≠ 7 ∧ k % 8 > top then s.raise (flt privilege)
        else if (match s.core.rows.get? n.toNat with
            | some r => r.en
            | none => false) then s.raise (fltAt channelState (BitVec.ofNat 64 n.toNat))
        else
          let r : Row := { mask := mask, entry := BitVec.ofNat 48 entry, pri := BitVec.ofNat 3 (k % 8),
                           rearm := k / 8 % 2 == 1, rotate := k / 16 % 2 == 1, en := false, sat := false, seq := 0,
                           id := s.ctx.id, frm := BitVec.ofNat 3 s.ctx.frm, wlc := BitVec.ofNat 8 (bits s.ctx.status 20 8),
                           wlu := BitVec.ofNat 2 (bits s.ctx.status 28 2) }
          ({ s' with core := { s'.core with rows := s'.core.rows.set n.toNat r } }).advance

/-- The ports of a mask in ascending order. -/
def maskPorts (mask : BitVec 32) : List Nat := (List.range 32).filter fun i => mask.getLsbD i

/-- JARM. -/
def execJarm (n : BitVec 6) (s : State) : Host.Outcome State Fault Refusal :=
  s.issue ⟨[], none, false, false⟩ fun _ s' =>
    match s.core.rows.get? n.toNat with
    | none => s.raise (fltAt channelState (BitVec.ofNat 64 n.toNat))
    | some r =>
      if (maskPorts r.mask).any fun i => (s.core.port? i).isNone then
        s.raise (fltAt channelState (BitVec.ofNat 64 n.toNat))
      else ({ s' with core := { s'.core with rows := s'.core.rows.set n.toNat { r with en := true } } }).advance

/-- JDIS. -/
def execJdis (n : BitVec 6) (s : State) : Host.Outcome State Fault Refusal :=
  s.issue ⟨[], none, false, false⟩ fun _ s' =>
    match s.core.rows.get? n.toNat with
    | none => s'.advance
    | some r => ({ s' with core := { s'.core with rows := s'.core.rows.set n.toNat { r with en := false } } }).advance

/-- The row status word (Table 7-4). -/
def Row.word (r : Row) : DWord :=
  BitVec.ofNat 64 (r.mask.toNat + r.pri.toNat * 2 ^ 32 + r.rearm.toNat * 2 ^ 35 + r.rotate.toNat * 2 ^ 36 +
    r.en.toNat * 2 ^ 37 + r.sat.toNat * 2 ^ 38 + r.seq % 2 ^ 24 * 2 ^ 40)

/-- JRD. -/
def execJrd (d : Reg) (n : BitVec 6) (s : State) : Host.Outcome State Fault Refusal :=
  s.compute [] d fun _ => ((s.core.rows.get? n.toNat).getD Row.reset).word

/-! Firing (R232 to R238). -/

/-- Whether every port of a row's MASK holds a message. -/
def State.rowSat (s : State) (r : Row) : Bool :=
  (maskPorts r.mask).all fun i =>
    match s.core.port? i with
    | some p => s.holdsMessage p
    | none => false

/-- The handler entry of row r (R237): the lowest parked handler of the row, else the lowest free entry. -/
def Core.handlerEntry? (c : Core) (r : Nat) : Option Nat :=
  match c.runq.find? fun f => f.2.row == some r && f.2.ctx.state == stParked && (c.slotOf? f.1).isNone with
  | some f => some f.1
  | none => c.freeEntry?

/-- The row that fires (R233, R234). -/
def State.firing? (s : State) : Option (Nat × Row) :=
  let ok := s.core.rows.filter fun r => r.2.en && s.rowSat r.2 && (s.core.handlerEntry? r.1).isSome
  match (ok.map fun r => r.2.pri.toNat).max? with
  | none => none
  | some p =>
    let tied := ok.filter fun r => r.2.pri.toNat = p
    if tied.all fun r => r.2.rotate then
      match tied.find? fun r => decide (r.1 > (s.core.lastfire[Fin.ofNat 8 p]).toNat) with
      | some r => some r
      | none => tied.head?
    else tied.head?

/-- The context of a handler fibre (Table 7-5). -/
def handlerCtx (n : Nat) (r : Row) : Ctx :=
  { p := (Vector.replicate 8 0).set 0 (BitVec.ofNat 64 r.seq) |>.set 1 (BitVec.ofNat 64 n), pg := 0, id := r.id, pc := r.entry,
    dl := 0xFFFFFFFFFFFF,
    status := BitVec.ofNat 32 (stReady + r.pri.toNat * 2 ^ 7 + r.frm.toNat * 2 ^ 10 + r.wlc.toNat * 2 ^ 20 + r.wlu.toNat * 2 ^ 28) }

/-- One port of a firing gives its argument (R235); a word with bad parity is told to slot 7 (16 R439; log entry 91). -/
def State.takeArg (s : State) (i : Nat) : State × (Nat × Option DWord) :=
  match s.core.port? i with
  | none => (s, (i, none))
  | some p =>
    if p.counter then ({ s with core := s.core.setPort i { p with arm := false } }, (i, none))
    else
      match p.fifo with
      | [] => (s, (i, none))
      | w :: t =>
        let r := s.readFifo (4 + i)
        let u := if r.1 then r.2.parityTrap i else r.2
        (({ u with core := u.core.setPort i { p with fifo := t, held := p.held + 1 } }).countConsume s.core.job s.die, (i, some w))

def State.takeArgs (s : State) : List Nat → State × List (Nat × Option DWord)
  | [] => (s, [])
  | i :: t =>
    let r := s.takeArg i
    let q := r.1.takeArgs t
    (q.1, r.2 :: q.2)

/-- Row n fires (R235). -/
def State.fire (s : State) (n : Nat) (r : Row) : State :=
  match s.core.handlerEntry? n with
  | none => s
  | some e =>
    let t := s.takeArgs (maskPorts r.mask)
    let s1 := t.1
    let old := (s1.core.runq.get? e).getD Fibre.reset
    let f : Fibre := { old with ctx := handlerCtx n r, job := s1.core.job, row := some n, args := t.2, wait := none,
                                live := none, liveSince := s1.coreCycles, gangs := [], pend := old.pend }
    let r' := { r with seq := r.seq + 1, en := r.rearm }
    let lf := if r.rotate then s1.core.lastfire.set (Fin.ofNat 8 r.pri.toNat) (BitVec.ofNat 4 n) else s1.core.lastfire
    let c := { s1.core.disown e with runq := s1.core.runq.set e f, rows := s1.core.rows.set n r', lastfire := lf }
    ({ s1 with core := c }).makeReady e

/-- One evaluation of the rows of the core in turn, and its firing (R232). -/
def State.evaluate (s : State) : State :=
  let rows := s.core.rows.map fun r => (r.1, if r.2.en then { r.2 with sat := s.rowSat r.2 } else r.2)
  let s1 := { s with core := { s.core with rows := rows } }
  match s1.firing? with
  | some r => s1.fire r.1 r.2
  | none => s1

/-- PATTERN_FIRE: the pattern unit's work of a cycle. -/
def execPatternFire (s : State) : Host.Outcome State Fault Refusal := .next s.evaluate

end Sys2Proof.Machine
end

