-- ==== Sys2Proof/Machine/Channel.lean ====
section
/-! DEFINITION. Channels: endpoint entries, sends and receives, time-outs, probes, choice, binding, and the arrivals at
entries (06 R190 to R206; 15 R409, R410, R422). -/

namespace Sys2Proof.Machine

/-! Entries (Table 6-1). -/

def Endpoint.nslot (x : Endpoint) : Nat := x.nslotm1.toNat + 1

/-- Bits 12:0 of an entry (R200). -/
def Endpoint.low (x : Endpoint) : Nat :=
  x.valid.toNat + x.dir.toNat * 2 + x.type.toNat * 4 + x.mode.toNat * 16 + x.nslotm1.toNat * 32 + x.pkind.toNat * 512 +
    x.closed.toNat * 4096

/-- The entry a 16-byte image names, with nothing held. -/
def Endpoint.ofImage (l : List Byte) : Endpoint :=
  let w := leNat l
  let f (lo len : Nat) := w / 2 ^ lo % 2 ^ len
  { Endpoint.reset with
    valid := f 0 1 == 1, dir := f 1 1 == 1, type := BitVec.ofNat 2 (f 2 2), mode := f 4 1 == 1,
    nslotm1 := BitVec.ofNat 4 (f 5 4), pkind := BitVec.ofNat 3 (f 9 3), owner := BitVec.ofNat 8 (f 16 8),
    pep := BitVec.ofNat 6 (f 24 6), pdie := BitVec.ofNat 3 (f 32 3), pcore := BitVec.ofNat 12 (f 35 12),
    buf := BitVec.ofNat 16 (f 64 16), slotb := BitVec.ofNat 14 (f 80 14), ext := BitVec.ofNat 24 (f 104 24) }

/-- Whether an image sets an RO field or a reserved code (R203). -/
def imageReserved (l : List Byte) : Bool :=
  let w := leNat l
  let f (lo len : Nat) := w / 2 ^ lo % 2 ^ len
  f 12 4 != 0 || f 30 2 != 0 || f 47 17 != 0 || f 94 10 != 0 || f 2 2 == 3 || decide (f 9 3 ≥ 6)

/-- The fault against an endpoint. -/
def chanFlt (e : Nat) : Flt := fltAt channelState (BitVec.ofNat 64 e)

/-- The bytes of a slot, and the offset of slot i of a receiving entry's buffer. -/
def Endpoint.slotBytes (x : Endpoint) : Nat := if x.type = 1 then x.slotb.toNat else 8
def Endpoint.slotAt (x : Endpoint) (i : Nat) : Nat := x.buf.toNat + i % x.nslot * x.slotBytes

/-- The endpoint that a waiting operation names. -/
def sendsOn : WaitKind → Option Nat
  | .send e | .sendx e _ => some e
  | _ => none

def recvsOn : WaitKind → Option Nat
  | .recv e _ | .recvx e _ _ => some e
  | _ => none

/-- Whether fibre n of a core waits on an operation that a choice of endpoints holds of. -/
def Core.waitWith (c : Core) (n : Nat) (p : WaitKind → Bool) : Option (Nat × Wait) :=
  match (c.fibre? n).bind fun f => f.wait with
  | some w => if p w.kind then some (n, w) else none
  | none => none

/-- The waiting operation of the owner of an entry, or of slot 7. -/
def Core.userWait (c : Core) (e : Nat) (p : WaitKind → Bool) : Option (Nat × Wait) :=
  match c.waitWith (c.endpoint e).ownerIx p with
  | some r => some r
  | none => c.waitWith 257 p

/-! What leaves for an external party (R206; 15 R410, R422). -/

/-- A frame on a link. -/
def frameOf (link kind stream : Nat) : Frame :=
  { link := link, kind := kind, srcMod := 0, dstMod := 0, stream := stream, arg := 0, arg2 := 0, write := false, access := none,
    body := .token, data := [], ok := true, code := 0 }

/-- LEN of a frame: its payload in flits of 32 bytes (15 Table 15-1). -/
def frameLen (f : Frame) : Nat := (f.data.length + 31) / 32

/-- Whether a body is a tile. -/
def isTileBody : Body → Bool
  | .tile _ _ => true
  | _ => false

/-- The frames that carry what one frame stands for, none with more than 128 payload flits: a tile's payload frames follow its header
frame (15 R410); other data beyond 128 flits goes on in further frames of the same header (DEDUCED, log entry 154). -/
def frameTrain (f : Frame) : List Frame :=
  let parts := (chunks 4096 ((f.data.length + 4095) / 4096) f.data).map fun l => { f with data := l }
  if isTileBody f.body then { f with data := [] } :: parts else if parts.isEmpty then [f] else parts

/-- A frame leaves the Sorting Office; on a link that is down it is lost (15 R406). -/
def State.outFrame (s : State) (f : Frame) : State :=
  if s.office.down.contains f.link then s
  else { s with outside := s.outside ++ (frameTrain f).map fun g => .frame g.link { g with srcMod := s.office.modid.toNat } }

/-- The value of an outbound unit. -/
def unitWord : Body → DWord
  | .word v => v
  | _ => 0

/-! Messages held at a receiving entry. -/

/-- Whether a body is the last post. -/
def isLast : Body → Bool
  | .last => true
  | _ => false

/-- The address of the slot at the head of a restante entry of the core in turn, where it holds a word with an uncorrectable error (16
R439). -/
def State.headBad (s : State) (e : Nat) : Option DWord :=
  let x := s.core.endpoint e
  match x.kinds with
  | .word _ :: _ => if x.mode && s.core.poisoned (x.slotAt x.head % 65536) 8 then some (BitVec.ofNat 64 (x.slotAt x.head % 65536)) else none
  | _ => none

/-- The message at the head of an entry of the core in turn; a restante word stands in its slot (R195). -/
def State.headMessage (s : State) (e : Nat) : Option Body :=
  let x := s.core.endpoint e
  if x.mode then
    match x.kinds with
    | [] => none
    | .word _ :: _ => some (.word (s.spWord s.cid (x.slotAt x.head)))
    | b :: _ => some b
  else x.offers.head?.map fun m => m.body

/-- Whether an entry can give a message now (R201). -/
def Endpoint.ready (x : Endpoint) : Bool := !x.closed && (if x.mode then decide (x.cnt > 0) else !x.offers.isEmpty)

/-- The value a receive writes (R196). -/
def recvValue (type : BitVec 2) : Body → DWord
  | .word v => v
  | .last => if type = 2 then 1 else 0
  | _ => 0

/-- The LPQ bit follows what an entry holds. -/
def Endpoint.setLpq (x : Endpoint) : Endpoint :=
  { x with lpq := (x.offers.any fun m => isLast m.body) || x.kinds.any isLast }

/-- A freed slot's credit goes to the sender: an entry, a mailbox (64 and above), a link. -/
def State.returnCredit (s : State) (x : Endpoint) : State :=
  match x.pkind.toNat with
  | 0 => s.send x.peerCore (.creditReturn x.pep.toNat)
  | 2 => s.send hostDst (.creditReturn (64 + bits x.ext 0 8))
  | 3 => s.outFrame (frameOf (bits x.ext 0 8) 0 (bits x.ext 8 12))
  | _ => s

/-- The sinks of a job hear of a last post consumed at an entry of the core in turn (12 R354). -/
def State.reportSink (s : State) (j : Option Nat) (e : Nat) : State :=
  s.modJob j fun x =>
    { x with sinks := x.sinks.map fun k => if k.1 = s.cid ∧ k.2.1 = e then (k.1, k.2.1, true) else k }

/-- A consumed message: the count, CLOSED and the sink on a last post (R196). -/
def State.consumed (s : State) (e : Nat) (b : Body) (j : Option Nat) : State :=
  let s := s.countConsume j s.die
  if isLast b then
    ({ s with core := s.core.modEndpoint e fun x => { x with closed := true } }).reportSink j e
  else s

/-! The end of a send at its sender. -/

/-- The operation op of fibre e of the core in turn, a send on an entry, ends with a code (R194, R199, R205). A queue word that a refused
send to another core has popped stays consumed (DESIGN CHOICE, log entry 165). -/
def State.endSend (s : State) (e op code : Nat) : State :=
  match s.waitOf e op with
  | none => s
  | some (_, w) =>
    if code ≠ 0 then ({ s with core := s.core.modEndpoint w.ep fun x => { x with busyTile := false } }).faultWait e w (chanFlt w.ep)
    else
      let last := (w.acc.getD noAccess).b = 2
      let s := if last then { s with core := s.core.modEndpoint w.ep fun x => { x with closed := true } } else s
      let s := if isTile w.kind then { s with core := s.core.modEndpoint w.ep fun x => { x with busyTile := false } } else s
      match w.kind with
      | .sendx _ d => (s.finishWait e w (some d) 0).getD s
      | _ => (s.finishWait e w none 0).getD s

/-- A sender hears of its rendezvous: in one step on this core, else by a reply. -/
def State.replySender (s : State) (w : Who) (op code : Nat) : State :=
  if w.core = s.cid then s.endSend w.ent op code else s.send w.core (.sendReply w op code)

/-- SEND_REPLY. -/
def execSendReply (who : Who) (op code : Nat) (s : State) : Host.Outcome State Fault Refusal :=
  .next (s.onCore who.core fun t => t.endSend who.ent op code)

/-- The head message leaves its entry: an offer's sender completes; a slot's credit returns (R194, R195). -/
def State.takeMessage (s : State) (e : Nat) : State :=
  let x := s.core.endpoint e
  if x.mode then
    let y := ({ x with kinds := x.kinds.drop 1, cnt := x.cnt - 1, head := (x.head + 1) % x.nslot } : Endpoint).setLpq
    ({ s with core := s.core.modEndpoint e fun _ => y }).returnCredit x
  else
    match x.offers with
    | [] => s
    | m :: t =>
      let y := ({ x with offers := t } : Endpoint).setLpq
      ({ s with core := s.core.modEndpoint e fun _ => y }).replySender m.who m.op 0

/-- The waiting receive of fibre n takes a message: none while its destination has no room. -/
def State.giveTo (s : State) (n : Nat) (w : Wait) (e : Nat) (b : Body) : Option State :=
  let v := recvValue (s.core.endpoint e).type b
  match w.kind with
  | .recv _ d => s.finishWait n w (some d) v
  | .recvx _ d a => s.finishWait2 n w d v a (if isLast b then 2 else 0)
  | _ => none

/-! Choice. -/

/-- The guard that an ALT over a mask takes now: the lowest ready, or in replay the recorded one once it is ready. -/
def State.chooseGuard (s : State) (n : Nat) (mask : DWord) : Option Nat :=
  match s.replayed n with
  | some (k, _, v) =>
    if k = kAlt ∧ (s.core.endpoint v.toNat).ready = true then some v.toNat else none
  | none => (List.range 64).find? fun i => mask.getLsbD i && (s.core.endpoint i).ready

/-- A decided choice reserves its entry and is recorded (R201, R202). -/
def State.decideAlt (s : State) (n i : Nat) : State :=
  ({ s with core := s.core.modEndpoint i fun x => { x with rsv := true, rsv7 := n == 257 } }).record n kAlt 0xFF (BitVec.ofNat 64 i)

/-- A waiting ALT or ALTT of fibre n is decided if a guard is ready, once the recorder has room for the decision (16 R441). -/
def State.resolveAlt (s : State) (n : Nat) (w : Wait) : State :=
  if s.recFull ⟨s.cid, n⟩ then s else
  match w.kind with
  | .alt mask d b =>
    match s.chooseGuard n mask with
    | none => s
    | some i =>
      let v : DWord := BitVec.ofNat 64 i
      match (match b with
        | some r => s.finishWait2 n w d v r 0
        | none => s.finishWait n w (some d) v) with
      | some t => t.decideAlt n i
      | none => s
  | _ => s

def isAlt : WaitKind → Bool
  | .alt _ _ _ => true
  | _ => false

def isTileOn (e : Nat) : WaitKind → Bool
  | .tile x => x == e
  | _ => false

/-- A fibre whose tile operation goes on where it was issued: its wait ends, what it keeps of its issue stands (R197,
R198). -/
def State.reissue (s : State) (n : Nat) : State :=
  match s.core.fibre? n with
  | none => s
  | some f =>
    let s := s.modFibre n fun x => { x with wait := none }
    let s := match s.core.slotOf? n with
      | some i => { s with core := { s.core with slots := s.core.slots.set i { s.core.slots[i] with stall := none } } }
      | none => s
    if f.ctx.state = stBlocked then s.makeReady n else s

/-- The end of a waiting receiver's notice. -/
def State.dropNotice (s : State) (e : Nat) : State :=
  let x := s.core.endpoint e
  if x.pkind = 0 ∧ x.mode = false then
    s.modCore x.peerCore fun c => c.modEndpoint x.pep.toNat fun y => { y with notice := false }
  else s

/-- A message that arrives at an entry makes its PARKED owner READY (R196; 01 R34). -/
def State.wakeOwner (s : State) (e : Nat) : State :=
  let o := (s.core.endpoint e).ownerIx
  match s.core.fibre? o with
  | some f => if f.ctx.state = stParked then s.makeReady o else s
  | none => s

/-- An entry that holds a message serves who waits for one: a receive, a tile, a choice (R194, R196). -/
def State.resolveEntry (s : State) (e : Nat) : State :=
  match s.headMessage e with
  | none => s
  | some b =>
    match s.core.userWait e fun k => recvsOn k == some e with
    | some (n, w) =>
      let j := s.jobOf ((s.core.fibre? n).getD Fibre.reset)
      match s.headBad e with
      | some a => s.faultWait n w (accessFlt memPoison a)
      | none =>
        let t := ((s.takeMessage e).consumed e b j).dropNotice e
        (t.giveTo n w e b).getD s
    | none =>
      match s.core.userWait e (isTileOn e) with
      | some (n, _) => s.reissue n
      | none =>
        match s.core.userWait e isAlt with
        | some (n, w) => s.resolveAlt n w
        | none => s

/-! Arrival (R193 to R196, R205). -/

/-- Whether a receiving entry names the sender of a message. -/
def Endpoint.names (x : Endpoint) (p : Peer) : Bool :=
  match p with
  | .core c ep => x.pkind == 0 && x.peerCore == c && x.pep.toNat == ep
  | .ext k n => x.pkind.toNat == k && (if k = 2 then bits x.ext 0 8 == n else if k = 3 then bits x.ext 0 20 == n else x.ext.toNat == n)

/-- Whether an entry refuses a message (R205). -/
def Endpoint.refuses (x : Endpoint) (m : ChanMsg) : Bool :=
  !x.valid || !x.dir || !x.names m.src || m.offer == x.mode || (x.mode && decide (x.cnt ≥ x.nslot))

/-- The bytes a message puts into its slot. -/
def slotWrite : Body → List Byte
  | .word v => leBytes v.toNat 8
  | .tile _ l => l
  | _ => []

/-- The form of a recorded arrival: a word, a token, the last post, a tile (log entry 152). -/
def bodyForm : Body → Nat
  | .word _ => 0
  | .token => 1
  | .last => 2
  | .tile _ _ => 3

/-- The body of a recorded arrival; a tile's bytes are not recorded (log entry 152). -/
def recordedBody (form : Nat) (v : DWord) : Option Body :=
  match form with
  | 0 => some (.word v)
  | 1 => some .token
  | 2 => some .last
  | _ => none

/-- A message arrives at an entry of the core in turn. -/
def State.arrive (s : State) (m : ChanMsg) : State :=
  let x := s.core.endpoint m.dst
  let inside := match m.src with
    | .core _ _ => true
    | .ext _ _ => false
  if x.refuses m then
    if m.offer then (s.replySender m.who m.op channelState).countConsume m.job s.die
    else
      let s := if inside then s.countConsume m.job s.die else s
      s.misdelivery (if inside then m.job else s.core.job)
        (match m.src with
         | .core _ ep => some (m.who, ep)
         | .ext _ _ => none) m.dst
  else if m.offer then
    let y := ({ x with offers := x.offers ++ [m] } : Endpoint).setLpq
    (({ s with core := s.core.modEndpoint m.dst fun _ => y }).resolveEntry m.dst).wakeOwner m.dst
  else
    let s := match slotWrite m.body with
      | [] => s
      | l => s.spWrite s.cid (x.slotAt (x.head + x.cnt)) (l.take x.slotBytes)
    let s := if inside then s else (s.countSend s.core.job s.die).record x.ownerIx
      (if x.pkind = 4 then kNotify else kArrival) m.dst (unitWord m.body) (bodyForm m.body)
    let b := match m.body with
      | .tile t _ => .tile t []
      | b => b
    let y := ({ x with kinds := x.kinds ++ [b], cnt := x.cnt + 1 } : Endpoint).setLpq
    (({ s with core := s.core.modEndpoint m.dst fun _ => y }).resolveEntry m.dst).wakeOwner m.dst

/-- In replay a live arrival from outside is discarded (16 R442). -/
def State.liveDiscard (s : State) (m : ChanMsg) : Bool :=
  match m.src with
  | .core _ _ => false
  | .ext _ _ =>
    match s.core.fibre? (s.core.endpoint m.dst).ownerIx with
    | some f => s.recMode f == 2
    | none => false

/-- MESSAGE_ARRIVAL. -/
def execMessageArrival (m : ChanMsg) (s : State) : Host.Outcome State Fault Refusal :=
  .next (if s.liveDiscard m then s
    else if s.arrivalWaits s.cid m then s.send s.cid (.messageArrival m)
    else s.arrive m)

/-- In replay, the recorded arrivals that come next for fibre n of the core in turn (16 R442), while their entries have
room. -/
def State.replayArrivals : Nat → State → Nat → State
  | 0, s, _ => s
  | k + 1, s, n =>
    match s.replayed n with
    | some (kind, ep, v) =>
      let x := s.core.endpoint ep
      match (if (kind % 256 = kArrival ∨ kind % 256 = kNotify) ∧ x.valid = true ∧ x.mode = true ∧ x.cnt < x.nslot then
          recordedBody (kind / 256) v else none) with
      | some b =>
        let num := if x.pkind = 2 then bits x.ext 0 8 else if x.pkind = 3 then bits x.ext 0 20 else x.ext.toNat
        State.replayArrivals k (s.arrive { who := ⟨s.cid, n⟩, op := 0, src := .ext x.pkind.toNat num, dst := ep,
                                           body := b, offer := false, job := s.core.job }) n
      | none => s
    | none => s

/-- RECV_NOTICE_ARRIVAL: the sending entry learns of a waiting receiver. -/
def execRecvNoticeArrival (ep : Nat) (on : Bool) (s : State) : Host.Outcome State Fault Refusal :=
  .next { s with core := s.core.modEndpoint ep fun x => { x with notice := on } }

/-! Sending. -/

/-- The instructions of Table 6-2. -/
inductive ChanOp where
  | send
  | eos
  | sendTile
  | recv
  | recvTile
  deriving DecidableEq, Repr

/-- The checks of Table 6-2 but for CLOSED. -/
def State.entryBad (s : State) (x : Endpoint) (o : Option ChanOp) : Bool :=
  !x.valid || s.sid.val == 6 || (s.sid.val != 7 && x.ownerIx != s.self.ent) ||
    (match o with
     | none => !x.dir
     | some .send => x.dir || x.type == 1
     | some .eos => x.dir
     | some .sendTile => x.dir || x.type != 1
     | some .recv => !x.dir || x.type == 1
     | some .recvTile => !x.dir || x.type != 1)

/-- Whether a wait is that of a SENDX. -/
def isSendx : WaitKind → Bool
  | .sendx _ _ => true
  | _ => false

/-- Whether an operation with its own time-out can end at its expiry: its completion is not on its way. A SENDX to a port of another
core ends too, its message is taken back before it is accepted (R199; DEDUCED, log entry 153). -/
def State.expires (s : State) (w : Wait) : Bool :=
  (w.reason != 7 || isSendx w.kind) && !s.completing w.op && !s.tileMoving w

/-- An operation that has its own time-out ends without effect at its expiry, unless it is completing or its offer
is held by a choice (R202), once the recorder has room for the expiry (16 R441). -/
def State.expire (s : State) (n : Nat) : State :=
  match (s.core.fibre? n).bind fun f => f.wait with
  | none => s
  | some w =>
    let x := s.core.endpoint w.ep
    let held := match w.kind with
      | .sendx _ _ => ((s.coreAt x.peerCore).endpoint x.pep.toNat).rsv && x.pkind == 0 && x.mode == false
      | _ => false
    if !s.expired w.due || !s.expires w || held || s.recFull ⟨s.cid, n⟩ then s
    else
      let t := (s.eraseOp ⟨s.cid, n⟩ w).record n kExpiry
        (match w.kind with
         | .alt _ _ _ => 0xFF
         | _ => w.ep) (BitVec.ofNat 64 s.now)
      match w.kind with
      | .sendx _ d => ((t.unpop n w).finishWait n w (some d) 1).getD s
      | .recvx _ _ a => (t.finishWait n w (some a) 1).getD s
      | .alt _ d (some b) => (t.finishWait2 n w d 64 b 1).getD s
      | _ => s

/-- Whether RSV of an entry was set by an ALT of the fibre in turn: its owner's, or slot 7's (R202; log entry 151). -/
def State.reserved (s : State) (x : Endpoint) : Bool :=
  if s.self.ent = 257 then x.rsv7 else x.ownerIx == s.self.ent && !x.rsv7

/-- RSV is clear on every entry that the fibre in turn has reserved (R202); an offer that RSV held past its time-out expires now,
but for the entry that the instruction receives from. -/
def State.clearRsv (s : State) (takes : Option Nat) : State :=
  let mine := s.core.endpoints.filter fun p => s.reserved p.2 && p.2.rsv
  let off (p : Nat × Endpoint) : Nat × Endpoint := if s.reserved p.2 then (p.1, { p.2 with rsv := false, rsv7 := false }) else p
  let t := { s with core := { s.core with endpoints := s.core.endpoints.map off } }
  (mine.filter fun p => takes != some p.1).foldl (fun u p =>
    match p.2.offers with
    | m :: _ => u.onCore m.who.core fun v => v.expire m.who.ent
    | [] => u) t

/-- A fault that the fields of an instruction have before any operand is read: all of the gate's but a bad word. -/
def State.fieldFault (s : State) (o : Opnds) : Option Flt := (s.gateFault o).filter fun f => f.code != memPoison

/-- Whether a time-out register holds a value out of its range (R199): it is looked at before any operand is read. -/
def State.badTime (s : State) (r : Reg) : Bool :=
  match s.popReg r with
  | some (v, _) => decide (v.toNat ≥ 2 ^ 40)
  | none => false

/-- The instant at which a time-out of the instruction in turn expires, from its first issue on; in replay a recorded expiry is at
once and another never (R199; 16 R442). -/
def State.dueOf (s : State) (e : Nat) (t : Option Nat) : Option Nat :=
  match t with
  | none => none
  | some n =>
    if s.recMode s.fib = 2 then
      match s.replayed s.self.ent with
      | some (k, ep, _) => if k = kExpiry ∧ ep = e then some s.now else none
      | none => none
    else some (s.me.stall.getD s.now + n)

/-- A channel instruction behind its gate: the checks of the entry and of a time-out register come before any operand is
consumed (R192, R199); a time-out that has come ends an instruction that cannot be performed yet. -/
def State.chanIssue (s : State) (o : Opnds) (e : Nat) (op : ChanOp) (time : Option Reg) (k : List DWord → State → State) :
    Host.Outcome State Fault Refusal :=
  .next (match s.fieldFault o with
    | some f => s.raiseOf o f
    | none =>
      let x := s.core.endpoint e
      if s.entryBad x (some op) || x.closed then s.raiseOf o (chanFlt e)
      else if time.any s.badTime then s.raise (flt reservedField)
      else
        let s := State.replayArrivals 64 s s.self.ent
        match s.gate o with
        | .fault f => s.gateRaise o f
        | .stall =>
          match (time.bind fun r => (s.popReg r).map fun x => (r, x.1)) with
          | some (r, v) =>
            if s.expired (s.dueOf e (some v.toNat)) then s.timesOut (s.clearRsv none) e r else s.stallRead o.reads
          | none => s.stallRead o.reads
        | .go vs s' => k vs (s'.clearRsv (if op = .recv ∨ op = .recvTile then some e else none)))

/-- The message of a send as a wait keeps it: value, and 0 word, 1 token, 2 last post. -/
def keepBody (b : Body) : Access :=
  { noAccess with a := unitWord b, b := (match b with
      | .last => 2
      | .token => 1
      | _ => 0) }

def keptBody (a : Access) : Body := if a.b = 2 then .last else if a.b = 1 then .token else .word a.a

/-- The place of an entry, for the order of its messages. -/
def entryPlace (core ep : Nat) : Nat := 2 ^ 44 + core * 64 + ep

/-- A SENDX: the status register and the time-out. -/
abbrev Timed := Option (Reg × Nat)

def sendKind (e : Nat) : Timed → WaitKind
  | some (d, _) => .sendx e d
  | none => .send e

/-- A send that completes at once. -/
def State.sendDone (s : State) (e : Nat) (b : Body) (t : Timed) : State :=
  let s := if isLast b then { s with core := s.core.modEndpoint e fun x => { x with closed := true } } else s
  match t with
  | some (d, _) => (s.writeReg d 0).advance
  | none => s.advance

/-- Whether a message to an entry of this core may be handed over in this step: every earlier access is performed and
no earlier message of the channel is in flight (R193). -/
def State.direct (s : State) (core ep : Nat) : Bool :=
  core == s.cid && s.outstanding.isEmpty && !(s.net.any fun p => p.keeps (entryPlace core ep))

/-- A message leaves for an entry. -/
def State.sendMessage (s : State) (core : Nat) (m : ChanMsg) : State :=
  s.sendFrom s.cid core (some m.who) (s.outstandingOf m.who) (some (entryPlace core m.dst)) (.messageArrival m)

/-- The message of the fibre in turn on entry e. -/
def State.messageOn (s : State) (e : Nat) (b : Body) : ChanMsg :=
  let x := s.core.endpoint e
  { who := s.self, op := s.nextId, src := .core s.cid e, dst := x.pep.toNat, body := b, offer := !x.mode,
    job := s.jobOf s.fib }

/-- The wait of a send: the words it popped, the message, the job that counts it. -/
def State.sendWait (s : State) (ws : List (Reg × DWord)) (e : Nat) (b : Body) (t : Timed) (due : Option Nat) (j : Option Nat) : Wait :=
  ((s.newWait (sendKind e t) 1 due e (some (keepBody b))).keeps ws).counted j

/-- A send towards another entry; s before the pops, s' after them, ws the words popped (R194, R195, R199). -/
def State.sendEntry (s s' : State) (ws : List (Reg × DWord)) (e : Nat) (b : Body) (t : Timed) (due : Option Nat) : State :=
  let x := s'.core.endpoint e
  let m := s'.messageOn e b
  let c := x.peerCore
  let hold (u : State) : State := (u.block (u.sendWait ws e b t due m.job)).countSend m.job s.die
  if x.mode then
    if x.cnt = 0 then (if s.expired due then s.expireOrStall s' ws (sendKind e t) due else hold s')
    else
      let u := { s' with core := s'.core.modEndpoint e fun y => { y with cnt := y.cnt - 1 }, nextId := s'.nextId + 1 }
      let u := u.countSend m.job s.die
      if s.direct c m.dst then (u.sendDone e b t).arrive m
      else (u.sendMessage c m).sendDone e b t
  else if s.direct c m.dst then
    let y := s'.core.endpoint m.dst
    if y.refuses m then s.raise (chanFlt e)
    else
      match s'.core.userWait m.dst fun k => recvsOn k == some m.dst with
      | some (n, w) =>
        if y.offers.isEmpty then
          let u := (s'.countSend m.job s.die).sendDone e b t
          let u := u.consumed m.dst b (u.jobOf ((u.core.fibre? n).getD Fibre.reset))
          match u.giveTo n w m.dst b with
          | some r => r
          | none => (hold s').arrive m
        else (hold s').arrive m
      | none => if s.expired due then s.expireOrStall s' ws (sendKind e t) due else (hold s').arrive m
  else if s.expired due ∧ x.notice = false then s.expireOrStall s' ws (sendKind e t) due
  else (hold s').sendMessage c m

/-- A word for the host enters its outbound FIFO, or the sender waits for room (15 R422). -/
def State.sendBox (s s' : State) (ws : List (Reg × DWord)) (e : Nat) (b : Body) (t : Timed) (due : Option Nat) : State :=
  let box := bits (s.core.endpoint e).ext 0 8
  let j := s'.jobOf s'.fib
  if !s.outstanding.isEmpty then s.expireOrStall s' ws (sendKind e t) due
  else if s.boxRoom box 1 then
    (((s'.countSend j s.die).countConsume j s.die).outPush box 0 [(unitWord b, b)]).sendDone e b t
  else if s.expired due then s.expireOrStall s' ws (sendKind e t) due
  else
    let i : Issuer := ⟨s'.self, s'.nextId, .wait, j⟩
    let u := (s'.block (s'.sendWait ws e b t due j)).countSend j s.die
    { u with host := { u.host with waiting := u.host.waiting ++ [(box, i)] } }

/-- The frame of a stream message (15 R410). -/
def streamFrame (x : Endpoint) (b : Body) (data : List Byte) : Frame :=
  { frameOf (bits x.ext 0 8) 1 (bits x.ext 8 12) with body := b, data := data, arg := unitWord b }

/-- A message for a link stream is accepted by the Sorting Office, within the sender's credits. -/
def State.sendStream (s s' : State) (ws : List (Reg × DWord)) (e : Nat) (b : Body) (t : Timed) (due : Option Nat) : State :=
  let x := s.core.endpoint e
  let j := s'.jobOf s'.fib
  if !s.outstanding.isEmpty then s.expireOrStall s' ws (sendKind e t) due
  else if x.cnt > 0 then
    let u := { s' with core := s'.core.modEndpoint e fun y => { y with cnt := y.cnt - 1 } }
    (((u.countSend j s.die).countConsume j s.die).outFrame (streamFrame x b [])).sendDone e b t
  else if s.expired due then s.expireOrStall s' ws (sendKind e t) due
  else (s'.block (s'.sendWait ws e b t due j)).countSend j s.die

/-- A word for the recorder. -/
def State.sendRecorder (s s' : State) (ws : List (Reg × DWord)) (e : Nat) (b : Body) (t : Timed) (due : Option Nat) : State :=
  let j := s'.jobOf s'.fib
  if s.recStall || !s.outstanding.isEmpty then s.expireOrStall s' ws (sendKind e t) due
  else
    match s.replayed s.self.ent with
    | some (k, ep, _) =>
      if k ≠ kSent ∨ ep ≠ e then s.raise (chanFlt e)
      else (((s'.countSend j s.die).countConsume j s.die).record s.self.ent kSent e (unitWord b)).sendDone e b t
    | none => (((s'.countSend j s.die).countConsume j s.die).record s.self.ent kSent e (unitWord b)).sendDone e b t

/-- A send of the instruction in turn, by the kind of its peer (R206). The port of PKIND 1 is PEP modulo 32 (DESIGN CHOICE, log entry 163). -/
def State.sendOn (s s' : State) (ws : List (Reg × DWord)) (e : Nat) (b : Body) (t : Timed) : State :=
  let x := s.core.endpoint e
  let due := s.dueOf e (t.map fun p => p.2)
  match x.pkind.toNat with
  | 0 => s.sendEntry s' ws e b t due
  | 1 => if isLast b then s.raise (chanFlt e) else s.postTo s' ws (sendKind e t) due e x.peerCore (x.pep.toNat % 32) (unitWord b)
  | 2 => s.sendBox s' ws e b t due
  | 3 => s.sendStream s' ws e b t due
  | _ => s.sendRecorder s' ws e b t due

/-- What SEND sends (R196): on a TOKEN channel a is not read. -/
def State.sendReads (s : State) (e : Nat) (a : Reg) : List Reg := if (s.core.endpoint e).type = 2 then [] else [a]

def sendBody (type : BitVec 2) (v : DWord) : Body := if type = 2 then .token else .word v

/-- SEND. -/
def execSend (e : BitVec 6) (a : Reg) (s : State) : Host.Outcome State Fault Refusal :=
  s.chanIssue ⟨s.sendReads e.toNat a, none, false, false⟩ e.toNat .send none fun v s' =>
    s.sendOn s' (queueWords (s.sendReads e.toNat a) v) e.toNat (sendBody (s.core.endpoint e.toNat).type (arg v 0)) none

/-- EOS. -/
def execEos (e : BitVec 6) (s : State) : Host.Outcome State Fault Refusal :=
  s.chanIssue ⟨[], none, false, false⟩ e.toNat .eos none fun _ s' => s.sendOn s' [] e.toNat .last none

/-- SENDX: d holds the time-out and takes the status. -/
def execSendx (d : Reg) (e : BitVec 6) (a : Reg) (s : State) : Host.Outcome State Fault Refusal :=
  s.chanIssue ⟨d :: s.sendReads e.toNat a, some d, false, false⟩ e.toNat .send (some d) fun v s' =>
    s.sendOn s' (queueWords (d :: s.sendReads e.toNat a) v) e.toNat (sendBody (s.core.endpoint e.toNat).type (arg v 1))
      (some (d, (arg v 0).toNat))

/-! Receiving. -/

/-- A waiting receiver's notice goes to its sender (R194). -/
def State.sendNotice (s : State) (e : Nat) : State :=
  let x := s.core.endpoint e
  if x.pkind = 0 ∧ x.mode = false then s.send x.peerCore (.recvNoticeArrival x.pep.toNat true) else s

/-- RECV. -/
def execRecv (d : Reg) (e : BitVec 6) (s : State) : Host.Outcome State Fault Refusal :=
  s.chanIssue ⟨[], some d, false, false⟩ e.toNat .recv none fun _ s' =>
    match s'.headBad e.toNat, s'.headMessage e.toNat with
    | some a, _ => s.raise (accessFlt memPoison a)
    | none, some b =>
      let v := recvValue (s.core.endpoint e.toNat).type b
      match s'.dstCheck d v with
      | .stall => s.stall
      | .fault f => s.raise f
      | .ok => (((s'.writeReg d v).advance).takeMessage e.toNat).consumed e.toNat b (s.jobOf s.fib)
    | none, none => (s'.block (s'.newWait (.recv e.toNat d) 2 none e.toNat none)).sendNotice e.toNat

/-- RECVX: a holds the time-out and takes the status (R199). -/
def execRecvx (d : Reg) (e : BitVec 6) (a : Reg) (s : State) : Host.Outcome State Fault Refusal :=
  s.chanIssue ⟨[a], some d, false, false⟩ e.toNat .recv (some a) fun t s' =>
    let due := s.dueOf e.toNat (some (arg t 0).toNat)
    let never := s.recMode s.fib == 2 && s.expired due
    match (if never then none else s'.headBad e.toNat), (if never then none else s'.headMessage e.toNat) with
    | some x, _ => s.raise (accessFlt memPoison x)
    | none, some b =>
      let v := recvValue (s.core.endpoint e.toNat).type b
      match s'.dstCheck d v with
      | .stall => if s.expired due then s.timesOut s' e.toNat a else s.stall
      | .fault f => s.raise f
      | .ok =>
        ((((s'.writeReg d v).writeReg a (if isLast b then 2 else 0)).advance).takeMessage e.toNat).consumed e.toNat b
          (s.jobOf s.fib)
    | none, none =>
      if s.expired due then s.timesOut s' e.toNat a
      else (s'.block (s'.newWait (.recvx e.toNat d a) 2 due e.toNat none)).sendNotice e.toNat

/-- PROBE (R200). -/
def execProbe (d : Reg) (e : BitVec 6) (s : State) : Host.Outcome State Fault Refusal :=
  s.issue ⟨[], some d, false, false⟩ fun _ s' =>
    s.done (s'.clearRsv none) d (BitVec.ofNat 64 (s.core.endpoint e.toNat).low)

/-! Choice (R201, R202). -/

/-- The fault of a guard mask: none, a bit that names no fit entry, or every entry CLOSED. -/
def State.maskFault (s : State) (mask : DWord) : Option Flt :=
  let named := (List.range 64).filter fun i => mask.getLsbD i
  match named.find? fun i => s.entryBad (s.core.endpoint i) none with
  | some i => some (chanFlt i)
  | none =>
    if named.all fun i => (s.core.endpoint i).closed then some (chanFlt (named.headD 0)) else none

/-- The expiry of an ALTT: 64 in d and 1 in its time-out register (R201); u: the state without what it took. -/
def State.altTimesOut (s u : State) (d b : Reg) : State :=
  match u.dstCheck d 64 with
  | .stall => s.stall
  | .fault f => s.raise f
  | .ok =>
    if s.recStall then s.stall
    else (((u.record s.self.ent kExpiry 0xFF (BitVec.ofNat 64 s.now)).writeReg d 64).writeReg b 1).advance

/-- ALT and ALTT behind their gate; ws: the words popped. -/
def State.altOn (s s' : State) (ws : List (Reg × DWord)) (d : Reg) (mask : DWord) (b : Option (Reg × Nat)) : State :=
  match s.maskFault mask with
  | some f => s.raise f
  | none =>
    if s.recStall then s.stall
    else
      let s' := (State.replayArrivals 64 s' s.self.ent).clearRsv none
      let due := s.dueOf 0xFF (b.map fun p => p.2)
      match (match s.replayed s.self.ent with
        | some (k, _, v) => if k ≠ kAlt ∧ (b.isNone ∨ k ≠ kExpiry) then some v else none
        | none => none) with
      | some _ => s.raise (chanFlt 0xFF)
      | none =>
        match s'.chooseGuard s.self.ent mask with
        | some i =>
          let v : DWord := BitVec.ofNat 64 i
          match s'.dstCheck d v with
          | .stall => s.stall
          | .fault f => s.raise f
          | .ok =>
            let u := s'.writeReg d v
            let u := match b with
              | some p => u.writeReg p.1 0
              | none => u
            (u.decideAlt s.self.ent i).advance
        | none =>
          match b with
          | some p =>
            if s.expired due then s.altTimesOut s' d p.1
            else s'.block ((s'.newWait (.alt mask d (some p.1)) 3 due 0 none).keeps ws)
          | none => s'.block ((s'.newWait (.alt mask d none) 3 none 0 none).keeps ws)

/-- ALT. -/
def execAlt (d a : Reg) (s : State) : Host.Outcome State Fault Refusal :=
  s.issue ⟨[a], some d, false, false⟩ fun v s' => s.altOn s' (queueWords [a] v) d (arg v 0) none

/-- ALTT. -/
def execAltt (d a b : Reg) (s : State) : Host.Outcome State Fault Refusal :=
  let o : Opnds := ⟨[a, b], some d, false, false⟩
  if (s.fieldFault o).isNone && s.badTime b then .next (s.raise (flt reservedField))
  else if (s.gate o).isStall = true ∧ s.expired (s.dueOf 0xFF ((s.popReg b).map fun x => x.1.toNat)) = true then
    .next (s.altTimesOut (s.clearRsv none) d b)
  else s.issue o fun v s' => s.altOn s' (queueWords [a, b] v) d (arg v 0) (some (b, (arg v 1).toNat))

/-! Expiry (R199, R201). -/

/-- TIMEOUT_EXPIRY. -/
def execTimeoutExpiry (ent : Nat) (s : State) : Host.Outcome State Fault Refusal := .next (s.expire ent)

/-! Credits (R195). -/

/-- The waiting send of fibre n on a credited entry of the core in turn goes ahead. -/
def State.resumeSend (s : State) (n : Nat) (w : Wait) : State :=
  let x := s.core.endpoint w.ep
  let b := keptBody (w.acc.getD noAccess)
  let f := (s.core.fibre? n).getD Fibre.reset
  let s1 := { s with core := s.core.modEndpoint w.ep fun y => { y with cnt := y.cnt - 1 } }
  let s2 := s1.endSend n w.op 0
  if x.pkind = 3 then (s2.countConsume (s.jobOf f) s.die).outFrame (streamFrame x b [])
  else
    s2.sendMessage x.peerCore { who := ⟨s.cid, n⟩, op := w.op, src := .core s.cid w.ep, dst := x.pep.toNat, body := b,
                                offer := false, job := s.jobOf f }

/-- A credit at an entry of the core in turn. -/
def State.credit (s : State) (e : Nat) : State :=
  let x := s.core.endpoint e
  let s := { s with core := s.core.modEndpoint e fun y => { y with cnt := min x.nslot (y.cnt + 1) } }
  match s.core.userWait e fun k => sendsOn k == some e with
  | some (n, w) => s.resumeSend n w
  | none =>
    match s.core.userWait e (isTileOn e) with
    | some (n, w) =>
      -- the send counts anew when it goes on
      (s.countConsume w.sent s.die).reissue n
    | none => s

/-- The head word of a mailbox's FIFO is read: whether its parity is bad, and the state with the error gone and told to the management
controller (16 R438; log entry 91). -/
def State.readBoxFifo (s : State) (k : Nat) : Bool × State :=
  if s.host.fifoPoison.contains k then
    (true, { s with host := { s.host with fifoPoison := s.host.fifoPoison.filter fun x => x != k },
                    mgmt := { s.mgmt with reports := s.mgmt.reports ++ [(hostDst, k)] } })
  else (false, s)

/-- The next inbound word of a mailbox leaves for its bound entry while credits last (15 R422); one with bad parity is consumed and sent
nowhere. -/
def State.pumpBox (s : State) (m : Nat) : State :=
  let b := s.box m
  match s.host.bound.get? m, b.inq with
  | some (c, e), w :: rest =>
    if b.credit = 0 then s
    else if (s.readBoxFifo (256 + m)).1 then (s.readBoxFifo (256 + m)).2.setBox m { b with inq := rest }
    else
      (s.setBox m { b with inq := rest, credit := b.credit - 1 }).sendFrom hostDst c none [] (some (entryPlace c e))
        (.messageArrival { who := ⟨0, 0⟩, op := 0, src := .ext 2 m, dst := e, body := w, offer := false, job := none })
  | _, _ => s

/-- CREDIT_RETURN: at an entry, or, from 64 on, at a host mailbox. -/
def execCreditReturn (ep : Nat) (s : State) : Host.Outcome State Fault Refusal :=
  .next (if ep < 64 then s.credit ep
    else
      let m := ep - 64
      (s.setBox m { s.box m with credit := (s.box m).credit + 1 }).pumpBox m)

/-! Binding (R203, R204, R206; 15 R409). -/

/-- Whether an entry is idle (R203). -/
def Endpoint.idle (x : Endpoint) : Bool :=
  x.offers.isEmpty && x.kinds.isEmpty && !x.busyTile &&
    (!x.valid || x.dir || x.pkind == 1 || x.pkind == 2 || x.pkind == 5 || !x.mode || x.cnt == x.nslot)

/-- The entry of a tile operation. -/
def tileEntry : Instr → Option Nat
  | .sendt e _ => some e.toNat
  | .recvt _ e _ => some e.toNat
  | _ => none

/-- The entry that a send or a receive names. -/
def chanEntry : Instr → Option Nat
  | .send e _ | .sendt e _ | .eos e => some e.toNat
  | .sendx _ e _ | .recv _ e | .recvx _ e _ | .recvt _ e _ => some e.toNat
  | _ => none

/-- Whether the instruction that stalls in a slot, as the line it issues from holds it, is a send or a receive on an entry, or a choice
whose guards name it. -/
def State.stallsOn (s : State) (i : Fin 8) (e : Nat) : Bool :=
  let m := s.core.slots[i]
  m.stall.isSome &&
    (match (lineWord m.line.toList m.fib.ctx.pc.toNat).map decode with
     | some (.ok ins) => chanEntry ins == some e ||
       (match ins with
        | .alt _ a | .altt _ a _ => (({ s with sid := i } : State).popReg a).any fun (v : DWord × State) => v.1.getLsbD e
        | _ => false)
     | _ => false)

/-- Whether a fibre of the core in turn is blocked in an operation on an entry, or performs a tile transfer there. -/
def Core.inUse (c : Core) (e : Nat) : Bool :=
  (c.userWait e fun k => sendsOn k == some e || recvsOn k == some e || isTileOn e k).isSome ||
    (c.slots.toList.any fun m => (m.run.any fun r => tileEntry r.ins == some e) ||
      (m.fib.snap.any fun x => x.tile.any fun t => t.1 == e)) ||
    (c.runq.any fun f => f.2.snap.any fun x => x.tile.any fun t => t.1 == e) ||
    (match c.userWait e isAlt with
     | some (_, w) => (match w.kind with
       | .alt m _ _ => m.getLsbD e
       | _ => false)
     | none => false)

/-- The fault of a restante buffer (R203): every slot aligned, in one bank, in the partition. -/
def State.bufferFault (s : State) (x : Endpoint) : Option Flt :=
  if x.dir ∧ x.mode then
    (List.range x.nslot).findSome? fun i =>
      let a := x.buf.toNat + i * x.slotBytes
      let ea : DWord := BitVec.ofNat 64 a
      if a % (if x.type = 1 then 32 else 8) ≠ 0 then some (fltAt misalign ea)
      else if a % 8192 + x.slotBytes > 8192 ∨ a + x.slotBytes > 65536 then some (fltAt bankBounds ea)
      else if !s.core.inPart0 a x.slotBytes then some (fltAt partitionBounds ea)
      else none
  else none

def badSlotb (x : Endpoint) : Bool :=
  x.type == 1 && x.mode && (x.slotb == 0 || decide (x.slotb.toNat > 8192) || x.slotb.toNat % 32 != 0)

/-- The key of an external binding in the host die's table: mailboxes below 256, notify registers above. -/
def boundKey (x : Endpoint) : Nat := if x.pkind = 2 then bits x.ext 0 8 else 256 + x.ext.toNat

/-- The external tables without what an entry of a core binds. -/
def State.unbindExt (s : State) (core e : Nat) (x : Endpoint) : State :=
  if !x.valid then s
  else if x.pkind = 3 then
    { s with office := { s.office with streamsIn := s.office.streamsIn.filter fun t => !(t.2.2.1 == core && t.2.2.2 == e && x.dir),
                                       streamsOut := s.office.streamsOut.filter fun t => !(t.2.2.1 == core && t.2.2.2 == e && !x.dir) } }
  else if (x.pkind = 2 ∨ x.pkind = 4) ∧ x.dir then
    { s with host := { s.host with bound := s.host.bound.erase (boundKey x) } }
  else s

/-- The external tables with what an entry binds. -/
def State.bindExt (s : State) (core e : Nat) (x : Endpoint) : State :=
  if !x.valid then s
  else if x.pkind = 3 then
    let t := (bits x.ext 0 8, bits x.ext 8 12, core, e)
    if x.dir then { s with office := { s.office with streamsIn := s.office.streamsIn ++ [t] } }
    else { s with office := { s.office with streamsOut := s.office.streamsOut ++ [t] } }
  else if x.pkind = 4 ∧ x.dir then { s with host := { s.host with bound := s.host.bound.set (boundKey x) (core, e) } }
  else if x.pkind = 2 ∧ x.dir then
    let m := bits x.ext 0 8
    let s := { s with host := { s.host with bound := s.host.bound.set m (core, e) } }
    let s := s.setBox m { s.box m with credit := x.nslot - x.cnt }
    (List.range x.nslot).foldl (fun u _ => u.pumpBox m) s
  else s

/-- Whether the external tables refuse a binding (R206; 15 R409): an entry of the stream table serves both directions of its stream,
and what the endpoint entry binds so far is given up. -/
def State.extRefuses (s : State) (core e : Nat) (x : Endpoint) : Bool :=
  match x.pkind.toNat with
  | 0 => false
  | 1 => x.dir || x.type != 0
  | 2 => (x.dir && !x.mode) || x.type == 1
  | 3 =>
    let o := (s.unbindExt core e ((s.coreAt core).endpoint e)).office
    let key := (bits x.ext 0 8, bits x.ext 8 12)
    let used := ((o.streamsIn ++ o.streamsOut).map fun t => (t.1, t.2.1)).eraseDups
    (x.dir && !x.mode) || (o.links.get? key.1).isNone || (decide (used.length ≥ 16384) && !used.contains key) ||
      (if x.dir then o.streamsIn else o.streamsOut).any fun t => (t.1, t.2.1) == key
  | 4 => !x.dir || !x.mode || x.type != 0
  | 5 => x.dir || x.type != 0
  | _ => true

/-- An image that differs from a valid entry only in its peer (R203). -/
def Endpoint.repoints (x y : Endpoint) : Bool :=
  x.valid && y.valid && x.dir == y.dir && x.type == y.type && x.mode == y.mode && x.nslotm1 == y.nslotm1 &&
    x.pkind == y.pkind && x.owner == y.owner && x.buf == y.buf && x.slotb == y.slotb

/-- A new binding's counters (R203). -/
def Endpoint.fresh (x : Endpoint) : Endpoint :=
  { x with cnt := if x.dir then 0 else x.nslot, head := 0, closed := false, rsv := false, lpq := false, offers := [],
           kinds := [], notice := false, busyTile := false, orphan := false }

/-- An entry of the core in turn written by the supervisor or the launcher. -/
def State.putEntry (s : State) (e : Nat) (x : Endpoint) : State :=
  let old := s.core.endpoint e
  let s := s.unbindExt s.cid e old
  ({ s with core := { s.core with endpoints := s.core.endpoints.set e x } }).bindExt s.cid e x

/-- n bytes of the own scratchpad at an address, aligned (CheckScratch with its own alignment). -/
def State.checkOwn (s : State) (ea : DWord) (n align : Nat) : Except Flt Nat :=
  match regionOf s.cid ea with
  | .own off =>
    if off % align ≠ 0 then .error (fltAt misalign ea)
    else if off % 8192 + n > 8192 then .error (fltAt bankBounds ea)
    else if !s.core.inPart0 off n then .error (fltAt partitionBounds ea)
    else if s.core.poisoned off n then .error (accessFlt memPoison ea)
    else .ok off
  | _ => .error (fltAt translation ea)

/-- BIND. -/
def execBind (e : BitVec 6) (a : Reg) (s : State) : Host.Outcome State Fault Refusal :=
  s.issue ⟨[a], none, true, false⟩ fun v s' =>
    match s.checkOwn (arg v 0) 16 8 with
    | .error f => s.raise f
    | .ok off =>
      let l := s.spBytes s.cid off 16
      let x := s.core.endpoint e.toNat
      let y := Endpoint.ofImage l
      if s.heldByAcquire || s.core.rangeStall s.cid off 16 then s.stall
      else if imageReserved l || badSlotb y then s.raise (flt reservedField)
      else if s.extRefuses s.cid e.toNat y || s.core.inUse e.toNat || eachSlot.any (fun i => s.stallsOn i e.toNat) then
        s.raise (chanFlt e.toNat)
      else if x.repoints y then
        (s'.putEntry e.toNat { x with pdie := y.pdie, pcore := y.pcore, pep := y.pep, ext := y.ext, orphan := false }).advance
      else if !x.idle then s.raise (chanFlt e.toNat)
      else
        match s.bufferFault y with
        | some f => s.raise f
        | none => (s'.putEntry e.toNat y.fresh).advance

/-- UNBIND. -/
def execUnbind (e : BitVec 6) (s : State) : Host.Outcome State Fault Refusal :=
  s.issue ⟨[], none, true, false⟩ fun _ s' =>
    if !(s.core.endpoint e.toNat).idle then s.raise (chanFlt e.toNat)
    else
      let t := s'.putEntry e.toNat Endpoint.reset
      ({ t with core := { t.core with endpoints := t.core.endpoints.erase e.toNat } }).advance

/-- CHMODE (Table 6-5). -/
def execChmode (e : BitVec 6) (a : Reg) (s : State) : Host.Outcome State Fault Refusal :=
  s.issue ⟨[a], none, true, false⟩ fun v s' =>
    let w := arg v 0
    let x := s.core.endpoint e.toNat
    let y : Endpoint := { x with mode := w.getLsbD 0, nslotm1 := BitVec.ofNat 4 (bits w 1 4), buf := BitVec.ofNat 16 (bits w 5 16),
                                 slotb := BitVec.ofNat 14 (bits w 21 14) }
    if bits w 35 29 ≠ 0 ∨ badSlotb y = true then s.raise (flt reservedField)
    else if !x.valid || !x.idle then s.raise (chanFlt e.toNat)
    else
      match s.bufferFault y with
      | some f => s.raise f
      | none => (s'.putEntry e.toNat { y.fresh with orphan := x.orphan }).advance

end Sys2Proof.Machine
end

