-- ==== Sys2Proof/Machine/Fork.lean ====
section
/-! DEFINITION. FORK, JOINC, inline children and LNCH (06 R207 to R213; 12 R345, R347, R349). -/

namespace Sys2Proof.Machine

/-! Fork frames (Table 6-7). -/

def frSpawn (h : DWord) : Nat := bits h 0 6
def frJoin (h : DWord) : Nat := bits h 8 6
def frNcw (h : DWord) : Nat := bits h 16 5 + 1

/-- The fault of a frame address and header (R207, R209, R212), or its offset. -/
def State.frameCheck (s : State) (f : DWord) : Except Flt Nat :=
  match s.checkScratch f 8 with
  | .error e => .error e
  | .ok off =>
    if s.core.poisoned off 8 then .error (accessFlt memPoison f)
    else
      let h := s.spWord s.cid off
      if frNcw h > 16 ∨ (h &&& 0xFFFFFFC0FEE0C0C0#64) ≠ 0 then .error (flt reservedField)
      else if off % 8192 + 96 + 8 * frNcw h > 8192 then .error (fltAt bankBounds f)
      else .ok off

/-- The depth of a path (R208): the least level that is zero, at most 7. -/
def pathDepth (id : DWord) (w : Nat) : Nat :=
  ((List.range 7).find? fun j => bits id (w + 6 * j) 6 == 0).getD 7

/-- W of a job (R208). -/
def Job.w (j : Job) : Nat := j.widths.sum

/-- The name of a child (R208). -/
def childId (id : DWord) (sp w d : Nat) : DWord := id ||| BitVec.ofNat 64 ((sp + 1) <<< (w + 6 * d))

/-- The status word of a child: PRI, FRM, WLC and WLU of the parent, READY (Table 6-8). -/
def childStatus (w : Word) : Word := (w &&& 0x3FF01F80#32) ||| BitVec.ofNat 32 stReady

/-- A child at a free entry of the core in turn. -/
def State.createChild (s : State) (e : Nat) (c : Child) : State :=
  let p := (Vector.replicate 8 (0 : DWord)).set 0 c.arg |>.set 1 c.slot
  let ctx : Ctx := { p := p, pg := 0, id := c.cid, pc := c.entry, dl := c.dl, status := c.status }
  ({ s with core := { s.core.disown e with runq := s.core.runq.set e { Fibre.reset with ctx := ctx, job := c.job } } }).makeReady e

/-- An inline child: the parent's slot goes on at its entry (R209, R211); f: the offset of the frame that p6 names. -/
def State.goInline (s : State) (f : Nat) (d : Reg) (c : Child) (back : Addr) : State :=
  let h := s.spWord s.cid f
  let h' := putBits (putBit h 24 true) 32 6 d.code.toNat
  let bytes := leBytes h'.toNat 8 ++ leBytes c.cid.toNat 8 ++ (s.ctx.p.toList.flatMap fun w => leBytes w.toNat 8) ++
    leBytes back.toNat 8
  let s := s.spWrite s.cid f bytes
  let p := (Vector.replicate 8 (0 : DWord)).set 0 c.arg |>.set 1
    (s.ctx.p[6] + BitVec.ofNat 64 (96 + 8 * ((frSpawn h + 63) % 64 % frNcw h))) |>.set 6 s.ctx.p[6]
  s.setCtx { s.ctx with p := p, id := c.cid, pc := c.entry }

/-- The core a child goes to (R210): the placement hash, or without det any core of the partition with a free entry. -/
def State.forkTarget (s : State) (j : Job) (cid : DWord) : Nat :=
  if j.det then j.core (placeHash cid j.count)
  else
    let open_ := j.cores.filter fun c => (s.coreAt c).freeEntry?.isSome
    open_.getD (Config.forkChoice s.free % open_.length) s.cid

/-- Whether FORK and JOINC may not touch their frame yet: a pending acquire (05 R166), or a copy that covers its header (05 R178). -/
def State.frameWaits (s : State) : Bool :=
  s.heldByAcquire || (match regionOf s.cid s.ctx.p[6] with
    | .own off => s.core.rangeStall s.cid off 8
    | _ => false)

/-- FORK (R209). -/
def execFork (d a b : Reg) (s : State) : Host.Outcome State Fault Refusal :=
  .next (match s.fieldFault ⟨[a, b], some d, false, false⟩ with
    | some f => s.raise f
    | none =>
      if s.sid.val = 7 then s.raise (flt channelState)
      else match s.gate ⟨[a, b], some d, false, false⟩ with
        | .fault f => s.gateRaise ⟨[a, b], some d, false, false⟩ f
        | .stall => s.stallRead [a, b]
        | .go v s' =>
          let entry := arg v 0
          if s.frameWaits then s.stall
          else match s.frameCheck s.ctx.p[6], s.job? with
          | .error f, _ => s.raise f
          | .ok _, none => s.raise (flt channelState)
          | .ok off, some j =>
            let h := s.spWord s.cid off
            let sp := frSpawn h
            let dep := pathDepth s.ctx.id j.w
            if entry.toNat % 4 ≠ 0 then s.raise (fltAt misalign entry)
            else if h.getLsbD 24 ∨ (sp + 64 - frJoin h) % 64 = frNcw h ∨ sp = 63 then s.raise (flt channelState)
            else if dep = 7 ∨ j.w + 6 * (dep + 1) > 64 then s.raise (flt channelState)
            else
              let slot := off + 96 + 8 * (sp % frNcw h)
              let cid := childId s.ctx.id sp j.w dep
              let tgt := s.forkTarget j cid
              let local_ := tgt == s.cid
              if s.core.rangeStall s.cid slot 8 || (local_ && !s.outstanding.isEmpty) then s.stall
              else
                let s1 := ((s'.clearRsv none).spWrite s.cid off (leBytes (h + 1).toNat 8))
                let s1 := { s1 with core := s1.core.setFull slot false, free := s1.free + 1 }
                let s1 := State.retest 33 s1 slot
                let c : Child := { who := s1.self, op := s1.nextId, job := s1.fib.job, entry := entry.setWidth 48,
                                   arg := arg v 1, slot := BitVec.ofNat 64 (if local_ then slot else spHome s.cid slot),
                                   cid := cid, dl := s1.ctx.dl, status := childStatus s1.ctx.status }
                let s2 := s1.countSend c.job s.die
                if local_ then
                  let s3 := s2.countConsume c.job s.die
                  match s3.core.freeEntry? with
                  | some e => ((s3.createChild e c).writeReg d cid).advance
                  | none => (s3.goInline off d c (s.ctx.pc + 4)).complete
                else
                  let t := s2.block ((s2.newWait (.fork d) 7 none off none).counted c.job)
                  t.sendFrom s.cid tgt (some s.self) s.outstanding none (.forkChildCreate c))

/-- The answer to a remote FORK: created, or full, and then inline (R209). -/
def State.forkReply (s : State) (e : Nat) (w : Wait) (d : Reg) (r : Result) : State :=
  let cid := r.words.getD 1 0
  if r.words.headD 0 = 1 then (s.finishWait e w (some d) cid).getD s
  else
    let f := (s.core.fibre? e).getD Fibre.reset
    let c : Child := { who := ⟨s.cid, e⟩, op := w.op, job := f.job, entry := (r.words.getD 2 0).setWidth 48,
                       arg := r.words.getD 3 0, slot := 0, cid := cid, dl := f.ctx.dl, status := f.ctx.status }
    let s1 := s.asFibre e fun t =>
      let t := (t.goInline w.ep d c (w.tpc + 4))
      let t := t.setFib { (t.fib.reach w.live t.coreCycles) with wait := none }
      t.setMe { t.me with hints := Hints.reset, group := none, stall := none, spin := none, lat := 1, ready := s.coreCycles + 1 }
    if f.ctx.state = stBlocked then s1.makeReady e else s1

/-- FORK_CHILD_CREATE at the target core (R209, R349). -/
def execForkChildCreate (c : Child) (s : State) : Host.Outcome State Fault Refusal :=
  .next (let ok := s.core.freeEntry?
    let s1 := match ok with
      | some e => s.createChild e c
      | none => s
    s1.send c.who.core (.remoteReply c.who c.op
      ⟨0, 0, false, [if ok.isSome then 1 else 0, c.cid, c.entry.setWidth 64, c.arg]⟩))

/-- JOINC (R212). -/
def execJoinc (d : Reg) (s : State) : Host.Outcome State Fault Refusal :=
  s.issue ⟨[], some d, false, false⟩ fun _ s' =>
    if s.frameWaits then s.stall
    else match s.frameCheck s.ctx.p[6] with
    | .error f => s.raise f
    | .ok off =>
      let h := s.spWord s.cid off
      if frJoin h = frSpawn h then s.raise (flt channelState)
      else if s.core.rangeStall s.cid (off + 96 + 8 * (frJoin h % frNcw h)) 8 then s.stall
      else
        let slot := off + 96 + 8 * (frJoin h % frNcw h)
        let a : Access := { noAccess with kind := .ldfe, addr := BitVec.ofNat 64 slot }
        let s' := s'.clearRsv none
        match s'.atBank s.cid slot a with
        | .refuse c => s.raise (accessFlt c a.addr)
        | .done ws s'' _ => s.bankDone s'' (.joinc d off) ws slot
        | .wait =>
          let i : Issuer := ⟨s'.self, s'.nextId, .wait, s'.myJob⟩
          (s'.block (s'.newWait (.joinc d off) 8 none 0 (some a))).recordWaiter i a

/-- The fork frame that p6 may name as a PARK issues: an 8-aligned address of the own scratchpad (R211). -/
def State.inlineFrame (s : State) : Option Nat :=
  match regionOf s.cid s.ctx.p[6] with
  | .own off => if off % 8 = 0 ∧ off + 96 ≤ 65536 ∧ s.job?.isSome = true then some off else none
  | _ => none

/-- The end of an inline child by PARK (R211): none where the PARK is an ordinary one. -/
def State.inlineReturn (s : State) : Option State :=
  let f := s.ctx.p[6]
  match regionOf s.cid f, s.job? with
  | .own off, some j =>
    let h := s.spWord s.cid off
    if off % 8 = 0 ∧ off + 96 ≤ 65536 ∧ h.getLsbD 24 = true ∧ s.spWord s.cid (off + 8) = s.ctx.id then
      let dep := pathDepth s.ctx.id j.w
      let id := putBits s.ctx.id (j.w + 6 * (dep - 1)) 6 0
      let p := Vector.ofFn fun i : Fin 8 => s.spWord s.cid (off + 16 + 8 * i.val)
      let back := s.spWord s.cid (off + 80)
      let v := s.spWord s.cid (off + 8)
      let dreg := Reg.ofCode (BitVec.ofNat 6 (bits h 32 6))
      let s1 := s.spWrite s.cid off (leBytes (putBit h 24 false).toNat 8)
      let s1 := s1.complete
      let s1 := s1.setCtx { s1.ctx with p := p, id := id, pc := back.setWidth 48 }
      some (s1.writeReg dreg v)
    else none
  | _, _ => none

/-! LNCH (R213). -/

/-- The lowest free index of a range of a die's pool (12 R345). -/
def Die.freePool? (d : Die) (lo n : Nat) : Option Nat :=
  ((List.range n).map fun i => lo + i).find? fun i => d.pool.all fun p => p.idx != i

/-- A record enters the pool of a die, as at a depth: a shared entry, else one reserved for the depth. -/
def State.admitRecord (s : State) (die depth : Nat) (record : Addr) (job : Option Nat) : Option (Nat × State) :=
  let d := s.dies[Fin.ofNat 8 die]
  let i := match d.freePool? 0 2048 with
    | some i => some i
    | none => d.freePool? (2048 + 256 * (depth % 8)) 256
  i.map fun i =>
    (i, { s with dies := s.dies.set (Fin.ofNat 8 die) { d with pool := d.pool ++ [⟨i, record, s.nextId, job⟩] },
                 nextId := s.nextId + 1 })

/-- The status word of LNCH. -/
def lnchWord (i : Option Nat) : DWord :=
  match i with
  | some k => BitVec.ofNat 64 (k % 4096 * 2 ^ 16)
  | none => 1

/-- A BUSY that LNCH returns sets the order-revealing flag of a job with det (R213; 12 R360). -/
def State.busySeen (s : State) (w : DWord) : State :=
  if bits w 0 2 = 1 then s.modJob s.fib.job fun j => if j.det then { j with orf := j.orf ||| 2 } else j else s

/-- LNCH. -/
def execLnch (d a : Reg) (s : State) : Host.Outcome State Fault Refusal :=
  s.issue ⟨[a], some d, false, false⟩ fun v s' =>
    let r := arg v 0
    if r.toNat % 64 ≠ 0 then s.raise (fltAt misalign r)
    else if !inDram r.toNat then s.raise (fltAt translation r)
    else if s.recStall || !s.outstanding.isEmpty then s.stall
    else
      let s' := s'.clearRsv none
      let depth := match s.job? with
        | some j => if s.sid.val = 7 then 0 else pathDepth s.ctx.id j.w
        | none => 0
      let x := s'.admitRecord s.die depth (r.setWidth 48) s'.fib.job
      let s1 := match x with
        | some p => p.2
        | none => s'
      let w := lnchWord (x.map fun p => p.1)
      match s.replayed s.self.ent with
      | some (k, _, val) =>
        if k ≠ kLaunch then s.raise (fltAt channelState 0xFF)
        else s.done ((s1.busySeen val).record s.self.ent kLaunch 0xFF val) d val
      | none => s.done ((s1.busySeen w).record s.self.ent kLaunch 0xFF w) d w

end Sys2Proof.Machine
end

