-- ==== Sys2Proof/Machine/EventOps.lean ====
section
/-! DEFINITION. Events and barriers (06 R215 to R219; 12 R356, R357). -/

namespace Sys2Proof.Machine

/-! Events: issue. -/

/-- The die that is home of event n of a job (12 R356). -/
def Job.eventHome (j : Job) (n : Nat) : Nat := j.core ((n - j.evbase) % j.count) / 2304

/-- The event that an operand names (R215). -/
def State.eventOf (s : State) (v : DWord) : Option (Job × Nat) :=
  match s.job? with
  | none => none
  | some j =>
    let n := bits v 0 16
    if bits v 16 48 ≠ 0 ∨ n < j.evbase ∨ n ≥ j.evbase + j.evcount then none else some (j, n)

/-- The message of an event operation of the fibre in turn. -/
def State.eventMsg (s : State) (j : Job) (n : Nat) (notify : Bool) : EvMsg :=
  { who := s.self, op := s.nextId, job := j.num, name := n, die := j.eventHome n, notify := notify }

/-- The place of an event, for program order at its home. -/
def eventPlace (m : EvMsg) : Nat := 2 ^ 46 + m.name

/-- An event operation that waits for its reply; ws: the words popped. -/
def State.eventWait (s s' : State) (ws : List (Reg × DWord)) (v : DWord) (k : WaitKind) (ev : EvMsg → Ev) : State :=
  match s.eventOf v with
  | none => s.raise (flt reservedField)
  | some (j, n) =>
    if s.heldByAcquire then s.stall
    else
    let m := s'.eventMsg j n false
    let t := (s'.block (((s'.newWait k 5 none 0 none).keeps ws).counted (some j.num))).countSend (some j.num) s.die
    t.sendTo (dieDst m.die) (some (eventPlace m)) (ev m)

/-- An event operation in its notification form: an entry of qev is reserved (R217). -/
def State.eventNotify (s s' : State) (v : DWord) (ev : EvMsg → Ev) : State :=
  match s.eventOf v with
  | none => s.raise (flt reservedField)
  | some (j, n) =>
    if s.heldByAcquire ∨ s.fib.qev.length + s.fib.qevPend.length ≥ 4 then s.stall
    else
      let m := s'.eventMsg j n true
      let t := { (s'.setFib { s'.fib with qevPend := s'.fib.qevPend ++ [m.op] }) with nextId := s'.nextId + 1 }
      (t.advance.countSend (some j.num) s.die).sendTo (dieDst m.die) (some (eventPlace m)) (ev m)

/-- EVWAIT. -/
def execEvwait (a : Reg) (s : State) : Host.Outcome State Fault Refusal :=
  s.issue ⟨[a], none, false, false⟩ fun v s' => s.eventWait s' (queueWords [a] v) (arg v 0) .event .eventWaitArrival

/-- EVWAIT with qev. -/
def execEvwaitQev (a : Reg) (s : State) : Host.Outcome State Fault Refusal :=
  s.issue ⟨[a], none, false, false⟩ fun v s' => s.eventNotify s' (arg v 0) .eventWaitArrival

/-- EVTST. -/
def execEvtst (d a : Reg) (s : State) : Host.Outcome State Fault Refusal :=
  s.issue ⟨[a], if d = .qev then none else some d, false, false⟩ fun v s' =>
    if d = .qev then s.eventNotify s' (arg v 0) .eventTestArrival
    else s.eventWait s' (queueWords [a] v) (arg v 0) (.evtst d) .eventTestArrival

/-- EVSIG: posted after its release. -/
def execEvsig (a : Reg) (s : State) : Host.Outcome State Fault Refusal :=
  s.issue ⟨[a], none, false, false⟩ fun v s' =>
    match s.eventOf (arg v 0) with
    | none => s.raise (flt reservedField)
    | some (j, n) =>
      let m := s'.eventMsg j n false
      let t := { (s'.advance.countSend (some j.num) s.die) with nextId := s'.nextId + 1 }
      t.sendFrom s.cid (dieDst m.die) (some s.self) s.outstanding (some (eventPlace m)) (.eventSignalArrival m)

/-- EVCLR: posted. -/
def execEvclr (a : Reg) (s : State) : Host.Outcome State Fault Refusal :=
  s.issue ⟨[a], none, false, false⟩ fun v s' =>
    match s.eventOf (arg v 0) with
    | none => s.raise (flt reservedField)
    | some (j, n) =>
      if s.heldByAcquire then s.stall
      else
      let m := s'.eventMsg j n false
      let t := { (s'.advance.countSend (some j.num) s.die) with nextId := s'.nextId + 1 }
      t.sendFrom s.cid (dieDst m.die) (some s.self) [] (some (eventPlace m)) (.eventClearArrival m)

/-! Events: the home. -/

def Die.event? (d : Die) (m : EvMsg) : Option Event := d.events.find? fun v => v.job == m.job && v.name == m.name


def State.dieOf (s : State) (k : Nat) : Die := s.dies[Fin.ofNat 8 k]
def State.setDie (s : State) (k : Nat) (d : Die) : State := { s with dies := s.dies.set (Fin.ofNat 8 k) d }

/-- The set of the event table an event falls into (12 R356). -/
def eventSet (job name : Nat) : Nat := placeHash (BitVec.ofNat 64 (job % 4096 * 65536 + name)) 1024

/-- Whether the four ways of an event's set are taken by other events (12 R356). -/
def Die.setFull (d : Die) (v : Event) : Bool :=
  decide ((d.events.filter fun x => !x.far && !(x.job == v.job && x.name == v.name) &&
    eventSet x.job x.name == eventSet v.job v.name).length ≥ 4)

/-- The nodes of the die's pool that waiters take (12 R356), and the nodes of the overflow list in use (R357). -/
def Die.poolUsed (d : Die) : Nat := (d.events.map fun v => v.waiters.length - v.listed).sum
def Die.listUsed (d : Die) : Nat := (d.events.map fun v => v.far.toNat + v.listed).sum

/-- The table with an event replaced; one without SET and waiters is freed. An event whose waiters have all been served from the
overflow list is in the table again where its set has room (R357). -/
def Die.putEvent (d : Die) (v : Event) : Die :=
  let rest := d.events.filter fun x => !(x.job == v.job && x.name == v.name)
  let v := if v.waiters.isEmpty then { v with listed := 0, far := v.far && d.setFull v } else v
  { d with events := if !v.set && v.waiters.isEmpty then rest else rest ++ [v] }

/-- The entry of an event, or the one that an EVWAIT or EVSIG allocates: in the table, or, where its set is full, in the overflow list
(R356, R357). -/
def Die.eventFor (d : Die) (m : EvMsg) : Event :=
  match d.event? m with
  | some v => v
  | none =>
    let v : Event := ⟨m.job, m.name, false, [], false, 0⟩
    { v with far := d.setFull v }

/-- Whether an entry for an event needs a node of the overflow list that is not there (R357). -/
def Die.noEntry (d : Die) (m : EvMsg) : Bool := (d.event? m).isNone && (d.eventFor m).far && decide (d.listUsed ≥ 65536)

/-- An event with one more waiter: in a node of the pool, or in one of the overflow list, where the event or a waiter of it is kept there
already or the pool is used up; none when there is no node (R357). -/
def Die.addWaiter (d : Die) (m : EvMsg) : Option Event :=
  let v := d.eventFor m
  let fresh := (d.event? m).isNone && v.far
  if !v.far && v.listed == 0 && decide (d.poolUsed < 16384) then some { v with waiters := v.waiters ++ [m] }
  else if d.listUsed + fresh.toNat < 65536 then some { v with waiters := v.waiters ++ [m], listed := v.listed + 1 }
  else none

/-- The reply of an event operation to its issuer. -/
def State.eventAnswer (s : State) (m : EvMsg) (test value : Bool) : State :=
  s.sendFrom (dieDst m.die) m.who.core none [] none (.eventReply m test value)

/-- EVENT_WAIT_ARRIVAL at the home (Table 6-11). -/
def State.eventWaitAt (s : State) (m : EvMsg) : State :=
  let d := s.dieOf m.die
  if (d.eventFor m).set then s.eventAnswer m false true
  else
    match d.addWaiter m with
    | some v => s.setDie m.die (d.putEvent v)
    | none => s.sendFrom (dieDst m.die) (dieDst m.die) none [] none (.eventOverflowRetry m)

def execEventWaitArrival (m : EvMsg) (s : State) : Host.Outcome State Fault Refusal := .next (s.eventWaitAt m)

/-- EVENT_OVERFLOW_RETRY: the waiter that found no node tries again. -/
def execEventOverflowRetry (m : EvMsg) (s : State) : Host.Outcome State Fault Refusal := .next (s.eventWaitAt m)

/-- EVENT_SIGNAL_ARRIVAL: SET, and a reply to every recorded waiter. A signal that must allocate an entry and finds no node is tried
again as a waiter is (DESIGN CHOICE, log entry 155). -/
def execEventSignalArrival (m : EvMsg) (s : State) : Host.Outcome State Fault Refusal :=
  .next (let d := s.dieOf m.die
    if d.noEntry m then s.sendFrom (dieDst m.die) (dieDst m.die) none [] (some (eventPlace m)) (.eventSignalArrival m)
    else
    let v := d.eventFor m
    let s1 := (s.setDie m.die (d.putEvent { v with set := true, waiters := [] })).countConsume (some m.job) m.die
    v.waiters.foldl (fun t w => t.eventAnswer w false true) s1)

/-- EVENT_CLEAR_ARRIVAL. -/
def execEventClearArrival (m : EvMsg) (s : State) : Host.Outcome State Fault Refusal :=
  .next (let d := s.dieOf m.die
    let s1 := match d.event? m with
      | some v => s.setDie m.die (d.putEvent { v with set := false })
      | none => s
    s1.countConsume (some m.job) m.die)

/-- EVENT_TEST_ARRIVAL. -/
def execEventTestArrival (m : EvMsg) (s : State) : Host.Outcome State Fault Refusal :=
  .next (s.eventAnswer m true (match (s.dieOf m.die).event? m with
    | some v => v.set
    | none => false))

/-- The qev word of Table 6-14. -/
def qevWord (name : Nat) (test value : Bool) : DWord :=
  BitVec.ofNat 64 (name % 65536 + value.toNat * 2 ^ 16 + test.toNat * 2 ^ 17)

/-- EVENT_REPLY at the issuer's core: the wait ends, or the word enters qev of a resident fibre (R217; 01 R25). -/
def State.eventReplyAt (s : State) (m : EvMsg) (test value : Bool) : State :=
  let e := m.who.ent
  match s.core.fibre? e with
  | none => s
  | some f =>
    if m.notify then
      if !f.qevPend.contains m.op then s
      else if (s.core.slotOf? e).isNone then s.send s.cid (.eventReply m test value)
      else
        (s.modFibre e fun x => { x with qev := x.qev ++ [qevWord m.name test value],
                                        qevPend := x.qevPend.filter fun o => o != m.op }).countConsume (some m.job) s.die
    else
      match s.waitOf e m.op with
      | none => s
      | some (_, w) =>
        let d := match w.kind with
          | .evtst d => some d
          | _ => none
        match s.finishWait e w d (if value then 1 else 0) with
        | some t => t.countConsume (some m.job) s.die
        | none => s.send s.cid (.eventReply m test value)

def execEventReply (m : EvMsg) (test value : Bool) (s : State) : Host.Outcome State Fault Refusal :=
  .next (s.onCore m.who.core fun t => t.eventReplyAt m test value)

/-! Barriers (R218, R219). -/

/-- The home core of a gang. -/
def Job.gangHome (j : Job) (g : Nat) : Nat := j.core (g % j.count)

/-- The arrival of a member leaves for the gang's home. -/
def State.sendArrival (s : State) (who : Who) (op : Nat) (j : Job) (g : Nat) : State :=
  s.send (j.gangHome g) (.barrierArrival who op j.num g)

/-- BAR: an arrival bound to a tag that is not set is sent once it is (its wait's endpoint field holds the tag and 64). -/
def execBar (d a : Reg) (s : State) : Host.Outcome State Fault Refusal :=
  s.issue ⟨[a], some d, false, false⟩ fun v s' =>
    let w := arg v 0
    let g := bits w 0 8
    let t := bits w 8 6
    match s.job? with
    | none => s.raise (if bits w 15 49 ≠ 0 then flt reservedField else flt channelState)
    | some j =>
      if bits w 15 49 ≠ 0 then s.raise (flt reservedField)
      else if s.sid.val ≥ 6 ∨ s.fib.gangs.contains g = false then s.raise (flt channelState)
      else if !s.outstanding.isEmpty then s.stall
      else
        let held := w.getLsbD 14 && !s.core.tags.getLsbD t
        let k := (s'.newWait (.bar d g) 6 none (if held then 64 + t else 0) none).popped [a] v
        if held then s'.block k else (s'.block k).sendArrival s'.self k.op j g

/-- The fibres of a core that wait at a barrier for a tag among those set now send their arrivals. -/
def State.tagsSet (s : State) (tags : DWord) : State :=
  let es := (List.range 258).filter fun e =>
    match (s.core.fibre? e).bind fun f => f.wait with
    | some w => (match w.kind with
      | .bar _ _ => decide (w.ep ≥ 64) && tags.getLsbD (w.ep - 64)
      | _ => false)
    | none => false
  es.foldl (fun u e =>
    match u.core.fibre? e with
    | none => u
    | some f =>
      match f.wait, f.job.bind u.jobs.get? with
      | some w, some j =>
        match w.kind with
        | .bar _ g => (u.modFibre e fun x => { x with wait := some { w with ep := 0 } }).sendArrival ⟨u.cid, e⟩ w.op j g
        | _ => u
      | _, _ => u) s

/-- TAGS bits set by an engine, with the barrier arrivals bound to them. -/
def State.setTags (s : State) (mask : DWord) : State :=
  ({ s with core := { s.core with tags := s.core.tags ||| mask } }).tagsSet mask

/-- BARRIER_ARRIVAL at the home: when every member's arrival counts, the phase advances and each hears of it. -/
def execBarrierArrival (who : Who) (op job gang : Nat) (s : State) : Host.Outcome State Fault Refusal :=
  .next (match s.jobs.get? job with
    | none => s
    | some j =>
      match j.gangs.find? fun g => g.num = gang with
      | none => s
      | some g =>
        let arr := g.arrived ++ [(who, op)]
        let put (a : List (Who × Nat)) : Job :=
          { j with gangs := j.gangs.map fun x => if x.num = gang then { x with arrived := a } else x }
        if g.members.all fun m => arr.any fun a => a.1 = m then
          arr.foldl (fun t a => t.sendFrom (j.gangHome gang) a.1.core none [] none (.barrierCompletion a.1 a.2 false))
            { s with jobs := s.jobs.set job (put []) }
        else { s with jobs := s.jobs.set job (put arr) })

/-- BARRIER_COMPLETION at a member: d is 0, or 1 when the phase was broken. -/
def State.barrierDone (s : State) (who : Who) (op : Nat) (broken : Bool) : State :=
  match s.waitOf who.ent op with
  | none => s
  | some (_, w) =>
    match w.kind with
    | .bar d _ =>
      match s.finishWait who.ent w (some d) (if broken then 1 else 0) with
      | some t => t
      | none => s.send s.cid (.barrierCompletion who op broken)
    | _ => s

def execBarrierCompletion (who : Who) (op : Nat) (broken : Bool) (s : State) : Host.Outcome State Fault Refusal :=
  .next (s.onCore who.core fun t => t.barrierDone who op broken)

/-- The waiting BAR of a member at a gang. -/
def State.barWait (s : State) (w : Who) (g : Nat) : Option Wait :=
  match ((s.coreAt w.core).fibre? w.ent).bind fun f => f.wait with
  | some x => (match x.kind with
    | .bar _ n => if n = g ∧ s.completing x.op = false then some x else none
    | _ => none)
  | none => none

/-- BAR.brk (R219): every member that waits completes with 1; arrivals under way and counted
are dropped, and so are those still bound to a tag. -/
def execBarBrk (a : Reg) (s : State) : Host.Outcome State Fault Refusal :=
  s.issue ⟨[a], none, true, false⟩ fun v s' =>
    let g := bits (arg v 0) 0 8
    if bits (arg v 0) 8 56 ≠ 0 then s.raise (flt reservedField)
    else
      match s'.core.job.bind s'.jobs.get? with
      | none => s'.advance
      | some j =>
        match j.gangs.find? fun x => x.num = g with
        | none => s'.advance
        | some x =>
          let ws := x.members.filterMap fun m => (s.barWait m g).map fun w => (m, w.op)
          let dropped (p : Packet) : Bool :=
            match p.ev with
            | .barrierArrival _ _ n k => n == j.num && k == g
            | _ => false
          let j' := { j with gangs := j.gangs.map fun y => if y.num = g then { y with arrived := [] } else y }
          let t := { s'.advance with jobs := s'.jobs.set j.num j' }.cull dropped
          ws.foldl (fun u w =>
            (u.onFibre w.1 fun f => { f with wait := f.wait.map fun k => { k with ep := 0 } }).sendFrom (j.gangHome g) w.1.core none
              [] none (.barrierCompletion w.1 w.2 true)) t

end Sys2Proof.Machine
end

