-- ==== Sys2Proof/Machine/Tiles.lean ====
section
/-! DEFINITION. Tile transfers over channels: SENDT and RECVT with their elements (06 R197, R198; 05 R176 to R178). -/

namespace Sys2Proof.Machine

/-- The fault of a tile side in the own scratchpad: region, alignment, partition (05 R175). -/
def State.tileSide (s : State) (base span : Nat) : Except Flt Nat :=
  let ea : DWord := BitVec.ofNat 64 base
  match regionOf s.cid ea with
  | .own off =>
    if off % 8 ≠ 0 then .error (fltAt misalign ea)
    else if !s.core.inPart0 off span then .error (fltAt partitionBounds ea)
    else .ok off
  | _ => .error (fltAt translation ea)

/-- Whether two ranges share a byte. -/
def rangesMeet (a n b m : Nat) : Bool := decide (a < b + m) && decide (b < a + n)

/-- The layout of a transfer between two ends (R176), or its fault. A converting one lies in one bank on each side
(R175). -/
def tileLayout (rows cols : Nat) (a b : TileEnd) : Except Flt Layout :=
  let la : Layout := ⟨rows, rowBytes a.fmt cols, rowBytes b.fmt cols, a.stride, b.stride, none⟩
  let wa := bankWords a.bf a.off la.srcSpan
  let wb := bankWords b.bf b.off la.dstSpan
  match pairAll wa wb with
  | .reserved k => .error (fltAt reservedFormat (BitVec.ofNat 64 (8192 * k)))
  | .plain => .ok la
  | .convert x y =>
    let l : Layout := ⟨rows, rowBytes (wordFmt x) cols, rowBytes (wordFmt y) cols, a.stride, b.stride, some (x, y)⟩
    let banks := bankCounts wa wb (banksOf a.off l.srcSpan).length (banksOf b.off l.dstSpan).length
    if banks.1 > 1 then .error (fltAt bankBounds (BitVec.ofNat 64 a.off))
    else if banks.2 > 1 then .error (fltAt bankBounds (BitVec.ofNat 64 b.off))
    else if cols % 32 ≠ 0 then .error (fltAt misalign (BitVec.ofNat 64 a.off))
    else if a.stride < l.srcRow ∨ b.stride < l.dstRow then .error (flt reservedField)
    else .ok l

/-- The bytes that element k of a layout puts at the destination, with the scale byte and counts; none when a source
word is uncorrectable. -/
def State.tileElem (s : State) (l : Layout) (a : TileEnd) (k : Nat) : Option (List Byte × Option Nat × Counts) :=
  let e := l.elem k
  let src := a.off + e.1
  if (s.coreAt a.core).poisoned src e.2.1 then none
  else
    let bytes := s.spBytes a.core src e.2.1
    match l.conv with
    | none => some (bytes, none, Counts.zero)
    | some c => some (convertGroup c.1 c.2 (s.scaleByteAt a.core src c.1) bytes)

/-- Element k written at the destination. -/
def State.putElem (s : State) (l : Layout) (b : TileEnd) (k : Nat) (r : List Byte × Option Nat × Counts) : State :=
  let dst := b.off + (l.elem k).2.2.1
  let s := s.spWrite b.core dst r.1
  let s := match r.2.1, l.conv with
    | some x, some c => s.spWrite b.core (scaleOff c.2 dst) [BitVec.ofNat 8 x]
    | _, _ => s
  { s with core := { s.core with mxexc := addCounts s.core.mxexc r.2.2 } }

/-! Arrival records of transfers in progress (11 R331). -/

/-- The number that stands for endpoint e among the channels of a core. -/
def tileChan (e : Nat) : Nat := 64 + e

/-- The record of a transfer set at a core; false when another core's transfer finds all eight taken. -/
def Core.setArrival (c : Core) (self : Nat) (a : Arrival) : Core × Bool :=
  let rest := c.arrivals.filter fun x => !(x.core == a.core && x.ch == a.ch)
  if a.core ≠ self ∧ rest.length = c.arrivals.length ∧ (c.arrivals.filter fun x => x.core != self).length ≥ 8 then (c, false)
  else ({ c with arrivals := rest ++ [a] }, true)

def Core.dropArrival (c : Core) (core ch : Nat) : Core :=
  { c with arrivals := c.arrivals.filter fun x => !(x.core == core && x.ch == ch) }

/-- The watermark of a transfer from core src towards core c moves; none when it must wait for a record. -/
def State.markFrom (s : State) (src c ch lo hi wm : Nat) : Option State :=
  let r := (s.coreAt c).setArrival c ⟨src, ch, lo, hi, wm⟩
  if r.2 then some (s.modCore c fun _ => r.1) else none

/-- The same from the core in turn. -/
def State.markArrival (s : State) (c ch lo hi wm : Nat) : Option State := s.markFrom s.cid c ch lo hi wm

def State.setBusyTile (s : State) (e : Nat) (v : Bool) : State :=
  { s with core := s.core.modEndpoint e fun x => { x with busyTile := v } }

/-- The record of a tile operation on entry e: the one it keeps of its issue when it has waited (R197), else the one
that its handle names now. -/
def State.tileShape (s : State) (e : Nat) (h : DWord) (k : Shape → State) : State :=
  match (s.kept.bind fun x => x.tile).filter fun t => t.1 == e && s.ctx.pg == 0 with
  | some t => k t.2
  | none => s.withShape h k

/-- The bank formats of the peer of entry e: those of the first issue when a SENDT goes on from pg or has waited (03 R84). -/
def State.peerFormats (s : State) (e : Nat) : List Word :=
  match (s.kept.filter fun x => s.ctx.pg != 0 || x.tile.isSome) with
  | some x => x.peer
  | none => (s.coreAt (s.core.endpoint e).peerCore).bfmt.toList

/-- A tile operation that waits keeps its record and the bank formats of its issue, its peer's too. -/
def State.keepTile (s : State) (e : Nat) (r : Shape) : State :=
  s.setFib { s.fib with snap := some { tpc := s.ctx.pc, tile := some (e, r), bfmt := s.formats, peer := s.peerFormats e } }

/-- Data of the instruction in turn may go from one core to another now (10 R303, R310, R312): both are there (13 R377), no earlier
request of this core to the place is in flight, and its envelope is admitted. -/
def State.mayPass (s : State) (src dst place : Nat) : Option State :=
  if (s.coreAt src).saved || (s.coreAt dst).saved then none
  else if s.busyPlaces s.cid s.nextId [(place, place + 1)] then none else s.cross src dst [(place, place + 1)]

/-! SENDT. -/

/-- The slot a restante tile goes to: behind what the receiver holds and what is on its way. -/
def State.slotFor (s : State) (x : Endpoint) : Nat :=
  let y := (s.coreAt x.peerCore).endpoint x.pep.toNat
  let way := (s.net.filter fun p => p.keeps (entryPlace x.peerCore x.pep.toNat)).length
  y.slotAt (y.head + y.cnt + way)

/-- The description of a source tile. -/
def State.descOf (s : State) (r : Shape) (off : Nat) : TileDesc :=
  { base := off, stride := r.stride, rows := r.rows, cols := r.cols, fmt := r.fmt, bf := s.formats.toList }

/-- The ends of a restante send: the source tile, and the slot at the receiver, its rows packed in the slot's format. -/
def State.sendEnds (s : State) (r : Shape) (off e : Nat) (bf pf : List Word) : TileEnd × TileEnd :=
  let x := s.core.endpoint e
  let slot := s.slotFor x
  let sf := wordFmt (bf.getD (off / 8192) 0)
  let df := wordFmt (pf.getD (slot / 8192) 0)
  let conv := sf != 0 && df != 0 && sf != df
  (⟨s.cid, off, r.stride, r.fmt, bf⟩, ⟨x.peerCore, slot, rowBytes (if conv then df else r.fmt) r.cols, r.fmt, pf⟩)

/-- The layout of a tile that goes to a link: its rows, plain and packed. -/
def linkLayout (r : Shape) : Layout :=
  ⟨r.rows, rowBytes r.fmt r.cols, rowBytes r.fmt r.cols, r.stride, rowBytes r.fmt r.cols, none⟩

/-- A restante or link SENDT begins its elements on its entry. -/
def State.sendTile (s : State) (e : Nat) (r : ElemRun) : State := (s.setBusyTile e true).startRun r.n r State.advance

/-- SENDT. -/
def execSendt (e : BitVec 6) (a : Reg) (s : State) : Host.Outcome State Fault Refusal :=
  s.chanIssue ⟨[a], none, false, true⟩ e.toNat .sendTile none fun v s' =>
    s.tileShape e.toNat (arg v 0) fun r =>
      let x := s.core.endpoint e.toNat
      let bf := s.formats
      let span := (r.rows - 1) * r.stride + rowBytes r.fmt r.cols
      match s.tileSide r.base span with
      | .error f => s.raiseMacro f
      | .ok off =>
        match reservedBank (bankWords bf.toList off span) with
        | some k => s.raiseMacro (fltAt reservedFormat (BitVec.ofNat 64 (8192 * k)))
        | none =>
          let d := s.descOf r off
          let j := s'.jobOf s'.fib
          let w := (s'.newWait (.tile e.toNat) 1 none e.toNat none).counted j
          let run (n : Nat) (ends : List TileEnd) : ElemRun :=
            { ElemRun.start (.sendt e a) n 0 with shapes := [{ r with base := off }], bfmt := bf, ends := ends }
          if x.pkind = 0 ∧ x.mode = false then
            if s.ctx.pg ≠ 0 then s.raiseMacro (flt progressMismatch)
            else
              let m := s'.messageOn e.toNat (.tile d [])
              let t := ((s'.setBusyTile e.toNat true).block w).countSend j s.die
              if s.direct x.peerCore m.dst then t.arrive m else t.sendMessage x.peerCore m
          else if x.cnt = 0 then
            if s.ctx.pg ≠ 0 then s.stall else ((s'.keepTile e.toNat r).block w).countSend j s.die
          else if x.pkind = 3 then
            if !s.outstanding.isEmpty then s.stall
            else
              let t := if s.ctx.pg = 0 then s'.countSend j s.die else s'
              t.sendTile e.toNat (run (linkLayout r).elems [])
          else
            let p := s.sendEnds r off e.toNat bf.toList (s.peerFormats e.toNat)
            match tileLayout r.rows r.cols p.1 p.2 with
            | .error f => s.raiseMacro f
            | .ok l =>
              if l.dstSpan > ((s.coreAt x.peerCore).endpoint x.pep.toNat).slotBytes then s.raiseMacro (chanFlt e.toNat)
              else
                let t := if s.ctx.pg = 0 then s'.countSend j s.die else s'
                t.sendTile e.toNat (run l.elems [p.1, p.2])

/-- The end of a SENDT that has run its elements: the credit and the entry. -/
def State.sentTile (s : State) (e : Nat) : State :=
  { s with core := s.core.modEndpoint e fun y => { y with cnt := y.cnt - 1, busyTile := false } }

/-- The number of the stream of an entry bound to a link. -/
def Endpoint.stream (x : Endpoint) : Nat := bits x.ext 0 20

/-- Element k of a SENDT to a link: the Sorting Office keeps its bytes, and the last one sends the frames of the whole tile (15 R410;
DESIGN CHOICE, log entry 154). -/
def State.linkElem (s : State) (r : ElemRun) (sh : Shape) (e : Nat) : State :=
  let x := s.core.endpoint e
  let j := s.jobOf s.fib
  let d := { s.descOf sh sh.base with bf := r.bfmt.toList }
  match s.tileElem (linkLayout sh) ⟨s.cid, sh.base, sh.stride, sh.fmt, d.bf⟩ r.k with
  | none => s.raiseElem (accessFlt memPoison (BitVec.ofNat 64 (sh.base + ((linkLayout sh).elem r.k).1))) r.k
  | some v =>
    let sofar := if r.k = 0 then [] else (s.office.tilesOut.get? x.stream).getD []
    let t := { s with office := { s.office with tilesOut := s.office.tilesOut.set x.stream (sofar ++ v.1) } }
    t.stepRun r fun u =>
      let u := { u with office := { u.office with tilesOut := u.office.tilesOut.erase x.stream } }
      (((u.sentTile e).countConsume j s.die).outFrame (streamFrame x (.tile d []) (sofar ++ v.1))).advance

/-- Element k of a restante SENDT of the slot in turn, once its data may go; the last sends the message, whose rows stand in the slot
in the format they were converted into (03 R85). -/
def State.sendtElem (s : State) (r : ElemRun) (e : Nat) : State :=
  let x := s.core.endpoint e
  match r.shapes, r.ends with
  | sh :: _, [a, b] =>
    match tileLayout sh.rows sh.cols a b with
    | .error f => s.raiseElem f r.k
    | .ok l =>
      match s.tileElem l a r.k with
      | none => s.raiseElem (accessFlt memPoison (BitVec.ofNat 64 (a.off + (l.elem r.k).1))) r.k
      | some v =>
        let y := (s.coreAt b.core).endpoint x.pep.toNat
        let fmt := (l.conv.map fun c => wordFmt c.2).getD sh.fmt
        let m := s.messageOn e (.tile { s.descOf sh sh.base with bf := a.bf, stride := b.stride, base := 0, fmt := fmt } [])
        let put (t : State) : State := if y.refuses m then t else t.putElem l b r.k v
        match (s.mayPass s.cid b.core (bankPlace b.core (b.off + (l.elem r.k).2.2.1))).bind fun t =>
            t.markArrival b.core (tileChan e) b.off (b.off + l.dstSpan) (l.markAfter b.off (r.k + 1)) with
        | none => s
        | some t =>
          (put t).stepRun r fun u =>
            let u := (u.modCore b.core fun c => c.dropArrival s.cid (tileChan e)).sentTile e
            (({ u with nextId := u.nextId + 1 }).sendMessage b.core m).advance
  | sh :: _, _ => s.linkElem r sh e
  | [], _ => s

/-! RECVT. -/

/-- The ends of a receive: the tile offered or the slot at the head, and the destination tile. -/
def State.recvEnds (s : State) (e : Nat) (t : TileDesc) (r : Shape) (off : Nat) (bf : List Word) : TileEnd × TileEnd :=
  let x := s.core.endpoint e
  let b : TileEnd := ⟨s.cid, off, r.stride, r.fmt, bf⟩
  if x.mode then (⟨s.cid, x.slotAt x.head, t.stride, t.fmt, bf⟩, b)
  else (⟨x.peerCore, t.base, t.stride, t.fmt, t.bf⟩, b)

/-- The number of a transfer into entry e of the core in turn among its sender's channels. -/
def State.recvChan (s : State) (e : Nat) : Nat :=
  let x := s.core.endpoint e
  tileChan (if x.mode then e else x.pep.toNat)

/-- RECVT. A transfer from another core that finds no arrival record waits with its elements (11 R331). -/
def execRecvt (d : Reg) (e : BitVec 6) (a : Reg) (s : State) : Host.Outcome State Fault Refusal :=
  s.chanIssue ⟨[a], some d, false, true⟩ e.toNat .recvTile none fun v s' =>
    s.tileShape e.toNat (arg v 0) fun r =>
      let bf := s.formats
      let span := (r.rows - 1) * r.stride + rowBytes r.fmt r.cols
      match s.tileSide r.base span with
      | .error f => s.raiseMacro f
      | .ok off =>
        match s'.headMessage e.toNat with
        | none => ((s'.keepTile e.toNat r).block (s'.newWait (.tile e.toNat) 2 none e.toNat none)).sendNotice e.toNat
        | some (.tile t _) =>
          if t.rows ≠ r.rows ∨ t.cols ≠ r.cols then s.raiseMacro (chanFlt e.toNat)
          else
            let p := s.recvEnds e.toNat t r off bf.toList
            match tileLayout r.rows r.cols p.1 p.2 with
            | .error f => s.raiseMacro f
            | .ok l =>
              if p.1.core = s.cid ∧ rangesMeet p.1.off l.srcSpan p.2.off l.dstSpan = true then s.raiseMacro (flt reservedField)
              else
                let u := (s'.markFrom p.1.core s.cid (s.recvChan e.toNat) off (off + l.dstSpan)
                  (l.markAfter off (bits s.ctx.pg 0 48))).getD s'
                (u.setBusyTile e.toNat true).startRun l.elems
                  { ElemRun.start (.recvt d e a) l.elems 0 with shapes := [{ r with base := off }], bfmt := bf, ends := [p.1, p.2] }
                  State.advance
        | some b =>
          if s.ctx.pg ≠ 0 then s.raiseMacro (flt progressMismatch)
          else
            match s'.dstCheck d 0 with
            | .stall => s.stall
            | .fault f => s.raiseMacro f
            | .ok => (((s'.writeReg d 0).advance).takeMessage e.toNat).consumed e.toNat b (s.jobOf s.fib)

/-- Element k of a RECVT of the slot in turn, once its data may come; the last completes both sides. -/
def State.recvtElem (s : State) (r : ElemRun) (d : Reg) (e : Nat) : State :=
  match r.shapes, r.ends, s.headMessage e with
  | sh :: _, [a, b], some (.tile t b0) =>
    match tileLayout sh.rows sh.cols a b with
    | .error f => s.raiseElem f r.k
    | .ok l =>
      match s.tileElem l a r.k with
      | none => s.raiseElem (accessFlt memPoison (BitVec.ofNat 64 (a.off + (l.elem r.k).1))) r.k
      | some v =>
        let n : DWord := BitVec.ofNat 64 (sh.rows * l.dstRow)
        match (s.mayPass a.core s.cid (bankPlace s.cid (b.off + (l.elem r.k).2.2.1))).bind fun t =>
            t.markFrom a.core s.cid (s.recvChan e) b.off (b.off + l.dstSpan) (l.markAfter b.off (r.k + 1)) with
        | none => s
        | some u =>
          if r.k + 1 = r.n ∧ s.dstCheck d n = .stall then s
          else
            (u.putElem l b r.k v).stepRun r fun u =>
              let u := ({ u with core := u.core.dropArrival a.core (s.recvChan e) }).setBusyTile e false
              match u.dstCheck d n with
              | .fault f => u.raise f
              | _ => (((u.writeReg d n).advance).takeMessage e).consumed e (.tile t b0) (s.jobOf s.fib)
  | _, _, _ => s

end Sys2Proof.Machine
end

