-- ==== Sys2Proof/Machine/Copy.lean ====
section
/-! DEFINITION. The copy engine: CPY, CPYM, schedules, tag waits, subscriptions, its elements, halts and commands
(05 R174 to R189; 11 R327 to R332; 13 R377; 15 R407, R408, R411, R412). -/

namespace Sys2Proof.Machine

/-! Engine access to the DRAM window. -/

/-- The request that stands for an engine's access at the home of an address. -/
def engReq (stack : Nat) (who : Who) (job : Option Nat) (va : Nat) : Req :=
  { stack := stack, routine := 0, priv := false, w32 := false, w128 := false, tag := 0, queue := 0, origin := 3, who := who,
    op := 0, via := .wait, jent := 0, hops := 0, hinted := false, va := BitVec.ofNat 48 va, a := 0, b := 0, payload := [],
    job := job }

/-- What an engine's access comes to: bytes (empty for a write), a fault at an address, or a wait for a migration. -/
inductive EngOut where
  | ok (bytes : List Byte) (s : State)
  | fault (code : Nat) (va : Nat) (s : State)
  | wait

/-- Whether a migration that is not done covers an address (14 R402). -/
def State.migrating (s : State) (va : Nat) : Bool := s.migrations.any fun m => m.page.covers va

/-- n bytes read by an engine, granule by granule (structural on a count of granules). -/
def State.engRead (s : State) (who : Who) (job : Option Nat) : Nat → Nat → Nat → EngOut
  | 0, _, _ => .ok [] s
  | fuel + 1, va, n =>
    if n = 0 then .ok [] s
    else
      let m := min n (32 - va % 32)
      match s.pageOf va with
      | none => .fault translation va s
      | some p =>
        if s.migrating va || s.substWaits (engReq p.home who job va) then .wait
        else
          match s.dramRead (engReq p.home who job va) p (p.pa va) m with
          | (t, .error c) => .fault c va t
          | (t, .ok (l, _)) =>
            match t.engRead who job fuel (va + m) (n - m) with
            | .ok r u => .ok (l ++ r) u
            | x => x

/-- Bytes written by an engine, granule by granule (structural on a count of granules). -/
def State.engWrite (s : State) (who : Who) (job : Option Nat) : Nat → Nat → List Byte → EngOut
  | 0, _, _ => .ok [] s
  | fuel + 1, va, l =>
    if l.isEmpty then .ok [] s
    else
      let m := min l.length (32 - va % 32)
      match s.pageOf va with
      | none => .fault translation va s
      | some p =>
        if p.ro then .fault translation va s
        else if s.migrating va then .wait
        else if m = 32 then (s.dramWrite p.home (p.pa va) (l.take 32)).engWrite who job fuel (va + 32) (l.drop 32)
        else
          match s.dramUpdate (engReq p.home who job va) p (p.pa va) m fun _ => l.take m with
          | (t, .error c) => .fault c va t
          | (t, .ok _) => t.engWrite who job fuel (va + m) (l.drop m)

def State.engGet (s : State) (who : Who) (job : Option Nat) (va n : Nat) : EngOut := s.engRead who job (n / 32 + 2) va n
def State.engPut (s : State) (who : Who) (job : Option Nat) (va : Nat) (l : List Byte) : EngOut :=
  s.engWrite who job (l.length / 32 + 2) va l

/-- An access of an agent at the module's edge to the DRAM window, a write: it passes to the page's home in an envelope, behind what the
agent has sent to the same granules (10 R312; 05 R147). -/
def State.edgePut (s : State) (src : Nat) (who : Who) (job : Option Nat) (va : Nat) (l : List Byte) : EngOut :=
  match s.pageOf va with
  | none => .fault translation va s
  | some p =>
    let places := [granulePlaces va l.length]
    if s.busyPlaces src s.nextId places then .wait
    else
      match s.cross src (serverDst p.home) places ((l.length + 31) / 32) with
      | none => .wait
      | some t => t.engPut who job va l

/-- The same of a read, whose data comes back in an envelope. -/
def State.edgeGet (s : State) (src : Nat) (who : Who) (job : Option Nat) (va n : Nat) : EngOut :=
  match s.pageOf va with
  | none => .fault translation va s
  | some p =>
    let places := [granulePlaces va n]
    if s.busyPlaces src s.nextId places then .wait
    else
      match s.cross src (serverDst p.home) places 1 with
      | none => .wait
      | some t =>
        match t.engGet who job va n with
        | .ok l u =>
          (match u.cross (serverDst p.home) src [] ((n + 31) / 32) with
           | some v => .ok l v
           | none => .wait)
        | x => x

/-! Windows to the host and to peer modules (15 R407, R408). -/

/-- The PCI Express address of a host-window address, with the No Snoop of its entry. -/
def State.hostAddr (s : State) (a : Nat) : Option (Bool × Nat) :=
  match s.host.windows.get? ((a - 0x200000000000) / 2 ^ 32) with
  | some w => if w.getLsbD 0 then some (w.getLsbD 1, bits w 32 32 * 2 ^ 32 + a % 2 ^ 32) else none
  | none => none

/-- The valid peer window entry of an address. -/
def State.peerEntry (s : State) (a : Nat) : Option DWord :=
  match s.office.peers.get? ((a - 0x300000000000) / 2 ^ 32) with
  | some w => if w.getLsbD 0 then some w else none
  | none => none

/-- The entry of a copy: of a peer module (R416), its link up (15 R406). -/
def State.peerUp (s : State) (a : Nat) : Option DWord :=
  (s.peerEntry a).filter fun w => !w.getLsbD 1 && !s.office.down.contains (bits w 8 8)

/-- The remote address behind a peer entry. -/
def peerRemote (w : DWord) (a : Nat) : Nat := bits w 32 16 * 2 ^ 32 + a % 2 ^ 32

/-- A frame to a peer module with an address and an operation number. -/
def peerFrame (w : DWord) (kind a op : Nat) (write : Bool) (data : List Byte) (len : Nat) : Frame :=
  { frameOf (bits w 8 8) kind (bits w 48 12) with dstMod := bits w 16 16, arg := BitVec.ofNat 64 (peerRemote w a), arg2 := BitVec.ofNat 64 op,
                                                   write := write, data := data, code := len }

/-! The checks of R175. -/

/-- A copy as it passed its checks. -/
structure CopyPlan where
  layout : Layout
  overlap : Bool
  down : Bool
  enq : Bool
  receivers : List Nat
  srcFmt : Word

/-- The scratchpad that a region is: its core and offset. -/
def padOf (self : Nat) : Region → Option (Nat × Nat)
  | .own off => some (self, off)
  | .peer c off => some (c, off)
  | _ => none

/-- The fault of one side's place: its window, then the trap region (13 R362). -/
def State.windowFault (s : State) (ea : DWord) (span : Nat) : Option Flt :=
  match regionOf s.cid ea with
  | .own _ | .peer _ _ => none
  | .dram =>
    if ea.toNat + span > 0x200000000000 then some (fltAt translation ea)
    else if s.sid.val ≠ 7 ∧ s.inTrapRegion ea.toNat span = true then some (fltAt privilege ea)
    else none
  | .host => if ea.toNat + span > 0x300000000000 then some (fltAt translation ea) else none
  | .pkg => if ea.toNat + span > 0x3F0000000000 then some (fltAt translation ea) else none
  | _ => some (fltAt translation ea)

/-- The fault of a scratchpad side outside the partition. -/
def State.partFault (s : State) (ea : DWord) (span : Nat) : Option Flt :=
  match regionOf s.cid ea with
  | .own off => if s.core.inPart0 off span then none else some (fltAt partitionBounds ea)
  | .peer c off =>
    if s.core.inPart1 c && (s.coreAt c).inPart0 off span then none else some (fltAt partitionBounds ea)
  | _ => none

/-- Whether a region may be a side of a copy. -/
def copyRegion : Region → Bool
  | .own _ | .peer _ _ | .dram | .host | .pkg => true
  | _ => false

/-- The first fault of a list of checks. -/
def firstFault : List (Option Flt) → Option Flt
  | [] => none
  | some f :: _ => some f
  | none :: t => firstFault t

/-- The format words of the banks of a scratchpad side. -/
def State.padWords (s : State) (p : Option (Nat × Nat)) (span : Nat) : List (Nat × Word) :=
  match p with
  | some (c, off) => bankWords (s.coreAt c).bfmt.toList off span
  | none => []

/-- The layouts of R176: plain, and as converted between two format words; n is the byte count, or r the record. -/
def plainLayout (n : Nat) (r : Option Shape) : Layout :=
  match r with
  | none => ⟨1, n, n, n, n, none⟩
  | some r => ⟨r.rows, rowBytes r.fmt r.cols, rowBytes r.fmt r.cols, r.stride, r.stride, none⟩

def convLayout (n : Nat) (r : Option Shape) (a b : Word) : Layout :=
  match r with
  | none =>
    let m := n / groupBytes (wordFmt a) * groupBytes (wordFmt b)
    ⟨1, n, m, n, m, some (a, b)⟩
  | some r => ⟨r.rows, rowBytes (wordFmt a) r.cols, rowBytes (wordFmt b) r.cols, r.stride, r.stride, some (a, b)⟩

/-- The byte count that R175 checks: that of the source rows. -/
def Layout.bytes (l : Layout) : Nat := l.rows * l.srcRow

/-- The faults of a converting layout: whole groups (R86, R176), one bank on each side (R175). EADDR of a count's fault is
the source address (DESIGN CHOICE, log entry 131). -/
def convFaults (n : Nat) (r : Option Shape) (l : Layout) (a : Word) (wa wb : Nat) (src dst : DWord) : Option Flt :=
  let whole := match r with
    | none => n % groupBytes (wordFmt a) == 0
    | some r => r.cols % 32 == 0
  if !whole then some (fltAt misalign src)
  else if wa > 1 then some (fltAt bankBounds src)
  else if wb > 1 then some (fltAt bankBounds dst)
  else match r with
    | some r => if r.stride < l.srcRow ∨ r.stride < l.dstRow then some (flt reservedField) else none
    | none => none

def resFmt (k : Nat) : Flt := fltAt reservedFormat (BitVec.ofNat 64 (8192 * k))

/-- Byte count and tag (R175). -/
def countFault (l : Layout) (tag : Nat) (rr : Bool) : Option Flt :=
  if l.bytes > 2 ^ 24 ∨ (rr = true ∧ tag % 2 = 1) then some (flt reservedField) else none

/-- Alignment (R175). -/
def copyMisaligned (l : Layout) (src dst : Nat) : Option Flt :=
  if src % 8 ≠ 0 then some (fltAt misalign (BitVec.ofNat 64 src))
  else if dst % 8 ≠ 0 then some (fltAt misalign (BitVec.ofNat 64 dst))
  else if l.bytes % 8 ≠ 0 then some (fltAt misalign (BitVec.ofNat 64 src))
  else none

/-- CPY's checks (R175 to R177, R411); the trap region comes before alignment (13 R362). -/
def State.planCopy (s : State) (dst src : DWord) (n tag : Nat) (rr : Bool) (r : Option Shape) : Except Flt CopyPlan :=
  let rs := regionOf s.cid src
  let rd := regionOf s.cid dst
  let ps := padOf s.cid rs
  let pd := padOf s.cid rd
  let lp := plainLayout n r
  let ws := s.padWords ps lp.srcSpan
  let wd := s.padWords pd lp.dstSpan
  let pair := if lp.bytes = 0 then .plain else pairAll ws wd
  let l := match pair with
    | .convert a b => convLayout n r a b
    | _ => lp
  let banks := bankCounts ws wd (s.padWords ps l.srcSpan).length (s.padWords pd l.dstSpan).length
  let ws := s.padWords ps l.srcSpan
  let wd := s.padWords pd l.dstSpan
  let enq := rd == .pkg && ((s.peerEntry dst.toNat).any fun w => w.getLsbD 2 && !w.getLsbD 1)
  let meets := match ps, pd with
    | some (a, x), some (b, y) => a == b && rangesMeet x l.srcSpan y l.dstSpan
    | _, _ => false
  let faults :=
    [countFault l tag rr,
     if copyRegion rs then none else some (fltAt translation src),
     if copyRegion rd then none else some (fltAt translation dst),
     if ps.isNone && pd.isNone then some (fltAt translation dst) else none,
     if l.bytes = 0 then none else s.windowFault src l.srcSpan,
     if l.bytes = 0 then none else s.windowFault dst l.dstSpan,
     copyMisaligned l src.toNat dst.toNat,
     if l.bytes = 0 then none else s.partFault src l.srcSpan,
     if l.bytes = 0 then none else s.partFault dst l.dstSpan,
     (match l.conv with
      | some c => convFaults n r l c.1 banks.1 banks.2 src dst
      | none => none),
     (reservedBank ws).map resFmt, (reservedBank wd).map resFmt,
     (match pair with
      | .reserved k => some (resFmt k)
      | _ => none),
     if meets && l.conv.isSome then some (flt reservedField) else none,
     if enq && (decide (l.bytes < 8) || decide (l.bytes > 4096)) then some (flt reservedField) else none]
  match firstFault faults with
  | some f => .error f
  | none => .ok ⟨l, meets, meets && decide (dst.toNat % 65536 > src.toNat % 65536), enq, [], 0⟩

/-- The cores of a multicast rectangle (Table 5-7), if it lies in the grid. -/
def rectOf (d : DWord) : Option (List Nat) :=
  let x0 := bits d 16 8
  let y0 := bits d 24 8
  let w := bits d 32 8 + 1
  let h := bits d 40 8 + 1
  if x0 + w ≤ 192 ∧ y0 + h ≤ 96 then
    some ((List.range h).flatMap fun j => (List.range w).map fun i => coreOfXY (x0 + i) (y0 + j))
  else none

/-- CPYM's checks (R175 to R177, R182), the layout of every receiver among them. -/
def State.planMulticast (s : State) (d src : DWord) (n tag : Nat) (rr : Bool) (r : Option Shape) : Except Flt CopyPlan :=
  let off := bits d 0 16
  let cores := (rectOf d).getD []
  let lp := plainLayout n r
  let so := src.toNat % 65536
  let ws := s.padWords (some (s.cid, so)) lp.srcSpan
  let wordAt (c : Nat) := (bankWords (s.coreAt c).bfmt.toList off lp.dstSpan)
  let pairs := cores.map fun c => pairAll ws (wordAt c)
  let conv := if lp.bytes = 0 then none else pairs.findSome? fun p =>
    match p with
    | .convert a b => some (a, b)
    | _ => none
  let l := match conv with
    | some (a, b) => convLayout n r a b
    | none => lp
  let at_ (c : Nat) : Layout :=
    match pairAll ws (wordAt c) with
    | .convert a b => convLayout n r a b
    | _ => lp
  let faults :=
    [if bits d 48 16 ≠ 0 then some (flt reservedField) else none,
     countFault l tag rr,
     (match regionOf s.cid src with
      | .own _ => none
      | _ => some (fltAt translation src)),
     copyMisaligned l src.toNat off,
     if cores.isEmpty || cores.any (fun c => !s.core.inPart1 c) then some (fltAt partitionBounds d) else none,
     if l.bytes = 0 || s.core.inPart0 so l.srcSpan then none else some (fltAt partitionBounds src),
     if l.bytes = 0 || cores.all (fun c => (s.coreAt c).inPart0 off (at_ c).dstSpan) then none
     else some (fltAt partitionBounds d),
     cores.findSome? (fun c =>
      match (at_ c).conv with
      | some w =>
        let banks := bankCounts ws (wordAt c) (banksOf so (at_ c).srcSpan).length (banksOf off (at_ c).dstSpan).length
        convFaults n r (at_ c) w.1 banks.1 banks.2 src d
      | none => none),
     (reservedBank ws).map resFmt,
     (cores.findSome? fun c => reservedBank (wordAt c)).map resFmt,
     (pairs.findSome? fun p =>
        match p with
        | .reserved k => some k
        | _ => none).map resFmt,
     if l.bytes ≠ 0 && cores.contains s.cid && rangesMeet so l.srcSpan off (at_ s.cid).dstSpan then some (flt reservedField)
     else none]
  match firstFault faults with
  | some f => .error f
  | none => .ok ⟨l, false, false, false, cores, (ws.head?.map fun b => b.2).getD 0⟩

/-! Issue. -/

/-- The tag bits that a copy clears at issue and sets at its end. -/
def tagMask (tag : Nat) (rr : Bool) : DWord := BitVec.ofNat 64 (2 ^ tag + rr.toNat * 2 ^ (tag + 1))

def State.setChannel (s : State) (c : Nat) (x : Channel) : State :=
  { s with core := { s.core with channels := s.core.channels.set (Fin.ofNat 8 c) x } }

def State.channel (s : State) (c : Nat) : Channel := s.core.channels[Fin.ofNat 8 c]

/-- Whether the slot in turn must wait for a channel: it is busy, or the copy sequencer runs (08 R281). -/
def State.channelHeld (s : State) (c : Nat) : Bool :=
  (s.channel c).busy || (decide (s.sid.val ≠ 7) && s.core.seqs[(2 : Fin 3)].running)

/-- A copy that passed its checks begins: tags cleared, progress 0, watermark at the destination; one of no bytes
ends at once. s is the state before the instruction completes. -/
def State.beginCopy (s : State) (p : CopyPlan) (dst src : DWord) (tag : Nat) (rr : Bool) (sched : Option (Nat × Nat))
    (pc : Addr) : State :=
  let c := tag % 8
  let mask := tagMask tag rr
  let job := s.myJob
  let x : Channel :=
    { Channel.reset with since := s.nextId, busy := true, tag := tag, rr := rr, pc := pc, who := s.self, job := job, src := src.toNat,
                         dst := if p.receivers.isEmpty then dst.toNat else bits dst 0 16, layout := p.layout,
                         elems := if p.enq then 1 else p.layout.elems, overlap := p.overlap, down := p.down,
                         receivers := p.receivers, srcFmt := p.srcFmt, sched := sched, enq := p.enq,
                         wm := if p.receivers.isEmpty then dst.toNat else bits dst 0 16 }
  let t := { s with core := { s.core with tags := s.core.tags &&& ~~~mask } }
  let t := (t.setChannel c x).countSend job s.die
  if p.layout.bytes = 0 then ((t.setChannel c { x with busy := false }).countConsume job s.die).setTags mask else t

/-- CPY or CPYM behind its gate, with the record of .sh. -/
def State.copyGo (s s' : State) (multi : Bool) (dst src : DWord) (n tag : Nat) (rr : Bool) (r : Option Shape) : State :=
  match (if multi then s.planMulticast dst src n tag rr r else s.planCopy dst src n tag rr r) with
  | .error f => s.raise f
  | .ok p => if s.heldByAcquire || s.channelHeld (tag % 8) then s.stall else (s'.beginCopy p dst src tag rr none s.ctx.pc).advance

/-- CPY and CPYM: operands in the order a, n, d. -/
def State.copyInstr (s : State) (multi : Bool) (d a n : Reg) (tag : Nat) (sh rr : Bool) : Host.Outcome State Fault Refusal :=
  s.issue ⟨[a, n, d], none, false, false⟩ fun v s' =>
    if sh then s.withShape (arg v 1) fun r => s.copyGo s' multi (arg v 2) (arg v 0) 0 tag rr (some r)
    else s.copyGo s' multi (arg v 2) (arg v 0) (arg v 1).toNat tag rr none

/-- CPY. -/
def execCpy (d a n : Reg) (tag : BitVec 6) (sh rr : Bool) (s : State) : Host.Outcome State Fault Refusal :=
  s.copyInstr false d a n tag.toNat sh rr

/-- CPYM. -/
def execCpym (d a n : Reg) (tag : BitVec 6) (sh rr : Bool) (s : State) : Host.Outcome State Fault Refusal :=
  s.copyInstr true d a n tag.toNat sh rr

/-! Schedules (R184; 11 R327, R328). -/

/-- The place of a core in its job's rectangle. -/
def Job.index (j : Job) (c : Nat) : Nat := (coreY c - j.y0) * j.width + (coreX c - j.x0)

/-- POS of a schedule. -/
def Core.pos (c : Core) (k : Nat) : Nat := bits c.stagecnt (8 * k) 8

/-- The engine fetches the entry at POS of schedule k; one byte stands for a failed fetch. -/
def State.fetchEntry (s : State) (k : Nat) : State :=
  match s.core.job.bind s.jobs.get? with
  | none => s
  | some j =>
    let r := j.sched.getD k (0, 0, 0)
    if s.core.pos k ≥ r.2.2 ∨ s.core.exhausted.getLsbD k = true then { s with core := { s.core with staged := s.core.staged.erase k } }
    else
      let l := (s.vBytes (r.1 + j.index s.cid * r.2.1 + 24 * s.core.pos k) 24).getD [BitVec.ofNat 8 translation]
      { s with core := { s.core with staged := s.core.staged.set k l } }

/-- Whether a reserved bit of an entry is set. -/
def entryReserved (l : List Byte) : Bool := leNat ((l.drop 16).take 8) / 2 ^ 25 % 2 ^ 7 != 0 || leNat ((l.drop 20).take 4) / 64 != 0

/-- STAGE. -/
def execStage (n : BitVec 6) (s : State) : Host.Outcome State Fault Refusal :=
  s.issue ⟨[], none, false, false⟩ fun _ s' =>
    let k := n.toNat % 8
    match s.core.job.bind s.jobs.get? with
    | none => s.raise (flt reservedField)
    | some j =>
      let r := j.sched.getD k (0, 0, 0)
      let pos := s.core.pos k
      if pos ≥ r.2.2 ∨ s.core.exhausted.getLsbD k = true then s.raise (flt reservedField)
      else
        match s.core.staged.get? k with
        | none => (s.fetchEntry k).stall
        | some [c] =>
          ({ s with core := { s.core with staged := s.core.staged.erase k } }).raise
            (fltAt c.toNat (BitVec.ofNat 64 (r.1 + j.index s.cid * r.2.1 + 24 * pos)))
        | some l =>
          if entryReserved l then s.raise (flt reservedField)
          else
            let dst := leWord (l.take 8)
            let src := leWord ((l.drop 8).take 8)
            let tag := (l.getD 20 0).toNat % 64
            match s.planCopy dst src (leNat ((l.drop 16).take 4) % 2 ^ 25) tag false none with
            | .error f => s.raise f
            | .ok p =>
              if s.heldByAcquire || s.channelHeld (tag % 8) then s.stall
              else
                let own := match regionOf s.cid src with
                  | .own _ => true
                  | _ => false
                let sched := own && (padOf s.cid (regionOf s.cid dst)).isSome && p.layout.conv.isNone
                let t := s'.beginCopy p dst src tag false (if sched then some (k, pos) else none) s.ctx.pc
                let cnt := putBits t.core.stagecnt (8 * k) 8 (pos + 1)
                let ex := if pos = 255 then t.core.exhausted ||| BitVec.ofNat 8 (2 ^ k) else t.core.exhausted
                (({ t with core := { t.core with stagecnt := cnt, exhausted := ex } }).fetchEntry k).advance

/-! Tag waits and watermarks (R183, R185). -/

/-- CPWA. -/
def execCpwa (d a : Reg) (s : State) : Host.Outcome State Fault Refusal :=
  s.issue ⟨[a], some d, false, false⟩ fun v s' =>
    let m := s.core.tags &&& arg v 0
    if m = arg v 0 then s.done s' d m else s.stall

/-- CPWN. -/
def execCpwn (d a : Reg) (s : State) : Host.Outcome State Fault Refusal :=
  s.issue ⟨[a], some d, false, false⟩ fun v s' =>
    let m := s.core.tags &&& arg v 0
    if m ≠ 0 ∨ arg v 0 = 0 then s.done s' d m else s.stall

/-- The lowest set bit of a word, or 64. -/
def lowestBit (w : DWord) : Nat := ((List.range 64).find? fun i => w.getLsbD i).getD 64

/-- CPFF. -/
def execCpff (d a : Reg) (s : State) : Host.Outcome State Fault Refusal :=
  s.compute [a] d fun v => BitVec.ofNat 64 (lowestBit (s.core.tags &&& arg v 0))

/-- CPTS. -/
def execCpts (d a : Reg) (s : State) : Host.Outcome State Fault Refusal := s.compute [a] d fun v => s.core.tags &&& arg v 0

/-- WMRD. -/
def execWmrd (d : Reg) (ch : BitVec 6) (s : State) : Host.Outcome State Fault Refusal :=
  s.compute [] d fun _ => BitVec.ofNat 64 (s.channel ch.toNat).wm

/-! Halts (R180). -/

/-- The channel of the core in turn halts at an element or tile: the asynchronous fault with its progress word. -/
def State.haltCopy (s : State) (c k code : Nat) (addr : DWord) : State :=
  let x := s.channel c
  let epg : DWord := BitVec.ofNat 64 (bits x.pc 0 16 * 2 ^ 48 + k)
  let s := s.setChannel c { x with halted := true, code := code, haltAt := k, above := [], flight := [], pend := [], bad := none }
  if x.who.ent ≥ 256 then s.coreTrap code addr (BitVec.ofNat 64 k) []
  else s.raiseAsync x.who.ent (asyncOf code (poisonArg code addr) addr (BitVec.ofNat 64 k) epg none true)

/-- Whether element k of a channel is complete. -/
def Channel.has (x : Channel) (k : Nat) : Bool :=
  (if x.down then decide (x.elems ≤ k + x.next) else decide (k < x.next)) || x.above.contains k

/-- The count of elements complete in sequence, with those ahead (structural on their count). -/
def absorb : Nat → Nat → List Nat → Nat × List Nat
  | 0, n, l => (n, l)
  | f + 1, n, l => if l.contains n then absorb f (n + 1) (l.filter fun x => x != n) else (n, l)

/-- Element k of a channel cannot be done: it halts there once every element below is complete (R180). -/
def State.failElem (s : State) (c k code : Nat) (addr : DWord) : State :=
  let x := s.channel c
  if k = x.next ∨ x.down = true ∨ x.overlap = true then s.haltCopy c k code addr
  else if x.bad.all fun b => decide (k < b.1) then s.setChannel c { x with bad := some (k, code, addr) }
  else s

/-- Element k is complete: the prefix and the watermark move, at a peer by its arrival record; the channel halts when the
element that then comes next cannot be done. -/
def State.markElem (s : State) (c k : Nat) : State :=
  let x := s.channel c
  if x.down then s.setChannel c { x with next := x.next + 1 }
  else
    let r := absorb (x.above.length + 1) x.next (k :: x.above)
    let wm := if x.enq then x.dst else x.layout.markAfter x.dst r.1
    let s := s.setChannel c { x with next := r.1, above := r.2, wm := wm }
    let s := match (if x.receivers.isEmpty then regionOf s.cid (BitVec.ofNat 64 x.dst) else .none) with
      | .peer p off => (s.markArrival p c off (off + x.layout.dstSpan) (off + (wm - x.dst))).getD s
      | _ => s
    match x.bad with
    | some b => if b.1 = r.1 then s.haltCopy c b.1 b.2.1 b.2.2 else s
    | none => s

/-- The elements in flight whose data the router of the destination has accepted: not those that a host or a peer module
has still to give. -/
def State.accepted (s : State) (x : Channel) : Nat :=
  match regionOf s.cid (BitVec.ofNat 64 x.src) with
  | .host | .pkg => 0
  | _ => x.flight.length

/-- Under .rr the source-free tag is set once every element has been read and accepted (R179). -/
def State.sourceFree (s : State) (c : Nat) : State :=
  let x := s.channel c
  if x.rr && !x.halted && decide (x.next + x.above.length + s.accepted x ≥ x.elems) && !s.core.tags.getLsbD x.tag then
    s.setTags (BitVec.ofNat 64 (2 ^ x.tag))
  else s

/-! Elements. -/

/-- Whether a core cannot take copy data now (13 R377). -/
def State.away (s : State) (c : Nat) : Bool := (s.coreAt c).saved

/-- The destination code of the agent behind an address, and the places that n bytes there keep order at. -/
def State.sideOf (s : State) (ea n : Nat) : Nat × List (Nat × Nat) :=
  match regionOf s.cid (BitVec.ofNat 64 ea) with
  | .own off => (s.cid, [(bankPlace s.cid off, bankPlace s.cid off + 1)])
  | .peer c off => (c, [(bankPlace c off, bankPlace c off + 1)])
  | .dram => (serverDst (((s.pageOf ea).map fun p => p.home).getD 0), [granulePlaces ea n])
  | .pkg => (officeDst, [(2 ^ 19 + 1, 2 ^ 19 + 2)])
  | _ => (hostDst, [(2 ^ 19, 2 ^ 19 + 1)])

/-- Data of a channel passes between this core and the side of an address, a read behind its request (10 R303, R310, R312): none while a
request of the core that preceded the copy is not yet performed at a place of those bytes, or an envelope must wait. -/
def State.engPass (s : State) (x : Channel) (ea n : Nat) (toSide : Bool) : Option State :=
  let d := s.sideOf ea n
  let len := (n + 31) / 32
  if s.busyPlaces s.cid x.since d.2 then none
  else if toSide then s.cross s.cid d.1 d.2 len else (s.cross s.cid d.1 d.2 1).bind fun t => t.cross d.1 s.cid [] len

/-- The source bytes of an element at an address: none when they come by a reply. -/
def State.copySource (s : State) (x : Channel) (ea n : Nat) : EngOut ⊕ Region :=
  let r := regionOf s.cid (BitVec.ofNat 64 ea)
  match s.engPass x ea n (r == .host || r == .pkg) with
  | none => .inl .wait
  | some s =>
    match padOf s.cid r with
    | some (c, off) =>
      if s.away c then .inl .wait
      else if (s.coreAt c).poisoned off n then .inl (.fault memPoison ea s)
      else .inl (.ok (s.spBytes c off n) s)
    | none => if r = .dram then .inl (s.engGet x.who x.job ea n) else .inr r

/-- Bytes converted for a layout: with the scale byte of the source block. -/
def State.convElem (s : State) (conv : Option (Word × Word)) (src : Option (Nat × Nat)) (l : List Byte) :
    List Byte × Option Nat × Counts :=
  match conv, src with
  | some c, some (core, off) => convertGroup c.1 c.2 (s.scaleByteAt core off c.1) l
  | _, _ => (l, none, Counts.zero)

/-- Converted bytes put into a scratchpad, with the scale byte and the counts of the core in turn (R87). -/
def State.putPad (s : State) (core off : Nat) (w : Option Word) (r : List Byte × Option Nat × Counts) : State :=
  let s := s.spWrite core off r.1
  let s := match r.2.1, w with
    | some b, some w => s.spWrite core (scaleOff w off) [BitVec.ofNat 8 b]
    | _, _ => s
  { s with core := { s.core with mxexc := addCounts s.core.mxexc r.2.2 } }

/-- An operation number for a request of an element to the host or a peer module. -/
def State.fly (s : State) (c k : Nat) : Nat × State :=
  let x := s.channel c
  (s.nextId, ({ s with nextId := s.nextId + 1 }).setChannel c { x with flight := x.flight ++ [(k, s.nextId)] })

/-- The source bytes of element k written at its destination, once they may pass; the element is complete unless a peer
module must answer. -/
def State.writeElem (s : State) (c k : Nat) (l : List Byte) : State :=
  let x := s.channel c
  let e := x.layout.elem k
  let srcPad := padOf s.cid (regionOf s.cid (BitVec.ofNat 64 (x.src + e.1)))
  let ea := x.dst + e.2.2.1
  match regionOf s.cid (BitVec.ofNat 64 ea) with
  | .own off =>
    (((s.putPad s.cid off (x.layout.conv.map fun w => w.2) (s.convElem x.layout.conv srcPad l)).markElem c k)).sourceFree c
  | .peer p off =>
    if s.away p then s.setChannel c { x with pend := k :: x.pend }
    else
      let d := bits (BitVec.ofNat 64 x.dst) 0 16
      match s.markArrival p c d (d + x.layout.dstSpan) (d + (x.wm - x.dst)) with
      | none => s
      | some t =>
        ((t.putPad p off (x.layout.conv.map fun w => w.2) (s.convElem x.layout.conv srcPad l)).markElem c k).sourceFree c
  | .dram =>
    match s.engPut x.who x.job ea l with
    | .ok _ t => (t.markElem c k).sourceFree c
    | .fault code va t => t.failElem c k code (BitVec.ofNat 64 va)
    | .wait => s
  | .host =>
    match s.hostAddr ea with
    | none => s.failElem c k translation (BitVec.ofNat 64 ea)
    | some a => (({ s with outside := s.outside ++ [Outside.pcieWrite a.1 a.2 l] }).markElem c k).sourceFree c
  | .pkg =>
    match s.peerUp ea with
    | none => s.failElem c k translation (BitVec.ofNat 64 ea)
    | some w =>
      let r := s.fly c k
      (r.2.outFrame (peerFrame w 2 ea r.1 true l l.length)).sourceFree c
  | _ => s

/-- The same behind the orders of its data; u: the state when the element cannot go now. -/
def State.copyPut (s u : State) (c k : Nat) (l : List Byte) : State :=
  let x := s.channel c
  let e := x.layout.elem k
  match s.engPass x (x.dst + e.2.2.1) e.2.2.2 true with
  | some t => t.writeElem c k l
  | none => u

/-- The data of a multicast passes to every receiver, or to none yet. -/
def State.passAll (s : State) (x : Channel) (ea : Nat) : List Nat → Option State
  | [] => some s
  | c :: t => (s.engPass x (spHome c ea) 1 true).bind fun u => u.passAll x ea t

/-- Element k of a multicast written at every receiver (R182), once it may pass to each: at all of them in one step (DESIGN CHOICE, log
entry 156). Each receiver's format is read at the first element; a copy for which no receiver's bank converts at issue keeps plain
elements even where a format has changed by then (DESIGN CHOICE, log entry 157). -/
def State.multicastPut (s u : State) (c k : Nat) (l : List Byte) : State :=
  let x := s.channel c
  let e := x.layout.elem k
  let sw := x.srcFmt
  match s.passAll x (x.dst + e.2.2.1) x.receivers with
  | none => u
  | some s =>
  if x.receivers.any s.away then s.setChannel c { x with pend := k :: x.pend }
  else
    let fm (p : Nat) : Word := (x.formats.get? p).getD ((s.coreAt p).bfmt.toList.getD (x.dst / 8192) 0)
    let formats := x.receivers.map fun p => (p, fm p)
    let t := x.receivers.foldl (fun t p =>
      let conv := match x.layout.conv with
        | some _ => (match pairOf (0, sw) (0, fm p) with
          | .convert a b => some (a, b)
          | _ => none)
        | none => none
      let g := e.2.1
      let row := k / x.layout.perRow * x.layout.dstStride
      let off := match conv with
        | some w => x.dst + row + k % x.layout.perRow * groupBytes (wordFmt w.2)
        | none => x.dst + row + (if x.layout.conv.isSome then k % x.layout.perRow * g else 32 * (k % x.layout.perRow))
      t.putPad p off (conv.map fun w => w.2) (s.convElem conv (some (s.cid, x.src % 65536 + e.1)) l)) s
    (((t.setChannel c { x with formats := formats }).markElem c k)).sourceFree c

/-- A write with enqueue leaves as one frame (15 R411). -/
def State.enqueueSend (s : State) (c : Nat) : State :=
  let x := s.channel c
  match s.peerUp x.dst with
  | none => s.haltCopy c 0 translation (BitVec.ofNat 64 x.dst)
  | some w =>
    let pad := (padOf s.cid (regionOf s.cid (BitVec.ofNat 64 x.src))).getD (s.cid, 0)
    if s.away pad.1 then s
    else
      let rows := (List.range x.layout.rows).map fun r => (pad.2 + r * x.layout.srcStride, x.layout.srcRow)
      if rows.any fun r => (s.coreAt pad.1).poisoned r.1 r.2 then s.haltCopy c 0 memPoison (BitVec.ofNat 64 x.src)
      else
        let data := rows.flatMap fun r => s.spBytes pad.1 r.1 r.2
        let r := s.fly c 0
        (r.2.outFrame (peerFrame w 4 x.dst r.1 true data data.length)).sourceFree c

/-- Whether element k of a channel can go now: of an overlapping copy only the next one in its order (R177). -/
def Channel.mayGo (x : Channel) (k : Nat) : Bool :=
  x.busy && !x.halted && !x.subscr && decide (k < x.elems) && !x.has k && !x.pend.contains k &&
    (x.bad.all fun b => decide (k < b.1)) &&
    !(x.flight.any fun f => f.1 == k) &&
    (!x.overlap || k == (if x.down then x.elems - 1 - x.next else x.next))

/-- Element k of a channel of the core in turn is read and written. -/
def State.copyElem (s : State) (c k : Nat) : State :=
  let x := s.channel c
  if !x.mayGo k then s
  else if x.enq then s.enqueueSend c
  else
    let e := x.layout.elem k
    let ea := x.src + e.1
    match s.copySource x ea e.2.1 with
    | .inl (.ok l t) => if x.receivers.isEmpty then t.copyPut s c k l else t.multicastPut s c k l
    | .inl (.fault code va t) => t.failElem c k code (BitVec.ofNat 64 va)
    | .inl .wait => s
    | .inr .host =>
      match s.hostAddr ea with
      | none => s.failElem c k translation (BitVec.ofNat 64 ea)
      | some a =>
        let r := s.fly c k
        { r.2 with outside := r.2.outside ++ [.pcieRead a.1 a.2 e.2.1 r.1] }
    | .inr .pkg =>
      match s.peerUp ea with
      | none => s.failElem c k translation (BitVec.ofNat 64 ea)
      | some w =>
        let r := s.fly c k
        r.2.outFrame (peerFrame w 2 ea r.1 false [] e.2.1)
    | .inr _ => s

/-- COPY_ELEMENT. -/
def execCopyElement (ch : Fin 8) (k : Nat) (s : State) : Host.Outcome State Fault Refusal :=
  .next (if (s.core.channels[ch]).sched.isSome then s else s.copyElem ch.val k)

/-- COPY_HALT: an element's error, or the refusal of the host or a peer module (R180). -/
def execCopyHalt (ch : Fin 8) (k code : Nat) (addr : DWord) (s : State) : Host.Outcome State Fault Refusal :=
  .next (let x := s.core.channels[ch]
    if x.busy && !x.halted && !x.has k && decide (k < x.elems) then s.failElem ch.val k code addr else s)

/-- The answer to a request of a channel of the core in turn: data of a read, the end of a write, or of a flush read. -/
def State.flightReply (s : State) (op : Nat) (r : Result) : State :=
  match (List.range 8).find? fun c => (s.channel c).flight.any fun f => f.2 == op with
  | none =>
    let done (x : Channel) : Channel := if x.flush == some (op, false) then { x with flush := some (op, true) } else x
    { s with core := { s.core with channels := s.core.channels.map done } }
  | some c =>
    let x := s.channel c
    let k := ((x.flight.find? fun f => f.2 == op).map fun f => f.1).getD 0
    let s0 := s
    let s := s.setChannel c { x with flight := x.flight.filter fun f => f.2 != op }
    if r.code ≠ 0 then s.failElem c k r.code r.addr
    else
      let e := x.layout.elem k
      let read := match regionOf s.cid (BitVec.ofNat 64 (x.src + e.1)) with
        | .host | .pkg => true
        | _ => false
      if read then
        match s.engPass x (x.dst + e.2.2.1) e.2.2.2 true with
        | some t => t.writeElem c k ((wordBytes r.words).take e.2.1)
        | none => s0.send s0.cid (.remoteReply x.who op r)
      else s.markElem c k

/-- The collision of the entry on a channel of the core in turn with one of another core is reported once (R329). -/
def State.collides (s : State) (c other : Nat) : State :=
  let x := s.channel c
  match x.sched with
  | some (n, pos) =>
    if x.collided then s
    else (s.setChannel c { x with collided := true }).coreTrap schedCollision (BitVec.ofNat 64 (n % 8 + other % 2 ^ 15 * 2 ^ 16))
      (BitVec.ofNat 64 pos) []
  | none => s

/-- Whether a core has a scheduled entry under way on a channel. -/
def Core.scheduled (c : Core) (i : Nat) : Bool :=
  let x := c.channels[Fin.ofNat 8 i]
  x.busy && !x.halted && x.sched.isSome

/-- SCHEDULED_FLIT_DELIVERY: flit k, in the order of the entry (11 R328). collide: the other entry whose flit it meets, as eight times its
sending core and its channel there; both are reported, each at its sender (R329). Which of the flits goes first is timing. -/
def execScheduledFlitDelivery (ch : Fin 8) (k : Nat) (collide : Option Nat) (s : State) : Host.Outcome State Fault Refusal :=
  .next (let x := s.core.channels[ch]
    match x.sched with
    | none => s
    | some _ =>
      if !x.busy || x.halted || (k != (if x.down then x.elems - 1 - x.next else x.next)) then s
      else
        let s := match collide with
          | some p =>
            if (p / 8 = s.cid ∧ p % 8 = ch.val) ∨ (s.coreAt (p / 8)).scheduled (p % 8) = false then s
            else (s.collides ch.val (p / 8)).onCore (p / 8) fun t => t.collides (p % 8) s.cid
          | none => s
        s.copyElem ch.val k)

/-- The arrival record of a channel at its peer is freed. -/
def State.endArrival (s : State) (c : Nat) : State :=
  let x := s.channel c
  match (if x.receivers.isEmpty && !x.subscr then regionOf s.cid (BitVec.ofNat 64 x.dst) else .none) with
  | .peer p _ => s.modCore p fun y => y.dropArrival s.cid c
  | _ => s

/-- Whether a channel writes to the host window: it is complete at system scope (R179; 10 R311). -/
def State.toHost (s : State) (x : Channel) : Bool :=
  x.receivers.isEmpty && !x.subscr && decide (x.elems > 0) && regionOf s.cid (BitVec.ofNat 64 x.dst) == .host

/-- The zero-length read behind the writes of a channel (10 R316). -/
def State.flushChannel (s : State) (c : Nat) : State :=
  let t := s.setChannel c { s.channel c with flush := some (s.nextId, false) }
  { t with nextId := s.nextId + 1, outside := t.outside ++ [Outside.pcieRead false 0 0 s.nextId] }

/-- COPY_COMPLETE: every element is visible, or every tile delivered, released and written back: the tags are set and
the channel is free (R179, R188). -/
def execCopyComplete (ch : Fin 8) (s : State) : Host.Outcome State Fault Refusal :=
  .next (let x := s.core.channels[ch]
    if x.busy && !x.halted && x.next == x.elems && x.flight.isEmpty && x.pend.isEmpty && x.full.isEmpty && x.back.isEmpty then
      if s.toHost x && x.flush.isNone then s.flushChannel ch.val
      else if s.toHost x && x.flush.any (fun f => !f.2) then s
      else
      let wm := if x.subscr then x.wm else if x.enq then x.dst + x.layout.bytes else x.layout.markAfter x.dst x.elems
      let t := (s.endArrival ch.val).setChannel ch.val { x with busy := false, wm := wm }
      (t.countConsume x.job s.die).setTags (tagMask x.tag (x.rr && !x.subscr))
    else s)

/-- COPY_RESEND: the elements a switched-out core refused go again once it is back (13 R377). -/
def execCopyResend (ch : Fin 8) (s : State) : Host.Outcome State Fault Refusal :=
  .next (let x := s.core.channels[ch]
    let out := if x.receivers.isEmpty then
        (match regionOf s.cid (BitVec.ofNat 64 x.dst) with
         | .peer p _ => s.away p
         | _ => false)
      else x.receivers.any s.away
    if x.busy && !x.halted && !out then s.setChannel ch.val { x with pend := [] } else s)

/-! Commands (R181, Table 5-6). -/

/-- NEXT of a channel. -/
def Channel.nextOf (x : Channel) : Nat := if x.halted then x.haltAt else x.next

/-- The result word of a channel with a refusal's code, or the halt's. -/
def copyResult (x : Channel) (c code : Nat) : DWord :=
  BitVec.ofNat 64 (x.tag % 64 + c * 64 + x.busy.toNat * 512 + x.halted.toNat * 1024 + (x.busy && x.subscr).toNat * 2048 +
    (if code ≠ 0 then code else if x.halted then x.code else 0) % 64 * 4096 + x.nextOf % 2 ^ 40 * 2 ^ 24)

/-- RESUME: from the element of the halt. -/
def Channel.resumed (x : Channel) : Channel :=
  { x with halted := false, code := 0, above := [], flight := [], pend := [], bad := none, flush := none }

/-- The copy command at the head of qcp, when its OP is among those asked for and its result has room. -/
def State.copyCommand (s : State) (ops : Nat → Bool) : State :=
  match s.core.qcp.cmds with
  | [] => s
  | (w, slot) :: rest =>
    let op := bits w 0 4
    let c := bits w 4 3
    if !ops op || decide (s.core.qcp.res.length ≥ 4) then s
    else
      let bad := (s.readFifo 3).1
      let s := (s.readFifo 3).2
      let x := s.channel c
      let code :=
        if bad then memPoison
        else if op > 2 ∨ bits w 7 57 ≠ 0 then reservedField
        else if op ≠ 0 ∧ slot ≠ 7 then privilege
        else if op ≠ 0 ∧ x.halted = false then queueMisuse
        else 0
      let s1 := if code ≠ 0 then s
        else match op with
          | 1 => s.setChannel c x.resumed
          | 2 =>
            let t := s.endArrival c
            (t.setChannel c { x with busy := false, halted := false, code := 0, above := [], flight := [], pend := [], bad := none,
                                     full := [], back := [] }).countConsume x.job s.die
          | _ => s
      { s1 with core := { s1.core with qcp := ⟨rest, s1.core.qcp.res ++ [copyResult (s1.channel c) c code]⟩ } }

/-- COPY_QUERY, and the refusal of a reserved OP. -/
def execCopyQuery (s : State) : Host.Outcome State Fault Refusal := .next (s.copyCommand fun op => op == 0 || decide (op > 2))

/-- COPY_RESUME. -/
def execCopyResume (s : State) : Host.Outcome State Fault Refusal := .next (s.copyCommand fun op => op == 1)

/-- COPY_CANCEL. -/
def execCopyCancel (s : State) : Host.Outcome State Fault Refusal := .next (s.copyCommand fun op => op == 2)

/-! Tile subscriptions (R186 to R188). -/

/-- The descriptor's fields out of their limits (Table 5-9). -/
def subReserved (l : List Byte) (count : DWord) : Bool :=
  let f (o n : Nat) := leNat ((l.drop o).take n)
  f 0 2 % 32 != 0 || f 2 2 % 32 != 0 || decide (f 2 2 < 32) || decide (f 2 2 > 8192) || decide (f 4 1 < 1) ||
    decide (f 4 1 > 16) || decide (f 5 1 > 63) || f 6 2 != 0 || f 8 8 % 32 != 0 || f 16 8 % 32 != 0 || f 24 8 != 0 ||
    count == 0 || decide (count.toNat > 2 ^ 32)

/-- The address of tile j. -/
def Channel.tileVa (x : Channel) (j : Nat) : Int := (x.va : Int) + (j : Int) * x.stride

/-- Whether one of count tiles of a size, from an address on with a stride, shares a byte with a range. -/
def tilesMeet (va stride : Int) (count size lo hi : Nat) : Bool :=
  let first : Int := if stride < 0 then va + ((count : Int) - 1) * stride else va
  let d := stride.natAbs
  if d = 0 then decide (first < hi) && decide ((lo : Int) < first + size)
  else
    let j := max 0 (((lo : Int) - size - first) / d + 1)
    decide (j < count) && decide (first + j * d < hi)

/-- Whether a tile of a subscription touches the trap region (13 R362). -/
def State.tilesInTrap (s : State) (x : Channel) : Bool :=
  let b := bits s.core.trapbase 12 36 * 4096
  tilesMeet x.va x.stride x.elems x.slotb b (b + 4722688)

/-- TSUB. The bank check of the ring is made for each slot, and a ring whose later slots lie past offset 0xFFFF raises PARTITION_BOUNDS
(DESIGN CHOICE, log entry 127); EADDR of a fault of the tile
range is the address of tile 0 (DESIGN CHOICE, log entry 128). -/
def execTsub (d a b : Reg) (s : State) : Host.Outcome State Fault Refusal :=
  s.issue ⟨[a, b], some d, false, false⟩ fun v s' =>
    let ea := arg v 0
    match regionOf s.cid ea with
    | .own off =>
      if off % 8 ≠ 0 then s.raise (fltAt misalign ea)
      else if off % 8192 + 32 > 8192 then s.raise (fltAt bankBounds ea)
      else if !s.core.inPart0 off 32 then s.raise (fltAt partitionBounds ea)
      else if s.core.poisoned off 32 then s.raise (accessFlt memPoison ea)
      else
        let l := s.spBytes s.cid off 32
        let f (o n : Nat) := leNat ((l.drop o).take n)
        if subReserved l (arg v 1) then s.raise (flt reservedField)
        else
          let ring := f 0 2
          let n := f 4 1
          let size := f 2 2
          let count := (arg v 1).toNat
          let c := f 5 1 % 8
          let x : Channel :=
            { Channel.reset with since := s.nextId, busy := true, subscr := true, tag := f 5 1, pc := s.ctx.pc, who := s.self, job := s.myJob,
                                 dst := ring, elems := count, slotb := size, nslot := n, va := f 8 8,
                                 stride := (leWord ((l.drop 16).take 8)).toInt }
          let inWin (t : Int) : Bool := decide (0x100000000000 ≤ t) && decide (t + size ≤ 0x200000000000)
          if (List.range n).any (fun k => decide ((ring + k * size) % 8192 + size > 8192)) then
            s.raise (fltAt bankBounds (BitVec.ofNat 64 ring))
          else if !s.core.inPart0 ring (n * size) then s.raise (fltAt partitionBounds (BitVec.ofNat 64 ring))
          else if !(inWin (x.tileVa 0)) || !(inWin (x.tileVa (count - 1))) then
            s.raise (fltAt translation (leWord ((l.drop 8).take 8)))
          else if s.sid.val ≠ 7 ∧ s.tilesInTrap x = true then s.raise (fltAt privilege (leWord ((l.drop 8).take 8)))
          else if s.heldByAcquire || s.channelHeld c then s.stall
          else
            let t := { s' with core := { s'.core with tags := s'.core.tags &&& ~~~(tagMask x.tag false) } }
            s.done ((t.setChannel c x).countSend x.job s.die) d (BitVec.ofNat 64 c)
    | _ => s.raise (fltAt translation ea)

/-- TREL and TREL.st. A channel that holds no subscription has no full slot (DESIGN CHOICE, log entry 129); EADDR of
QUEUE_MISUSE is the field of the slot index (DESIGN CHOICE, log entry 130). -/
def State.trel (s : State) (a b : Reg) (store : Bool) : Host.Outcome State Fault Refusal :=
  s.issue ⟨[a, b], none, false, false⟩ fun v s' =>
    let c := bits (arg v 0) 0 3
    let k := (arg v 1).toNat
    let x := s.channel c
    if bits (arg v 0) 3 61 ≠ 0 then s.raise (flt reservedField)
    else if x.busy = true ∧ x.subscr = true ∧ k ≥ x.nslot then s.raise (flt reservedField)
    else if x.busy = true ∧ x.subscr = true then
      match x.full.find? fun f => f.1 == k with
      | none => s.raise (fltAt queueMisuse (b.code.setWidth 64))
      | some f =>
        let x' := { x with full := x.full.filter fun y => y.1 != k, back := if store then x.back ++ [f] else x.back }
        (s'.setChannel c x').advance
    else s.raise (fltAt queueMisuse (b.code.setWidth 64))

/-- TREL. -/
def execTrel (a b : Reg) (s : State) : Host.Outcome State Fault Refusal := s.trel a b false

/-- TREL.st. -/
def execTrelSt (a b : Reg) (s : State) : Host.Outcome State Fault Refusal := s.trel a b true

/-- TILE_PUSH: the next tile enters its slot once that is free. -/
def State.pushTile (s : State) (c : Nat) : State :=
  let x := s.channel c
  let k := x.next % x.nslot
  if !x.busy || x.halted || !x.subscr || decide (x.next ≥ x.elems) || x.nslot == 0 || (x.full.any fun f => f.1 == k) ||
      (x.back.any fun f => f.1 == k) || s.core.saved then s
  else
    match (match s.engPass x (x.tileVa x.next).toNat x.slotb false with
      | some u => u.engGet x.who x.job (x.tileVa x.next).toNat x.slotb
      | none => .wait) with
    | .ok l t =>
      (t.spWrite s.cid (x.dst + k * x.slotb) l).setChannel c
        { x with full := x.full ++ [(k, x.next)], next := x.next + 1, wm := x.next + 1 }
    | .fault code va t => t.haltCopy c x.next code (BitVec.ofNat 64 va)
    | .wait => s

def execTilePush (ch : Fin 8) (s : State) : Host.Outcome State Fault Refusal := .next (s.pushTile ch.val)

/-- TILE_WRITEBACK: a released slot's contents go back to the address of its tile, and the slot is free. -/
def State.writeTile (s : State) (c k : Nat) : State :=
  let x := s.channel c
  match x.back.find? fun f => f.1 == k with
  | none => s
  | some f =>
    if !x.busy || x.halted then s
    else
      let off := x.dst + k * x.slotb
      if s.core.poisoned off x.slotb then s.haltCopy c f.2 memPoison (BitVec.ofNat 64 off)
      else
        match (match s.engPass x (x.tileVa f.2).toNat x.slotb true with
          | some u => u.engPut x.who x.job (x.tileVa f.2).toNat (s.spBytes s.cid off x.slotb)
          | none => .wait) with
        | .ok _ t => t.setChannel c { x with back := x.back.filter fun y => y.1 != k }
        | .fault code va t => t.haltCopy c f.2 code (BitVec.ofNat 64 va)
        | .wait => s

def execTileWriteback (ch : Fin 8) (slot : Nat) (s : State) : Host.Outcome State Fault Refusal := .next (s.writeTile ch.val slot)

end Sys2Proof.Machine
end

