-- ==== Sys2Proof/Machine/Occupancy.lean ====
section
/-! DEFINITION. Occupancy (04 R117, Table 4-1; 05 R151, R165; 07 R223; 08 R244, R245, R267, R275, Table 8-2): an instruction
reads and pops in the cycle in which it issues, and what it writes in a register or a queue that the slots of a core share shows
after the cycles it takes. -/

namespace Sys2Proof.Machine

/-- The cycles of a division, reciprocal or root (Table 4-1). -/
def longCycles : Ty → Nat
  | .d => 28
  | .s => 14
  | _ => 8

/-- The cycles of a word that may be read or updated in a local bank: a split-phase access takes one (05 R150). -/
def bankCycles (d : Reg) (n : Nat) : Nat := if d = .qam then 1 else n

/-- The cycles that an instruction occupies its slot from its issue, where it completes there without a wait: an instruction that the
tables do not name takes one. -/
def occupancy : Instr → Nat
  | .mul _ _ _ | .mulh _ _ _ | .mulhu _ _ _ => 3
  | .div _ _ _ | .divu _ _ _ | .rem _ _ _ | .remu _ _ _ => 34
  | .fadd _ _ _ _ | .fsub _ _ _ _ | .fmul _ _ _ _ | .ffma _ _ _ _ _ | .fmin _ _ _ _ | .fmax _ _ _ _ | .fcmpeq _ _ _ _
  | .fcmplt _ _ _ _ | .fcmple _ _ _ _ | .fabs _ _ _ | .fneg _ _ _ | .fclass _ _ _ | .fcvt _ _ _ _ => 4
  | .fdiv t _ _ _ | .frcp t _ _ | .fsqrt t _ _ => longCycles t
  | .ld _ d _ _ | .lds _ d _ _ => bankCycles d 2
  | .aadd _ _ d _ _ | .aswp _ _ d _ _ | .aand _ _ d _ _ | .aor _ _ d _ _ | .axor _ _ d _ _ | .amin _ _ d _ _ | .amax _ _ d _ _
  | .aminu _ _ d _ _ | .amaxu _ _ d _ _ | .ainc _ _ d _ | .acas _ _ d _ _ | .ldfe d _ _ | .ldff d _ _ => bankCycles d 3
  | .stfe _ _ _ | .stff _ _ _ => 3
  | .vadd _ _ _ _ | .vsub _ _ _ _ | .vmul _ _ _ _ | .vfma _ _ _ _ | .vmin _ _ _ _ | .vmax _ _ _ _ | .vabs _ _ _ | .vneg _ _ _
  | .vcmpEq _ _ _ _ | .vcmpLt _ _ _ _ | .vcmpLe _ _ _ _ | .vsel _ _ _ _ | .vand _ _ _ _ | .vor _ _ _ _ | .vxor _ _ _ _
  | .vshl _ _ _ _ | .vshr _ _ _ _ | .vcvt _ _ _ _ => 4
  | .vld _ _ _ => 3
  | .vshf _ _ _ _ | .vbcast _ _ _ | .vins _ _ _ | .vext _ _ _ => 2
  | .vredAdd _ _ _ | .vredMin _ _ _ | .vredMax _ _ _ | .vdot _ _ _ _ => 8
  | .vexp2 _ _ _ | .vlog2 _ _ _ => 12
  | .vlds _ _ _ _ | .vsts _ _ _ _ | .vgath _ _ _ _ | .vscat _ _ _ _ => 2
  | .accz _ | .accset _ _ | .pcfg _ _ => 2
  | .accrd _ _ _ => 6
  | _ => 1

/-- The instruction that the slot in turn issues is given its cycles. -/
def State.occupying (s : State) (i : Instr) : State := s.setMe { s.me with lat := occupancy i }

/-! What is due is written (04 R117; 01 R20, R23; 08 R245). -/

/-- Whether a write is lost to another that ends in the same cycle: that of a higher slot, or of the vector sequencer, to the same
register. -/
def Late.lostTo (x y : Late) : Bool :=
  x.due == y.due && decide (x.rank < y.rank) &&
    (match x.what, y.what with
     | .reg n _, .reg m _ => n == m
     | .vec n _ _, .vec m _ _ => n == m
     | _, _ => false)

/-- A result among others in the order in which they are written: by count, then by slot. -/
def insertDue (x : Late) : List Late → List Late
  | [] => [x]
  | y :: t => if x.due < y.due ∨ x.due = y.due ∧ x.rank < y.rank then x :: y :: t else y :: insertDue x t

/-- The results of a core that are due by a count of its cycles and not lost, in that order. -/
def Core.due (c : Core) (now : Nat) : List Late :=
  let l := c.late.filter fun x => decide (x.due ≤ now)
  (l.filter fun x => !l.any x.lostTo).foldl (fun r x => insertDue x r) []

/-- A result is written: a register, the lanes of a vector register, a word pushed by its slot; a word whose queue has no room yet stays
under way (01 R23). -/
def State.landOne (s : State) (x : Late) : State :=
  match x.what with
  | .reg n v => { s with core := { s.core with s := s.core.s.set n v } }
  | .vec n mask v => { s with core := { s.core with v := s.core.v.set n ((s.core.v[n] &&& ~~~mask) ||| (v &&& mask)) } }
  | .push r v =>
    let t := { s with sid := Fin.ofNat 8 x.rank }
    if isCommand r v || t.room r 0 then { t.pushQueue r v with sid := s.sid }
    else { s with core := { s.core with late := s.core.late ++ [x] } }

/-- The core in turn writes what is due. -/
def State.landCore (s : State) : State :=
  if s.core.late.isEmpty then s
  else
    (s.core.due s.coreCycles).foldl (fun t x => t.landOne x)
      { s with core := { s.core with late := s.core.late.filter fun x => !decide (x.due ≤ s.coreCycles) } }

/-- The same in another core; the core and slot in turn stay. -/
def State.landAt (s : State) (c : Nat) : State := ((s.focus c 0).landCore).focus s.cid s.sid

/-- The same in every core that has results under way. -/
def State.land (s : State) : State :=
  ((s.others.filter fun x => !x.2.late.isEmpty).map fun x => x.1).foldl (fun t c => t.landAt c) s.landCore

/-- Cycles of 1.4 GHz pass; results due by then are written. -/
def State.tick (s : State) (n : Nat) : State := ({ s with cycle := s.cycle + n } : State).land

/-- Whether the slot holds a word that its queue had no room for when it was due (01 R23). -/
def Core.heldPush (c : Core) (i : Fin 8) (now : Nat) : Bool :=
  c.late.any fun x => x.rank == i.val && decide (x.due ≤ now)

/-- Whether an instruction, or what came before, still occupies a slot of a core (04 R117; 01 R17). -/
def Core.occupied (c : Core) (i : Fin 8) (now : Nat) : Bool := decide (now < c.slots[i].ready) || c.heldPush i now

end Sys2Proof.Machine
end

