-- ==== Sys2Proof/Machine/Fetch.lean ====
section
/-! DEFINITION. Fetching the next word of the slot in turn (11 R320; 04 R138) and the check of a hint group as one
unit (02 R51, R63, R64). -/

namespace Sys2Proof.Machine

/-- The instructions that step 3 of R51 refuses outside slot 7 (02 R52). -/
def isSupervisor : Instr → Bool
  | .bind _ _ | .unbind _ | .chmode _ _ | .barBrk _ | .prgwr _ | .eret | .rfwin _ => true
  | _ => false

/-- The kind of a hint word. -/
def hintKind (w : Word) : Nat := bits w 22 4

/-- Whether a target word accepts a hint word (02 R64, Table 2-15; 04 R134, R144; 05 R168, R189; 08 R285). An HMOD that replaces
nothing has no effect before the targets that accept HMOD (09 R298: DEDUCED, log entry 16); one with WIDE is accepted before every atomic,
where step 2 refuses it but for ACAS.8 (05 R168); before ACAS an HMOD without WIDE is accepted and has no effect (DESIGN CHOICE, log
entry 16). -/
def acceptsHint (hint target : Word) : Bool :=
  let op := bits target 26 6
  match hintKind hint with
  | 0 => [0x03, 0x04, 0x05, 0x06, 0x08, 0x09, 0x0A, 0x0B, 0x0C, 0x10, 0x11, 0x13, 0x18, 0x19, 0x1A, 0x1C].contains op
  | 1 => true
  | 2 => true
  | 3 => [0x14, 0x15, 0x16, 0x30, 0x33, 0x35].contains op ||
      (op == 0x1E && (bits target 4 4 == 2 || hint.getLsbD 6)) || (op == 0x38 && bits target 4 4 == 2)
  | _ => false

/-- The hint words and the target of the group at an address, from the fetch buffer: up to n words (a group that
breaks R64 has more); none with the address of a word that is not held. -/
def groupWords (lines : List (Nat × List Byte)) : Nat → Nat → Except Nat (List Word × Option Word)
  | 0, _ => .ok ([], none)
  | n + 1, a =>
    match lineWord lines a with
    | none => .error a
    | some w =>
      if isHintWord w then
        match groupWords lines n (a + 4) with
        | .ok (l, t) => .ok (w :: l, t)
        | .error e => .error e
      else .ok ([], some w)

/-- The address of a word of the group at an address that the slot may not fetch: a hint that ends the code image has its target
outside (04 R138); structural on the count of words. -/
def State.groupOutside (s : State) : Nat → Nat → Option Nat
  | 0, _ => none
  | n + 1, a =>
    if !s.mayFetch a then some a
    else
      match lineWord s.heldLines a with
      | some w => if isHintWord w then s.groupOutside n (a + 4) else none
      | none => none

/-- Whether step 1 of R51 refuses the word alone. -/
def illegalWord (w : Word) : Bool :=
  match decode w with
  | .error .illegalOp => true
  | _ => false

def reservedWord (w : Word) : Bool :=
  match decode w with
  | .error .reservedField => true
  | _ => false

/-- The offset of a LOOP word with the HIMM of its group. -/
def loopOff (hints : List Word) (target : Word) : BitVec 48 :=
  match hints.find? fun w => hintKind w == 0 with
  | some h => (h.setWidth 22 ++ target.setWidth 16 : BitVec 38).signExtend 48
  | none => (target.setWidth 16).signExtend 48

/-- The decode fault of a group (R51, R64): step 1 over every word, then step 2, then step 3. -/
def groupFault (hints : List Word) (target : Option Word) (slot7 : Bool) : Option Nat :=
  match target with
  | none => some illegalOp
  | some t =>
    let kinds := hints.map hintKind
    if !kinds.Nodup || hints.any illegalWord || illegalWord t || !(hints.all fun h => acceptsHint h t) then some illegalOp
    else if hints.any reservedWord || reservedWord t ||
        (bits t 26 6 == 0x13 && (loopOff hints t).slt 1#48) ||
        (hints.any fun h => hintKind h == 3 && h.getLsbD 6 && !(bits t 26 6 == 0x1E && bits t 4 4 == 2 && bits t 0 2 == 3)) then
      some reservedField
    else
      match decode t with
      | .ok i => if isSupervisor i && !slot7 then some privilege else none
      | .error _ => none

/-- What the issue of a slot comes to: an instruction to execute, or a step that is already whole. -/
inductive Fetched where
  | run (i : Instr) (s : State)
  | whole (s : State)

/-- A request for a line of code (R320), unless it is already requested. -/
def State.requestLine (s : State) (l : Nat) : State :=
  if s.core.fetching.contains l then s
  else
    let s := { s with core := { s.core with fetching := s.core.fetching ++ [l] } }
    let va : Addr := BitVec.ofNat 48 (l * 64)
    let r := s.route (l * 64)
    (s.touchHome (l * 64)).sendRange s.cid (serverDst r.1) none [] [granulePlaces (l * 64) 64]
      (.rd64 { stack := r.1, routine := 2, priv := false, w32 := false, w128 := false, tag := 0,
               queue := 0, origin := 3, who := s.self, op := s.nextId, via := .wait, jent := 0, hops := 0,
               hinted := r.2, va := va, a := 0, b := 0, payload := [], job := s.myJob })

/-- A line that is not held is requested and the slot stalls. -/
def State.wantLine (s : State) (a : Nat) : State := (s.stall).requestLine (a / 64)

/-- A word issued from the second half of a line: the next line is requested unless it is held in the fetch buffer or
requested (R320). -/
def State.prefetch (s : State) (a : Nat) : State :=
  if a % 64 ≥ 32 ∧ (List.lookup (a / 64 + 1) s.core.lines).isNone then s.requestLine (a / 64 + 1) else s

/-- A held line becomes the most recently used (R320). -/
def touchLine (lines : List (Nat × List Byte)) (l : Nat) : List (Nat × List Byte) :=
  match lines with
  | [] => []
  | c :: t => if c.1 = l then c :: t else (lines.filter fun x => x.1 == l) ++ lines.filter fun x => x.1 != l

/-- The slot in turn issues from a line: it holds it (R320), and the buffer counts it as the most recently used. -/
def State.useLine (s : State) (l : Nat) : State :=
  let line := (List.lookup l s.heldLines).map fun b => (l, b)
  let t := s.setMe { s.me with line := line }
  { t with core := { t.core with lines := touchLine t.core.lines l } }

/-- The LOOP word's address of the loop record of the slot in turn, when its LEND must be read afresh (04 R141). -/
def State.lendDue (s : State) : Option Nat :=
  let p7 := s.ctx.p[7]
  let l := bits p7 0 46 * 4
  if p7.getLsbD 63 && !(s.me.lend.any fun x => x.1 == l) then some l else none

/-- LEND read through the fetch buffer, or the address of a word of the LOOP's group that is not held. -/
def State.readLend (s : State) (l : Nat) : Except Nat State :=
  if s.mayFetch l && inDram l then
    match lendOf (s.groupWord fun x => lineWord s.heldLines x) l with
    | .ok e => .ok (s.setMe { s.me with lend := some (l, some e) })
    | .error m => .error m
  else .ok (s.setMe { s.me with lend := some (l, none) })

/-- Whether the fibre in turn stands at a liveness point that a switch of its job takes it at (09 R299; 13 R375): the
bitmap lies in PART0, and no slot-scope queue holds a word (01 R25). -/
def State.atSwitchPoint (s : State) : Bool :=
  s.fib.atPoint && (match s.job? with
    | some j => j.switching.isSome
    | none => false) && s.me.group.isNone && s.me.run.isNone && s.fib.wait.isNone && !s.fib.unpopped &&
    (match s.fib.live with
     | some l => s.core.inPart0 (l.bmap.toNat * 8) 8
     | none => false)

/-- The fibre in turn leaves its slot as READY at a boundary: the interruption of 01 R28 and the tail of its class. -/
def State.displace (s : State) : State := (s.interruptPg.swapOut stReady 0).makeReady (s.me.ent.getD 0)

/-- Whether a slot is at a boundary at which its fibre may be swapped out (01 R25, R28; 08 R273): not between a hint and
its target (02 R65). -/
def Slot.atBoundary (m : Slot) (now : Nat) : Bool :=
  m.ent.isSome && decide (m.ready ≤ now) && m.fib.wait.isNone && !m.fib.unpopped && !(m.run.any fun r => r.carry) &&
    (m.group.isNone || m.stall.isSome || m.run.isSome)

/-- Issue from the slot in turn, a word with its hint group as one unit (02 R51); nothing issues in a core that is halted, or from a slot
that is occupied (04 R117). While the module is about to stop its clocks, a resident fibre is taken at its next boundary, and slots 6 and 7
issue nothing (16 R437). -/
def State.fetch (s : State) : Fetched :=
  if s.core.halted || (s.mgmt.goal.isSome && !(s.sid.val < 6)) then .whole s
  else if s.core.occupied s.sid s.coreCycles then .whole s
  else if s.sid.val < 6 && s.me.ent.isNone || !(s.sid.val < 6) && !s.me.busy then .whole s
  else if s.sid.val < 6 && s.canTake && (s.me.group.isNone || s.me.stall.isSome || s.me.run.isSome) then .whole (s.takePend s.self.ent)
  else if s.sid.val < 6 && (s.atSwitchPoint || s.mgmt.goal.isSome && s.me.atBoundary s.coreCycles) then .whole s.displace
  else if s.fib.wait.isSome || s.me.run.isSome then .whole s
  else
    let a := s.ctx.pc.toNat
    if !s.mayFetch a then .whole (s.raise (fltAt translation (s.ctx.pc.setWidth 64)))
    else
      match (match s.lendDue with
        | some l => s.readLend l
        | none => .ok s) with
      | .error m => .whole (s.wantLine m)
      | .ok s =>
        match lineWord s.heldLines a with
        | none => .whole (s.wantLine a)
        | some w =>
          let s1 := s.useLine (a / 64)
          if s.me.group.isNone then
            match s.groupOutside 5 a with
            | some m => .whole (s1.raise (fltAt translation (BitVec.ofNat 64 m)))
            | none =>
              match groupWords s.heldLines 5 a with
              | .error m => .whole (s.wantLine m)
              | .ok (hs, t) =>
                match groupFault hs t (s.sid.val = 7) with
                | some c => .whole (s1.raise (flt c))
                | none =>
                  match decode w with
                  | .ok i => .run i (s1.prefetch a)
                  | .error _ => .whole (s1.raise (flt illegalOp))
          else
            match decode w with
            | .ok i => .run i (s1.prefetch a)
            | .error .illegalOp => .whole (s1.raise (flt illegalOp))
            | .error .reservedField => .whole (s1.raise (flt reservedField))

end Sys2Proof.Machine
end

