-- ==== Sys2Proof/Machine/Sched.lean ====
section
/-! DEFINITION. The scheduling group, timers, wait limits, spin holds and the dead-letter search (06 R214, R220; 01 R15,
R26, R36; 09 R298). -/

namespace Sys2Proof.Machine

/-! Scheduling group (Table 6-10). -/

/-- Slot 6 or 7 ends its work by PARK or YIELD (01 R15). -/
def State.endUpper (s : State) : State :=
  if s.sid.val = 7 then s.advance.endSlot7
  else
    let t := s.advance
    t.setMe { t.me with busy := false }

/-- The first slot-scope queue register of the fibre in turn, by its code, that holds an unpopped word (01 R25). -/
def State.unpoppedReg (s : State) : Option Reg :=
  let f := s.fib
  if !f.unpopped then none
  else if !f.qm[0].words.isEmpty then some (.qm 0)
  else if !f.qm[1].words.isEmpty then some (.qm 1)
  else if !f.qjn.isEmpty then some .qjn
  else if !f.qev.isEmpty then some .qev
  else if !f.qtm.isEmpty then some .qtm
  else some .qam

/-- The fault of PARK and YIELD with an unpopped word (01 R25). -/
def State.unpoppedFault (s : State) : Option Flt :=
  (s.unpoppedReg).map fun r => fltAt queueMisuse (r.code.setWidth 64)

/-- The swap-out of PARK or YIELD: SPIN of an HSCH holds the slot first (09 R297), then k happens. -/
def State.afterSpin (s : State) (k : State) : State :=
  match s.me.spin, s.me.hints.spin with
  | some t, _ => if s.coreCycles < t then s else k
  | none, some n =>
    if spinCycles n.toNat = 0 then k
    else s.setMe { s.me with stall := some s.now, onQtm := false, spin := some (s.coreCycles + spinCycles n.toNat) }
  | none, none => k

/-- YIELD. -/
def execYield (s : State) : Host.Outcome State Fault Refusal :=
  s.issue ⟨[], none, false, false⟩ fun _ s' =>
    match s.unpoppedFault with
    | some f => s.raise f
    | none =>
      if s.sid.val ≥ 6 then s'.endUpper
      else s.afterSpin ((s'.advance.swapOut stReady 0).makeReady (s.me.ent.getD 0))

/-- What holds a PARK that reads the fork frame at p6: a pending acquire, a copy's range, an uncorrectable word (05 R166, R178; 16 R439). -/
def State.frameHeld (s : State) : Option State :=
  match s.inlineFrame with
  | none => none
  | some off =>
    if s.heldByAcquire || s.core.rangeStall s.cid off 96 then some s.stall
    else if s.core.poisoned off (if (s.spWord s.cid off).getLsbD 24 then 96 else 8) then
      some (s.raise (accessFlt memPoison (BitVec.ofNat 64 off)))
    else none

/-- PARK. -/
def execPark (s : State) : Host.Outcome State Fault Refusal :=
  s.issue ⟨[], none, false, false⟩ fun _ s' =>
    match s.frameHeld, s'.inlineReturn with
    | some t, _ => t
    | none, some t => t
    | none, none =>
      match s.unpoppedFault with
      | some f => s.raise f
      | none => if s.sid.val ≥ 6 then s'.endUpper else s.afterSpin (s'.advance.swapOut stParked 0)

/-- A PARKED fibre of the job becomes READY; any other wake is discarded. -/
def State.wake (s : State) (e : Nat) (job : Option Nat) : State :=
  match s.core.fibre? e with
  | some f => if f.ctx.state = stParked ∧ f.job = job then s.makeReady e else s
  | none => s

/-- WAKE_ARRIVAL. -/
def execWakeArrival (ent : Nat) (job : Option Nat) (s : State) : Host.Outcome State Fault Refusal := .next (s.wake ent job)

/-- The fault of a handle operand (R214). -/
def State.handleFault (s : State) (h : DWord) : Option Flt :=
  if bits h 23 41 ≠ 0 then some (flt reservedField)
  else if bits h 8 12 > 2303 ∨ s.core.inPart1 (handleCore h) = false then some (fltAt partitionBounds h)
  else none

/-- WAKE. -/
def execWake (a : Reg) (s : State) : Host.Outcome State Fault Refusal :=
  s.issue ⟨[a], none, false, false⟩ fun v s' =>
    let h := arg v 0
    match s.handleFault h with
    | some f => s.raise f
    | none =>
      let job := s.jobOf s.fib
      if s.heldByAcquire then s.stall
      else if handleCore h = s.cid then s'.advance.wake (bits h 0 8) job
      else s'.advance.sendFrom s.cid (handleCore h) (some s.self) [] none (.wakeArrival (bits h 0 8) job)

/-- The launch priority of the job of the fibre in turn. -/
def State.launchPri (s : State) : Nat :=
  match s.job? with
  | some j => j.pri
  | none => 7

/-- SETPRI. -/
def execSetpri (a : Reg) (s : State) : Host.Outcome State Fault Refusal :=
  s.issue ⟨[a], none, false, false⟩ fun v s' =>
    if bits (arg v 0) 3 61 ≠ 0 then s.raise (flt reservedField)
    else if s.sid.val ≠ 7 ∧ bits (arg v 0) 0 3 > s.launchPri then s.raise (flt privilege)
    else (s'.setCtx { s'.ctx with status := putBits s'.ctx.status 7 3 (bits (arg v 0) 0 3) }).advance

/-- SETDL. -/
def execSetdl (a : Reg) (s : State) : Host.Outcome State Fault Refusal :=
  s.issue ⟨[a], none, false, false⟩ fun v s' =>
    if bits (arg v 0) 48 16 ≠ 0 then s.raise (flt reservedField)
    else (s'.setCtx { s'.ctx with dl := (arg v 0).setWidth 48 }).advance

/-- SETWL. -/
def execSetwl (a : Reg) (s : State) : Host.Outcome State Fault Refusal :=
  s.issue ⟨[a], none, false, false⟩ fun v s' =>
    if bits (arg v 0) 10 54 ≠ 0 then s.raise (flt reservedField)
    else
      let w := putBits (putBits s'.ctx.status 20 8 (bits (arg v 0) 0 8)) 28 2 (bits (arg v 0) 8 2)
      (s'.setCtx { s'.ctx with status := w }).advance

/-- A read of the postmark time into d, recorded, or in replay the recorded one (16 R441, R442). -/
def State.readTime (s s' : State) (d : Reg) : State :=
  if s.recStall then s.stall
  else
    match s.replayed s.self.ent with
    | some (k, _, v) =>
      if k ≠ kTime then s.raise (fltAt channelState 0xFF) else s.done (s'.record s.self.ent kTime 0xFF v) d v
    | none =>
      let v : DWord := BitVec.ofNat 64 s.now
      s.done (s'.record s.self.ent kTime 0xFF v) d v

/-- RDTIME. -/
def execRdtime (d : Reg) (s : State) : Host.Outcome State Fault Refusal :=
  s.issue ⟨[], some d, false, false⟩ fun _ s' => s.readTime s' d

/-- GETST. -/
def execGetst (d : Reg) (s : State) : Host.Outcome State Fault Refusal :=
  s.compute [] d fun _ => s.ctx.status.setWidth 64 ||| (whoHandle s.self <<< 32)

/-! Timers (01 R26). -/

/-- The word of an expired timer. -/
def Timer.word (t : Timer) : DWord := BitVec.ofNat 64 (t.due % 2 ^ 48 + t.num % 65536 * 2 ^ 48)

/-- Insertion in expiry order, behind timers of the same instant. -/
def insertTimer (t : Timer) : List Timer → List Timer
  | [] => [t]
  | x :: l => if t.due < x.due then t :: x :: l else x :: insertTimer t l

/-- The expired words of a resident fibre enter qtm. -/
def Fibre.flushTimers (f : Fibre) : Fibre := { f with qtm := f.qtm ++ f.expired.map Timer.word, expired := [] }

/-- The timers of fibre e that expire now, in expiry order: those whose instant has come; in a job that records one at a time, once the
recorder has room (16 R441); in replay the first to come where the fibre's next entry records a timer's expiry, at the recorded instant
(16 R442). -/
def State.timersDue (s : State) (e : Nat) (f : Fibre) : List Timer :=
  let order (l : List Timer) : List Timer := l.foldl (fun l t => insertTimer t l) []
  let come := order (f.timers.filter fun t => decide (t.due ≤ s.now))
  match s.recMode f with
  | 0 => come
  | 2 =>
    match s.replayed e, order f.timers with
    | some (k, ep, v), t :: _ => if k = kExpiry + 256 ∧ ep = 0xFF then [{ t with due := v.toNat }] else []
    | _, _ => []
  | _ => if s.recFull ⟨s.cid, e⟩ then [] else come.take 1

/-- TIMER_EXPIRY: the timers of fibre e that expire. -/
def State.expireTimers (s : State) (e : Nat) : State :=
  match s.core.fibre? e with
  | none => s
  | some f =>
    let go := s.timersDue e f
    let s1 := s.modFibre e fun x =>
      { x with timers := x.timers.filter fun t => !go.any fun u => u.num == t.num, expired := x.expired ++ go }
    let s2 := if (s1.core.slotOf? e).isSome then s1.modFibre e Fibre.flushTimers else s1
    go.foldl (fun u t => u.record e kExpiry 0xFF (BitVec.ofNat 64 t.due) 1) s2

def execTimerExpiry (ent : Nat) (s : State) : Host.Outcome State Fault Refusal := .next (s.expireTimers ent)

/-! Spin holds (09 R297, R298). -/

/-- HSCH_SPIN_EXPIRY: the hold of a slot ends and the swap-out takes place; a PARK or YIELD that is held goes on. -/
def State.endSpin (s : State) : State :=
  match s.me.spin, s.fib.wait with
  | some t, some w =>
    if s.coreCycles ≥ t ∧ s.sid.val < 6 ∧ s.fib.unpopped = false then (s.setPc s.groupPc).swapOut stBlocked w.reason else s
  | some t, none => if s.coreCycles ≥ t then s.setMe { s.me with stall := none } else s
  | none, _ => s

def execHschSpinExpiry (sl : Fin 8) (s : State) : Host.Outcome State Fault Refusal :=
  .next (let t := ({ s with sid := sl }).endSpin
    { t with sid := s.sid })

/-! Wait limits (01 R36). -/

/-- Whether a wait carries its own time-out and so is not counted. -/
def timed : WaitKind → Bool
  | .sendx _ _ | .recvx _ _ _ => true
  | .alt _ _ (some _) => true
  | _ => false

/-- Whether the stalled slot waits on an empty qtm while a timer is armed, or on a fetch (01 R36). -/
def State.uncountedStall (s : State) : Bool :=
  (lineWord s.heldLines s.ctx.pc.toNat).isNone || (s.me.onQtm && !s.fib.timers.isEmpty && s.fib.qtm.isEmpty)

/-- Whether the wait that began at an instant has passed the limit of a context. -/
def State.overLimit (s : State) (c : Ctx) (since : Nat) : Bool := c.waitLimit != 0 && decide (s.now - since > c.waitLimit)

/-- The trap of fibre e that has just been queued says that its operation was withdrawn (13 R367; 18 R457). -/
def State.markWithdrawn (s : State) (e : Nat) : State :=
  { s with core := { s.core with traps := s.core.traps.map fun t => if t.ent = some e then { t with wdrawn := true } else t } }

/-- WAIT_LIMIT of fibre e: a withdrawable wait is withdrawn and trapped; a REMOTE wait traps after its reply. -/
def State.limitWait (s : State) (e : Nat) : State :=
  match s.core.fibre? e with
  | none => s
  | some f =>
    match f.wait with
    | some w =>
      if timed w.kind || e == 257 || w.limitHit || !s.overLimit f.ctx w.since then s
      else if w.reason = 7 then s.modFibre e fun x => { x with wait := some { w with limitHit := true } }
      else if !s.withdrawable w then s
      else
        let reason := if f.ctx.state = stBlocked then w.reason else 0
        (((s.eraseOp ⟨s.cid, e⟩ w).unpop e w).faultWait e w (fltAt waitLimitCode (BitVec.ofNat 64 reason))).markWithdrawn e
    | none =>
      match s.core.slotOf? e with
      | none => s
      | some i =>
        let m := s.core.slots[i]
        match m.stall with
        | none => s
        | some t =>
          if e = 257 || ({ s with sid := i }).uncountedStall || !s.overLimit f.ctx t then s
          else
            (s.asFibre e fun u =>
              let v := u.interruptPg
              v.faultAt (fltAt waitLimitCode 0) v.ctx.pc v.ctx.pg).markWithdrawn e

def execWaitLimit (ent : Nat) (s : State) : Host.Outcome State Fault Refusal := .next (s.limitWait ent)

/-! Dead letters (R220). -/

/-- The channel wait of a BLOCKED fibre on an entry with PKIND 0: operation, reason, endpoint. -/
def Core.channelWait (c : Core) (e : Nat) : Option (Nat × Nat × Nat) :=
  match c.fibre? e with
  | none => none
  | some f =>
    match f.wait with
    | none => none
    | some w =>
      if f.ctx.state = stBlocked ∧ (w.reason = 1 ∨ w.reason = 2) ∧ (c.endpoint w.ep).pkind = 0 then
        some (w.op, w.reason, w.ep)
      else none

/-- A probe goes on from fibre e of the core in turn to the owner of its peer entry. -/
def State.sendProbe (s : State) (p : Probe) (e : Nat) (x : Nat × Nat × Nat) : State :=
  let y := s.core.endpoint x.2.2
  s.send y.peerCore (.deadLetterProbeArrival { p with path := p.path ++ [(⟨s.cid, e⟩, x)], target := y.peerCore, ep := y.pep.toNat })

/-- DEAD_LETTER_PROBE of fibre e, once its block has passed the threshold in force; none while DLPROBE is 0. -/
def execDeadLetterProbe (ent : Nat) (s : State) : Host.Outcome State Fault Refusal :=
  .next (match s.core.channelWait ent, (s.core.fibre? ent).bind fun f => f.wait with
    | some x, some w =>
      if w.probed ∨ w.thr = 0 ∨ s.now ≤ w.since + w.thr ∨ (s.dies[Fin.ofNat 8 s.die]).dlprobe = 0 then s
      else
        (s.modFibre ent fun f => { f with wait := some { w with probed := true } }).sendProbe
          { origin := ⟨s.cid, ent⟩, op := w.op, path := [], target := 0, ep := 0 } ent x
    | _, _ => s)

/-- A path turned so that the lowest handle leads (structural on the count of turns). -/
def turnPath (low : Who) : Nat → List (Who × Nat × Nat × Nat) → List (Who × Nat × Nat × Nat)
  | 0, l => l
  | n + 1, l =>
    match l with
    | [] => []
    | x :: t => if x.1 = low then l else turnPath low n (t ++ [x])

/-- The cycle of a returned probe is filed once while it lasts. -/
def State.fileCycle (s : State) (p : Probe) : State :=
  let least := p.path.foldl (fun a x => if (whoHandle x.1).toNat < (whoHandle a).toNat then x.1 else a) p.origin
  let path := turnPath least p.path.length p.path
  let ops := path.map fun x => x.2.1
  let die := least.core / 2304
  let d := s.dies[Fin.ofNat 8 die]
  let alive (l : List Nat) : Bool := l.all fun o => path.any fun x => x.2.1 == o
  if d.reported.any alive then s
  else
    let next := path.drop 1 ++ path.take 1
    let entries := (path.zip next).flatMap fun x =>
      [entryWord0 (whoHandle x.1.1) x.1.2.2.1 x.1.2.2.2,
       entryWord1 (whoHandle x.2.1) (((s.coreAt x.1.1.core).endpoint x.1.2.2.2).pep.toNat)]
    let job := ((s.coreAt least.core).fibre? least.ent).bind fun f => f.job
    let s := { s with dies := s.dies.set (Fin.ofNat 8 die) { d with reported := d.reported ++ [ops] } }
    s.fileDeadLetter (s.ownerBox job) (deadLetterWords path.length 0 die s.now entries)

/-- DEAD_LETTER_PROBE_ARRIVAL at the core of the peer entry's owner: the cycle is closed, the probe goes on, or ends. -/
def execDeadLetterProbeArrival (p : Probe) (s : State) : Host.Outcome State Fault Refusal :=
  .next (let e := (s.core.endpoint p.ep).ownerIx
    match s.core.channelWait e with
    | none => s
    | some x =>
      if (⟨s.cid, e⟩ : Who) = p.origin then (if x.1 = p.op then s.fileCycle p else s)
      else if p.path.any fun y => y.1 = ⟨s.cid, e⟩ then s
      else s.sendProbe p e x)

end Sys2Proof.Machine
end

