-- ==== Sys2Proof/Machine/Dispatcher.lean ====
section
/-! DEFINITION. What reaches or leaves a core between instructions: filled lines and records (11 R320, R337, R338),
words written to qtm, qsc and qhs (01 R26; 08 R270; 15 R423), dispatch and displacement (12 R350 to R353), trap
delivery and urgent tasks (13 R368, R373), envelopes (10 R312 to R315). -/

namespace Sys2Proof.Machine

/-! Lines and records. -/

/-- Every slot of a core. -/
def allSlots : List (Fin 8) := [0, 1, 2, 3, 4, 5, 6, 7]

/-- The address of the word that the slot in turn stalls for, when it stalls on a fetch, and the LOOP word's address when
it is wanted for the loop record (04 R141). -/
def State.missing (s : State) : Option (Nat × Option Nat) :=
  if s.me.stall.isNone || s.me.run.isSome || s.fib.wait.isSome then none
  else
    match s.lendDue.bind fun l => match s.readLend l with
      | .error m => some (m, some l)
      | .ok _ => none with
    | some m => some m
    | none =>
      match lineWord s.heldLines s.ctx.pc.toNat with
      | none => some (s.ctx.pc.toNat, none)
      | some _ =>
        if s.me.group.isNone then
          match groupWords s.heldLines 5 s.ctx.pc.toNat with
          | .error m => some (m, none)
          | .ok _ => none
        else none

/-- The slots of the core in turn that stall for a line, each with the address it needs. -/
def State.stalledOn (s : State) (line : Nat) : List (Fin 8 × Nat × Option Nat) :=
  allSlots.filterMap fun i =>
    match ({ s with sid := i }).missing with
    | some a => if a.1 / 64 = line then some (i, a) else none
    | none => none

/-- What a refused fetch does in the slot in turn: its fault, or a loop record without LEND (log entry 119). -/
def State.noLine (s : State) (code a : Nat) (l : Option Nat) : State :=
  match l with
  | some l => s.setMe { s.me with stall := none, lend := some (l, none) }
  | none => s.faultAt (accessFlt code (BitVec.ofNat 64 a)) s.groupPc s.ctx.pg

/-- A line arrives: it is held as the most recent of 32 and its slots go on, or they take the fetch's fault. -/
def State.fillLine (s : State) (line : Nat) (l : List Byte) (code : Nat) : State :=
  let ws := s.stalledOn line
  let t := { s with core := { s.core with fetching := s.core.fetching.filter fun x => x != line } }
  let r :=
    if code = 0 then
      let held := ((line, l) :: t.core.lines.filter fun x => x.1 != line).take 32
      ws.foldl (fun u w => let v := { u with sid := w.1 }
          v.setMe { v.me with stall := none })
        { t with core := { t.core with lines := held } }
    else
      ws.foldl (fun u w => ({ u with sid := w.1 }).noLine code w.2.1 w.2.2) t
  { r with sid := s.sid }

/-- FETCH_LINE_FILL. -/
def execFetchLineFill (line : Nat) (bytes : List Byte) (code : Nat) (s : State) : Host.Outcome State Fault Refusal :=
  .next (s.fillLine line bytes code)

/-- SHAPE_CACHE_FILL: one of 32 cached records; a failed fetch is kept as its code until its fault is taken. -/
def execShapeCacheFill (slot : Nat) (bytes : List Byte) (code : Nat) (s : State) : Host.Outcome State Fault Refusal :=
  .next (let c := s.core
    let l := if code = 0 then bytes else [BitVec.ofNat 8 code]
    s.setCore { c with shapes := ((slot, l) :: c.shapes.filter fun x => x.1 != slot).take 32,
                       shaping := c.shaping.filter fun x => x != slot })

/-- SHAPE_CACHE_INVALIDATE: the record leaves the cache; with it the invalidation is acknowledged (R338). -/
def execShapeCacheInvalidate (slot _op : Nat) (s : State) : Host.Outcome State Fault Refusal :=
  .next (s.setCore { s.core with shapes := s.core.shapes.filter fun x => x.1 != slot })

/-! Words written to queues that act. -/

/-- A word written to a queue register by the slot in turn, with the checks of that queue. -/
def State.pushWord (s : State) (d : Reg) (w : DWord) : State :=
  match s.dstCheck d w with
  | .ok => s.writeReg d w
  | .stall => s.stall
  | .fault f => s.raise f

/-- TIMER_ARM. -/
def execTimerArm (t : DWord) (s : State) : Host.Outcome State Fault Refusal := .next (s.pushWord .qtm t)

/-- TIMER_CANCEL. -/
def execTimerCancel (s : State) : Host.Outcome State Fault Refusal := .next (s.pushWord .qtm 0)

/-- QSC_PUSH. -/
def execQscPush (w : DWord) (s : State) : Host.Outcome State Fault Refusal := .next (s.pushWord .qsc w)

/-- QHS_PUSH. -/
def execQhsPush (w : DWord) (s : State) : Host.Outcome State Fault Refusal := .next (s.pushWord .qhs w)

/-! Dispatch (R351, R353). -/

/-- A difference of 48-bit times, read as signed. -/
def signed48 (n : Nat) : Int := if n % 2 ^ 48 < 2 ^ 47 then (n % 2 ^ 48 : Nat) else (n % 2 ^ 48 : Nat) - (2 ^ 48 : Nat)

def noDeadline : Addr := 0xFFFFFFFFFFFF

/-- The deadline part of a key: the time left, when the fibre has a deadline. -/
def State.timeLeft (s : State) (f : Fibre) : Option Int :=
  if f.ctx.dl = noDeadline then none else some (signed48 (f.ctx.dl.toNat + 2 ^ 48 - s.now % 2 ^ 48))

/-- Whether fibre f goes before fibre g in one class: the keys of R351 compared field by field. -/
def State.before (s : State) (f g : Fibre) : Bool :=
  match s.timeLeft f, s.timeLeft g with
  | some a, some b => decide (a < b) || (decide (a = b) && decide (f.stamp < g.stamp))
  | some _, none => true
  | none, some _ => false
  | none, none => decide (f.stamp < g.stamp)

/-- Whether nothing of a fibre but journal entries is outstanding (13 R380): what else is, a fibre itself must take, when it runs. -/
def Fibre.calm (f : Fibre) : Bool :=
  f.qm[0].tags.isEmpty && f.qm[1].tags.isEmpty && f.qam.isEmpty && f.qevPend.isEmpty && f.timers.isEmpty && f.expired.isEmpty &&
    !f.unpopped && !f.xfork && f.args.isEmpty

/-- Whether a fibre of the core in turn is taken for a migration and runs no more (13 R380; log entry 82). -/
def State.migrates (s : State) (e : Nat) (f : Fibre) : Bool :=
  f.calm && f.pend.isEmpty && (match s.mgmt.migrating with
    | some (_, w, _) => w == ⟨s.cid, e⟩
    | none => false)

/-- The READY fibres of the core in turn that a dispatcher may take: none taken for a migration, none that became READY in this cycle or whose swap-out
is not complete (R351), none of a job that is being switched out, none while the module is about to stop its clocks (16 R437). -/
def State.readyFibres (s : State) : List (Nat × Fibre) :=
  s.core.runq.filter fun e =>
    s.mgmt.goal.isNone && e.2.ctx.state == stReady && decide (e.2.readyAt ≤ s.coreCycles) && (s.core.slotOf? e.1).isNone && !s.migrates e.1 e.2 &&
      (match e.2.job.bind s.jobs.get? with
       | some j => j.switching.isNone
       | none => true)

/-- The selection of R351: the highest class that is not empty, its least key. -/
def State.selected? (s : State) : Option (Nat × Fibre) :=
  let l := s.readyFibres
  match (l.map fun e => e.2.ctx.pri).max? with
  | none => none
  | some c =>
    match l.filter fun e => e.2.ctx.pri == c with
    | [] => none
    | x :: t => some (t.foldl (fun (a b : Nat × Fibre) => if s.before b.2 a.2 then b else a) x)

/-- The lowest free slot among 0 to 5: none whose swap-out is still under way (01 R17). -/
def Core.freeSlot? (c : Core) (now : Nat) : Option (Fin 8) :=
  ordinary.find? fun i => c.slots[i].ent.isNone && decide (c.slots[i].ready ≤ now)

/-- Whether a fibre is late at its dispatch (R353): its deadline has passed, and not before it entered READY. -/
def State.isLate (s : State) (f : Fibre) : Bool :=
  match s.timeLeft f with
  | none => false
  | some t => decide (t < 0) && decide (signed48 (f.ctx.dl.toNat + 2 ^ 48 - f.readySince % 2 ^ 48) ≥ 0)

/-- The message slots of a handler's arguments are freed at its dispatch (07 R224), and waiting posts are taken. -/
def State.freeArgs (s : State) (args : List (Nat × Option DWord)) : State :=
  args.foldl (fun (t : State) (a : Nat × Option DWord) =>
    match a.2, t.core.port? a.1 with
    | some _, some p => State.drainPort p.waiting.length ({ t with core := t.core.setPort a.1 { p with held := p.held - 1 } }) a.1
    | _, _ => t) s

/-- LATE is set and a status record of kind 3 is filed. -/
def State.fileLate (s : State) (e : Nat) (f : Fibre) : State :=
  match f.job.bind s.jobs.get? with
  | some j =>
    s.fileStatus s.die j.ownerq (statusWords 3 0 (j.num % 4096) j.die (whoHandle ⟨s.cid, e⟩) s.now (f.ctx.dl.setWidth 64) false)
  | none => s

/-- Fibre e enters a slot: RUNNING, the last-result file zero (01 R19), its arguments in qjn (07 R239), its expired
timers in qtm (01 R26), its liveness count restarted (09 R299); it may issue when its context has been read, in three cycles (01
R17, Table 1-3). -/
def State.swapIn (s : State) (i : Fin 8) (e : Nat) (f : Fibre) : State :=
  let late := s.isLate f
  let ctx := f.ctx.inState stRunning 0
  let ctx := if late then { ctx with status := putBit ctx.status 30 true } else ctx
  let words := f.args.map fun (a : Nat × Option DWord) => (a.2.getD 0, false)
  let g : Fibre := { f with ctx := ctx, qjn := f.qjn ++ words, args := [], live := none, liveSince := s.coreCycles,
                            atPoint := false }
  let m := { Slot.reset with ent := some e, fib := g.flushTimers, ran := s.coreCycles, ready := s.coreCycles + 4 }
  let t := { s with core := { s.core with runq := s.core.runq.erase e, slots := s.core.slots.set i m } }
  let t := t.freeArgs f.args
  if late then t.fileLate e f else t

/-- DISPATCH: one free slot of the core in turn is filled. -/
def execDispatch (s : State) : Host.Outcome State Fault Refusal :=
  .next (match (if s.core.halted || s.core.saved then none else s.core.freeSlot? s.coreCycles), s.selected? with
    | some i, some e => s.swapIn i e.1 e.2
    | _, _ => s)

/-! Displacement (R352). -/

/-- Whether the resident of a slot qualifies: a READY fibre of a higher class after 1,024 cycles, or of the same class
after 65,536. -/
def State.qualifies (s : State) (m : Slot) : Bool :=
  let n := s.coreCycles - m.ran
  m.atBoundary s.coreCycles && s.readyFibres.any fun e =>
    (decide (e.2.ctx.pri > m.fib.ctx.pri) && decide (n ≥ 1024)) || (e.2.ctx.pri == m.fib.ctx.pri && decide (n ≥ 65536))

/-- The resident displaced: of the lowest class, among those the longest resident. -/
def State.displaced? (s : State) : Option (Fin 8) :=
  let l := ordinary.filter fun i => s.qualifies s.core.slots[i]
  let less (a b : Fin 8) : Bool :=
    let x := s.core.slots[a]
    let y := s.core.slots[b]
    decide (x.fib.ctx.pri < y.fib.ctx.pri) || (x.fib.ctx.pri == y.fib.ctx.pri && decide (x.ran < y.ran))
  match l with
  | [] => none
  | i :: t => some (t.foldl (fun a b => if less b a then b else a) i)

/-- DISPLACEMENT. -/
def execDisplacement (s : State) : Host.Outcome State Fault Refusal :=
  .next (match s.displaced? with
    | some i => { ({ s with sid := i }).displace with sid := s.sid }
    | none => s)

/-! Slot 7 (13 R368, R373; 16 R432). -/

/-- Whether slot 7 is free to take work; what its last task paused has resumed (08 R266). -/
def Core.slot7Free (c : Core) : Bool := !c.slots[(7 : Fin 8)].busy && !c.slots[(7 : Fin 8)].paused && !c.halted

/-- The trap delivered next: SECURITY first, else the oldest. -/
def Core.nextTrap? (c : Core) : Option Trap :=
  match c.traps.find? fun t => t.code = security with
  | some t => some t
  | none => c.traps.head?

/-- Whether a trap goes to the debugger (16 R432): a BKPT in a debug mode on a core with DBGBK. -/
def State.toDebugger (s : State) (t : Trap) : Bool := t.code == bkptCode && s.mgmt.dbg != .none && s.core.dbgbk

/-- TRAP_DELIVERY. -/
def execTrapDelivery (s : State) : Host.Outcome State Fault Refusal :=
  .next (match s.core.slot7Free, s.core.nextTrap? with
    | true, some t =>
      let u := { s with core := { s.core with traps := s.core.traps.erase t } }
      (u.takeTrap t (!s.toDebugger t)).sendFrame (u.trapFrame t)
    | _, _ => s)

/-- URGENT_TASK_START: the head task enters slot 7 when no trap waits. -/
def execUrgentTaskStart (s : State) : Host.Outcome State Fault Refusal :=
  .next (match s.core.slot7Free && s.core.traps.isEmpty, s.core.utasks with
    | true, q :: rest =>
      let m := s.core.slots[(7 : Fin 8)]
      let ctx := { m.fib.ctx with p := (Vector.replicate 8 0).set 0 q.2.1, pg := 0, pc := q.1,
                                  status := putBits m.fib.ctx.status 10 3 0 }
      let m := { m with busy := true, fib := { m.fib with ctx := ctx, wait := none }, hints := Hints.reset, group := none,
                        run := none, stall := none, lat := 1, ready := s.coreCycles + 1 }
      { s with core := { s.core with utasks := rest, urgent := some q.2.2, slots := s.core.slots.set 7 m } }
    | _, _ => s)

/-! Envelopes (10 R314). -/

/-- The destination that stands for a die-level agent. -/
def agentDst (a : Fin 18) : Nat :=
  if a.val < 8 then dieDst a.val else if a.val < 16 then serverDst (a.val - 8) else if a.val = 16 then officeDst else hostDst

/-- ENVELOPE_ADMIT: the counts of the receiving agent take the envelope in, and it is acknowledged. -/
def execEnvelopeAdmit (pkt : Nat) (s : State) : Host.Outcome State Fault Refusal :=
  .next (match s.net.find? fun p => p.num == pkt with
    | none => s
    | some p =>
      match p.env, s.admissible p with
      | some e, true =>
        let net := s.net.map fun x => if x.num = pkt then { x with admitted := some s.nextId } else x
        ({ s with agents := s.agents.set e.dst ((s.agents[e.dst]).admits e.src e.dst e.seq), net := net,
                  nextId := s.nextId + 1 }).sendFrom (agentDst e.dst) (agentDst e.src) none [] none
          (.envelopeAcknowledgement e.src e.dst 1)
      | _, _ => s)

/-- CLOCK_UPDATE at an agent: the rows wait for the envelope behind them. -/
def execClockUpdate (agent : Fin 18) (rows : CountRows) (s : State) : Host.Outcome State Fault Refusal :=
  .next { s with agents := s.agents.set agent ((s.agents[agent]).hears rows.src rows.rows) }

/-- ENVELOPE_ACKNOWLEDGEMENT at the sender: envelopes held at 8,192 leave as the count falls. -/
def execEnvelopeAcknowledgement (src dst : Fin 18) (n : Nat) (s : State) : Host.Outcome State Fault Refusal :=
  .next (let a := s.agents[src]
    let left := a.unacked.getD dst.val 0 - n
    let t := { s with agents := s.agents.set src { a with unacked := a.unacked.set dst.val left } }
    t.stampHeld t.net)

/-! Tile traffic and status records. -/

/-- TSVC (14 R386, R388): the pushes and pulls of a subscription's tiles; named by SHIP, or misaligned, it is refused. -/
def execTsvc (q : Req) (s : State) : Host.Outcome State Fault Refusal :=
  .next (if q.origin = 0 ∨ q.va.toNat % 32 ≠ 0 then s.request { q with routine := 23 }
    else s.onCore q.who.core fun t =>
      if bits q.b 0 8 = 0 then t.pushTile (bits q.a 0 3) else t.writeTile (bits q.a 0 3) (bits q.b 8 8))

/-- STATUS_RECORD_FORWARD: the oldest record of a die enters its mailbox whole, once there is room (R353; 15 R422). -/
def execStatusRecordForward (die : Nat) (s : State) : Host.Outcome State Fault Refusal :=
  .next (let d := s.dieOf die
    match d.status with
    | [] => s
    | (box, words) :: rest =>
      if (s.box box).outq.length + words.length > 256 then s
      else
        let ws := match words with
          | [] => []
          | w :: t => putBit w 28 d.statusLost :: t
        (s.setDie die { d with status := rest, statusLost := false }).outPush box 2 (ws.map fun w => (w, Body.word w)))

end Sys2Proof.Machine
end

