-- ==== Sys2Proof/Machine/System.lean ====
section
/-! DEFINITION. System registers, TRAP, BKPT, ERET, RFWIN, SYNCID, PRGRD and PRGWR (09 R286 to R296). -/

namespace Sys2Proof.Machine

/-! The register map (Tables 9-1 to 9-3). -/

/-- Whether a register may be read in slots 0 to 6. -/
def userRead : SysReg → Bool
  | .captok | .trapbase | .utask | .utarg | .dbgctl | .cause | .epc | .epg | .eaddr | .eidx | .ejrn => false
  | _ => true

/-- Whether a register may be written in slots 0 to 6, and in slot 7. -/
def userWrite : SysReg → Bool
  | .flags | .frm | .pri | .wlim | .dln | .mxexc | .bfmt _ => true
  | _ => false

def superWrite : SysReg → Bool
  | .core | .time | .travel | .dbgctl | .sig _ => false
  | _ => true

/-- The identity word of CORE. -/
def State.coreWord (s : State) : DWord :=
  BitVec.ofNat 64 (s.cid % 2304 + s.cid / 2304 * 2 ^ 12 + s.sid.val * 2 ^ 16 + coreX s.cid * 2 ^ 32 + coreY s.cid * 2 ^ 40)

/-- TRAVEL: 4, 2, 16, 20, 64. -/
def travelWord : DWord := BitVec.ofNat 64 (4 + 2 * 2 ^ 8 + 16 * 2 ^ 16 + 20 * 2 ^ 24 + 64 * 2 ^ 32)

/-- Whether a journal entry is kept for its handler (05 R158). -/
def Core.kept (c : Core) (j : Nat) : Bool := c.journal.any fun e => e.idx == j && e.cause.isSome

/-- The value of a register; TIME apart. -/
def State.readSys (s : State) (r : SysReg) : DWord :=
  let c := s.core
  match r with
  | .status => s.ctx.status.setWidth 64
  | .flags => BitVec.ofNat 64 s.ctx.flags
  | .frm => BitVec.ofNat 64 s.ctx.frm
  | .pri => BitVec.ofNat 64 s.ctx.pri
  | .wlim => BitVec.ofNat 64 (bits s.ctx.status 20 10)
  | .dln => s.ctx.dl.setWidth 64
  | .core => s.coreWord
  | .time => BitVec.ofNat 64 s.now
  | .tags => c.tags
  | .stagecnt => c.stagecnt
  | .mxexc => c.mxexc
  | .captok => c.captok
  | .part0 => c.part0
  | .part1 => c.part1
  | .trapbase => c.trapbase
  | .livetab => c.livetab
  | .travel => travelWord
  | .utask => BitVec.ofNat 64 (c.utasks.length + c.urgent.isSome.toNat * 16)
  | .utarg => c.utarg
  | .dlprobe => (s.dies[Fin.ofNat 8 s.die]).dlprobe.setWidth 64
  | .dbgctl => if c.dbgbk then 1 else 0
  | .cause => c.cause
  | .epc => c.epc
  | .epg => c.epg
  | .eaddr => c.eaddr
  | .eidx => c.eidx
  | .ejrn => BitVec.ofNat 64 (bits c.ejrn 0 5 + (c.kept (bits c.ejrn 0 5)).toNat * 32)
  | .sig i => c.sig[i]
  | .bfmt i => (c.bfmt[i]).setWidth 64

/-- MFSR. -/
def execMfsr (d : Reg) (sr : BitVec 12) (s : State) : Host.Outcome State Fault Refusal :=
  s.issue ⟨[], some d, false, false⟩ fun _ s' =>
    match SysReg.ofNum sr with
    | none => s.raise (flt reservedField)
    | some r =>
      if s.sid.val ≠ 7 ∧ userRead r = false then s.raise (fltAt privilege (sr.setWidth 64))
      else if r = .time then s.readTime s' d
      else s.done s' d (s.readSys r)

/-! Writes (R287). -/

/-- Whether a value sets a reserved bit or code of a register. -/
def sysReserved (r : SysReg) (v : DWord) : Bool :=
  match r with
  | .status => bits v 31 33 != 0 || decide (bits v 0 3 > 4) || decide (bits v 3 4 > 8) || decide (bits v 10 3 > 4)
  | .flags => bits v 7 57 != 0
  | .frm => decide (v.toNat > 4)
  | .pri => bits v 3 61 != 0
  | .wlim => bits v 10 54 != 0
  | .dln => bits v 48 16 != 0
  | .mxexc => bits v 48 16 != 0
  | .part0 => bits v 33 31 != 0 || decide (bits v 16 17 > 65536) || decide (bits v 16 17 ≤ bits v 0 16)
  | .part1 =>
    bits v 32 32 != 0 || decide (bits v 0 8 + bits v 16 8 + 1 > 192) || decide (bits v 8 8 + bits v 24 8 + 1 > 96)
  | .trapbase => bits v 0 12 != 0 || bits v 48 16 != 0
  | .livetab => bits v 32 32 != 0
  | .cause => bits v 7 1 != 0 || bits v 16 16 != 0 || bits v 55 1 != 0 || bits v 59 4 != 0
  | .epc => bits v 48 16 != 0
  | .bfmt _ => decide (bits v 4 3 > 4) || bits v 8 8 != 0 || bits v 16 3 != 0 || bits v 29 35 != 0
  | _ => false

/-- A status word written: the RW fields taken, the flags and LATE cleared where the value has ones (Table 1-2). -/
def statusWritten (old : Word) (v : DWord) : Word :=
  let take : Word := v.setWidth 32 &&& 0x3FF01F80#32
  let keep : Word := old &&& 0x8000007F#32
  let fl : Word := old &&& 0x400FE000#32 &&& ~~~(v.setWidth 32)
  keep ||| take ||| fl

/-- The schedules whose field of STAGECNT a write changes: their exhaustion is cleared and their entry fetched. -/
def State.setStageCnt (s : State) (v : DWord) : State :=
  let ks := (List.range 8).filter fun k => bits s.core.stagecnt (8 * k) 8 != bits v (8 * k) 8
  let ex := ks.foldl (fun x k => putBit x k false) s.core.exhausted
  ks.foldl (fun t k => t.fetchEntry k) { s with core := { s.core with stagecnt := v, exhausted := ex } }

/-- A permitted value written to a register. -/
def State.writeSys (s : State) (r : SysReg) (v : DWord) : State :=
  let c := s.core
  match r with
  | .status => s.setCtx { s.ctx with status := statusWritten s.ctx.status v }
  | .flags => s.setCtx { s.ctx with status := s.ctx.status &&& ~~~(v.setWidth 32 <<< 13) }
  | .frm => s.setCtx { s.ctx with status := putBits s.ctx.status 10 3 v.toNat }
  | .pri => s.setCtx { s.ctx with status := putBits s.ctx.status 7 3 v.toNat }
  | .wlim => s.setCtx { s.ctx with status := putBits s.ctx.status 20 10 v.toNat }
  | .dln => s.setCtx { s.ctx with dl := v.setWidth 48 }
  | .tags => (s.setCore { c with tags := v }).tagsSet (v &&& ~~~c.tags)
  | .stagecnt => s.setStageCnt v
  | .mxexc => s.setCore { c with mxexc := c.mxexc &&& ~~~v }
  | .captok => s.setCore { c with captok := v }
  | .part0 => s.setCore { c with part0 := v }
  | .part1 => s.setCore { c with part1 := v }
  | .trapbase => s.setCore { c with trapbase := v }
  | .livetab => s.setCore { c with livetab := v }
  | .utarg => s.setCore { c with utarg := v }
  | .cause => s.setCore { c with cause := v }
  | .epc => s.setCore { c with epc := v &&& ~~~3#64 }
  | .epg => s.setCore { c with epg := v }
  | .eaddr => s.setCore { c with eaddr := v }
  | .eidx => s.setCore { c with eidx := v }
  | .bfmt i => s.setCore { c with bfmt := c.bfmt.set i (v.setWidth 32) }
  | .core | .time | .travel | .utask | .dlprobe | .dbgctl | .ejrn | .sig _ => s

/-- The fault of a write that its number alone decides: an unassigned one, permission (02 R52; R286). -/
def State.numberFault (s : State) (sr : BitVec 12) : Option Flt :=
  match SysReg.ofNum sr with
  | none => some (flt reservedField)
  | some r =>
    if s.sid.val ≠ 7 ∧ userWrite r = false then some (fltAt privilege (sr.setWidth 64))
    else if s.sid.val = 7 ∧ superWrite r = false then some (flt reservedField)
    else none

/-- An MTSR behind the check of its number, which goes before any operand is read. -/
def State.mtsr (s : State) (sr : BitVec 12) (a : Reg) (k : DWord → State → State) : Host.Outcome State Fault Refusal :=
  match s.numberFault sr with
  | some f => .next (s.raise f)
  | none => s.issue ⟨[a], none, false, false⟩ fun v s' => k (arg v 0) s'

/-- The fault of a written value: reserved bits and codes, the priority rule (R287). -/
def State.writeFault (s : State) (sr : BitVec 12) (r : SysReg) (v : DWord) : Option Flt :=
  if sysReserved r v then some (flt reservedField)
  else
    let p := match r with
      | .pri => bits v 0 3
      | .status => bits v 7 3
      | _ => 0
    if s.sid.val ≠ 7 ∧ p > s.launchPri then some (fltAt privilege (sr.setWidth 64)) else none

/-- MTSR but for the registers that are queues, posts or die registers. -/
def execMtsr (sr : BitVec 12) (a : Reg) (s : State) : Host.Outcome State Fault Refusal :=
  s.mtsr sr a fun v s' =>
    match SysReg.ofNum sr with
    | none => s.raise (flt reservedField)
    | some r =>
      match s.writeFault sr r v with
      | some f => s.raise f
      | none => (s'.writeSys r v).advance

/-- MTSR of UTASK: a task joins the queue with UTARG (13 R373). -/
def execMtsrUtask (a : Reg) (s : State) : Host.Outcome State Fault Refusal :=
  s.mtsr 0x011 a fun x s' =>
    if bits x 48 16 ≠ 0 ∨ bits x 0 2 ≠ 0 ∨ s.core.utasks.length ≥ 8 then s.raise (flt reservedField)
    else
      let c := s'.core
      ({ s' with core := { c with utasks := c.utasks ++ [(x.setWidth 48, c.utarg, none)], utarg := 0 } }).advance

/-- Every fibre of a core loses the probe that has not left for its wait (06 R220). -/
def Core.stopProbes (c : Core) : Core :=
  let stop (f : Fibre) : Fibre := { f with wait := f.wait.map fun w => { w with probed := true } }
  { c with slots := c.slots.map fun m => { m with fib := stop m.fib }, runq := c.runq.map fun e => (e.1, stop e.2) }

/-- A change of every core of a die that is not at reset. -/
def State.eachCoreOf (s : State) (die : Nat) (f : Core → Core) : State :=
  { s with core := if s.die = die then f s.core else s.core,
           others := s.others.map fun c => if c.1 / 2304 = die then (c.1, f c.2) else c }

/-- MTSR of DLPROBE, the die's register: 0 also stops the probes of waits in progress (06 R220). -/
def execMtsrDlprobe (a : Reg) (s : State) : Host.Outcome State Fault Refusal :=
  s.mtsr 0x013 a fun x s' =>
    if bits x 32 32 ≠ 0 then s.raise (flt reservedField)
    else
      let d := s'.dies[Fin.ofNat 8 s.die]
      let t := { s' with dies := s'.dies.set (Fin.ofNat 8 s.die) { d with dlprobe := x.setWidth 32 } }
      (if x = 0 then t.eachCoreOf s.die Core.stopProbes else t).advance

/-- MTSR of EJRN: ENTRY is written; RETIRE frees a kept entry (R293). -/
def execMtsrEjrn (a : Reg) (s : State) : Host.Outcome State Fault Refusal :=
  s.mtsr 0x025 a fun x s' =>
    let j := bits x 0 5
    if bits x 6 57 ≠ 0 ∨ (x.getLsbD 63 = true ∧ s.core.kept j = false) then s.raise (flt reservedField)
    else
      let c := { s'.core with ejrn := BitVec.ofNat 64 j }
      (s'.setCore (if x.getLsbD 63 then c.freeJournal j else c)).advance

/-! Traps (R290, R292). -/

/-- TRAP and BKPT: the instruction completes and then raises its fault, EPC after it. -/
def State.trapAfter (s : State) (code : Nat) (ca : BitVec 8) : State :=
  let t := s.advance
  t.faultAt { flt code with arg := ca } t.ctx.pc t.ctx.pg

/-- TRAP. -/
def execTrap (code : BitVec 8) (s : State) : Host.Outcome State Fault Refusal :=
  s.issue ⟨[], none, false, false⟩ fun _ s' => s'.trapAfter trapCode code

/-- BKPT. -/
def execBkpt (code : BitVec 8) (s : State) : Host.Outcome State Fault Refusal :=
  s.issue ⟨[], none, false, false⟩ fun _ s' => s'.trapAfter bkptCode code

/-- The end of an urgent task. -/
def State.endUrgent (s : State) : State := s.advance.endSlot7

/-- ERET: the return from the trap being handled, behind every access to its frame, or the end of the urgent task. -/
def execEret (s : State) : Host.Outcome State Fault Refusal :=
  s.issue ⟨[], none, true, false⟩ fun _ s' =>
    match s.core.handling with
    | some t => if t.ent.isSome && !s.core.cause.getLsbD 63 && s.frameBusy then s.stall else s'.returnFromTrap t
    | none => s'.endUrgent

/-! Refresh windows and fetch synchronisation (R294, R295). -/

/-- RFWIN: a notice to each named stack. -/
def execRfwin (a : Reg) (s : State) : Host.Outcome State Fault Refusal :=
  s.issue ⟨[a], none, true, false⟩ fun v s' =>
    let x := arg v 0
    if bits x 24 40 ≠ 0 then s.raise (flt reservedField)
    else
      let ks : List (Fin 8) :=
        if bits x 16 8 = 0 then [Fin.ofNat 8 s.die] else ([0, 1, 2, 3, 4, 5, 6, 7] : List (Fin 8)).filter fun k => x.getLsbD (16 + k.val)
      ks.foldl (fun t k => t.send (serverDst k.val) (.rfwinNotice k (x.setWidth 16))) s'.advance

/-- Whether an event brings a line of code. -/
def isFill : Ev → Bool
  | .fetchLineFill _ _ _ => true
  | _ => false

/-- The fetch buffer of a core is invalid, with the line each slot issues from and the LEND it has read (11 R320). -/
def Core.dropLines (c : Core) : Core :=
  { c with lines := [], fetching := [], slots := c.slots.map fun m => { m with line := none, lend := none } }

/-- SYNCID: as FENCE.core, then the fetch buffer is invalid; a line on its way is fetched again. -/
def execSyncid (s : State) : Host.Outcome State Fault Refusal :=
  s.issue ⟨[], none, false, false⟩ fun _ s' =>
    if !(s.fenced .core).isEmpty then s.stall
    else
      let t := s'.advance
      { t with core := t.core.dropLines }.cull fun p => isFill p.ev && p.dst == s.cid

/-! The progress register (R296). -/

/-- PRGRD. -/
def execPrgrd (d : Reg) (s : State) : Host.Outcome State Fault Refusal :=
  s.compute [] d fun _ => if s.sid.val = 7 ∧ s.core.handling.isSome then s.core.epg else s.ctx.pg

/-- PRGWR. -/
def execPrgwr (a : Reg) (s : State) : Host.Outcome State Fault Refusal :=
  s.issue ⟨[a], none, true, false⟩ fun v s' =>
    if s.core.handling.isSome then ({ s' with core := { s'.core with epg := arg v 0 } }).advance
    else (s'.setCtx { s'.ctx with pg := arg v 0 }).advance

end Sys2Proof.Machine
end

