-- ==== Sys2Proof/Machine/Launch.lean ====
section
/-! DEFINITION. Launches: admission (12 R343 to R345), validation and start (R340 to R342, R346 to R348), completion and
reclamation (R354), the reproducibility signature and the completion block (R361; 16 R431). -/

namespace Sys2Proof.Machine

/-! Reading the record and its tables. -/

/-- The bytes of a table: none when a page fails translation or a granule is uncorrectable (Table 12-3, code 9); a granule of a
tolerant page takes its fill pattern (14 R396). -/
def State.tableBytes (s : State) (va n : Nat) : Option (List Byte) :=
  if va < 0x100000000000 ∨ va + n > 0x200000000000 then none else s.vBytes va n

/-- A launch record (Table 12-1), as its fields. -/
structure Record where
  bytes : List Byte
  deriving DecidableEq, Repr

/-- n bytes of a record at an offset, as a number. -/
def Record.at (r : Record) (o n : Nat) : Nat := leNat ((r.bytes.drop o).take n)

def Record.width (r : Record) (k : Nat) : Nat := r.at 8 8 / 2 ^ (7 * k) % 128
def Record.widths (r : Record) : List Nat := (List.range 6).map r.width
def Record.countm1 (r : Record) (k : Nat) : Nat := r.at (16 + 8 * k) 8
def Record.counts (r : Record) : List (Nat × Nat) := (List.range 6).map fun k => (r.width k, r.countm1 k + 1)
def Record.ownerq (r : Record) : Nat := r.at 328 1
def Record.pri (r : Record) : Nat := r.at 1 1 / 16 % 8
def Record.p (r : Record) : Nat := (r.at 66 1 + 1) * (r.at 67 1 + 1)

/-- Code 1: the version, a reserved field, a reserved code. -/
def Record.badFields (r : Record) : Bool :=
  r.at 0 1 != 1 || decide (r.at 1 1 ≥ 128) || r.at 1 1 / 4 % 4 == 3 || r.at 2 2 != 0 || decide (r.at 4 4 ≥ 1024) ||
    decide (r.at 8 8 ≥ 2 ^ 42) || r.at 78 2 != 0 || r.at 164 4 != 0 || r.at 329 7 != 0 || r.at 344 40 != 0 ||
    ((List.range 8).any fun k => r.at (214 + 16 * k) 2 != 0) || r.at 336 8 % 64 != 0 ||
    ((List.range 8).any fun k => sysReserved (.bfmt (Fin.ofNat 8 k)) (BitVec.ofNat 64 (r.at (168 + 4 * k) 4)))

/-- Code 2: the widths and counts. -/
def Record.badCounts (r : Record) : Bool :=
  (r.widths.any fun w => decide (w > 64)) || decide (r.widths.sum > 64) ||
    r.counts.any fun c => decide (c.2 > 2 ^ c.1)

/-- Code 3: the partition. -/
def Record.badPart (r : Record) : Bool := decide (r.at 64 1 + r.at 66 1 ≥ 192) || decide (r.at 65 1 + r.at 67 1 ≥ 96)

/-- Code 8: schedules, shape table, data image, events. -/
def Record.badImages (r : Record) : Bool :=
  decide (r.at 68 2 + r.at 70 2 > 65536) || decide (r.at 148 4 > 65536) || decide (r.at 160 4 > 2 ^ 20) ||
    (decide (r.at 160 4 > 0) && (!inDram (r.at 152 8) || !inDram (r.at 152 8 + 32 * r.at 160 4 - 1))) ||
    (decide (r.at 148 4 > 0) && (!inDram (r.at 136 8) || !inDram (r.at 136 8 + (r.p - 1) * r.at 144 4 + r.at 148 4 - 1))) ||
    (List.range 8).any fun k =>
      let n := r.at (212 + 16 * k) 2
      decide (n > 256) || (decide (n > 0) && (!inDram (r.at (200 + 16 * k) 8) ||
        !inDram (r.at (200 + 16 * k) 8 + (r.p - 1) * r.at (208 + 16 * k) 4 + 24 * n - 1)))

/-- The number of fibres. -/
def Record.fibres (r : Record) : Nat := (r.counts.map fun c => c.2).foldl (fun a b => a * b) 1

/-- The identifiers of a launch, ascending (01 R32, R33). -/
def idsOf : List (Nat × Nat) → List Nat
  | [] => [0]
  | (w, c) :: t => (idsOf t).flatMap fun h => (List.range c).map fun v => v + h * 2 ^ w

/-- Field k of an identifier. -/
def recordField (ws : List Nat) (k id : Nat) : Nat := id / 2 ^ (ws.take k).sum % 2 ^ ws.getD k 0

/-- Whether an identifier lies within the declared counts. -/
def Record.inCounts (r : Record) (id : Nat) : Bool :=
  decide (id < 2 ^ r.widths.sum) && (List.range 6).all fun k => decide (recordField r.widths k id ≤ r.countm1 k)

/-- The entries of a table. -/
def State.tableOf (s : State) (r : Record) (at_ size num : Nat) : Option (List (List Byte)) :=
  let n := r.at num 2
  (s.tableBytes (r.at at_ 8) (size * n)).map fun l => chunks size n l

/-- The four tables of a record: entries, bindings, sinks, gangs. -/
structure Tables where
  ents : List (List Byte)
  binds : List (List Byte)
  sinks : List (List Byte)
  gangs : List (List Byte)
  deriving DecidableEq, Repr

def fieldOf (l : List Byte) (o n : Nat) : Nat := leNat ((l.drop o).take n)

/-- Whether an entry matches an identifier. -/
def entMatches (r : Record) (e : List Byte) (id : Nat) : Bool :=
  fieldOf e 6 1 == 0xFF || recordField r.widths (fieldOf e 6 1) id == fieldOf e 8 8

/-- Code 4: the entry table. -/
def badEntries (r : Record) (t : Tables) : Bool :=
  t.ents.isEmpty ||
    (t.ents.any fun e => fieldOf e 0 6 % 4 != 0 || fieldOf e 7 1 != 0 || !(fieldOf e 6 1 == 0xFF || decide (fieldOf e 6 1 < 6))) ||
    (idsOf r.counts).any fun id => (t.ents.filter fun e => entMatches r e id).length != 1

/-- Whether a binding is of two fibres, and whether its external party sends. -/
def bindKind (b : List Byte) : Nat := fieldOf b 18 1 % 8
def bindParty (b : List Byte) : Bool := fieldOf b 18 1 / 8 % 2 == 0

/-- The identifiers and endpoints that a binding takes inside: sender and receiver. -/
def bindEnds (b : List Byte) : List (Nat × Nat) :=
  let sd := (fieldOf b 0 8, fieldOf b 16 1)
  let rc := (fieldOf b 8 8, fieldOf b 17 1)
  if bindKind b = 0 then [sd, rc] else if bindParty b then [rc] else [sd]

/-- The reserved fields and codes of a binding. -/
def bindReserved (b : List Byte) : Bool :=
  decide (fieldOf b 16 1 > 63) || decide (fieldOf b 17 1 > 63) || decide (fieldOf b 18 1 > 15) || bindKind b == 1 ||
    decide (bindKind b > 5) || decide (fieldOf b 19 1 > 7) || fieldOf b 19 1 % 4 == 3 || decide (fieldOf b 20 1 > 15) ||
    fieldOf b 21 1 != 0 || decide (fieldOf b 24 2 ≥ 2 ^ 14) || fieldOf b 29 3 != 0

/-! Placement (R347, R348). -/

/-- The place of a fibre: the core its hash names, or the next with a free entry; used holds the entries taken. -/
def placeFrom (p : Nat) (used : Tbl Nat) : Nat → Nat → Nat
  | 0, i => i % p
  | n + 1, i => if (used.get? (i % p)).getD 0 < 256 then i % p else placeFrom p used n (i + 1)

/-- The partition index and run-queue entry of every fibre, in ascending order of identifiers. -/
def placeAll (p : Nat) : List Nat → Tbl Nat → List (Nat × Nat × Nat)
  | [], _ => []
  | id :: t, used =>
    let i := placeFrom p used p (placeHash (BitVec.ofNat 64 id) p)
    let n := (used.get? i).getD 0
    (id, i, n) :: placeAll p t (used.set i (n + 1))

/-- Where a fibre stands: core and entry. -/
def whereIs (j : Job) (places : List (Nat × Nat × Nat)) (id : Nat) : Who :=
  match List.lookup id places with
  | some (i, n) => ⟨j.core i, n⟩
  | none => ⟨j.core 0, 0⟩

/-! Validation (R342). -/

/-- The entry a launch writes for the inside end of a binding: the sending end, or the receiving one. -/
def bindEntry (j : Job) (places : List (Nat × Nat × Nat)) (b : List Byte) (recv : Bool) : Endpoint :=
  let me := whereIs j places (if recv then fieldOf b 8 8 else fieldOf b 0 8)
  let peer := whereIs j places (if recv then fieldOf b 0 8 else fieldOf b 8 8)
  let inside := bindKind b == 0
  let x : Endpoint :=
    { Endpoint.reset with
      valid := true, dir := recv, type := BitVec.ofNat 2 (fieldOf b 19 1), mode := fieldOf b 19 1 / 4 % 2 == 1,
      nslotm1 := BitVec.ofNat 4 (fieldOf b 20 1), pkind := BitVec.ofNat 3 (bindKind b), owner := BitVec.ofNat 8 me.ent,
      pep := if inside then BitVec.ofNat 6 (if recv then fieldOf b 16 1 else fieldOf b 17 1) else 0,
      pdie := if inside then BitVec.ofNat 3 (peer.core / 2304) else 0,
      pcore := if inside then BitVec.ofNat 12 (peer.core % 2304) else 0,
      buf := if recv then BitVec.ofNat 16 (fieldOf b 22 2) else 0, slotb := BitVec.ofNat 14 (fieldOf b 24 2),
      ext := if inside then 0 else BitVec.ofNat 24 (fieldOf b 26 3) }
  x.fresh

/-- The ends of a binding that a launch writes: core, endpoint index, entry. -/
def bindWrites (j : Job) (places : List (Nat × Nat × Nat)) (b : List Byte) : List (Nat × Nat × Endpoint) :=
  let sd := ((whereIs j places (fieldOf b 0 8)).core, fieldOf b 16 1, bindEntry j places b false)
  let rc := ((whereIs j places (fieldOf b 8 8)).core, fieldOf b 17 1, bindEntry j places b true)
  if bindKind b = 0 then [sd, rc] else if bindParty b then [rc] else [sd]

/-- Code 5: the bindings; the limits of Table 6-6 and of a buffer hold as for BIND. -/
def State.badBinds (s : State) (r : Record) (j : Job) (t : Tables) : Bool :=
  let places := placeAll j.count (idsOf r.counts) []
  let ws := t.binds.flatMap (bindWrites j places)
  (t.binds.any fun b => bindReserved b || (bindEnds b).any fun e => !r.inCounts e.1) ||
    !(ws.map fun w => (w.1, w.2.1)).Nodup ||
    ws.any fun w => badSlotb w.2.2 || s.extRefuses w.1 w.2.1 w.2.2 ||
      (({ s with core := { s.core with part0 := 0x100000000 } }).bufferFault w.2.2).isSome

/-- Code 6: sinks and gangs. -/
def badSinks (r : Record) (t : Tables) : Bool :=
  t.sinks.isEmpty || decide (t.gangs.length > 256) ||
    (t.sinks.any fun k => !r.inCounts (fieldOf k 0 8) || decide (fieldOf k 8 1 > 63) || fieldOf k 9 7 != 0) ||
    (t.gangs.any fun g => fieldOf g 1 7 != 0 || !r.inCounts (fieldOf g 8 8) || !r.inCounts (fieldOf g 16 8)) ||
    !(t.gangs.map fun g => fieldOf g 0 1).Nodup

/-- The job of a record at its start: nothing sent, no sinks yet. -/
def newJob (r : Record) (die pool : Nat) (record : Addr) (now : Nat) : Job :=
  { num := pool % 4096 + die % 8 * 2 ^ 12 + now % 2 ^ 48 * 2 ^ 16, die := die, pool := pool, record := record,
    x0 := r.at 64 1, y0 := r.at 65 1, wm1 := r.at 66 1, hm1 := r.at 67 1, widths := r.widths,
    det := r.at 1 1 % 2 == 1, orf := BitVec.ofNat 8 (r.at 1 1 / 2 % 2), recm := r.at 1 1 / 4 % 4, pri := r.pri,
    evbase := r.at 68 2, evcount := r.at 70 2, codebase := r.at 120 8, codelen := r.at 128 8, shapebase := r.at 152 8,
    shapecnt := r.at 160 4,
    sched := (List.range 8).map fun k => (r.at (200 + 16 * k) 8, r.at (208 + 16 * k) 4, r.at (212 + 16 * k) 2),
    ownerq := r.ownerq, cpladdr := BitVec.ofNat 48 (r.at 336 8), sinks := [], gangs := [], sent := Vector.replicate 8 0,
    consumed := Vector.replicate 8 0, subs := 0, coll := 0, rech := 0, start := now, faulted := false, switching := none,
    switched := none, saved := [], maxDbg := 0 }

/-- The tables of a record. -/
def State.tables? (s : State) (r : Record) : Option Tables :=
  match s.tableOf r 88 16 80, s.tableOf r 96 32 82, s.tableOf r 104 16 84, s.tableOf r 112 24 86 with
  | some e, some b, some k, some g => if [88, 96, 104, 112].all fun o => r.at o 8 % 8 == 0 then some ⟨e, b, k, g⟩ else none
  | _, _, _, _ => none

/-- The data image of core i. -/
def State.dataImage (s : State) (r : Record) (i : Nat) : Option (List Byte) :=
  if r.at 148 4 = 0 then some [] else s.tableBytes (r.at 136 8 + i * r.at 144 4) (r.at 148 4)

/-- Validation: the rejection code, or the tables. -/
def State.validate (s : State) (r : Record) (die pool : Nat) (record : Addr) : Except Nat Tables :=
  let j := newJob r die pool record s.now
  if r.badFields then .error 1
  else if r.badCounts then .error 2
  else if r.badPart then .error 3
  else if r.fibres > 256 * r.p then .error 7
  else if r.badImages then .error 8
  else
    match s.tables? r with
    | none => .error 9
    | some t =>
      if badEntries r t then .error 4
      else if s.badBinds r j t then .error 5
      else if badSinks r t then .error 6
      else if (s.tableBytes (r.at 120 8) (r.at 128 8)).isNone || (List.range r.p).any fun i => (s.dataImage r i).isNone then .error 9
      else .ok t

/-! The signature (R361; 16 R431). -/

def hashBytes (h : BitVec 256) : List Byte := leBytes h.toNat 32

/-- RECH: the record, its tables, the code image and every core's data image. -/
def State.rech (s : State) (r : Record) (t : Tables) : BitVec 256 :=
  Config.shake256 (r.bytes ++ t.ents.flatten ++ t.binds.flatten ++ t.sinks.flatten ++ t.gangs.flatten ++
    ((s.tableBytes (r.at 120 8) (r.at 128 8)).getD []) ++ (List.range r.p).flatMap fun i => (s.dataImage r i).getD [])

/-- ROUTH: the loaded routines in ascending number. -/
def State.routh (s : State) : BitVec 256 :=
  Config.shake256 (s.routines.flatMap fun x => BitVec.ofNat 8 x.1 :: x.2.image)

/-- SIG of a job. -/
def State.sigOf (s : State) (j : Job) : BitVec 256 :=
  let shape := Config.shake256 (leBytes j.wm1 2 ++ leBytes j.hm1 2)
  Config.shake256 ((1 : Byte) :: hashBytes s.mgmt.fwh ++ hashBytes shape ++ hashBytes j.rech ++ hashBytes s.routh ++
    hashBytes j.coll ++ [j.orf])

def secCode : Sec → Nat
  | .blank => 0
  | .provisioned => 1
  | .locked => 2
  | .retired => 3

def dbgCode : Dbg → Nat
  | .none => 0
  | .owner => 1
  | .vendor => 2

/-- A completion block (16 Table 16-3), signed over its bytes 0 to 79. -/
def State.completionBlock (s : State) (sig : BitVec 256) (orf : Byte) (dbg : Nat) (record : DWord) (subs : Nat) : List Byte :=
  let head (n : Nat) : List Byte :=
    hashBytes sig ++ [orf, BitVec.ofNat 8 (secCode s.mgmt.sec + dbg * 4)] ++ leBytes n 2 ++ List.replicate 4 0 ++
      leBytes record.toNat 8 ++ hashBytes Config.mid
  let sg := (Config.falconSign s.mgmt.keyStore (head 0)).take 1280
  head sg.length ++ leBytes subs 8 ++ List.replicate 40 0 ++ sg ++ List.replicate (1280 - sg.length) 0

/-! Start (R346). -/

/-- The scratchpad of a core with an image at offset 0 and zero after it. -/
def State.loadPad (s : State) (core : Nat) (img : List Byte) : State :=
  let lo := spHome core 0
  { s with mem := memPut (s.mem.filter fun c => !(decide (lo ≤ c.1) && decide (c.1 < lo + 65536))) lo img }

/-- The context of a launched fibre (Table 12-5). -/
def launchCtx (r : Record) (id entry start : Nat) : Ctx :=
  { p := Vector.replicate 8 0, pg := 0, id := BitVec.ofNat 64 id, pc := BitVec.ofNat 48 entry,
    dl := if r.at 72 6 = 2 ^ 48 - 1 then noDeadline else BitVec.ofNat 48 (start + r.at 72 6),
    status := BitVec.ofNat 32 (stReady + r.pri * 2 ^ 7 + r.at 4 1 * 2 ^ 20 + r.at 5 1 % 4 * 2 ^ 28) }

/-- A core of the rectangle as the launcher loads it, without fibres. -/
def loadedCore (r : Record) (num : Nat) (sig : BitVec 256) (c : Core) : Core :=
  { c with
    part0 := 0x100000000
    part1 := BitVec.ofNat 64 (r.at 64 1 + r.at 65 1 * 2 ^ 8 + r.at 66 1 * 2 ^ 16 + r.at 67 1 * 2 ^ 24)
    bfmt := Vector.ofFn fun k => BitVec.ofNat 32 (r.at (168 + 4 * k.val) 4)
    full := [], poison := [], s := Vector.replicate 32 0, v := Vector.replicate 16 0, tags := 0, stagecnt := 0, exhausted := 0
    mxexc := 0, lastfire := Vector.replicate 8 15, ports := [], rows := [], active := Plane.reset, shadow := Plane.reset
    keeper := Vector.replicate 256 127, endpoints := [], lines := [], fetching := [], shapes := [], shaping := []
    staged := [], runq := [], job := some num, saved := false, saving := none
    sig := Vector.ofFn fun k => BitVec.ofNat 64 (sig.toNat / 2 ^ (64 * k.val)) }

/-- The fibres of a launch join their cores. -/
def State.addFibre (s : State) (r : Record) (t : Tables) (j : Job) (x : Nat × Nat × Nat) : State :=
  let entry := match t.ents.find? fun e => entMatches r e x.1 with
    | some e => fieldOf e 0 6
    | none => 0
  let gangs := (t.gangs.filter fun g => decide (fieldOf g 8 8 ≤ x.1) && decide (x.1 ≤ fieldOf g 16 8)).map fun g => fieldOf g 0 1
  let f : Fibre := { Fibre.reset with ctx := launchCtx r x.1 entry j.start, job := some j.num, gangs := gangs }
  s.onCore (j.core x.2.1) fun u => ({ u with core := { u.core with runq := u.core.runq.set x.2.2 f } }).makeReady x.2.2

/-- The sinks and gangs of a job, with its fibres placed. -/
def jobParts (r : Record) (t : Tables) (j : Job) : Job :=
  let places := placeAll j.count (idsOf r.counts) []
  { j with
    sinks := t.sinks.map fun k => ((whereIs j places (fieldOf k 0 8)).core, fieldOf k 8 1, false)
    gangs := t.gangs.map fun g =>
      { num := fieldOf g 0 1, first := BitVec.ofNat 64 (fieldOf g 8 8), last := BitVec.ofNat 64 (fieldOf g 16 8), arrived := [],
        members := (places.filter fun x => decide (fieldOf g 8 8 ≤ x.1) && decide (x.1 ≤ fieldOf g 16 8)).map fun x =>
          ⟨j.core x.2.1, x.2.2⟩ } }

/-- The pool of a die without an entry. -/
def State.freePool (s : State) (die pool : Nat) : State :=
  let d := s.dieOf die
  s.setDie die { d with pool := d.pool.filter fun p => p.idx != pool }

/-! Frequency steps and gangs (16 R435; 12 R358). -/

/-- Islands take a step; the cycles their clocks have counted stand (00 R1). -/
def State.setSteps (s : State) (g : List Nat) (n : Nat) : State :=
  let m := s.mgmt
  let g := g.filter fun i => decide (i < islandCount) && s.stepOf i != n
  { s with mgmt := { m with steps := g.foldl (fun t i => if n = 0 then Tbl.erase t i else t.set i n) m.steps,
                            counts := g.foldl (fun t i => t.set i (s.cycle, s.islandSixteenths i)) m.counts } }

/-- Whether a member of a gang stands at its place: not ended, and its job not switched out. -/
def State.present (s : State) (job gang : Nat) (w : Who) : Bool :=
  match (s.coreAt w.core).fibre? w.ent with
  | some f => f.job == some job && f.gangs.contains gang
  | none => false

/-- The islands that hold members of each gang. -/
def State.gangIslands (s : State) : List (List Nat) :=
  s.jobs.flatMap fun j => j.2.gangs.map fun g => ((g.members.filter fun w => s.present j.1 g.num w).map fun w => islandOf w.core).eraseDups

/-- The group of an island: what gangs join with it, merged (structural on a count of gangs). -/
def groupFrom (gs : List (List Nat)) : Nat → List Nat → List Nat
  | 0, l => l
  | f + 1, l => groupFrom gs f (l ++ (gs.filter fun g => g.any fun i => l.contains i).flatten).eraseDups

def State.groupOf (s : State) (i : Nat) : List Nat := groupFrom s.gangIslands s.gangIslands.length [i]

/-- The slowest step of a group. -/
def State.slowest (s : State) (g : List Nat) : Nat := g.foldl (fun m i => max m (s.stepOf i)) 0

/-- Every island of a group takes the group's slowest step (R358; 01 R40). -/
def State.equalise (s : State) : State :=
  s.gangIslands.foldl (fun t g => match g with
    | [] => t
    | i :: _ => t.setSteps (t.groupOf i) (t.slowest (t.groupOf i))) s

/-- The record, the tables and the images that a launch reads, as address and length. -/
def Record.areas (r : Record) (record : Addr) : List (Nat × Nat) :=
  [(record.toNat, 384), (r.at 88 8, 16 * r.at 80 2), (r.at 96 8, 32 * r.at 82 2), (r.at 104 8, 16 * r.at 84 2), (r.at 112 8, 24 * r.at 86 2),
    (r.at 120 8, r.at 128 8)] ++ (List.range r.p).map fun i => (r.at 136 8 + i * r.at 144 4, r.at 148 4)

/-- The reads of a launch are the job's: the substitutions in them count for it (R361; 14 R396). -/
def State.noteLaunch (s : State) (r : Record) (record : Addr) (job : Nat) : State :=
  ((r.areas record).filter fun a => a.2 != 0).foldl (fun (u : State) (a : Nat × Nat) => u.vNote a.1 a.2 (some job)) s

/-- A validated job is loaded and its fibres are READY; the islands of its gangs take one step. -/
def State.startJob (s : State) (r : Record) (t : Tables) (die pool : Nat) (record : Addr) : State :=
  let j := jobParts r t (newJob r die pool record s.now)
  let j := { j with rech := s.rech r t, maxDbg := dbgCode s.mgmt.dbg }
  let s := ({ s with jobs := s.jobs.set j.num j }).noteLaunch r record j.num
  let sig := s.sigOf ((s.jobs.get? j.num).getD j)
  let load (u : State) (i : Nat) : State :=
    let c := j.core i
    let u := u.loadPad c ((s.dataImage r i).getD [])
    let u := u.cull fun p => isFill p.ev && p.dst == c
    u.onCore c fun v =>
      (List.range 8).foldl (fun w k => if (r.at (212 + 16 * k) 2) = 0 then w else w.fetchEntry k)
        { v with core := loadedCore r j.num sig v.core }
  let s := (List.range j.count).foldl load s
  let places := placeAll j.count (idsOf r.counts) []
  let s := places.foldl (fun u x => u.addFibre r t j x) s
  let s := (t.binds.flatMap (bindWrites j places)).foldl
    (fun (u : State) (w : Nat × Nat × Endpoint) => u.onCore w.1 fun v => v.putEntry w.2.1 w.2.2) s
  let s := s.freePool die pool
  let s := s.setDie die { s.dieOf die with lastStart := s.now + 1 }
  ({ s with mgmt := { s.mgmt with admitted := true } }).equalise.fileStatus die j.ownerq
    (statusWords 2 0 pool die 0 j.start (record.setWidth 64) false)

/-- A record is rejected (R342): its status record, its pool entry freed. -/
def State.rejectJob (s : State) (die pool : Nat) (record : Addr) (code box : Nat) : State :=
  (s.freePool die pool).fileStatus die box (statusWords 1 code pool die 0 s.now (record.setWidth 64) false)

/-- Whether the security state admits jobs (16 R428, R445), with the clocks running. -/
def State.admits (s : State) : Bool :=
  s.mgmt.ready && !s.mgmt.halted && s.mgmt.power == .active && s.mgmt.goal.isNone && (s.mgmt.sec == .provisioned || s.mgmt.sec == .locked)

/-- The record of a pool entry. -/
def State.record? (s : State) (a : Addr) : Option Record :=
  if a.toNat % 64 ≠ 0 then none else (s.tableBytes a.toNat 384).map Record.mk

/-- Whether two partitions share a core. -/
def Record.meets (a b : Record) : Bool :=
  decide (a.at 64 1 ≤ b.at 64 1 + b.at 66 1) && decide (b.at 64 1 ≤ a.at 64 1 + a.at 66 1) &&
    decide (a.at 65 1 ≤ b.at 65 1 + b.at 67 1) && decide (b.at 65 1 ≤ a.at 65 1 + a.at 67 1)

/-- Whether a record must wait (R345): a core of its rectangle holds a live job, or an earlier entry's rectangle meets
its own. -/
def State.heldBack (s : State) (r : Record) (order : Nat) : Bool :=
  ((List.range r.p).any fun i =>
    (s.coreAt (coreOfXY (r.at 64 1 + i % (r.at 66 1 + 1)) (r.at 65 1 + i / (r.at 66 1 + 1)))).job.isSome) ||
    (s.dies.toList.flatMap fun d => d.pool).any fun q =>
      decide (q.order < order) && (match s.record? q.record with
        | some x => x.meets r
        | none => false)

/-- Whether an earlier entry of the die is to be taken first: one that nothing holds back, or that will be rejected (R345). -/
def State.behind (s : State) (die order : Nat) : Bool :=
  (s.dieOf die).pool.any fun q =>
    decide (q.order < order) && (match s.record? q.record with
      | some x => !s.heldBack x q.order
      | none => true)

/-- JOB_START of a pool entry: rejected, held back, or started; at most one start of a die in a nanosecond. -/
def execJobStart (die pool : Nat) (s : State) : Host.Outcome State Fault Refusal :=
  .next (match (s.dieOf die).pool.find? fun p => p.idx == pool with
    | none => s
    | some q =>
      if !s.admits || s.behind die q.order then s
      else
        match s.record? q.record with
        | none => s.rejectJob die pool q.record 9 0
        | some r =>
          match s.validate r die pool q.record with
          | .error c => s.rejectJob die pool q.record c r.ownerq
          | .ok t =>
            if s.heldBack r q.order || decide (s.now < (s.dieOf die).lastStart) then s
            else s.startJob r t die pool q.record)

/-! Completion and reclamation (R354, R355; 01 R39). -/

/-- A core without what its job left. -/
def reclaimedCore (c : Core) : Core :=
  { c with
    slots := Vector.ofFn fun i => if i.val < 6 then Slot.reset else c.slots[i]
    runq := [], endpoints := [], ports := [], rows := [], latch := none, waiters := [], journal := []
    traps := c.traps.filter fun t => t.ent.isNone, channels := Vector.replicate 8 Channel.reset, arrivals := []
    mcmds := [], mcmdOut := 0, mcmdRun := none, seqs := Vector.replicate 3 Seq.reset, staged := [], shaping := [], amq := []
    job := none, saved := false, saving := none }

/-- Every core of a job is free of it, and its external bindings are gone. -/
def State.reclaim (s : State) (j : Job) : State :=
  let s := j.cores.foldl (fun u c =>
    if (u.coreAt c).job = some j.num then
      let v := ((u.coreAt c).endpoints).foldl (fun w e => w.unbindExt c e.1 e.2) u
      v.modCore c reclaimedCore
    else u) s
  { s with jobs := s.jobs.erase j.num }

/-- Whether a job holds a FAULTED fibre (R39). -/
def State.hasFaulted (s : State) (j : Job) : Bool :=
  j.faulted || j.cores.any fun c =>
    (s.coreAt c).runq.any fun e => e.2.ctx.state == stFaulted && e.2.job == some j.num

/-- JOB_COMPLETION_CHECK: consumed totals before sent totals; at zero the job is reclaimed and its block written, but for a module in RETIRED, which
signs nothing (16 R431). -/
def execJobCompletionCheck (job : Nat) (s : State) : Host.Outcome State Fault Refusal :=
  .next (match s.jobs.get? job with
    | none => s
    | some j =>
      if !(j.sinks.all fun k => k.2.2) || j.consumed.toList.sum != j.sent.toList.sum || s.hasFaulted j || j.switching.isSome ||
          j.switched.isSome then s
      else
        let t := s.reclaim j
        let t := if j.cpladdr = 0 ∨ t.mgmt.sec = .retired then t
          else (t.vPut j.cpladdr.toNat (s.completionBlock (s.sigOf j) j.orf j.maxDbg (j.record.setWidth 64) j.subs)).getD t
        t.fileStatus j.die j.ownerq (statusWords 4 0 j.pool j.die 0 s.now (j.record.setWidth 64) false))

/-! Admission (R343, R344). -/

def State.launchPage (s : State) (p : Nat) : LaunchPage := (s.host.pages.get? p).getD LaunchPage.reset
def State.setLaunchPage (s : State) (p : Nat) (x : LaunchPage) : State := { s with host := { s.host with pages := s.host.pages.set p x } }

/-- The home die of a notify page (15 R424). -/
def State.pageHome (s : State) (p : Nat) : Nat := bits ((s.host.notify.get? p).getD 0) 3 3

/-- The slots of a launch page up to its target, in ascending order (structural on a count); it pauses while the pool
has no entry. A slot that cannot be read, or whose word is no address, is rejected with code 9 and takes no entry (log
entry 134). -/
def State.admitSlots (s : State) (p : Nat) : Nat → State
  | 0 => s
  | n + 1 =>
    let x := s.launchPage p
    match x.target with
    | none => s
    | some t =>
      if x.admitted.toNat ≥ t.toNat then s.setLaunchPage p { x with target := none }
      else if !s.admits then s
      else
        let home := s.pageHome p
        let done (u : State) : State := (u.setLaunchPage p { x with admitted := x.admitted + 1 })
        match s.vBytes (x.ringbase.toNat + 8 * (x.admitted.toNat % x.ringsize.toNat)) 8 with
        | none => (done (s.fileStatus home 0 (statusWords 1 9 0 home 0 s.now 0 false))).admitSlots p n
        | some l =>
          if bits (leWord l) 48 16 ≠ 0 then
            (done (s.fileStatus home 0 (statusWords 1 9 0 home 0 s.now (leWord l) false))).admitSlots p n
          else
            match s.admitRecord home 0 ((leWord l).setWidth 48) none with
            | none => s
            | some r => (done { r.2 with mgmt := { r.2.mgmt with admitted := true } }).admitSlots p n

/-- A write of N to DOORBELL. -/
def State.ringDoorbell (s : State) (p : Nat) (n : DWord) : State :=
  let x := s.launchPage p
  if n.toNat ≤ x.admitted.toNat ∨ n.toNat - x.admitted.toNat > x.ringsize.toNat then
    s.fileStatus (s.pageHome p) 0 (statusWords 5 0 0 (s.pageHome p) 0 s.now n false)
  else (s.setLaunchPage p { x with target := some n }).admitSlots p 4097

/-- DOORBELL. -/
def execDoorbell (page : Nat) (n : DWord) (s : State) : Host.Outcome State Fault Refusal := .next (s.ringDoorbell page n)

/-- ADMISSION_RESUME. -/
def execAdmissionResume (page : Nat) (s : State) : Host.Outcome State Fault Refusal := .next (s.admitSlots page 4097)

end Sys2Proof.Machine
end

