-- ==== Sys2Proof/Machine/Active.lean ====
section
/-! DEFINITION. Remote accesses at their owners: the slot 6 of a peer core, the host die's windows and notify pages, the
Sorting Office's windows (11 R333, R334; 15 R407, R408, R416, R424), and the answers that reach an issuer. -/

namespace Sys2Proof.Machine

/-! Answers from an agent that is no core. -/

/-- Whether an access is posted. -/
def isPosted (i : Issuer) : Bool :=
  match i.via with
  | .journal _ => true
  | _ => false

/-- The answer of an agent to an issuer; a posted access is consumed when it is performed (05 R148). -/
def State.answerFrom (s : State) (src : Nat) (i : Issuer) (r : Result) : State :=
  let s := if isPosted i && r.code == 0 then s.countConsume i.job (i.who.core / 2304) else s
  s.sendFrom src i.who.core none [] (some (2 ^ 57 + i.who.core)) (answerEv i r)

def State.refuseFrom (s : State) (src : Nat) (i : Issuer) (addr : DWord) (code : Nat) : State :=
  s.answerFrom src i ⟨code, addr, false, []⟩

/-! At the owner of a scratchpad (11 R333). -/

/-- Whether slot 6 of a core is occupied by other work. -/
def Core.slot6Busy (c : Core) : Bool := c.slots[(6 : Fin 8)].busy || c.mcmdRun.isSome

/-- The access at the core in turn, its owner: the checks of 05 R146, the bank, the reply; or a waiter, of which the
issuer hears (05 R155). -/
def State.atOwner (s : State) (i : Issuer) (a : Access) (off : Nat) : State :=
  match s.core.ownerFault s.cid off (accSpan a) with
  | some c => s.answer i ⟨c, a.addr, false, []⟩
  | none =>
    match s.atBank s.cid off a with
    | .refuse c => s.answer i ⟨c, s.refusedAt s.cid off a c, false, []⟩
    | .done ws s' flip =>
      let s' := if isPosted i then s'.countConsume i.job s.die else s'
      let t := s'.answer i ⟨0, a.addr, false, ws⟩
      if flip then State.retest 33 t off else t
    | .wait =>
      let t := s.recordWaiter i a
      if i.who.core < 20000 then t.send i.who.core (.fullemptyNotice i.who i.op) else t

/-- Slot 6 of the core in turn takes an access, in a cycle of its own (01 R16). -/
def State.noteSlot6 (s : State) : State :=
  { s with core := { s.core with recent6 := (s.coreCycles :: s.core.recent6).take 2 } }

/-- The core in turn takes an access into slot 6, or into the queue before it: one at a time, in arrival order, while
no range of a copy holds the head (05 R178). -/
def State.atSlot6 (s : State) (i : Issuer) (a : Access) : State :=
  let off := a.addr.toNat % 65536
  let queue := match s.core.amq with
    | h :: rest => if h = (i, a) then rest else h :: rest
    | [] => []
  let waits := s.core.slot6Busy || s.core.accessStall s.cid off a || s.core.saved || s.core.halted
  if s.core.amq.head? = some (i, a) then
    if waits then s
    else (({ s with core := { s.core with amq := queue } }).noteSlot6).atOwner i a off
  else if waits ∨ !s.core.amq.isEmpty then
    if s.core.amq.length < 32 then { s with core := { s.core with amq := s.core.amq ++ [(i, a)] } }
    else s.sendTo s.cid (some (bankPlace s.cid off)) (.activeMessage i a)
  else s.noteSlot6.atOwner i a off

/-! Notify pages (12 R343; 15 R424). -/

/-- A notify page's entry in the host die's map. -/
def State.pageWord (s : State) (p : Nat) : DWord := (s.host.notify.get? p).getD 0

/-- Whether a page is exposed to the host, or to peer modules. -/
def State.exposed (s : State) (p : Nat) (toHost : Bool) : Bool :=
  (s.pageWord p).getLsbD (if toHost then 0 else 1)

/-- A register of a notify page as a load reads it. -/
def State.notifyGet (s : State) (page reg : Nat) : DWord :=
  if (s.pageWord page).getLsbD 2 then
    let x := s.launchPage page
    match reg with
    | 1 => x.ringbase
    | 2 => x.ringsize
    | 3 => x.admitted
    | _ => 0
  else (s.host.notifyRegs.get? (page * 512 + reg)).getD 0

/-- Whether a ring size is a power of 2 from 1 to 4,096. -/
def goodRing (w : DWord) : Bool := (List.range 13).any fun k => w == BitVec.ofNat 64 (2 ^ k)

/-- A write to a register of a notify page: one message of a bound register, or the act of a launch page. -/
def State.notifyPut (s : State) (page reg : Nat) (w : DWord) : State :=
  if (s.pageWord page).getLsbD 2 then
    let x := s.launchPage page
    match reg with
    | 0 => s.sendFrom hostDst (dieDst (s.pageHome page)) none [] (some (2 ^ 52 + page)) (.doorbell page w)
    | 1 => if w.toNat % 8 = 0 ∧ inDram w.toNat = true then s.setLaunchPage page { x with ringbase := w } else s
    | 2 => if goodRing w then s.setLaunchPage page { x with ringsize := w } else s
    | _ => s
  else
    let n := page * 512 + reg
    match s.host.bound.get? (256 + n) with
    | none => s
    | some (c, e) =>
      let s := { s with host := { s.host with notifyRegs := s.host.notifyRegs.set n w } }
      s.sendFrom hostDst c none [] (some (entryPlace c e))
        (.messageArrival { who := ⟨0, 0⟩, op := 0, src := .ext 4 n, dst := e, body := .word w, offer := false, job := none })

/-- A write of the host through BAR2 or of a peer module; discarded where the page is not exposed. -/
def State.notifyWritten (s : State) (page reg : Nat) (w : DWord) (fromHost : Bool) : State :=
  if page < 32768 ∧ reg < 512 ∧ s.exposed page fromHost = true then s.notifyPut page reg w else s

/-- What a host read of n bytes at an offset of BAR2 receives: the register, or Completer Abort, as none, where its size is not 8 bytes or its
page is not exposed to the host (R424; DESIGN CHOICE, log entry 158). -/
def State.bar2Read (s : State) (off n : Nat) : Option DWord :=
  if n = 8 ∧ off % 8 = 0 ∧ off < 2 ^ 27 ∧ s.exposed (off / 4096) true = true then some (s.notifyGet (off / 4096) (off % 4096 / 8)) else none

/-- An access to a notify register at the host die. -/
def State.atNotify (s : State) (i : Issuer) (a : Access) (page reg : Nat) : State :=
  let far := i.who.core == officeDst
  match a.kind with
  | .store =>
    let t := if far && !s.exposed page false then s else s.notifyPut page reg a.a
    t.answerFrom hostDst i ⟨0, a.addr, false, []⟩
  | .load =>
    if far && !s.exposed page false then s.refuseFrom hostDst i a.addr translation
    else s.answerFrom hostDst i ⟨0, a.addr, false, [s.notifyGet page reg]⟩
  | _ => s.refuseFrom hostDst i a.addr translation

/-! The host window (R407; 05 R152, R169). -/

/-- An access through the host window: a posted write ends when it has left, a read and an atomic when their
completion comes back. -/
def State.atWindow (s : State) (i : Issuer) (a : Access) : State :=
  match s.hostAddr a.addr.toNat with
  | none => s.refuseFrom hostDst i a.addr translation
  | some p =>
    let n := accSpan a
    match a.kind with
    | .load => { s with outside := s.outside ++ [Outside.pcieRead p.1 p.2 n i.op] }
    | .store =>
      ({ s with outside := s.outside ++ [Outside.pcieWrite p.1 p.2 (leBytes a.a.toNat n)] }).answerFrom hostDst i ⟨0, a.addr, false, []⟩
    | .atomic op => { s with outside := s.outside ++ [Outside.pcieAtomic p.1 p.2 op n [a.a, a.b] i.op] }
    | .cas16 => { s with outside := s.outside ++ [Outside.pcieAtomic p.1 p.2 .cas 16 [a.a, a.b, a.c, a.e] i.op] }
    | _ => s.refuseFrom hostDst i a.addr translation

/-! The peer-package window (R408, R416). -/

/-- An access through the peer-package window: a frame over its link, or a submission to the office's registers. -/
def State.atOffice (s : State) (i : Issuer) (a : Access) : State :=
  match s.peerEntry a.addr.toNat with
  | none => s.refuseFrom officeDst i a.addr translation
  | some w =>
    if w.getLsbD 1 then
      if a.kind = .store ∧ a.size = .b8 ∧ a.addr.toNat % 2 ^ 32 = 0 then
        let earlier := (s.outstandingOf i.who).filter fun n => decide (n < i.op)
        (s.sendFrom officeDst officeDst (some i.who) earlier (some (2 ^ 53)) (.collectiveSubmit (a.a.setWidth 48) i.who i.job)).answerFrom
          officeDst i ⟨0, a.addr, false, []⟩
      else s.refuseFrom officeDst i a.addr translation
    else if s.office.down.contains (bits w 8 8) then s.refuseFrom officeDst i a.addr translation
    else
      let write := match a.kind with
        | .load => false
        | _ => true
      let f := { peerFrame w 2 a.addr.toNat i.op write [] (accSpan a) with access := some a }
      let t := { s with office := { s.office with waiting := s.office.waiting ++ [(i.op, bits w 8 8, i)] } }
      t.outFrame f

/-- ACTIVE_MESSAGE: a remote access at the place its address names. -/
def execActiveMessage (f : Issuer) (a : Access) (s : State) : Host.Outcome State Fault Refusal :=
  .next (match regionOf officeDst a.addr with
    | .peer c _ => s.onCore c fun t => t.atSlot6 f a
    | .host => s.atWindow f a
    | .pkg => s.atOffice f a
    | .notify page reg => s.atNotify f a page reg
    | _ => s.refuseFrom officeDst f a.addr translation)

/-! The Sorting Office as an issuer for a remote module: the link, the module and its operation stand in the index. -/

/-- Who acts for a frame of a remote module. -/
def farWho (f : Frame) : Who := ⟨officeDst, f.link + 256 * (f.srcMod + 65536 * f.arg2.toNat)⟩

/-- The KIND 3 frame that answers an issuer of the Sorting Office. -/
def farFrame (ent : Nat) (addr : DWord) (code : Nat) (data : List Byte) : Frame :=
  { frameOf (ent % 256) 3 0 with dstMod := ent / 256 % 65536, arg := addr, arg2 := BitVec.ofNat 64 (ent / 2 ^ 24),
                                 ok := code == 0, code := code, data := data }

/-- A result reaches the Sorting Office for a remote module. -/
def State.farReply (s : State) (ent : Nat) (r : Result) : State := s.outFrame (farFrame ent r.addr r.code (wordBytes r.words))

/-- REMOTE_REPLY: the reply or refusal of a waited access, of a POST, of a FORK, of a copy's request, or, at the Sorting
Office, of an access of a remote module. -/
def execRemoteReply (who : Who) (op : Nat) (r : Result) (s : State) : Host.Outcome State Fault Refusal :=
  .next (if who.core ≥ 20000 then s.farReply who.ent r
    else s.onCore who.core fun t =>
      match t.waitOf who.ent op with
      | some (_, w) =>
        match w.kind with
        | .fork d => (t.countConsume w.sent t.die).forkReply who.ent w d r
        | _ => t.remoteReply who op r
      | none => (t.flightReply op r).flushed who.ent op)

/-- SHIP_REPLY at the core of the request, or at the Sorting Office for a remote module. -/
def execShipReply (q : Req) (r : Rep) (s : State) : Host.Outcome State Fault Refusal :=
  .next (if q.who.core ≥ 20000 then
      s.farReply q.who.ent ⟨r.status, q.va.setWidth 64, r.sub,
        if q.w128 then wordsOfBytes r.data
        else if q.routine = 0 then [r.result >>> (8 * (q.b.toNat % 8))]
        else [r.result]⟩
    else s.onCore q.who.core fun t => t.shipReply q r)

end Sys2Proof.Machine
end

