-- ==== Sys2Proof/Machine/Office.lean ====
section
/-! DEFINITION. The frames of Symen Link at the Sorting Office (15 R406, R408 to R412) and links that go down. -/

namespace Sys2Proof.Machine

/-! Streams (R410). -/

/-- The receiving and the sending entry of a stream. -/
def State.streamIn (s : State) (link stream : Nat) : Option (Nat × Nat) :=
  (s.office.streamsIn.find? fun t => t.1 == link && t.2.1 == stream).map fun t => t.2.2

def State.streamOut (s : State) (link stream : Nat) : Option (Nat × Nat) :=
  (s.office.streamsOut.find? fun t => t.1 == link && t.2.1 == stream).map fun t => t.2.2

/-- A message from a link goes to the entry its stream is bound to, in frame order; without a binding it is discarded
and recorded at mailbox 0. -/
def State.streamDeliver (s : State) (link stream : Nat) (b : Body) : State :=
  match s.streamIn link stream with
  | some (c, e) =>
    s.sendFrom officeDst c none [] (some (entryPlace c e))
      (.messageArrival { who := ⟨0, 0⟩, op := 0, src := .ext 3 (link + 256 * stream), dst := e, body := b, offer := false, job := none })
  | none => s.fileDeadLetter 0 (deadLetterWords 1 1 0 s.now [0, entryWord1 0 0])

/-- The bytes of a tile's rows. -/
def tileSize (d : TileDesc) : Nat := d.rows * rowBytes d.fmt d.cols

/-- A KIND 1 frame: a word, a token or a last post is delivered; a tile's header frame opens it, its payload frames fill it, and the
last one delivers it. A payload frame without a header frame before it is discarded (log entry 154). -/
def State.streamFrameIn (s : State) (f : Frame) : State :=
  let k := f.link + 256 * f.stream
  let o := s.office
  match f.body with
  | .tile d _ =>
    if f.data.isEmpty then { s with office := { o with tilesIn := o.tilesIn.set k (d, []) } }
    else
      (match o.tilesIn.get? k with
       | none => s
       | some (d, got) =>
         let l := got ++ f.data
         if l.length < tileSize d then { s with office := { o with tilesIn := o.tilesIn.set k (d, l) } }
         else ({ s with office := { o with tilesIn := o.tilesIn.erase k } }).streamDeliver f.link f.stream (.tile d (l.take (tileSize d))))
  | b => s.streamDeliver f.link f.stream b

/-- CREDIT_OR_ACKNOWLEDGEMENT: the credit of a stream returns to its sending entry. -/
def execCreditOrAcknowledgement (f : Frame) (s : State) : Host.Outcome State Fault Refusal :=
  .next (match s.streamOut f.link f.stream with
    | some (c, e) => s.sendFrom officeDst c none [] none (.creditReturn e)
    | none => s)

/-! Requests of remote modules (R408, R411, R412). -/

/-- Whether the import table admits n bytes at an address to a module. -/
def State.imports (s : State) (module addr n : Nat) (write : Bool) : Bool :=
  s.office.imports.any fun e =>
    let v := e.2.1
    v.getLsbD 0 && (bits v 16 16 == 0xFFFF || bits v 16 16 == module) && !(write && v.getLsbD 1) &&
      decide (e.2.2.1.toNat ≤ addr) && decide (addr + n ≤ e.2.2.2.toNat + 1)

/-- The KIND 3 frame that answers a frame. -/
def State.replyTo (s : State) (f : Frame) (addr code : Nat) (data : List Byte) : State :=
  s.outFrame (farFrame (farWho f).ent (BitVec.ofNat 64 addr) code data)

/-- Data of the Sorting Office for a range of a core's scratchpad passes to the core, in an envelope: none while it must wait. -/
def State.toPad (s : State) (c off n len : Nat) : Option State :=
  let places := [(bankPlace c off, bankPlace c (off + n - 1) + 1)]
  if s.away c || s.busyPlaces officeDst s.nextId places then none else s.cross officeDst c places len

/-- A copy's element in the scratchpad of a core, for a remote module. -/
def State.farPad (s : State) (f : Frame) (c off : Nat) : Option State :=
  let a := f.arg.toNat
  let n := if f.write then f.data.length else f.code
  (s.toPad c off n (if f.write then (n + 31) / 32 else 1)).bind fun t =>
    if !(t.coreAt c).inPart0 off n then some (t.replyTo f a translation [])
    else if f.write then some ((t.spWrite c off f.data).replyTo f a 0 [])
    else if (t.coreAt c).poisoned off n then some (t.replyTo f a memPoison [])
    else (t.cross c officeDst [] ((n + 31) / 32)).map fun u => u.replyTo f a 0 (t.spBytes c off n)

/-- A copy's element in the host window, for a remote module: a write is posted, a read is answered by its completion. -/
def State.farWindow (s : State) (f : Frame) : Option State :=
  let a := f.arg.toNat
  if s.busyPlaces officeDst s.nextId [(2 ^ 19, 2 ^ 19 + 1)] then none
  else
    (s.cross officeDst hostDst [(2 ^ 19, 2 ^ 19 + 1)] (if f.write then (f.data.length + 31) / 32 else 1)).map fun t =>
      match t.hostAddr a with
      | none => t.replyTo f a translation []
      | some p =>
        if f.write then ({ t with outside := t.outside ++ [Outside.pcieWrite p.1 p.2 f.data] }).replyTo f a 0 []
        else { t with outside := t.outside ++ [Outside.pcieRead p.1 p.2 f.code t.nextId], nextId := t.nextId + 1 }

/-- A copy's element in the peer-package window, for a remote module: it goes on over the link of its entry. -/
def State.farOnward (s : State) (f : Frame) : State :=
  let a := f.arg.toNat
  match s.peerUp a with
  | none => s.replyTo f a translation []
  | some w =>
    let i : Issuer := ⟨farWho f, s.nextId, .wait, none⟩
    ({ s with nextId := s.nextId + 1, office := { s.office with waiting := s.office.waiting ++ [(i.op, bits w 8 8, i)] } }).outFrame
      (peerFrame w 2 a i.op f.write f.data f.code)

/-- The bytes of a copy's element at an address of this module, for a remote module: read, or written; none while it must wait. -/
def State.farCopy (s : State) (f : Frame) : Option State :=
  let a := f.arg.toNat
  match regionOf officeDst f.arg with
  | .peer c off => s.farPad f c off
  | .dram =>
    (match (if f.write then s.edgePut officeDst (farWho f) none a f.data else s.edgeGet officeDst (farWho f) none a f.code) with
     | .ok l t => some (t.replyTo f a 0 l)
     | .fault code va t => some (t.replyTo f va code [])
     | .wait => none)
  | .host => s.farWindow f
  | .pkg => some (s.farOnward f)
  | _ => some (s.replyTo f a translation [])

/-- An access of a remote module at the place its address names. -/
def State.farAccess (s : State) (f : Frame) (x : Access) : State :=
  let a := { x with addr := f.arg }
  let i : Issuer := ⟨farWho f, s.nextId, .wait, none⟩
  let s := { s with nextId := s.nextId + 1 }
  if f.arg.toNat % accSpan a ≠ 0 ∧ accSpan a ≤ 16 then s.replyTo f f.arg.toNat misalign []
  else
    match regionOf officeDst f.arg with
    | .peer c off => s.sendFrom officeDst c none [] (some (c * 8 + off / 8192)) (.activeMessage i a)
    | .dram =>
      let q := s.reqOf i a
      let k := directoryOf f.arg.toNat
      let q := { q with stack := k, hinted := false, b := if a.kind == .load then f.arg else q.b }
      s.sendFrom officeDst (serverDst k) none [] (some (2 ^ 20 + f.arg.toNat / 32)) (routineEv q)
    | .host => s.sendFrom officeDst hostDst none [] (some (2 ^ 19)) (.activeMessage i a)
    | .notify _ _ =>
      if accSpan a = 8 then s.sendFrom officeDst hostDst none [] (some (2 ^ 19)) (.activeMessage i a)
      else s.replyTo f f.arg.toNat translation []
    | .pkg => s.sendFrom officeDst officeDst none [] (some (2 ^ 19 + 1)) (.activeMessage i a)
    | _ => s.replyTo f f.arg.toNat translation []

/-- The bytes a KIND 2 frame touches. -/
def reqSpan (f : Frame) : Nat :=
  match f.access with
  | some a => accSpan a
  | none => if f.write then f.data.length else f.code

/-- A KIND 2 frame: checked against the import table, then performed by the Sorting Office as its own agent. -/
def State.serveRequest (s : State) (f : Frame) : Option State :=
  if !s.imports f.srcMod f.arg.toNat (reqSpan f) f.write then some (s.replyTo f f.arg.toNat translation [])
  else
    match f.access with
    | some a => some (s.farAccess f a)
    | none => s.farCopy f

/-- The first byte of n at an address that a test refuses; the address itself when it refuses none alone (R412). -/
def firstBad (addr n : Nat) (ok : Nat → Bool) : Nat := ((List.range n).map fun k => addr + k).find? (fun x => !ok x) |>.getD addr

/-- A KIND 4 frame: every page is checked, then all bytes are written and the enqueue word is sent, then the acknowledgement leaves;
none while it must wait. -/
def State.serveWrite (s : State) (f : Frame) : Option State :=
  let a := f.arg.toNat
  let n := f.data.length
  let word : DWord := BitVec.ofNat 64 (a % 2 ^ 48 + (n - 1) % 4096 * 2 ^ 48)
  let ends (t : State) : State := (t.streamDeliver f.link f.stream (.word word)).replyTo f a 0 []
  if !s.imports f.srcMod a n true then some (s.replyTo f (firstBad a n fun x => s.imports f.srcMod x 1 true) translation [])
  else
    match regionOf officeDst f.arg with
    | .dram =>
      (match s.edgePut officeDst (farWho f) none a f.data with
       | .ok _ t => some (ends t)
       | .fault code va _ => some (s.replyTo f va code [])
       | .wait => none)
    | .peer c off =>
      if s.away c then none
      else if !(s.coreAt c).inPart0 off n then
        some (s.replyTo f (firstBad a n fun x => (s.coreAt c).inPart0 (off + (x - a)) 1) translation [])
      else (s.toPad c off n ((n + 31) / 32)).map fun t => ends (t.spWrite c off f.data)
    | _ => some (s.replyTo f a translation [])

/-! Replies of peer modules. -/

/-- The address an issuer's operation named. -/
def State.addrOf (s : State) (i : Issuer) : DWord :=
  match (s.coreAt i.who.core).fibre? i.who.ent with
  | none => 0
  | some f =>
    match i.via with
    | .qam => ((f.qam.find? fun q => q.op == i.op).map fun q => q.addr).getD 0
    | _ => ((f.wait.bind fun w => w.acc).map fun a => a.addr).getD 0

/-- The core, channel and element that an operation number is in flight for. -/
def Core.flightOf (c : Core) (op : Nat) : Option (Channel × Nat) :=
  c.channels.toList.findSome? fun x => (x.flight.find? fun f => f.2 == op).map fun f => (x, f.1)

def State.flightOf (s : State) (op : Nat) : Option (Nat × Channel × Nat) :=
  match s.core.flightOf op with
  | some r => some (s.cid, r)
  | none => s.others.findSome? fun c => (c.2.flightOf op).map fun r => (c.1, r)

/-- The side of an element that lies in the peer-package window. -/
def farSide (x : Channel) (k : Nat) : Nat :=
  let e := x.layout.elem k
  match regionOf officeDst (BitVec.ofNat 64 (x.src + e.1)) with
  | .pkg => x.src + e.1
  | _ => x.dst + (if x.enq then 0 else e.2.2.1)

/-- Bytes filled with zeros to whole words. -/
def padWord (l : List Byte) : List Byte := l ++ List.replicate ((8 - l.length % 8) % 8) 0

/-- The address of this module's peer-package window that reaches an address of a module over a link. -/
def State.windowOf (s : State) (link module addr : Nat) : DWord :=
  match s.office.peers.find? fun e =>
      e.2.getLsbD 0 && !e.2.getLsbD 1 && bits e.2 8 8 == link && bits e.2 16 16 == module && bits e.2 32 16 == addr / 2 ^ 32 with
  | some e => BitVec.ofNat 64 (0x300000000000 + e.1 * 2 ^ 32 + addr % 2 ^ 32)
  | none => 0

/-- ACCESS_REPLY: to the access that waits on the link, or to the copy whose request it answers. A refused byte is named by
the place of its remote address in the request. -/
def execAccessReply (f : Frame) (s : State) : Host.Outcome State Fault Refusal :=
  .next (let op := f.arg2.toNat
    let code := if f.ok then 0 else f.code
    match s.office.waiting.find? fun w => w.1 == op && w.2.1 == f.link with
    | some w =>
      let t := { s with office := { s.office with waiting := s.office.waiting.erase w } }
      let addr := if w.2.2.who.core < 20000 then s.addrOf w.2.2 else s.windowOf f.link f.srcMod f.arg.toNat
      t.answerFrom officeDst w.2.2 ⟨code, addr, false, wordsOfBytes (padWord f.data)⟩
    | none =>
      match s.flightOf op with
      | none => s
      | some (c, x, k) =>
        let a := farSide x k
        let first := match s.peerEntry a with
          | some w => a + (f.arg.toNat - peerRemote w a)
          | none => a
        s.sendFrom officeDst c none [] none (.remoteReply ⟨c, x.who.ent⟩ op ⟨code, BitVec.ofNat 64 first, false, wordsOfBytes (padWord f.data)⟩))

/-! Links that go down (R406). -/

/-- The requests of a core's channels that wait on a link: operation and address. -/
def State.flightsOn (s : State) (x : Channel) (link : Nat) : List (Nat × Nat) :=
  x.flight.filterMap fun f =>
    let a := farSide x f.1
    match regionOf officeDst (BitVec.ofNat 64 a), s.peerEntry a with
    | .pkg, some w => if bits w 8 8 = link then some (f.2, a) else none
    | _, _ => none

/-- The refusals of a core's copies on a link. -/
def State.dropFlights (s : State) (c link : Nat) : State :=
  ((s.coreAt c).channels.toList.flatMap fun x => (s.flightsOn x link).map fun f => (x.who.ent, f)).foldl (fun t w =>
    t.sendFrom officeDst c none [] none (.remoteReply ⟨c, w.1⟩ w.2.1 ⟨translation, BitVec.ofNat 64 w.2.2, false, []⟩)) s

/-- LINK_DOWN: every access that waits on the link is refused with TRANSLATION; the controller is told. -/
def execLinkDown (link : Nat) (s : State) : Host.Outcome State Fault Refusal :=
  .next (if s.office.down.contains link then s
    else
      let gone := s.office.waiting.filter fun w => w.2.1 == link
      let t := { s with office := { s.office with down := link :: s.office.down,
                                                  waiting := s.office.waiting.filter fun w => w.2.1 != link,
                                                  tilesIn := s.office.tilesIn.filter fun t => t.1 % 256 != link },
                        mgmt := { s.mgmt with reports := s.mgmt.reports ++ [(officeDst, link)] } }
      let t := gone.foldl (fun u w => u.refuseFrom officeDst w.2.2 (s.addrOf w.2.2) translation) t
      (s.cid :: s.others.map fun c => c.1).foldl (fun u c => u.dropFlights c link) t)

end Sys2Proof.Machine
end

