-- ==== Sys2Proof/Machine/HostDie.lean ====
section
/-! DEFINITION. The host die: mailboxes, the management register, BAR4 and AtomicOps (15 R421 to R423; 16 R443). -/

namespace Sys2Proof.Machine

/-! Mailboxes (R422, R423, Table 15-5). -/

/-- A host write that pushes a message into an inbound FIFO: discarded, with DROP, while INFREE is 0. -/
def State.boxIn (s : State) (m : Nat) (b : Body) : State :=
  let x := s.box m
  if m ≥ 256 then s
  else if x.inq.length ≥ 64 then s.setBox m { x with drop := true }
  else (s.setBox m { x with inq := x.inq ++ [b] }).pumpBox m

/-- The message of a send that waits for room in an outbound FIFO. -/
def State.waitingBody (s : State) (i : Issuer) : Body :=
  match ((s.coreAt i.who.core).fibre? i.who.ent).bind fun f => f.wait with
  | some w => keptBody (w.acc.getD noAccess)
  | none => .token

/-- The first sender that waits for room in a mailbox goes ahead: its word enters, and a reply leaves for its core. -/
def State.wakeSender (s : State) (m : Nat) : State :=
  match s.host.waiting.find? fun w => w.1 == m with
  | none => s
  | some w =>
    if (s.box m).outq.length ≥ 256 then s
    else
      let b := s.waitingBody w.2
      let t := { s with host := { s.host with waiting := s.host.waiting.erase w } }
      let t := (t.countConsume w.2.job (w.2.who.core / 2304)).outPush m 0 [(unitWord b, b)]
      t.sendFrom hostDst w.2.who.core none [] none (.sendReply w.2.who w.2.op 0)

/-- The head word of a mailbox's outbound FIFO, 0 when there is none. -/
def Mailbox.head (x : Mailbox) : DWord := (x.outq.head?.map fun u => u.1).getD 0

/-- The register of counts: OUTCNT, HEADLP, HEADTOK, INFREE, HEADKIND and HEADLEN. -/
def Mailbox.counts (x : Mailbox) : DWord :=
  let h := x.outq.head?
  let is (b : Body) : Nat := (h.any fun u => u.2.2.2 == b).toNat
  BitVec.ofNat 64 (x.outq.length % 512 + is .last * 512 + is .token * 1024 + (64 - x.inq.length) % 128 * 2 ^ 16 +
    ((h.map fun u => u.2.1).getD 0) % 4 * 2 ^ 24 + ((h.map fun u => u.2.2.1).getD 0) % 64 * 2 ^ 26)

/-- What a host read of a mailbox register of BAR0 gives (Table 15-5): write-only and reserved fields read as zero (00 R8).
The read of OUT also pops (MAILBOX_OUT); no other read has an effect. -/
def State.barRead (s : State) (off : Nat) : DWord :=
  let x := s.box (off / 64)
  if off / 64 ≥ 256 then 0
  else
    match off % 64 with
    | 0x10 => x.head
    | 0x18 => x.counts
    | 0x20 => BitVec.ofNat 64 (x.irqen.toNat + x.drop.toNat * 2)
    | 0x28 => x.qhsdst.setWidth 64
    | _ => 0

/-- A host read of OUT pops the head word, 0 when there is none or its parity is bad (log entry 91); the space is free at once, for a sender or a record that waits. -/
def State.boxOut (s : State) (m : Nat) : State :=
  match (s.box m).outq with
  | [] => { s with outside := s.outside ++ [Outside.popped m (s.barRead (64 * m + 0x10))] }
  | _ :: rest =>
    let r := s.readBoxFifo m
    let w := if r.1 then 0 else s.barRead (64 * m + 0x10)
    let t := r.2.setBox m { s.box m with outq := rest }
    let t := ({ t with outside := t.outside ++ [Outside.popped m w] }).wakeSender m
    State.sendLetters t.host.letters.length t m

/-- QHSIN: a word for the qhs read FIFO of the core QHSDST names; discarded, with DROP, while four words stand there. -/
def State.qhsWrite (s : State) (m : Nat) (w : DWord) : State :=
  let x := s.box m
  let c := handleCore (x.qhsdst.setWidth 64)
  if m ≥ 256 then s
  else if (s.coreAt c).qhs.length ≥ 4 then s.setBox m { x with drop := true }
  else s.modCore c fun y => { y with qhs := y.qhs ++ [w] }

/-- A write to a register of BAR0 by its offset: MGMTCMD, else a mailbox register of Table 15-5; other offsets, and RO
registers, take no write. -/
def State.barWrite (s : State) (off : Nat) (w : DWord) : State :=
  if off = 0x01000000 then
    { s with host := { s.host with mgmtcmd := w },
             mgmt := { s.mgmt with cmds := s.mgmt.cmds ++ [⟨w.setWidth 48, .host⟩] } }
  else
    let m := off / 64
    let x := s.box m
    if m ≥ 256 then s
    else
      match off % 64 with
      | 0x00 => s.boxIn m (.word w)
      | 0x08 => if w.getLsbD 0 then s.boxIn m .last else if w.getLsbD 1 then s.boxIn m .token else s
      | 0x20 => s.setBox m { x with irqen := w.getLsbD 0, drop := x.drop && !w.getLsbD 1 }
      | 0x28 => s.setBox m { x with qhsdst := w.setWidth 23 }
      | 0x30 => s.qhsWrite m w
      | _ => s

/-! BAR4 (R421). -/

/-- The DRAM address behind an offset of BAR4. -/
def State.barAddr (s : State) (off : Nat) : Nat := 0x100000000000 + s.host.apbase + off

def State.completeHost (s : State) (data : List Byte) (abort : Bool) : State :=
  { s with outside := s.outside ++ [Outside.completion data abort] }

/-- An access of the host through BAR4: the memory servers perform it; a translation failure receives Completer Abort; none while it
must wait. -/
def State.bar4 (s : State) (off len : Nat) (data : List Byte) (write : Bool) : Option State :=
  let who : Who := ⟨hostDst, 0⟩
  match (if write then s.edgePut hostDst who none (s.barAddr off) data else s.edgeGet hostDst who none (s.barAddr off) len) with
  | .ok l t => some (if write then t else t.completeHost l false)
  | .fault _ _ t => some (t.completeHost [] true)
  | .wait => none

/-- FetchAdd, Swap and CAS of 32 and 64 bits on DRAM; anything else receives Completer Abort; none while it must wait. -/
def State.bar4Atomic (s : State) (off : Nat) (op : AtomOp) (size : Nat) (a b : DWord) : Option State :=
  let va := s.barAddr off
  let good := (op == .add || op == .swp || op == .cas) && (size == 4 || size == 8) && va % size == 0
  match (if good then s.pageOf va else none) with
  | none => some (s.completeHost [] true)
  | some p =>
    if p.ro then some (s.completeHost [] true)
    else if s.migrating va then none
    else
      (s.cross hostDst (serverDst p.home) [granulePlaces va size] 1).bind fun s =>
        match s.dramUpdate (engReq p.home ⟨hostDst, 0⟩ none va) p (p.pa va) size fun old =>
            leBytes (newValue op (8 * size) (leNat old) a.toNat b.toNat) size with
        | (t, .ok (old, _)) => (t.cross (serverDst p.home) hostDst [] 1).map fun t => t.completeHost old false
        | (t, .error _) => some (t.completeHost [] true)

/-! Requests of the host, in the order in which they come (10 R317). -/

/-- What a request of the host does; none while it must wait. -/
def State.hostDo (s : State) : Ev → Option State
  | .mailboxIn m w => some (s.boxIn m (.word w))
  | .mailboxLp m => some (s.boxIn m .last)
  | .mailboxToken m => some (s.boxIn m .token)
  | .mailboxOut m => some (s.boxOut m)
  | .qhsin m w => some (s.qhsWrite m w)
  | .registerWrite off w => some (s.barWrite off w)
  | .notifyWrite page reg w fromHost => some (s.notifyWritten page reg w fromHost)
  | .hostBar4Access off len data write => s.bar4 off len data write
  | .hostAtomicop off op size a b => s.bar4Atomic off op size a b
  | _ => some s

/-- What a request of the host comes to before the BARs are enabled (16 R445 step 5; log entry 161): a read through BAR4 ends with Completer
Abort, the rest has no effect. -/
def State.barsOff (s : State) : Ev → State
  | .hostBar4Access _ _ _ false => s.completeHost [] true
  | .hostAtomicop _ _ _ _ _ => s.completeHost [] true
  | _ => s

/-- A request of the host: behind those that wait, or at once where it may go; while the clocks are stopped none of those can go on, and none
is waited for. -/
def State.hostTurn (s : State) (e : Ev) : State :=
  let kept : State := { s with host := { s.host with kept := s.host.kept ++ [e] } }
  if !s.mgmt.verified then s.barsOff e
  else if s.host.kept.isEmpty || s.mgmt.power != .active then (s.hostDo e).getD kept else kept

/-- The requests of the host that wait go on in their order (structural on a count). -/
def State.retryHost : Nat → State → State
  | 0, s => s
  | n + 1, s =>
    match s.host.kept with
    | [] => s
    | e :: rest =>
      match ({ s with host := { s.host with kept := rest } }).hostDo e with
      | some t => State.retryHost n t
      | none => s

/-- MAILBOX_IN. -/
def execMailboxIn (m : Nat) (w : DWord) (s : State) : Host.Outcome State Fault Refusal := .next (s.hostTurn (.mailboxIn m w))

/-- MAILBOX_LP. -/
def execMailboxLp (m : Nat) (s : State) : Host.Outcome State Fault Refusal := .next (s.hostTurn (.mailboxLp m))

/-- MAILBOX_TOKEN. -/
def execMailboxToken (m : Nat) (s : State) : Host.Outcome State Fault Refusal := .next (s.hostTurn (.mailboxToken m))

/-- MAILBOX_OUT. -/
def execMailboxOut (m : Nat) (s : State) : Host.Outcome State Fault Refusal := .next (s.hostTurn (.mailboxOut m))

/-- QHSIN. -/
def execQhsin (m : Nat) (w : DWord) (s : State) : Host.Outcome State Fault Refusal := .next (s.hostTurn (.qhsin m w))

/-- REGISTER_WRITE. -/
def execRegisterWrite (off : Nat) (w : DWord) (s : State) : Host.Outcome State Fault Refusal := .next (s.hostTurn (.registerWrite off w))

/-- NOTIFY_WRITE: of the host through BAR2, in its order, or of a peer module. -/
def execNotifyWrite (page reg : Nat) (w : DWord) (fromHost : Bool) (s : State) : Host.Outcome State Fault Refusal :=
  .next (if fromHost then s.hostTurn (.notifyWrite page reg w true) else s.notifyWritten page reg w false)

/-- HOST_BAR4_ACCESS. -/
def execHostBar4Access (off len : Nat) (data : List Byte) (write : Bool) (s : State) : Host.Outcome State Fault Refusal :=
  .next (s.hostTurn (.hostBar4Access off len data write))

/-- HOST_ATOMICOP. -/
def execHostAtomicop (off : Nat) (op : AtomOp) (size : Nat) (a b : DWord) (s : State) : Host.Outcome State Fault Refusal :=
  .next (s.hostTurn (.hostAtomicop off op size a b))

end Sys2Proof.Machine
end

