-- ==== Sys2Proof/Machine/Collective.lean ====
section
/-! DEFINITION. Collectives at the Sorting Office (15 R413 to R420). -/

namespace Sys2Proof.Machine

/-! The request block (Table 15-4). -/

/-- A request block, with its fields by place. -/
structure Block where
  bytes : List Byte

def Block.at (b : Block) (o n : Nat) : Nat := fieldOf b.bytes o n
def Block.op (b : Block) : Nat := b.at 0 1 % 16
def Block.dtype (b : Block) : Nat := b.at 1 1
def Block.rop (b : Block) : Nat := b.at 2 1
def Block.canon (b : Block) : Bool := b.at 3 1 % 2 == 1
def Block.rank (b : Block) : Nat := b.at 4 2
def Block.nrank (b : Block) : Nat := b.at 6 2
def Block.count (b : Block) : Nat := b.at 8 4
def Block.limit (b : Block) : Nat := if b.at 12 4 = 0 then 10000 else b.at 12 4
def Block.comm (b : Block) : Nat := b.at 48 3
def Block.seq (b : Block) : Nat := b.at 52 4

/-- The notice's target core and port. -/
def Block.notify (b : Block) : Option (Nat × Nat) :=
  let w := b.at 56 4
  if w / 2 ^ 31 = 1 then some (handleCore (BitVec.ofNat 64 (w % 2 ^ 23)), w / 2 ^ 24 % 32) else none

/-- The bytes of an element of a DTYPE; 72 for an FXA cell. -/
def elemBytes (dtype : Nat) : Nat :=
  match dtype with
  | 0 => 8
  | 1 => 4
  | 2 => 2
  | 3 => 2
  | 4 => 8
  | 5 => 4
  | _ => 72

/-- Whether a rank takes part in an operation with data of its own, and with data to write; root: whether it is the root of the tree
(R417). -/
def readsSrc (op : Nat) (root : Bool) : Bool := op != 0 && (op != 3 || root)
def writesDst (op : Nat) (root : Bool) : Bool := op != 0 && (op != 2 || root)

/-- Whether an address of a block is outside its limit. -/
def farAddr (a : Nat) : Bool := a % 8 != 0 || !inDram a

/-- Whether SRC or DST is outside its limit, where the rank uses it. -/
def Block.badEnds (b : Block) (root : Bool) : Bool :=
  (readsSrc b.op root && farAddr (b.at 16 8)) || (writesDst b.op root && farAddr (b.at 24 8))

/-- Whether a field is reserved and set, or outside its limit (R416, code 1): of SRC and DST what does not hang on an explicit tree. -/
def Block.bad (b : Block) : Bool :=
  let w := b.at 56 4
  decide (b.at 0 1 > 5) || !(decide (b.dtype ≤ 5) || b.dtype == 16) || decide (b.rop > 2) || (b.dtype == 16 && b.rop != 0) ||
    decide (b.at 3 1 > 1) || b.nrank == 0 || decide (b.nrank > 8192) || decide (b.rank ≥ b.nrank) || decide (b.count > 2 ^ 30) ||
    (b.op == 0 && b.count != 0) || b.badEnds (b.canon && b.rank == 0) ||
    (!b.canon && farAddr (b.at 32 8)) || farAddr (b.at 40 8) || b.at 51 1 != 0 || w / 2 ^ 23 % 2 != 0 || w / 2 ^ 29 % 4 != 0 ||
    (w / 2 ^ 31 == 1 && (w % 256 != 0 || decide (w / 256 % 4096 > 2303))) || b.at 60 4 != 0 || (b.bytes.drop 72).take 24 != List.replicate 24 0

/-! Trees (R414, R415). -/

/-- A node: parent, children, OWNPOS. -/
structure Node where
  parent : Option Nat
  children : List Nat
  ownpos : Nat
  deriving DecidableEq, Repr

/-- A rank's node of the canonical tree over n ranks. -/
def canonNode (n r : Nat) : Node :=
  let c := [2 * r + 1, 2 * r + 2].filter fun x => decide (x < n)
  ⟨if r = 0 then none else some ((r - 1) / 2), c, if c.isEmpty then 0 else 1⟩

/-- A node of a tree table's entry; none where NCHILD or OWNPOS is outside its limit. -/
def tableNode (l : List Byte) : Option Node :=
  let k := fieldOf l 2 1
  let own := fieldOf l 3 1
  if k > 16 ∨ own > k then none
  else some ⟨if fieldOf l 0 2 = 0xFFFF then none else some (fieldOf l 0 2), (List.range k).map fun i => fieldOf l (4 + 2 * i) 2, own⟩

/-- All or nothing of a list of options. -/
def allSome {α : Type} : List (Option α) → Option (List α)
  | [] => some []
  | some x :: t => (allSome t).map fun r => x :: r
  | none :: _ => none

def Node.reset : Node := ⟨none, [], 0⟩

/-- The ranks reached from ranks in a count of levels. -/
def reached (t : List Node) : Nat → List Nat → List Nat
  | 0, _ => []
  | _ + 1, [] => []
  | f + 1, l => l ++ reached t f (l.flatMap fun r => (t.getD r Node.reset).children)

/-- Whether a tree is valid: one root, every child names its parent, every rank reached once. -/
def validTree (t : List Node) : Bool :=
  let roots := (List.range t.length).filter fun r => (t.getD r Node.reset).parent.isNone
  let named := (List.range t.length).all fun r => (t.getD r Node.reset).children.all fun c =>
    decide (c < t.length) && (t.getD c Node.reset).parent == some r
  let seen := (reached t t.length roots).take (t.length + 1)
  decide (roots.length = 1) && named && decide (seen.length = t.length) && (List.range t.length).all fun r => seen.contains r

/-- A node in the form that TREEHASH covers. -/
def Node.hashed (n : Node) : List Byte :=
  leBytes (n.parent.getD 0xFFFF) 2 ++ [BitVec.ofNat 8 n.children.length, BitVec.ofNat 8 n.ownpos] ++
    n.children.flatMap fun c => leBytes c 2

/-- TREEHASH (R416). -/
def treeHash (t : List Node) : BitVec 256 := Config.shake256 (leBytes t.length 2 ++ t.flatMap Node.hashed)

/-- The tree of a block: a rejection code, or its nodes. -/
def State.treeOf (s : State) (b : Block) : Except Nat (List Node) :=
  if b.canon then .ok ((List.range b.nrank).map (canonNode b.nrank))
  else
    match s.vBytes (b.at 32 8) (40 * b.nrank) with
    | none => .error 3
    | some l =>
      match allSome ((chunks 40 b.nrank l).map tableNode) with
      | none => .error 2
      | some t => if validTree t then .ok t else .error 2

/-- The links of ranks from the rank map: rank, link, module. -/
def State.rankLinks (s : State) (b : Block) : List Nat → Except Nat (List (Nat × Nat × Nat))
  | [] => .ok []
  | r :: t =>
    match s.vBytes (b.at 40 8 + 8 * r) 8 with
    | none => .error 3
    | some l =>
      let w := leNat l
      if w / 2 ^ 31 % 2 = 0 ∨ w / 2 ^ 24 % 128 ≠ 0 ∨ w / 2 ^ 32 ≠ 0 then .error 1
      else
        match s.rankLinks b t with
        | .error c => .error c
        | .ok m => .ok ((r, w % 256, w / 256 % 65536) :: m)

/-! Combining (R417). -/

/-- The element range that a rank owns: first element and count. -/
def ownRange (count n r : Nat) : Nat × Nat :=
  let q := count / n
  let m := count % n
  (r * q + min r m, if r < m then q + 1 else q)

/-- The flags of a combination as STATUS keeps them: NV, OF, UF, NX. -/
def statusFlags (f : BitVec 7) : BitVec 4 :=
  BitVec.ofNat 4 ((f.getLsbD 0).toNat + 2 * (f.getLsbD 2).toNat + 4 * (f.getLsbD 3).toNat + 8 * (f.getLsbD 4).toNat)

/-- The floating layout of a DTYPE. -/
def collFmt (dtype : Nat) : Option FpFmt :=
  match dtype with
  | 0 => some fp64
  | 1 => some fp32
  | 2 => some bf16
  | 3 => some fp16
  | _ => none

/-- Combine of two elements: pattern and flags. -/
def combineElem (dtype rop a b : Nat) : Nat × BitVec 7 :=
  match collFmt dtype with
  | some f =>
    if rop = 0 then f.out 0 false (fpAdd 0 (f.decode a) (f.decode b)) else f.minMax (rop == 2) a b
  | none =>
    let n := 8 * elemBytes dtype
    if rop = 0 then ((a + b) % 2 ^ n, 0)
    else
      let less := (BitVec.ofNat n a).slt (BitVec.ofNat n b)
      (if (rop == 1) == less then a else b, 0)

/-- Combine of two vectors of elements; a gather places the ranges side by side. -/
def combine (op dtype rop : Nat) (x y : List Byte × BitVec 4) : List Byte × BitVec 4 :=
  if op = 5 then (List.zipWith (fun a b => a ||| b) x.1 y.1, x.2 ||| y.2)
  else
    let n := elemBytes dtype
    let k := x.1.length / n
    let r := List.zipWith (fun a b => combineElem dtype rop (leNat a) (leNat b)) (chunks n k x.1) (chunks n k y.1)
    (r.flatMap fun e => leBytes e.1 n, r.foldl (fun f e => f ||| statusFlags e.2) (x.2 ||| y.2))

/-- The combination of ordered inputs. -/
def combineAll (op dtype rop : Nat) : List (List Byte × BitVec 4) → List Byte × BitVec 4
  | [] => ([], 0)
  | x :: t => t.foldl (combine op dtype rop) x

/-! The records of the Sorting Office. -/

def State.setColls (s : State) (l : List Collective) : State := { s with office := { s.office with colls := l } }

def State.coll? (s : State) (comm seq : Nat) : Option Collective := s.office.colls.find? fun c => c.comm == comm && c.seq == seq

/-- A record written over the one of its COMM and SEQ. -/
def State.putColl (s : State) (c : Collective) : State :=
  s.setColls ((s.office.colls.filter fun x => !(x.comm == c.comm && x.seq == c.seq)) ++ [c])

def Collective.isOpen (c : Collective) : Bool := c.state == 0 && c.who.isSome

/-- The bytes of a node's data. -/
def Collective.total (c : Collective) : Nat := if c.op = 0 then 0 else c.count * elemBytes c.dtype

/-- What a record without a submission at this module is: an abort that came first. -/
def Collective.early (comm seq limit now : Nat) : Collective :=
  { comm := comm, seq := seq, block := 0, who := none, job := none, op := 0, dtype := 0, rop := 0, rank := 0, nrank := 0,
    count := 0, limit := limit, src := 0, dst := 0, parent := none, children := [], ownpos := 0, links := [], notify := none,
    inputs := [], own := [], result := none, state := 2, start := now, decided := some false, asked := true }

/-- A frame of a collective to a rank of its tree: KIND 5 with data, KIND 6 with a decision; the limit travels with an
abort. -/
def State.collFrame (s : State) (c : Collective) (kind rank : Nat) (data : List Byte) (flags : BitVec 4) (commit down : Bool) :
    State :=
  match c.links.find? fun l => l.1 == rank with
  | none => s
  | some l =>
    s.outFrame { frameOf l.2.1 kind 0 with dstMod := l.2.2, arg := BitVec.ofNat 64 (c.comm + c.seq * 2 ^ 32),
                                           arg2 := BitVec.ofNat 64 c.limit, write := down, data := data, ok := commit,
                                           code := flags.toNat }

/-- A write of the Sorting Office: none while it must wait; one that fails translation has no effect. -/
def State.officeWrite (s : State) (job : Option Nat) (va : Nat) (l : List Byte) : Option State :=
  match s.edgePut officeDst ⟨officeDst, 0⟩ job va l with
  | .ok _ t | .fault _ _ t => some t
  | .wait => none

/-- STATUS of a block: state, code, flags (Table 15-4); none while the write must wait. -/
def State.putStatus (s : State) (block state code : Nat) (flags : BitVec 4) : Option State :=
  s.officeWrite none (block + 64) (leBytes (state + 256 * code + flags.toNat * 65536) 8)

/-- Whether the job of a submission, if it had one, is still live; the traffic of an abandoned one is discarded (12 R355). -/
def State.stillLive (s : State) (job : Option Nat) : Bool := job.isNone || (job.bind s.jobs.get?).isSome

/-- The notice of a rank (R419): a POST of the completion word. -/
def State.notice (s : State) (job : Option Nat) (target : Option (Nat × Nat)) (seq state code : Nat) (flags : BitVec 4) : State :=
  match (if s.stillLive job then target else none) with
  | none => s
  | some (c, port) =>
    let w : DWord := BitVec.ofNat 64 (state + 256 * code + flags.toNat * 65536 + seq * 2 ^ 32)
    (s.countSend job (c / 2304)).sendFrom officeDst c none [] (some (portPlace c port))
      (.postArrival { who := ⟨officeDst, 0⟩, op := s.nextId, port := port, word := w, wait := false, job := job, srcDie := 0 })

/-- COLLECTIVE_TIMEOUT against the submitter (R420). -/
def State.timeoutTrap (s : State) (c : Collective) : State :=
  match c.who with
  | none => s
  | some w =>
    if !s.stillLive c.job then s
    else
      s.onCore w.core fun t =>
        if w.ent ≥ 256 then t.coreTrap collectiveTimeout (c.block.setWidth 64) 0 []
        else t.raiseAsync w.ent (asyncOf collectiveTimeout 0 (c.block.setWidth 64) 0 0 none false)

/-- A collective's outcome is due at this rank. -/
def State.completeLater (s : State) (c : Collective) : State :=
  s.sendFrom officeDst officeDst none [] none (.collectiveComplete c.comm c.seq)

/-- The abort reaches a rank (R420): the children hear of it, and its outcome is due. -/
def State.abortColl (s : State) (c : Collective) : State :=
  let s := s.putColl { c with decided := some false }
  (c.children.foldl (fun u r => u.collFrame c 6 r [] 0 false true) s).completeLater c

/-- The abort is told to the sender of a frame, a child of a rank that has not submitted and does not know its tree (R420; log entry
159). -/
def State.tellAbort (s : State) (c : Collective) (f : Frame) : State :=
  s.outFrame { frameOf f.link 6 0 with dstMod := f.srcMod, arg := f.arg, arg2 := BitVec.ofNat 64 c.limit, write := true, ok := false }

/-- The commit reaches a rank: the children hear of it, and its completion is due. -/
def State.commitColl (s : State) (c : Collective) (flags : BitVec 4) : State :=
  let c := { c with decided := some true, result := some ((c.result.getD ([], 0)).1, flags) }
  let s := s.putColl c
  (c.children.foldl (fun u r => u.collFrame c 6 r [] flags true true) s).completeLater c

/-- Whether the root's result goes down the tree. -/
def sendsDown (op : Nat) : Bool := op != 0 && op != 2

/-- A result at a rank goes on down the tree. -/
def State.resultColl (s : State) (c : Collective) (r : List Byte × BitVec 4) : State :=
  let c := { c with result := some r }
  let s := s.putColl c
  if sendsDown c.op then c.children.foldl (fun u k => u.collFrame c 5 k r.1 r.2 false true) s else s

/-- What has come from a rank, when all of it has. -/
def Collective.whole (c : Collective) (r : Nat) : Option (List Byte × BitVec 4) :=
  match c.inputs.find? fun x => x.1 == r with
  | some x => if x.2.1.length < c.total then none else some x.2
  | none => none

/-- A frame's data and flags join what has come from a rank: data of more than 128 flits comes in several frames (log entry 154). -/
def Collective.takes (c : Collective) (r : Nat) (l : List Byte) (flags : BitVec 4) : Collective :=
  match c.inputs.find? fun x => x.1 == r with
  | some x => { c with inputs := (c.inputs.filter fun y => y.1 != r) ++ [(r, (x.2.1 ++ l).take c.total, x.2.2 ||| flags)] }
  | none => { c with inputs := c.inputs ++ [(r, l.take c.total, flags)] }

/-- The inputs of a node in order, its own contribution at OWNPOS; none while one is missing. -/
def Collective.ordered (c : Collective) : Option (List (List Byte × BitVec 4)) :=
  let kids := c.children.map c.whole
  allSome (kids.take c.ownpos ++ [some (c.own, 0)] ++ kids.drop c.ownpos)

/-- A node with every input combines them and sends the result up; the root holds the final result and commits. -/
def State.advanceColl (s : State) (c : Collective) : State :=
  if c.decided.isSome ∨ c.result.isSome then s
  else
    match (if c.op = 3 then (if c.parent.isNone then some [(c.own, 0)] else none) else c.ordered) with
    | none => s
    | some l =>
      let r := combineAll c.op c.dtype c.rop l
      match c.parent with
      | some p => s.collFrame c 5 p r.1 r.2 false false
      | none =>
        let t := s.resultColl c r
        t.commitColl { c with result := some r } r.2

/-! Submission (R416). -/

/-- A rejection: STATE 3 and the code, with the notice; none while the write must wait. -/
def State.rejectColl (s : State) (b : Block) (block code : Nat) (job : Option Nat) : Option State :=
  (s.putStatus block 3 code 0).map fun t => t.notice job (if b.at 56 4 % 256 = 0 then b.notify else none) b.seq 3 code 0

/-- A rank's own contribution: its SRC, or, in a gather, its range among zeros. -/
def State.ownBytes (s : State) (b : Block) (root : Bool) : Option (List Byte) :=
  let n := elemBytes b.dtype
  if !readsSrc b.op root then some []
  else if b.op = 5 then
    let r := ownRange b.count b.nrank b.rank
    (s.vBytes (b.at 16 8) (r.2 * n)).map fun l => List.replicate (r.1 * n) 0 ++ l ++ List.replicate ((b.count - r.1 - r.2) * n) 0
  else s.vBytes (b.at 16 8) (b.count * n)

/-- The bytes a rank's DST receives. -/
def dstBytes (b : Block) (root : Bool) : Nat :=
  if !writesDst b.op root then 0
  else if b.op = 4 then (ownRange b.count b.nrank b.rank).2 * elemBytes b.dtype
  else b.count * elemBytes b.dtype

/-- Whether every page of n bytes may be written (structural on a count of pages). -/
def State.writable (s : State) : Nat → Nat → Nat → Bool
  | 0, _, _ => true
  | f + 1, va, n =>
    n == 0 || (match s.pageOf va with
      | some p => !p.ro && s.writable f (va / 2 ^ 21 * 2 ^ 21 + 2 ^ 21) (n - min n (2 ^ 21 - va % 2 ^ 21))
      | none => false)

/-- The checks of a submission in their order: a code, or the tree, the links and the own contribution. -/
def State.checkColl (s : State) (b : Block) : Except Nat (List Node × List (Nat × Nat × Nat) × List Byte) :=
  if b.bad then .error 1
  else
    match s.treeOf b with
    | .error c => .error c
    | .ok t =>
      let me := t.getD b.rank Node.reset
      let root := me.parent.isNone
      if b.badEnds root then .error 1
      else
      match s.rankLinks b (me.parent.toList ++ me.children) with
      | .error c => .error c
      | .ok m =>
        match s.ownBytes b root with
        | none => .error 3
        | some own =>
          if !s.writable (dstBytes b root / 2 ^ 21 + 2) (b.at 24 8) (dstBytes b root) then .error 3
          else if (s.office.colls.filter Collective.isOpen).length ≥ 256 then .error 4
          else if s.office.colls.any fun c => c.isOpen && c.comm == b.comm && c.seq == b.seq then .error 5
          else .ok (t, m, own)

/-- The record of an accepted submission. -/
def newColl (b : Block) (block : Addr) (who : Who) (job : Option Nat) (me : Node) (links : List (Nat × Nat × Nat))
    (own : List Byte) (now : Nat) : Collective :=
  { comm := b.comm, seq := b.seq, block := block, who := some who, job := job, op := b.op, dtype := b.dtype, rop := b.rop,
    rank := b.rank, nrank := b.nrank, count := b.count, limit := b.limit, src := b.at 16 8, dst := b.at 24 8, parent := me.parent,
    children := me.children, ownpos := me.ownpos, links := links, notify := b.notify, inputs := [], own := own, result := none,
    state := 0, start := now, decided := none, asked := false }

/-! Frames of collectives. -/

def frameComm (f : Frame) : Nat := bits f.arg 0 24
def frameSeq (f : Frame) : Nat := bits f.arg 32 32

/-- The rank at the far end of a frame's link. -/
def Collective.fromRank (c : Collective) (f : Frame) : Option Nat :=
  (c.links.find? fun l => l.2.1 == f.link && l.2.2 == f.srcMod).map fun l => l.1

/-- Whether a record stands for an abort that came before this rank's submission. -/
def Collective.isEarly (c : Collective) : Bool := c.who.isNone && c.decided == some false

/-- A KIND 5 frame at a record: data of a child, or of the result from the parent. -/
def State.collData (s : State) (c : Collective) (f : Frame) (down : Bool) (flags : BitVec 4) : State :=
  if c.isEarly then (if down then s else s.tellAbort c f)
  else if c.state ≠ 0 ∨ c.decided.isSome = true then s
  else
    match c.fromRank f with
    | none => s
    | some r =>
      if down then
        let d := c.takes r f.data flags
        if c.parent = some r ∧ c.result.isNone = true then
          (match d.whole r with
           | some x => s.resultColl d x
           | none => s.putColl d)
        else s
      else if c.children.contains r ∧ (c.whole r).isNone then
        let d := c.takes r f.data flags
        (s.putColl d).advanceColl d
      else s

/-- A KIND 6 frame at a record: an abort request on its way to the root, or the root's decision on its way down. -/
def State.collControl (s : State) (c : Collective) (f : Frame) (commit down : Bool) : State :=
  if c.isEarly then (if down then s else s.tellAbort c f)
  else if c.decided.isSome ∨ c.state ≠ 0 then s
  else if down then (if commit then s.commitColl c (BitVec.ofNat 4 f.code) else s.abortColl c)
  else
    match c.parent with
    | some p => s.collFrame c 6 p [] 0 false false
    | none => s.abortColl c

/-- The frame of an event of a collective, and whether it goes up the tree. -/
def collFrameOf : Ev → Option (Frame × Bool)
  | .collectiveData f down _ => some (f, !down)
  | .collectiveControl f _ down => some (f, !down)
  | _ => none

/-- Whether an event is a frame of a collective. -/
def ofColl (comm seq : Nat) (e : Ev) : Bool := (collFrameOf e).any fun x => frameComm x.1 == comm && frameSeq x.1 == seq

/-- A frame of a collective at the Sorting Office: before this rank's own submission it waits there, in its order; but an abort from the
parent stands at once, and every child that has sent a frame is told (R420). -/
def State.collArrive (s : State) (e : Ev) : State :=
  match collFrameOf e with
  | none => s
  | some (f, _) =>
    match s.coll? (frameComm f) (frameSeq f), e with
    | some c, .collectiveData f down flags => s.collData c f down flags
    | some c, .collectiveControl f commit down => s.collControl c f commit down
    | none, .collectiveControl f false true =>
      let c := Collective.early (frameComm f) (frameSeq f) f.arg2.toNat s.now
      let up := (s.office.early.filter (ofColl c.comm c.seq)).filterMap fun x => (collFrameOf x).filter fun y => y.2
      let kids := up.foldl (fun (l : List Frame) y => if l.any fun g => g.link == y.1.link && g.srcMod == y.1.srcMod then l else l ++ [y.1]) []
      let t := { s with office := { s.office with early := s.office.early.filter fun x => !ofColl c.comm c.seq x } }
      kids.foldl (fun u g => u.tellAbort c g) (t.putColl c)
    | _, _ => { s with office := { s.office with early := s.office.early ++ [e] } }

/-- The frames that have waited for a rank's submission take effect, in their order. -/
def State.replayEarly (s : State) (comm seq : Nat) : State :=
  let mine := s.office.early.filter (ofColl comm seq)
  mine.foldl State.collArrive { s with office := { s.office with early := s.office.early.filter fun x => !ofColl comm seq x } }

/-- The submission of a block: its checks, then its record and what has come for it (R416); none while a write must wait. -/
def State.submitColl (s : State) (block : Addr) (who : Who) (job : Option Nat) : Option State :=
  match s.vBytes block.toNat 128 with
  | none => some s
  | some l =>
    let s := s.vNote block.toNat 128 job
    let b : Block := ⟨l⟩
    match (if block.toNat % 64 ≠ 0 then Except.error 1 else s.checkColl b) with
    | .error c => s.rejectColl b block.toNat c job
    | .ok (t, m, own) =>
      let h := treeHash t
      let c := newColl b block who job (t.getD b.rank Node.reset) m own s.now
      (s.officeWrite job (block.toNat + 96) (hashBytes h)).map fun u =>
        let u := u.modJob job fun j => { j with coll := j.coll + h }
        match s.coll? b.comm b.seq with
        | some x => if x.decided = some false then u.abortColl c else ((u.putColl c).advanceColl c).replayEarly b.comm b.seq
        | none => ((u.putColl c).advanceColl c).replayEarly b.comm b.seq

/-! Frames of a link in their order (R406), and submissions in theirs. -/

/-- What a frame, or a submission, does; none while it must wait. -/
def State.frameGo (s : State) : Ev → Option State
  | .streamMessage f => some (s.streamFrameIn f)
  | .accessRequest f => s.serveRequest f
  | .writeWithEnqueue f => s.serveWrite f
  | .collectiveSubmit block who job => s.submitColl block who job
  | _ => some s

/-- A frame of a link, or a submission as link 256: behind those that wait, or at once where it may go. -/
def State.takeFrame (s : State) (link : Nat) (e : Ev) : State :=
  let kept : State := { s with office := { s.office with kept := s.office.kept ++ [(link, e)] } }
  if s.office.kept.any fun k => k.1 == link then kept else (s.frameGo e).getD kept

/-- What waits of a link goes on in its order (structural on a count). -/
def State.retryLink : Nat → State → Nat → State
  | 0, s, _ => s
  | n + 1, s, link =>
    match s.office.kept.find? fun k => k.1 == link with
    | none => s
    | some k =>
      match ({ s with office := { s.office with kept := s.office.kept.erase k } }).frameGo k.2 with
      | some t => State.retryLink n t link
      | none => s

/-- The same of every link. -/
def State.retryFrames (s : State) : State :=
  (s.office.kept.map fun k => k.1).eraseDups.foldl (fun t l => State.retryLink s.office.kept.length t l) s

/-- STREAM_MESSAGE. -/
def execStreamMessage (f : Frame) (s : State) : Host.Outcome State Fault Refusal := .next (s.takeFrame f.link (.streamMessage f))

/-- ACCESS_REQUEST. -/
def execAccessRequest (f : Frame) (s : State) : Host.Outcome State Fault Refusal := .next (s.takeFrame f.link (.accessRequest f))

/-- WRITE_WITH_ENQUEUE. -/
def execWriteWithEnqueue (f : Frame) (s : State) : Host.Outcome State Fault Refusal := .next (s.takeFrame f.link (.writeWithEnqueue f))

/-- The flush read that a submission waits for, with the state after it has been issued: the submitter's accesses to the
host window are performed at system scope first (R416). -/
def State.submitFlush (s : State) (who : Who) : Option (Nat × State) :=
  match (s.coreAt who.core).fibre? who.ent with
  | none => none
  | some f =>
    match f.flush with
    | some n => some (n, s)
    | none => if f.unflushed then some (s.nextId, s.startFlush who) else none

/-- COLLECTIVE_SUBMIT: behind a flush read where one is due; rejected, aborted at once where the abort came first, or
accepted with its TREEHASH. -/
def execCollectiveSubmit (block : Addr) (who : Who) (job : Option Nat) (s : State) : Host.Outcome State Fault Refusal :=
  .next (match s.submitFlush who with
    | some (n, t) => t.sendFrom officeDst officeDst (some who) [n] (some (2 ^ 53)) (.collectiveSubmit block who job)
    | none => s.takeFrame 256 (.collectiveSubmit block who job))

/-- COLLECTIVE_DATA: an input from a child, or the result from the parent; before this rank's own submission it waits. -/
def execCollectiveData (f : Frame) (down : Bool) (flags : BitVec 4) (s : State) : Host.Outcome State Fault Refusal :=
  .next (s.collArrive (.collectiveData f down flags))

/-- COLLECTIVE_CONTROL: an abort request on its way to the root, or the root's decision on its way down. A request waits
for this rank's own submission, which names its parent. -/
def execCollectiveControl (f : Frame) (commit down : Bool) (s : State) : Host.Outcome State Fault Refusal :=
  .next (s.collArrive (.collectiveControl f commit down))

/-! Completion and limits (R419, R420). -/

/-- What a rank writes at DST. -/
def Collective.written (c : Collective) (l : List Byte) : List Byte :=
  if !writesDst c.op c.parent.isNone then []
  else if c.op = 4 then
    let r := ownRange c.count c.nrank c.rank
    (l.drop (r.1 * elemBytes c.dtype)).take (r.2 * elemBytes c.dtype)
  else l

/-- The last steps of a collective at a rank: STATUS, then the notice, and on an abort the trap (R419, R420); none while the write must
wait. -/
def State.endColl (s : State) (c : Collective) (ok : Bool) (flags : BitVec 4) : Option State :=
  let n := if ok then 1 else 2
  (s.putStatus c.block.toNat n 0 flags).map fun t =>
    let u := (t.putColl { c with state := n }).notice c.job c.notify c.seq n 0 flags
    if ok then u else u.timeoutTrap c

/-- The write of a rank's DST; none while it must wait. -/
def State.putResult (s : State) (c : Collective) : Option State :=
  let l := c.written (c.result.getD ([], 0)).1
  if l.isEmpty then some s else s.officeWrite c.job c.dst l

/-- COLLECTIVE_COMPLETE: on a commit the writes to DST; STATUS; the notice. It comes again while a write must wait. -/
def execCollectiveComplete (comm seq : Nat) (s : State) : Host.Outcome State Fault Refusal :=
  .next (match s.coll? comm seq with
    | none => s
    | some c =>
      if c.state ≠ 0 then s
      else
        match c.decided with
        | none => s
        | some true => ((s.putResult c).bind fun t => t.endColl c true (c.result.getD ([], 0)).2).getD (s.completeLater c)
        | some false => (s.endColl c false 0).getD (s.completeLater c))

/-- COLLECTIVE_LIMIT_EXPIRY: without its result by then, a rank asks its parent for an abort; the root decides on it. -/
def execCollectiveLimitExpiry (comm seq : Nat) (s : State) : Host.Outcome State Fault Refusal :=
  .next (match s.coll? comm seq with
    | none => s
    | some c =>
      if c.state ≠ 0 ∨ c.decided.isSome = true ∨ c.result.isSome = true ∨ c.asked = true ∨ s.now < c.start + c.limit * 1000 then s
      else
        match c.parent with
        | some p => (s.putColl { c with asked := true }).collFrame c 6 p [] 0 false false
        | none => s.abortColl c)

/-- COLLECTIVE_RECORD_EXPIRY: a decided record is released once it has been held for twice its limit. -/
def execCollectiveRecordExpiry (comm seq : Nat) (s : State) : Host.Outcome State Fault Refusal :=
  .next (match s.coll? comm seq with
    | none => s
    | some c =>
      if c.state ≠ 0 ∧ s.now ≥ c.start + 2 * c.limit * 1000 then
        s.setColls (s.office.colls.filter fun x => !(x.comm == comm && x.seq == seq))
      else s)

end Sys2Proof.Machine
end

