-- ==== Sys2Proof/Machine/Command.lean ====
section
/-! DEFINITION. Management commands: the block, its checks and its end (16 R443, R444), and the commands on cores' jobs:
urgent tasks, clocks, caps, tables, counters. -/

namespace Sys2Proof.Machine

/-! The command block (Table 16-7). -/

/-- The arguments of a command, with the address of its block. -/
structure CmdArgs where
  siglen : Nat
  a0 : Nat
  a1 : Nat
  a2 : Nat
  nonce : List Byte
  head : List Byte
  block : Nat
  deriving DecidableEq, Repr

/-- The operation code of a command's block. -/
def State.cmdOp (s : State) (c : Cmd) : Option Nat := (s.vBytes c.block.toNat 1).map leNat

/-- The arguments that a block holds. -/
def argsOf (block : Nat) (l : List Byte) : CmdArgs :=
  { siglen := fieldOf l 2 2, a0 := fieldOf l 8 8, a1 := fieldOf l 16 8, a2 := fieldOf l 24 8, nonce := l.drop 32, head := l.take 64,
    block := block }

/-- Which fields a command names: A0, A1, A2, bytes of NONCE from 32, a signature. -/
structure Names where
  a0 : Bool
  a1 : Bool
  a2 : Bool
  nonce : Nat
  sig : Bool
  deriving DecidableEq, Repr

/-- Whether a block sets a field its command does not name, or a reserved byte (R444). -/
def unnamed (n : Names) (l : List Byte) (a : CmdArgs) : Bool :=
  fieldOf l 4 4 != 0 || (!n.sig && a.siglen != 0) || (!n.a0 && a.a0 != 0) || (!n.a1 && a.a1 != 0) || (!n.a2 && a.a2 != 0) ||
    (a.nonce.drop n.nonce).any (· != 0)

/-- A command begins: it leaves the queue, whose head it is, its block is read and checked, its OP with it; k carries it out. Commands execute
one at a time, in order of arrival (R443). -/
def State.command (s : State) (c : Cmd) (op : Nat) (n : Names) (k : CmdArgs → State → State) : Host.Outcome State Fault Refusal :=
  .next (if !s.mgmt.waiting.isEmpty || s.mgmt.power == .off || s.mgmt.cmds.head? != some c then s
    else
      let s1 := { s with mgmt := { s.mgmt with cmds := s.mgmt.cmds.tail } }
      if c.block.toNat % 64 ≠ 0 ∨ inDram c.block.toNat = false then s1.finishCmd c translation
      else
        let s2 := s1.vNote c.block.toNat 64
        match s1.vBytes c.block.toNat 64 with
        | none => s2.finishCmd c (s1.vFault c.block.toNat 64)
        | some l =>
          let a := argsOf c.block.toNat l
          if fieldOf l 0 1 ≠ op ∨ unnamed n l a = true then s2.finishCmd c reservedField else k a s2)

/-- A command that cannot begin yet is at the head of the queue again. -/
def State.retryCmd (s : State) (c : Cmd) : State := { s with mgmt := { s.mgmt with cmds := c :: s.mgmt.cmds } }

/-- A command that goes on after this step. -/
def State.holdCmd (s : State) (c : Cmd) : State := { s with mgmt := { s.mgmt with waiting := [c] } }

def named0 : Names := ⟨false, false, false, 0, false⟩

/-! Arguments. -/

/-- The live job of a number. -/
def State.liveJob (s : State) (n : Nat) : Option Job := s.jobs.get? n

/-- A core in the handle layout with ENTRY 0 (06 R214). -/
def coreArg (v : Nat) : Option Nat :=
  if v % 256 ≠ 0 ∨ v ≥ 2 ^ 23 ∨ v / 256 % 4096 > 2303 then none else some (v / 2 ^ 20 * 2304 + v / 256 % 4096)

/-- A fibre handle. -/
def fibreArg (v : Nat) : Option Who :=
  if v ≥ 2 ^ 23 ∨ v / 256 % 4096 > 2303 then none else some ⟨v / 2 ^ 20 * 2304 + v / 256 % 4096, v % 256⟩

/-! Signatures (R426, R427, R429). -/

/-- The message a command's signature covers: its block's first 64 bytes with STATUS zero. -/
def signedHead (a : CmdArgs) : List Byte := a.head.take 1 ++ [0] ++ a.head.drop 2

/-- The signature bytes of a block. -/
def State.sigBytes (s : State) (a : CmdArgs) : List Byte := (s.vBytes (a.block + 64) a.siglen).getD []

/-- A valid signature of a command under a key. -/
def State.signedBy (s : State) (a : CmdArgs) (key : BitVec 256) : Bool :=
  a.siglen != 0 && Config.falconValid key (signedHead a) (s.sigBytes a)

def fromHost (c : Cmd) : Bool := c.sub == .host

/-! Urgent work (13 R373). -/

/-- URGENT: an entry joins the queue of a core; with WAIT the command ends with the task. -/
def execUrgent (c : Cmd) (s : State) : Host.Outcome State Fault Refusal :=
  s.command c 0x05 ⟨true, true, true, 1, false⟩ fun a s =>
    match coreArg a.a0 with
    | none => s.finishCmd c reservedField
    | some k =>
      if a.a1 ≥ 2 ^ 48 ∨ a.a1 % 4 ≠ 0 ∨ leNat (a.nonce.take 1) > 1 then s.finishCmd c reservedField
      else if (s.coreAt k).utasks.length ≥ 8 then s.finishCmd c channelState
      else
        let wait := leNat (a.nonce.take 1) == 1
        let q : Addr × DWord × Option Cmd := (BitVec.ofNat 48 a.a1, BitVec.ofNat 64 a.a2, if wait then some c else none)
        let t := s.modCore k fun x => { x with utasks := x.utasks ++ [q] }
        if wait then t.holdCmd c else t.finishCmd c 0

/-! Clock, cap, recorder, counters, tables. -/

/-- SETCLOCK (12 R339): once, before the first admission. -/
def execSetclock (c : Cmd) (s : State) : Host.Outcome State Fault Refusal :=
  s.command c 0x30 ⟨true, false, false, 0, false⟩ fun a s =>
    if s.mgmt.admitted || s.mgmt.clockSet then s.finishCmd c security
    else ({ s with postmark := a.a0, clockAt := s.cycle, mgmt := { s.mgmt with clockSet := true } }).finishCmd c 0

/-- SETCAP (R436). -/
def execSetcap (c : Cmd) (s : State) : Host.Outcome State Fault Refusal :=
  s.command c 0x11 ⟨true, false, false, 0, false⟩ fun a s =>
    if a.a0 < 1500 ∨ a.a0 > 5600 then s.finishCmd c reservedField
    else ({ s with mgmt := { s.mgmt with pcap := a.a0 } }).finishCmd c 0

/-- RECCFG (R441): a die's ring, or, read only, its head and tail written to NONCE. -/
def execReccfg (c : Cmd) (s : State) : Host.Outcome State Fault Refusal :=
  s.command c 0x31 ⟨true, true, true, 16, false⟩ fun a s =>
    let d := s.dieOf a.a0
    if a.a0 > 7 ∨ a.a2 / 32 % 8 ≠ 0 ∨ a.a2 ≥ 512 then s.finishCmd c reservedField
    else if a.a2 / 256 = 1 then
      ((s.vPut (a.block + 32) (leBytes d.recorder.head 8 ++ leBytes d.recorder.tail 8)).getD s).finishCmd c 0
    else if a.a2 % 32 < 16 ∨ a.a2 % 32 > 30 ∨ a.a1 % 64 ≠ 0 ∨ inDram a.a1 = false then s.finishCmd c reservedField
    else
      let r : Recorder := ⟨a.a1, a.a2 % 32, leNat (a.nonce.take 8), leNat ((a.nonce.drop 8).take 8)⟩
      (s.setDie a.a0 { d with recorder := r }).finishCmd c 0

/-- The sixteen bytes of a stack's counters (14 Table 14-6). -/
def stackRecord (x : Stack) : List Byte :=
  leBytes x.cecnt.toNat 4 ++ leBytes x.uecnt.toNat 4 ++ leBytes x.subcnt.toNat 4 ++ leBytes x.rmwcnt.toNat 4

/-- The buffer of COUNTERS: stacks, cores of a die, tamper log. -/
def State.counterBytes (s : State) (kind die : Nat) : List Byte :=
  match kind with
  | 0 => s.hbm.toList.flatMap stackRecord
  | 1 => (List.range 2304).flatMap fun i =>
      let x := s.coreAt (die * 2304 + i)
      leBytes x.ce.toNat 4 ++ leBytes x.ue.toNat 4
  | _ => (List.range 64).flatMap fun i =>
      let e := s.mgmt.tlog.getD i (0, 0, 0)
      leBytes e.1 4 ++ leBytes e.2.1 8 ++ leBytes e.2.2 4

/-- The counters of a kind cleared. -/
def State.clearCounters (s : State) (kind die : Nat) : State :=
  match kind with
  | 0 => { s with hbm := s.hbm.map fun x => { x with cecnt := 0, uecnt := 0, subcnt := 0, rmwcnt := 0 } }
  | 1 =>
    let zero (x : Core) : Core := { x with ce := 0, ue := 0 }
    let s := if s.die = die then { s with core := zero s.core } else s
    { s with others := s.others.map fun x => if x.1 / 2304 = die then (x.1, zero x.2) else x }
  | _ => { s with mgmt := { s.mgmt with tlog := [] } }

/-- COUNTERS. -/
def execCounters (c : Cmd) (s : State) : Host.Outcome State Fault Refusal :=
  s.command c 0x32 ⟨true, true, false, 0, false⟩ fun a s =>
    let kind := a.a0 % 256
    let die := a.a0 / 256 % 8
    if kind > 2 ∨ a.a0 / 2 ^ 17 ≠ 0 ∨ a.a0 / 2 ^ 11 % 32 ≠ 0 ∨ (kind ≠ 1 ∧ die ≠ 0) ∨ a.a1 % 64 ≠ 0 ∨ inDram a.a1 = false then
      s.finishCmd c reservedField
    else
      match s.vPut a.a1 (s.counterBytes kind die) with
      | none => s.finishCmd c translation
      | some t => (if a.a0 / 2 ^ 16 % 2 = 1 then t.clearCounters kind die else t).finishCmd c 0

/-- Whether an entry value of SETTABLE sets a reserved bit, or an index is outside its table. -/
def badTable (a : CmdArgs) : Bool :=
  match a.a0 with
  | 0 => decide (a.a1 ≥ 4096) || a.a2 / 4 % 2 ^ 30 != 0
  | 1 => decide (a.a1 ≥ 3840) || a.a2 / 8 % 32 != 0 || decide (a.a2 ≥ 2 ^ 60)
  | 2 => decide (a.a1 ≥ 64) || a.a2 / 4 % 2 ^ 14 != 0 || decide (a.a2 ≥ 2 ^ 32)
  | 3 => decide (a.a1 ≥ 32768) || decide (a.a2 ≥ 64)
  | 4 => a.a1 != 0 || a.a2 % 2 ^ 30 != 0
  | 5 => a.a1 != 0 || decide (a.a2 ≥ 2 ^ 16)
  | 6 => a.a2 == 0 || decide (a.a2 > 16) || decide (a.a1 + a.a2 > 256)
  | _ => true

/-- An entry written by SETTABLE (R444). -/
def State.setTable (s : State) (a : CmdArgs) : State :=
  let v : DWord := BitVec.ofNat 64 a.a2
  let h := s.host
  let o := s.office
  match a.a0 with
  | 0 => { s with host := { h with windows := h.windows.set a.a1 v } }
  | 1 => { s with office := { o with peers := o.peers.set a.a1 v } }
  | 2 => { s with office := { o with imports := o.imports.set a.a1 (v, leWord (a.nonce.take 8), leWord ((a.nonce.drop 8).take 8)) } }
  | 3 => { s with host := { h with notify := h.notify.set a.a1 v } }
  | 4 => { s with host := { h with apbase := a.a2 } }
  | 5 => { s with office := { o with modid := v.setWidth 16 } }
  | _ => { s with office := { o with links := o.links.set a.a1 a.a2 } }

/-- SETTABLE. -/
def execSettable (c : Cmd) (s : State) : Host.Outcome State Fault Refusal :=
  s.command c 0x33 ⟨true, true, true, 16, false⟩ fun a s =>
    if badTable a || (a.a0 != 2 && a.nonce.any (· != 0)) then s.finishCmd c reservedField
    else if (a.a0 = 5 ∨ a.a0 = 6) ∧ s.mgmt.ready = true then s.finishCmd c security
    else (s.setTable a).finishCmd c 0

end Sys2Proof.Machine
end

