-- ==== Sys2Proof/Machine/Control.lean ====
section
/-! DEFINITION. Branches, calls, jumps and hardware loops (04 R135 to R143), and the hint words (02 R63; 09 R297). -/

namespace Sys2Proof.Machine

/-- Whether a branch condition holds (R135). -/
def condHolds (c : Cond) (v : DWord) : Bool :=
  match c with
  | .eqz => v == 0
  | .nez => v != 0
  | .ltz => v.msb
  | .gez => !v.msb
  | .gtz => !v.msb && v != 0
  | .lez => v.msb || v == 0

/-- The address of the instruction in turn plus four times a word offset. -/
def State.target (s : State) (off : DWord) : Addr := s.ctx.pc + 4 * off.setWidth 48

/-- The address of the word after the one in turn, as a link holds it. -/
def State.linkOf (s : State) : DWord := (s.ctx.pc + 4).setWidth 64

/-- BR: a queue register in a is popped whether or not the branch is taken. -/
def execBr (c : Cond) (a : Reg) (off : BitVec 16) (s : State) : Host.Outcome State Fault Refusal :=
  s.issue ⟨[a], none, false, false⟩ fun v s' =>
    if condHolds c (arg v 0) then s'.jumpTo (s.target (s.immB off)) else s'.advance

/-- BRA. -/
def execBra (off : BitVec 16) (s : State) : Host.Outcome State Fault Refusal :=
  s.issue ⟨[], none, false, false⟩ fun _ s' => s'.jumpTo (s.target (s.immB off))

/-- CALL: the link, then the transfer (R136). -/
def execCall (d : Reg) (imm : BitVec 20) (s : State) : Host.Outcome State Fault Refusal :=
  s.issue ⟨[], some d, false, false⟩ fun _ s' => (s'.writeReg d s.linkOf).jumpTo (s.target (s.immU imm))

/-- A transfer to the address in a register, with a link or without (R137). -/
def State.jumpReg (s : State) (d : Option Reg) (a : Reg) : Host.Outcome State Fault Refusal :=
  s.issue ⟨[a], d, false, false⟩ fun v s' =>
    if bits (arg v 0) 0 2 ≠ 0 then s.raise (fltAt misalign (arg v 0))
    else
      let s' := match d with
        | some r => s'.writeReg r s.linkOf
        | none => s'
      s'.jumpTo ((arg v 0).setWidth 48)

/-- JR. -/
def execJr (a : Reg) (s : State) : Host.Outcome State Fault Refusal := s.jumpReg none a

/-- CALLR. -/
def execCallr (d a : Reg) (s : State) : Host.Outcome State Fault Refusal := s.jumpReg (some d) a

/-- RET: exactly the effect of JR. -/
def execRet (a : Reg) (s : State) : Host.Outcome State Fault Refusal := s.jumpReg none a

/-- The loop record of Table 4-6. -/
def loopRecord (n : Nat) (a : Addr) : DWord := BitVec.ofNat 64 (2 ^ 63 + (n - 1) * 2 ^ 46 + bits a 2 46)

/-- A write of p7 that the last-result file does not see (R140); LEND is read afresh (R141). -/
def State.setP7 (s : State) (v : DWord) : State :=
  (s.setCtx { s.ctx with p := s.ctx.p.set 7 v }).setMe { (s.setCtx { s.ctx with p := s.ctx.p.set 7 v }).me with lend := none }

/-- LOOP (R139, R140): an offset below 1, widened or not, is RESERVED_FIELD before any operand is read (02 R51). -/
def execLoop (a : Reg) (off : BitVec 16) (s : State) : Host.Outcome State Fault Refusal :=
  if (s.immB off).slt 1 then .next (s.raise (flt reservedField))
  else s.issue ⟨[a], none, false, false⟩ fun v s' =>
    if (arg v 0).toNat > 131072 then s.raise (flt reservedField)
    else if arg v 0 = 0 then (s'.setP7 0).jumpTo (s.target (s.immB off) + 4)
    else (s'.setP7 (loopRecord (arg v 0).toNat s.ctx.pc)).jumpTo (s.ctx.pc + 4)

/-! Hint words: they take no element of state but the pending hints of their group (R63); pg may hold (01 R29). -/

/-- A hint word completes: its payload waits for the target, the group remembers its first address. -/
def State.hint (s : State) (f : Hints → Hints) : Host.Outcome State Fault Refusal :=
  let m := { s.me with hints := f s.me.hints, group := some s.groupPc, stall := none, lat := 1, ready := s.coreCycles + 1 }
  .next ((s.setMe m).setPc (s.ctx.pc + 4))

/-- HIMM (R66). -/
def execHimm (p : BitVec 22) (s : State) : Host.Outcome State Fault Refusal := s.hint fun h => { h with himm := some p }

/-- HSCH: the hold before a swap-out. -/
def execHsch (spin : BitVec 4) (s : State) : Host.Outcome State Fault Refusal := s.hint fun h => { h with spin := some spin }

/-- HLIVE: the liveness point that its target's completion records (09 R299). -/
def execHlive (lreg : BitVec 8) (bmap : BitVec 13) (s : State) : Host.Outcome State Fault Refusal :=
  s.hint fun h => { h with live := some ⟨lreg, bmap⟩ }

/-- HMOD: rounding mode, saturation and width of the target (09 R298). -/
def execHmod (rmv : Bool) (rm : BitVec 3) (satv sat wide : Bool) (s : State) : Host.Outcome State Fault Refusal :=
  s.hint fun h => { h with hmod := some (rmv, rm, satv, sat, wide) }

end Sys2Proof.Machine
end

