-- ==== Sys2Proof/Machine/Float.lean ====
section
/-! DEFINITION. Scalar floating point (04 R129 to R134). -/

namespace Sys2Proof.Machine

/-- A floating-point instruction: the result of a function of the source values, its flags set at completion
(03 R112). -/
def State.floating (s : State) (reads : List Reg) (d : Reg) (f : List DWord → Nat × BitVec 7) :
    Host.Outcome State Fault Refusal :=
  s.issue ⟨reads, some d, false, false⟩ fun vs s' =>
    let r := f vs
    match s'.dstCheck d (BitVec.ofNat 64 r.1) with
    | .ok => (((s'.setCtx (s'.ctx.orFlags r.2)).writeReg d (BitVec.ofNat 64 r.1))).advance
    | .stall => s.stall
    | .fault x => s.raise x

/-- A source value as a value of a type, from the low bits of its register (03 R90). -/
def operand (t : Ty) (vs : List DWord) (i : Nat) : Fp := (fmtOr64 t).decode (arg vs i).toNat

/-- The low bits of a source. -/
def lowBits (t : Ty) (w : DWord) : Nat := w.toNat % 2 ^ tyBits t

/-- An exact result delivered in the mode of the instruction. -/
def State.rounded (s : State) (t : Ty) (r : Fp × BitVec 7) : Nat × BitVec 7 := (fmtOr64 t).out s.rmode s.satOn r

/-- FADD. -/
def execFadd (t : Ty) (d a b : Reg) (s : State) : Host.Outcome State Fault Refusal :=
  s.floating [a, b] d fun v => s.rounded t (fpAdd s.rmode (operand t v 0) (operand t v 1))

/-- FSUB. -/
def execFsub (t : Ty) (d a b : Reg) (s : State) : Host.Outcome State Fault Refusal :=
  s.floating [a, b] d fun v => s.rounded t (fpAdd s.rmode (operand t v 0) (operand t v 1).negate)

/-- FMUL. -/
def execFmul (t : Ty) (d a b : Reg) (s : State) : Host.Outcome State Fault Refusal :=
  s.floating [a, b] d fun v => s.rounded t (fpMul (operand t v 0) (operand t v 1))

/-- FDIV. -/
def execFdiv (t : Ty) (d a b : Reg) (s : State) : Host.Outcome State Fault Refusal :=
  s.floating [a, b] d fun v => (fmtOr64 t).divide s.rmode s.satOn (operand t v 0) (operand t v 1)

/-- FSQRT. -/
def execFsqrt (t : Ty) (d a : Reg) (s : State) : Host.Outcome State Fault Refusal :=
  s.floating [a] d fun v => (fmtOr64 t).squareRoot s.rmode s.satOn (operand t v 0)

/-- FMIN. -/
def execFmin (t : Ty) (d a b : Reg) (s : State) : Host.Outcome State Fault Refusal :=
  s.floating [a, b] d fun v => (fmtOr64 t).minMax false (lowBits t (arg v 0)) (lowBits t (arg v 1))

/-- FMAX. -/
def execFmax (t : Ty) (d a b : Reg) (s : State) : Host.Outcome State Fault Refusal :=
  s.floating [a, b] d fun v => (fmtOr64 t).minMax true (lowBits t (arg v 0)) (lowBits t (arg v 1))

/-- FABS. -/
def execFabs (t : Ty) (d a : Reg) (s : State) : Host.Outcome State Fault Refusal :=
  s.floating [a] d fun v => (fmtOr64 t).signOp false (lowBits t (arg v 0))

/-- FNEG. -/
def execFneg (t : Ty) (d a : Reg) (s : State) : Host.Outcome State Fault Refusal :=
  s.floating [a] d fun v => (fmtOr64 t).signOp true (lowBits t (arg v 0))

/-- A comparison's integer 1 or 0. -/
def testOut (r : Bool × BitVec 7) : Nat × BitVec 7 := (r.1.toNat, r.2)

/-- FCMPEQ. -/
def execFcmpeq (t : Ty) (d a b : Reg) (s : State) : Host.Outcome State Fault Refusal :=
  s.floating [a, b] d fun v => testOut (FpFmt.test 0 (operand t v 0) (operand t v 1))

/-- FCMPLT. -/
def execFcmplt (t : Ty) (d a b : Reg) (s : State) : Host.Outcome State Fault Refusal :=
  s.floating [a, b] d fun v => testOut (FpFmt.test 1 (operand t v 0) (operand t v 1))

/-- FCMPLE. -/
def execFcmple (t : Ty) (d a b : Reg) (s : State) : Host.Outcome State Fault Refusal :=
  s.floating [a, b] d fun v => testOut (FpFmt.test 2 (operand t v 0) (operand t v 1))

/-- FCLASS sets no flag (R131). -/
def execFclass (t : Ty) (d a : Reg) (s : State) : Host.Outcome State Fault Refusal :=
  s.floating [a] d fun v => ((fmtOr64 t).classMask (arg v 0).toNat, 0)

/-- FRCP: FDIV of 1 by a. -/
def execFrcp (t : Ty) (d a : Reg) (s : State) : Host.Outcome State Fault Refusal :=
  s.floating [a] d fun v => (fmtOr64 t).divide s.rmode s.satOn (.fin false 1 0) (operand t v 0)

/-- FFMA: one rounding. -/
def execFfma (t : Ty) (d a b c : Reg) (s : State) : Host.Outcome State Fault Refusal :=
  s.floating [a, b, c] d fun v =>
    s.rounded t (fpFma s.rmode (operand t v 0) (operand t v 1) (operand t v 2))

/-- FCVT (R133): the five kinds of pair. -/
def convert (dty sty : Ty) (mode : Nat) (sat : Bool) (w : DWord) : Nat × BitVec 7 :=
  match tyFmt sty, tyFmt dty with
  | some f, some g =>
    let v := f.decode w.toNat
    g.out mode sat (v, flagIf v.isSig fNV)
  | some f, none => fpToInt (tyBits dty) mode (f.decode w.toNat)
  | none, some g => g.out mode sat (fpOfInt (signedOf (tyBits sty) w.toNat), 0)
  | none, none => narrow (tyBits dty) sat (signedOf (tyBits sty) w.toNat)

/-- FCVT. -/
def execFcvt (dty sty : Ty) (d a : Reg) (s : State) : Host.Outcome State Fault Refusal :=
  s.floating [a] d fun v => convert dty sty s.rmode s.satOn (arg v 0)

end Sys2Proof.Machine
end

