-- ==== Sys2Proof/Machine/Integer.lean ====
section
/-! DEFINITION. Integer, immediate, bit-field and identifier instructions (04 R115 to R128). -/

namespace Sys2Proof.Machine

/-! Three registers (04 R118, Table 4-2). -/

/-- The 1 or 0 that a comparison writes. -/
def truth (b : Bool) : DWord := if b then 1 else 0

/-- The smaller and the larger of two words, signed. -/
def sMin (a b : DWord) : DWord := if b.slt a then b else a
def sMax (a b : DWord) : DWord := if a.slt b then b else a

/-- The smaller and the larger of two words, unsigned. -/
def uMin (a b : DWord) : DWord := if b.ult a then b else a
def uMax (a b : DWord) : DWord := if a.ult b then b else a

/-- The shift count of R118. -/
def count6 (b : DWord) : Nat := bits b 0 6

/-- ADD: the sum modulo 2^64. -/
def execAdd (d a b : Reg) (s : State) : Host.Outcome State Fault Refusal :=
  s.compute [a, b] d fun v => arg v 0 + arg v 1

/-- SUB. -/
def execSub (d a b : Reg) (s : State) : Host.Outcome State Fault Refusal :=
  s.compute [a, b] d fun v => arg v 0 - arg v 1

/-- MUL: the low half of the product. -/
def execMul (d a b : Reg) (s : State) : Host.Outcome State Fault Refusal :=
  s.compute [a, b] d fun v => arg v 0 * arg v 1

/-- MULH: the high half of the signed product. -/
def execMulh (d a b : Reg) (s : State) : Host.Outcome State Fault Refusal :=
  s.compute [a, b] d fun v => BitVec.ofInt 64 ((arg v 0).toInt * (arg v 1).toInt / 2 ^ 64)

/-- MULHU: the high half of the unsigned product. -/
def execMulhu (d a b : Reg) (s : State) : Host.Outcome State Fault Refusal :=
  s.compute [a, b] d fun v => BitVec.ofNat 64 ((arg v 0).toNat * (arg v 1).toNat / 2 ^ 64)

/-- AND. -/
def execAnd (d a b : Reg) (s : State) : Host.Outcome State Fault Refusal :=
  s.compute [a, b] d fun v => arg v 0 &&& arg v 1

/-- OR. -/
def execOr (d a b : Reg) (s : State) : Host.Outcome State Fault Refusal :=
  s.compute [a, b] d fun v => arg v 0 ||| arg v 1

/-- XOR. -/
def execXor (d a b : Reg) (s : State) : Host.Outcome State Fault Refusal :=
  s.compute [a, b] d fun v => arg v 0 ^^^ arg v 1

/-- ANDN. -/
def execAndn (d a b : Reg) (s : State) : Host.Outcome State Fault Refusal :=
  s.compute [a, b] d fun v => arg v 0 &&& ~~~(arg v 1)

/-- SHL. -/
def execShl (d a b : Reg) (s : State) : Host.Outcome State Fault Refusal :=
  s.compute [a, b] d fun v => arg v 0 <<< count6 (arg v 1)

/-- SHR. -/
def execShr (d a b : Reg) (s : State) : Host.Outcome State Fault Refusal :=
  s.compute [a, b] d fun v => arg v 0 >>> count6 (arg v 1)

/-- SRA. -/
def execSra (d a b : Reg) (s : State) : Host.Outcome State Fault Refusal :=
  s.compute [a, b] d fun v => (arg v 0).sshiftRight (count6 (arg v 1))

/-- ROT: a left rotation. -/
def execRot (d a b : Reg) (s : State) : Host.Outcome State Fault Refusal :=
  s.compute [a, b] d fun v => (arg v 0).rotateLeft (count6 (arg v 1))

/-- MIN. -/
def execMin (d a b : Reg) (s : State) : Host.Outcome State Fault Refusal :=
  s.compute [a, b] d fun v => sMin (arg v 0) (arg v 1)

/-- MAX. -/
def execMax (d a b : Reg) (s : State) : Host.Outcome State Fault Refusal :=
  s.compute [a, b] d fun v => sMax (arg v 0) (arg v 1)

/-- MINU. -/
def execMinu (d a b : Reg) (s : State) : Host.Outcome State Fault Refusal :=
  s.compute [a, b] d fun v => uMin (arg v 0) (arg v 1)

/-- MAXU. -/
def execMaxu (d a b : Reg) (s : State) : Host.Outcome State Fault Refusal :=
  s.compute [a, b] d fun v => uMax (arg v 0) (arg v 1)

/-- CMPEQ. -/
def execCmpeq (d a b : Reg) (s : State) : Host.Outcome State Fault Refusal :=
  s.compute [a, b] d fun v => truth (arg v 0 == arg v 1)

/-- CMPNE. -/
def execCmpne (d a b : Reg) (s : State) : Host.Outcome State Fault Refusal :=
  s.compute [a, b] d fun v => truth (arg v 0 != arg v 1)

/-- CMPLT. -/
def execCmplt (d a b : Reg) (s : State) : Host.Outcome State Fault Refusal :=
  s.compute [a, b] d fun v => truth ((arg v 0).slt (arg v 1))

/-- CMPLTU. -/
def execCmpltu (d a b : Reg) (s : State) : Host.Outcome State Fault Refusal :=
  s.compute [a, b] d fun v => truth ((arg v 0).ult (arg v 1))

/-- CMPLE. -/
def execCmple (d a b : Reg) (s : State) : Host.Outcome State Fault Refusal :=
  s.compute [a, b] d fun v => truth ((arg v 0).sle (arg v 1))

/-- CMPLEU. -/
def execCmpleu (d a b : Reg) (s : State) : Host.Outcome State Fault Refusal :=
  s.compute [a, b] d fun v => truth ((arg v 0).ule (arg v 1))

/-! Division (04 R119). -/

/-- A division: a zero divisor faults in the issue cycle, before any operand is consumed. Where the other source is an empty
queue, the slot stalls first (DESIGN CHOICE, log entry 135). -/
def State.divide (s : State) (d a b : Reg) (f : DWord → DWord → DWord) : Host.Outcome State Fault Refusal :=
  s.issue ⟨[a, b], some d, false, false⟩ fun v s' =>
    if arg v 1 = 0 then s.raise (flt intDivideZero) else s.done s' d (f (arg v 0) (arg v 1))

/-- DIV: truncated towards zero; -2^63 by -1 is -2^63. -/
def execDiv (d a b : Reg) (s : State) : Host.Outcome State Fault Refusal :=
  s.divide d a b (fun x y => x.sdiv y)

/-- DIVU. -/
def execDivu (d a b : Reg) (s : State) : Host.Outcome State Fault Refusal :=
  s.divide d a b (fun x y => x.udiv y)

/-- REM: the remainder with the sign of A. -/
def execRem (d a b : Reg) (s : State) : Host.Outcome State Fault Refusal :=
  s.divide d a b (fun x y => x.srem y)

/-- REMU. -/
def execRemu (d a b : Reg) (s : State) : Host.Outcome State Fault Refusal :=
  s.divide d a b (fun x y => x.umod y)

/-- CMOV: B or the old value of d, read in the order a, b, d (R116, R120). -/
def execCmov (d a b : Reg) (s : State) : Host.Outcome State Fault Refusal :=
  s.compute [a, b, d] d fun v => if arg v 0 ≠ 0 then arg v 1 else arg v 2

/-! One register (04 R121, R122). -/

/-- The leading zero bits of the low n bits. -/
def leadZeros (w : DWord) : Nat → Nat
  | 0 => 0
  | n + 1 => if w.getLsbD n then 0 else leadZeros w n + 1

/-- The trailing zero bits from bit i on, n bits further. -/
def trailZeros (w : DWord) : Nat → Nat → Nat
  | _, 0 => 0
  | i, n + 1 => if w.getLsbD i then 0 else trailZeros w (i + 1) n + 1

/-- The one bits among the low n bits. -/
def oneBits (w : DWord) : Nat → Nat
  | 0 => 0
  | n + 1 => (w.getLsbD n).toNat + oneBits w n

/-- The bytes of a word in the opposite order. -/
def byteSwap (w : DWord) : DWord := leWord (leBytes w.toNat 8).reverse

/-- The bits of an access size. -/
def Size.width : Size → Nat
  | .b1 => 8
  | .b2 => 16
  | .b4 => 32
  | .b8 => 64

/-- CLZ. -/
def execClz (d a : Reg) (s : State) : Host.Outcome State Fault Refusal :=
  s.compute [a] d fun v => BitVec.ofNat 64 (leadZeros (arg v 0) 64)

/-- CTZ. -/
def execCtz (d a : Reg) (s : State) : Host.Outcome State Fault Refusal :=
  s.compute [a] d fun v => BitVec.ofNat 64 (trailZeros (arg v 0) 0 64)

/-- POPC. -/
def execPopc (d a : Reg) (s : State) : Host.Outcome State Fault Refusal :=
  s.compute [a] d fun v => BitVec.ofNat 64 (oneBits (arg v 0) 64)

/-- BREV. -/
def execBrev (d a : Reg) (s : State) : Host.Outcome State Fault Refusal :=
  s.compute [a] d fun v => (arg v 0).reverse

/-- BSWAP. -/
def execBswap (d a : Reg) (s : State) : Host.Outcome State Fault Refusal :=
  s.compute [a] d fun v => byteSwap (arg v 0)

/-- EXTS. -/
def execExts (sz : Size) (d a : Reg) (s : State) : Host.Outcome State Fault Refusal :=
  s.compute [a] d fun v => ((arg v 0).setWidth (Size.width sz)).signExtend 64

/-- EXTZ. -/
def execExtz (sz : Size) (d a : Reg) (s : State) : Host.Outcome State Fault Refusal :=
  s.compute [a] d fun v => ((arg v 0).setWidth (Size.width sz)).setWidth 64

/-- NOT. -/
def execNot (d a : Reg) (s : State) : Host.Outcome State Fault Refusal :=
  s.compute [a] d fun v => ~~~(arg v 0)

/-- NEG. -/
def execNeg (d a : Reg) (s : State) : Host.Outcome State Fault Refusal :=
  s.compute [a] d fun v => -(arg v 0)

/-- ABS: of -2^63 it is -2^63. -/
def execAbs (d a : Reg) (s : State) : Host.Outcome State Fault Refusal :=
  s.compute [a] d fun v => if (arg v 0).msb then -(arg v 0) else arg v 0

/-! Immediates (04 R123 to R125). -/

/-- ADDI. -/
def execAddi (d a : Reg) (imm : BitVec 14) (s : State) : Host.Outcome State Fault Refusal :=
  s.compute [a] d fun v => arg v 0 + s.immI imm

/-- ANDI. -/
def execAndi (d a : Reg) (imm : BitVec 14) (s : State) : Host.Outcome State Fault Refusal :=
  s.compute [a] d fun v => arg v 0 &&& s.immI imm

/-- ORI. -/
def execOri (d a : Reg) (imm : BitVec 14) (s : State) : Host.Outcome State Fault Refusal :=
  s.compute [a] d fun v => arg v 0 ||| s.immI imm

/-- XORI. -/
def execXori (d a : Reg) (imm : BitVec 14) (s : State) : Host.Outcome State Fault Refusal :=
  s.compute [a] d fun v => arg v 0 ^^^ s.immI imm

/-- CMPEQI. -/
def execCmpeqi (d a : Reg) (imm : BitVec 14) (s : State) : Host.Outcome State Fault Refusal :=
  s.compute [a] d fun v => truth (arg v 0 == s.immI imm)

/-- CMPLTI. -/
def execCmplti (d a : Reg) (imm : BitVec 14) (s : State) : Host.Outcome State Fault Refusal :=
  s.compute [a] d fun v => truth ((arg v 0).slt (s.immI imm))

/-- CMPLTUI. -/
def execCmpltui (d a : Reg) (imm : BitVec 14) (s : State) : Host.Outcome State Fault Refusal :=
  s.compute [a] d fun v => truth ((arg v 0).ult (s.immI imm))

/-- SHLI. -/
def execShli (d a : Reg) (n : BitVec 6) (s : State) : Host.Outcome State Fault Refusal :=
  s.compute [a] d fun v => arg v 0 <<< n.toNat

/-- SHRI. -/
def execShri (d a : Reg) (n : BitVec 6) (s : State) : Host.Outcome State Fault Refusal :=
  s.compute [a] d fun v => arg v 0 >>> n.toNat

/-- SRAI. -/
def execSrai (d a : Reg) (n : BitVec 6) (s : State) : Host.Outcome State Fault Refusal :=
  s.compute [a] d fun v => (arg v 0).sshiftRight n.toNat

/-- ROTI. -/
def execRoti (d a : Reg) (n : BitVec 6) (s : State) : Host.Outcome State Fault Refusal :=
  s.compute [a] d fun v => (arg v 0).rotateLeft n.toNat

/-- LUI: I times 2^14. -/
def execLui (d : Reg) (imm : BitVec 20) (s : State) : Host.Outcome State Fault Refusal :=
  s.compute [] d fun _ => s.immU imm <<< 14

/-- ADDPC: the word's own address plus 4 times I. -/
def execAddpc (d : Reg) (imm : BitVec 20) (s : State) : Host.Outcome State Fault Refusal :=
  s.compute [] d fun _ => s.ctx.pc.setWidth 64 + 4 * s.immU imm

/-! Bit fields, identifier fields, scaled addresses (04 R126 to R128). -/

/-- A mask of width ones from a position. -/
def fieldMask (width pos : Nat) : DWord := BitVec.ofNat 64 (2 ^ width - 1) <<< pos

/-- BFX. -/
def execBfx (d a : Reg) (pos wm1 : BitVec 6) (s : State) : Host.Outcome State Fault Refusal :=
  s.compute [a] d fun v => BitVec.ofNat 64 (bits (arg v 0) pos.toNat (wm1.toNat + 1))

/-- BFI: d is read after a (R116). -/
def execBfi (d a : Reg) (pos wm1 : BitVec 6) (s : State) : Host.Outcome State Fault Refusal :=
  s.compute [a, d] d fun v =>
    let m := fieldMask (wm1.toNat + 1) pos.toNat
    (arg v 1 &&& ~~~m) ||| ((arg v 0 <<< pos.toNat) &&& m)

/-- Field k of an identifier by a job's widths (01 R32). -/
def idField (widths : List Nat) (id : DWord) (k : Nat) : DWord :=
  BitVec.ofNat 64 (bits id (widths.take k).sum (widths.getD k 0))

/-- WID: with no job every width is 0 (R127). -/
def execWid (d : Reg) (k : BitVec 3) (s : State) : Host.Outcome State Fault Refusal :=
  s.compute [] d fun _ =>
    match s.job? with
    | some j => idField j.widths s.ctx.id k.toNat
    | none => 0

/-- ADDX. -/
def execAddx (d a b : Reg) (n : BitVec 3) (s : State) : Host.Outcome State Fault Refusal :=
  s.compute [a, b] d fun v => arg v 0 + (arg v 1 <<< n.toNat)

end Sys2Proof.Machine
end

