-- ==== Sys2Proof/Machine/Vector.lean ====
section
/-! DEFINITION. Vector instructions: lanes, arithmetic, accesses, reductions, lane movement, conversions, VEXP2 and
VLOG2 (08 R243 to R255; 03 R94, R109, R110). -/

namespace Sys2Proof.Machine

/-! Lanes (Table 8-1). -/

/-- Lane i of width w. -/
def lane (w : Nat) (v : VWord) (i : Nat) : Nat := v.toNat >>> (w * i) % 2 ^ w

/-- A register with lane i of width w replaced. -/
def setLane (w : Nat) (v : VWord) (i x : Nat) : VWord := putBits v (w * i) w x

/-- The number of lanes of a width. -/
def lanes (w : Nat) : Nat := 512 / w

/-- All lanes of a width. -/
def laneList (w : Nat) (v : VWord) : List Nat := (List.range (lanes w)).map fun i => lane w v i

/-- A register from its lanes. -/
def ofLanes (w : Nat) (l : List Nat) : VWord := BitVec.ofNat 512 (pack w l)

/-- A whole vector register written, and lane i of width w of one (R245). -/
def State.setV (s : State) (d : VReg) (v : VWord) : State := s.later (.vec d (BitVec.allOnes 512) v)
def State.setVLane (s : State) (d : VReg) (w i x : Nat) : State := s.later (.vec d (setLane w 0 i (2 ^ w - 1)) (setLane w 0 i x))

/-- The vector macro-instructions, which hold the unit (R244). -/
def isVecMacro : Instr → Bool
  | .vlds _ _ _ _ | .vsts _ _ _ _ | .vgath _ _ _ _ | .vscat _ _ _ _ => true
  | _ => false

/-- Whether another slot or the vector sequencer holds the vector unit (R244, R281). -/
def State.vecHeld (s : State) : Bool :=
  ([0, 1, 2, 3, 4, 5, 6, 7] : List (Fin 8)).any (fun i => i != s.sid && (s.core.slots[i].run.any fun r => isVecMacro r.ins)) ||
    ((s.core.seqRun 1).any fun r => isVecMacro r.ins) ||
    (decide (s.sid.val ≠ 7) && s.core.seqs[(1 : Fin 3)].running) || s.core.vecAt == some s.coreCycles

/-- The vector unit takes an instruction: no other from the slots in this cycle (R244). -/
def State.takeVec (s : State) : State :=
  { s with core := { s.core with vecAt := some s.coreCycles, vecTill := max s.core.vecTill (s.coreCycles + s.me.lat) } }

/-- A vector instruction behind its gate. -/
def State.vecIssue (s : State) (o : Opnds) (k : List DWord → State → State) : Host.Outcome State Fault Refusal :=
  s.issue o fun vs s' => if s.vecHeld then s.stall else k vs s'.takeVec

/-! Arithmetic (R247, R248). -/

/-- A lane-wise operation on lanes of a type: source registers, function of the lanes of a, b and d. -/
def State.lanewise (s : State) (t : Ty) (d a b : VReg) (f : Nat → Nat → Nat → Nat × BitVec 7) :
    Host.Outcome State Fault Refusal :=
  s.vecIssue ⟨[], none, false, false⟩ fun _ s' =>
    let w := tyBits t
    let rs := (List.range (lanes w)).map fun i => f (lane w s.core.v[a] i) (lane w s.core.v[b] i) (lane w s.core.v[d] i)
    let fl := rs.foldl (fun x r => x ||| r.2) 0
    ((s'.setV d (ofLanes w (rs.map fun r => r.1))).setCtx (s'.ctx.orFlags fl)).advance

/-- A result of a floating or of an integer lane. -/
def State.laneOp (s : State) (t : Ty) (fp : FpFmt → Fp → Fp → Fp → Fp × BitVec 7) (int : Int → Int → Int → Int) (a b d : Nat) :
    Nat × BitVec 7 :=
  match tyFmt t with
  | some f => f.out s.rmode s.satOn (fp f (f.decode a) (f.decode b) (f.decode d))
  | none =>
    let n := tyBits t
    (patternOf n (int (signedOf n a) (signedOf n b) (signedOf n d)), 0)

/-- VADD. -/
def execVadd (t : Ty) (d a b : VReg) (s : State) : Host.Outcome State Fault Refusal :=
  s.lanewise t d a b (s.laneOp t (fun _ x y _ => fpAdd s.rmode x y) fun x y _ => x + y)

/-- VSUB. -/
def execVsub (t : Ty) (d a b : VReg) (s : State) : Host.Outcome State Fault Refusal :=
  s.lanewise t d a b (s.laneOp t (fun _ x y _ => fpAdd s.rmode x y.negate) fun x y _ => x - y)

/-- VMUL. -/
def execVmul (t : Ty) (d a b : VReg) (s : State) : Host.Outcome State Fault Refusal :=
  s.lanewise t d a b (s.laneOp t (fun _ x y _ => fpMul x y) fun x y _ => x * y)

/-- VFMA: one rounding, the old d as the addend. -/
def execVfma (t : Ty) (d a b : VReg) (s : State) : Host.Outcome State Fault Refusal :=
  s.lanewise t d a b (s.laneOp t (fun _ x y z => fpFma s.rmode x y z) fun x y z => x * y + z)

/-- Minimum and maximum of a lane. -/
def laneMinMax (t : Ty) (larger : Bool) (a b : Nat) : Nat × BitVec 7 :=
  match tyFmt t with
  | some f => f.minMax larger a b
  | none =>
    let n := tyBits t
    (if decide (signedOf n a < signedOf n b) != larger then a else b, 0)

/-- VMIN. -/
def execVmin (t : Ty) (d a b : VReg) (s : State) : Host.Outcome State Fault Refusal :=
  s.lanewise t d a b fun x y _ => laneMinMax t false x y

/-- VMAX. -/
def execVmax (t : Ty) (d a b : VReg) (s : State) : Host.Outcome State Fault Refusal :=
  s.lanewise t d a b fun x y _ => laneMinMax t true x y

/-- Absolute value or negation of a lane. -/
def laneSign (t : Ty) (flip : Bool) (a : Nat) : Nat × BitVec 7 :=
  match tyFmt t with
  | some f => f.signOp flip a
  | none =>
    let n := tyBits t
    let v := signedOf n a
    (patternOf n (if flip || decide (v < 0) then -v else v), 0)

/-- VABS. -/
def execVabs (t : Ty) (d a : VReg) (s : State) : Host.Outcome State Fault Refusal :=
  s.lanewise t d a a fun x _ _ => laneSign t false x

/-- VNEG. -/
def execVneg (t : Ty) (d a : VReg) (s : State) : Host.Outcome State Fault Refusal :=
  s.lanewise t d a a fun x _ _ => laneSign t true x

/-- A comparison of two lanes (0 equal, 1 less, 2 less or equal): all ones or 0. -/
def laneTest (t : Ty) (kind a b : Nat) : Nat × BitVec 7 :=
  let r : Bool × BitVec 7 :=
    match tyFmt t with
    | some f => FpFmt.test kind (f.decode a) (f.decode b)
    | none =>
      let x := signedOf (tyBits t) a
      let y := signedOf (tyBits t) b
      (match kind with
       | 0 => decide (x = y)
       | 1 => decide (x < y)
       | _ => decide (x ≤ y), 0)
  (if r.1 then 2 ^ tyBits t - 1 else 0, r.2)

/-- VCMP.eq. -/
def execVcmpEq (t : Ty) (d a b : VReg) (s : State) : Host.Outcome State Fault Refusal :=
  s.lanewise t d a b fun x y _ => laneTest t 0 x y

/-- VCMP.lt. -/
def execVcmpLt (t : Ty) (d a b : VReg) (s : State) : Host.Outcome State Fault Refusal :=
  s.lanewise t d a b fun x y _ => laneTest t 1 x y

/-- VCMP.le. -/
def execVcmpLe (t : Ty) (d a b : VReg) (s : State) : Host.Outcome State Fault Refusal :=
  s.lanewise t d a b fun x y _ => laneTest t 2 x y

/-- VSEL moves bits unchanged; D is not zero as the value of its lane's bits. -/
def execVsel (t : Ty) (d a b : VReg) (s : State) : Host.Outcome State Fault Refusal :=
  s.lanewise t d a b fun x y z => (if z ≠ 0 then x else y, 0)

/-- VAND. -/
def execVand (t : Ty) (d a b : VReg) (s : State) : Host.Outcome State Fault Refusal :=
  s.lanewise t d a b fun x y _ => (x &&& y, 0)

/-- VOR. -/
def execVor (t : Ty) (d a b : VReg) (s : State) : Host.Outcome State Fault Refusal :=
  s.lanewise t d a b fun x y _ => (x ||| y, 0)

/-- VXOR. -/
def execVxor (t : Ty) (d a b : VReg) (s : State) : Host.Outcome State Fault Refusal :=
  s.lanewise t d a b fun x y _ => (x ^^^ y, 0)

/-- VSHL. -/
def execVshl (t : Ty) (d a b : VReg) (s : State) : Host.Outcome State Fault Refusal :=
  s.lanewise t d a b fun x y _ => (x * 2 ^ (y % tyBits t) % 2 ^ tyBits t, 0)

/-- VSHR. -/
def execVshr (t : Ty) (d a b : VReg) (s : State) : Host.Outcome State Fault Refusal :=
  s.lanewise t d a b fun x y _ => (x / 2 ^ (y % tyBits t), 0)

/-! Accesses (R246, R249 to R251). -/

/-- Why an access of n bytes of the own scratchpad cannot go, or its offset. -/
inductive VecAcc where
  | fault (f : Flt)
  | stall
  | at (off : Nat)

/-- The checks of R146 for a vector access, and the stalls of a plain access. -/
def State.vecAccess (s : State) (ea : DWord) (n : Nat) (read : Bool) : VecAcc :=
  match s.checkScratch ea n with
  | .error f => .fault f
  | .ok off =>
    if s.heldByAcquire || s.core.rangeStall s.cid off n then .stall
    else if read && s.core.poisoned off n then .fault (accessFlt memPoison ea)
    else .at off

/-- VLD. -/
def execVld (d : VReg) (a : Reg) (off : BitVec 12) (s : State) : Host.Outcome State Fault Refusal :=
  s.vecIssue ⟨[a], none, false, false⟩ fun v s' =>
    match s.vecAccess (effective (arg v 0) (off.signExtend 64) 64) 64 true with
    | .fault f => s.raise f
    | .stall => s.stall
    | .at o => (s'.setV d (BitVec.ofNat 512 (leNat (s.spBytes s.cid o 64)))).advance

/-- VST. -/
def execVst (d : VReg) (a : Reg) (off : BitVec 12) (s : State) : Host.Outcome State Fault Refusal :=
  s.vecIssue ⟨[a], none, false, false⟩ fun v s' =>
    match s.vecAccess (effective (arg v 0) (off.signExtend 64) 64) 64 false with
    | .fault f => s.raise f
    | .stall => s.stall
    | .at o => (s'.spWrite s.cid o (leBytes s.core.v[d].toNat 64)).advance

/-- A strided or indexed instruction begins: its scalar operands, the data register and the offset register as they stand. -/
def State.vecStart (s : State) (ins : Instr) (n : Nat) (reads : List Reg) (data off : VWord) :
    Host.Outcome State Fault Refusal :=
  s.vecIssue ⟨reads, none, false, true⟩ fun v s' =>
    s'.startRun n { ElemRun.start ins n 0 with vals := v, vec := data, off := off } State.advance

/-- VLDS. -/
def execVlds (t : Ty) (d : VReg) (a b : Reg) (s : State) : Host.Outcome State Fault Refusal :=
  s.vecStart (.vlds t d a b) (lanes (tyBits t)) [a, b] 0 0

/-- VSTS. -/
def execVsts (t : Ty) (d : VReg) (a b : Reg) (s : State) : Host.Outcome State Fault Refusal :=
  s.vecStart (.vsts t d a b) (lanes (tyBits t)) [a, b] s.core.v[d] 0

/-- The width of an offset lane. -/
def offBits (t : Ty) : Nat := max 16 (tyBits t)

/-- VGATH. -/
def execVgath (t : Ty) (d : VReg) (a : Reg) (b : VReg) (s : State) : Host.Outcome State Fault Refusal :=
  s.vecStart (.vgath t d a b) (lanes (offBits t)) [a] 0 s.core.v[b]

/-- VSCAT. -/
def execVscat (t : Ty) (d : VReg) (a : Reg) (b : VReg) (s : State) : Host.Outcome State Fault Refusal :=
  s.vecStart (.vscat t d a b) (lanes (offBits t)) [a] s.core.v[d] s.core.v[b]

/-- An element that loads lane k of d from an address. -/
def State.laneLoad (s : State) (t : Ty) (d : VReg) (k : Nat) (ea : DWord) (clear : Bool) : State ⊕ VecAcc :=
  let n := tyBits t / 8
  match s.vecAccess ea n true with
  | .at o =>
    let u := s.setVLane d (tyBits t) k (leNat (s.spBytes s.cid o n))
    .inl (if clear && k == 0 then u.later (.vec d (putBits (0 : VWord) 256 256 (2 ^ 256 - 1)) 0) else u)
  | x => .inr x

/-- An element that stores lane k of the data read at issue. -/
def State.laneStore (s : State) (t : Ty) (v : VWord) (k : Nat) (ea : DWord) : State ⊕ VecAcc :=
  let n := tyBits t / 8
  match s.vecAccess ea n false with
  | .at o => .inl (s.spWrite s.cid o (leBytes (lane (tyBits t) v k) n))
  | x => .inr x

/-- Element k of a vector macro-instruction. -/
def State.vecElement (s : State) (r : ElemRun) : State ⊕ VecAcc :=
  let strided := arg r.vals 0 + BitVec.ofNat 64 r.k * arg r.vals 1
  let indexed (t : Ty) : DWord := arg r.vals 0 + BitVec.ofNat 64 (lane (offBits t) r.off r.k)
  match r.ins with
  | .vlds t d _ _ => s.laneLoad t d r.k strided false
  | .vsts t _ _ _ => s.laneStore t r.vec r.k strided
  | .vgath t d _ _ => s.laneLoad t d r.k (indexed t) (tyBits t == 8)
  | .vscat t _ _ _ => s.laneStore t r.vec r.k (indexed t)
  | _ => .inl s

/-- The element of the slot in turn commits. -/
def State.vecElem (s : State) (r : ElemRun) : State :=
  match s.vecElement r with
  | .inl t => (t.setMe { t.me with stall := none }).stepRun r State.advance
  | .inr (.fault f) => s.raiseElem f r.k
  | .inr _ => s.stall

/-! Reductions (R252; 03 R110). -/

/-- One level of a tree: adjacent pairs combined, with their flags. -/
def treeLevel {α β : Type} (f : α → α → β × BitVec 7) : List α → List β × BitVec 7
  | a :: b :: t =>
    let r := f a b
    let q := treeLevel f t
    (r.1 :: q.1, r.2 ||| q.2)
  | _ => ([], 0)

/-- Every level of a tree (structural on a count of levels), with all nodes' flags. -/
def tree (f : Nat → Nat → Nat × BitVec 7) : Nat → List Nat → BitVec 7 → Nat × BitVec 7
  | 0, l, fl => (l.headD 0, fl)
  | n + 1, l, fl =>
    match l with
    | [x] => (x, fl)
    | l =>
      let r := treeLevel f l
      tree f n r.1 (fl ||| r.2)

/-- The lanes a reduction works on: patterns, integers sign-extended to 64 bits. -/
def redLanes (t : Ty) (v : VWord) : List Nat :=
  let w := tyBits t
  match tyFmt t with
  | some _ => laneList w v
  | none => (laneList w v).map fun x => patternOf 64 (signedOf w x)

/-- A reduction into a scalar register. -/
def State.reduce (s : State) (d : Reg) (r : Nat × BitVec 7) : Host.Outcome State Fault Refusal :=
  s.vecIssue ⟨[], some d, false, false⟩ fun _ s' => s.done (s'.setCtx (s'.ctx.orFlags r.2)) d (BitVec.ofNat 64 r.1)

/-- A node of VRED.add. -/
def State.addNode (s : State) (t : Ty) (a b : Nat) : Nat × BitVec 7 :=
  match tyFmt t with
  | some f => f.out s.rmode s.satOn (fpAdd s.rmode (f.decode a) (f.decode b))
  | none => ((a + b) % 2 ^ 64, 0)

/-- VRED.add. -/
def execVredAdd (t : Ty) (d : Reg) (a : VReg) (s : State) : Host.Outcome State Fault Refusal :=
  s.reduce d (tree (s.addNode t) 7 (redLanes t s.core.v[a]) 0)

/-- A node of VRED.min and VRED.max. -/
def pickNode (t : Ty) (larger : Bool) (a b : Nat) : Nat × BitVec 7 :=
  match tyFmt t with
  | some f => f.minMax larger a b
  | none => (if decide (signedOf 64 a < signedOf 64 b) != larger then a else b, 0)

/-- VRED.min. -/
def execVredMin (t : Ty) (d : Reg) (a : VReg) (s : State) : Host.Outcome State Fault Refusal :=
  s.reduce d (tree (pickNode t false) 7 (redLanes t s.core.v[a]) 0)

/-- VRED.max. -/
def execVredMax (t : Ty) (d : Reg) (a : VReg) (s : State) : Host.Outcome State Fault Refusal :=
  s.reduce d (tree (pickNode t true) 7 (redLanes t s.core.v[a]) 0)

/-- A level-1 node of VDOT: two exact products, one rounding. -/
def State.dotNode (s : State) (t : Ty) (x y : Nat × Nat) : Nat × BitVec 7 :=
  match tyFmt t with
  | some f =>
    let p := fpMul (f.decode x.1) (f.decode x.2)
    let q := fpMul (f.decode y.1) (f.decode y.2)
    let r := fpAdd s.rmode p.1 q.1
    f.out s.rmode s.satOn (r.1, r.2 ||| p.2 ||| q.2)
  | none => ((x.1 * x.2 + y.1 * y.2) % 2 ^ 64, 0)

/-- VDOT. -/
def execVdot (t : Ty) (d : Reg) (a b : VReg) (s : State) : Host.Outcome State Fault Refusal :=
  let l := treeLevel (s.dotNode t) ((redLanes t s.core.v[a]).zip (redLanes t s.core.v[b]))
  s.reduce d (tree (s.addNode t) 7 l.1 l.2)

/-! Lane movement (R253). -/

/-- VSHF. -/
def execVshf (t : Ty) (d a b : VReg) (s : State) : Host.Outcome State Fault Refusal :=
  s.vecIssue ⟨[], none, false, false⟩ fun _ s' =>
    let w := tyBits t
    let l := (laneList w s.core.v[b]).map fun j => lane w s.core.v[a] (j % lanes w)
    (s'.setV d (ofLanes w l)).advance

/-- VBCAST. -/
def execVbcast (t : Ty) (d : VReg) (a : Reg) (s : State) : Host.Outcome State Fault Refusal :=
  s.vecIssue ⟨[a], none, false, false⟩ fun v s' =>
    let w := tyBits t
    (s'.setV d (ofLanes w (List.replicate (lanes w) ((arg v 0).toNat % 2 ^ w)))).advance

/-- VEXT. -/
def execVext (d : Reg) (a : VReg) (n : BitVec 3) (s : State) : Host.Outcome State Fault Refusal :=
  s.vecIssue ⟨[], some d, false, false⟩ fun _ s' => s.done s' d (BitVec.ofNat 64 (lane 64 s.core.v[a] n.toNat))

/-- VINS. -/
def execVins (d : VReg) (a : Reg) (n : BitVec 3) (s : State) : Host.Outcome State Fault Refusal :=
  s.vecIssue ⟨[a], none, false, false⟩ fun v s' => (s'.setVLane d 64 n.toNat (arg v 0).toNat).advance

/-! Conversions (R254). -/

/-- The count of elements of a type in a register (Table 8-1). -/
def elemCount (t : Ty) : Nat := if isBlock (tyBank t) then 64 else lanes (tyBits t)

/-- Whether a type is a block format. -/
def blockTy (t : Ty) : Bool := isBlock (tyBank t)

/-- Element j of a register as a value (03 R91 to R94). -/
def elemValue (t : Ty) (v : VWord) (j : Nat) : Fp :=
  match t with
  | .q => fpOfInt (signedOf 64 (lane 64 v j))
  | .mxfp4 | .l6 => bankDecode (tyBank t) (packedAt v.toNat (tyBits t) j) (bits v (448 + 8 * (j / 32)) 8)
  | _ => bankDecode (tyBank t) (lane (tyBits t) v j) 0

/-- A value converted to a type that is no block format; from says the source type. -/
def toTy (t from_ : Ty) (mode : Nat) (sat : Bool) (x : Fp) : Nat × BitVec 7 :=
  match tyFmt t with
  | some g => g.out mode sat (x, flagIf x.isSig fNV)
  | none =>
    match from_ with
    | .q | .w | .c => narrow (tyBits t) sat x.int
    | .l6 | .mxfp4 => if x.isNan then (0, 0) else fpToInt (tyBits t) mode x
    | _ => fpToInt (tyBits t) mode x

/-- The codes, scale bytes and flags of values converted by groups of 32 into a block format. -/
def toBlocks (t : Ty) (mode : Nat) (xs : List Fp) : Nat × BitVec 7 :=
  let g (i : Nat) : Nat × Nat × BitVec 7 :=
    let l := (xs.drop (32 * i)).take 32
    if l.isEmpty then (0, 0, 0)
    else
      let r := blockEncode (tyBank t) mode l
      (r.1, r.2.1, r.2.2.1)
  let b0 := g 0
  let b1 := g 1
  (b0.1 + b1.1 * 2 ^ (32 * tyBits t) + b0.2.1 * 2 ^ 448 + b1.2.1 * 2 ^ 456, b0.2.2 ||| b1.2.2)

/-- VCVT. -/
def execVcvt (dty sty : Ty) (d a : VReg) (s : State) : Host.Outcome State Fault Refusal :=
  let m := min (elemCount sty) (elemCount dty)
  if blockTy dty && decide (m < 32) then .next (s.raise (flt reservedField))
  else
    s.vecIssue ⟨[], none, false, false⟩ fun _ s' =>
      let xs := (List.range m).map fun j => elemValue sty s.core.v[a] j
      let r : Nat × BitVec 7 :=
        if blockTy dty then toBlocks dty s.rmode xs
        else
          let rs := xs.map (toTy dty sty s.rmode s.satOn)
          (pack (tyBits dty) (rs.map fun x => x.1), rs.foldl (fun f x => f ||| x.2) 0)
      ((s'.setV d (BitVec.ofNat 512 r.1)).setCtx (s'.ctx.orFlags r.2)).advance

/-! VEXP2 and VLOG2 (R255): fixed point with 400 fraction bits, far beyond the distance at which a value of these
functions can lie from a rounding boundary. -/

def fixBits : Nat := 400

/-- The sum of 1 / (k 2^k) for k from 1, in units of 2^-400: ln 2. -/
def ln2Sum : Nat → Nat
  | 0 => 0
  | n + 1 => 2 ^ fixBits / ((n + 1) * 2 ^ (n + 1)) + ln2Sum n

def ln2Fix : Nat := ln2Sum 400

/-- The sum of x^k / k! from a term on (structural on a count of terms). -/
def expSum (x : Nat) : Nat → Nat → Nat → Nat
  | 0, _, _ => 0
  | f + 1, k, term => term + expSum x f (k + 1) (term * x / 2 ^ fixBits / k)

/-- 2 to the power of a fraction below 1, in units of 2^-400. -/
def pow2Frac (x : Nat) : Nat := expSum (x * ln2Fix / 2 ^ fixBits) 110 1 (2 ^ fixBits)

/-- The sum of y^(2k+1) / (2k+1) from a power on. -/
def atanhSum (y2 : Nat) : Nat → Nat → Nat → Nat
  | 0, _, _ => 0
  | f + 1, k, p => p / (2 * k + 1) + atanhSum y2 f (k + 1) (p * y2 / 2 ^ fixBits)

/-- log2 of m / 2^b, between 1 and 2, in units of 2^-400. -/
def log2Frac (m b : Nat) : Nat :=
  let y := (m - 2 ^ b) * 2 ^ fixBits / (m + 2 ^ b)
  2 * atanhSum (y * y / 2 ^ fixBits) 130 0 y * 2 ^ fixBits / ln2Fix

/-- 2^A of a lane. -/
def FpFmt.exp2 (f : FpFmt) (mode : Nat) (sat : Bool) (a : Fp) : Nat × BitVec 7 :=
  match a with
  | .nan g => (f.canon, flagIf g fNV)
  | .inf n => (if n then f.zero false else f.infinity false, 0)
  | .fin n m e =>
    let v : Int :=
      let w := e + (fixBits : Int)
      let x := if w ≥ 0 then m * 2 ^ w.toNat else m
      if w ≥ 0 then (if n then -(x : Int) else x) else (if n then -(x : Int) else x) / 2 ^ (-w).toNat
    let whole := v / 2 ^ fixBits
    let frac := (v % 2 ^ fixBits).toNat
    let exact := if e ≥ 0 then true else m % 2 ^ (-e).toNat == 0
    let p := max (-20000) (min 20000 whole)
    if exact then f.round mode sat false 1 p false
    else f.round mode sat false (pow2Frac frac) (p - (fixBits : Int)) true

/-- log2 A of a lane. -/
def FpFmt.log2 (f : FpFmt) (mode : Nat) (sat : Bool) (a : Fp) : Nat × BitVec 7 :=
  match a with
  | .nan g => (f.canon, flagIf g fNV)
  | .inf n => if n then (f.canon, fNV) else (f.infinity false, 0)
  | .fin n m e =>
    if m = 0 then (f.infinity true, fDZ)
    else if n then (f.canon, fNV)
    else
      let b := Nat.log2 m
      let whole : Int := e + (b : Int)
      if m = 2 ^ b then f.round mode sat (decide (whole < 0)) whole.natAbs 0 false
      else
        let v : Int := whole * 2 ^ fixBits + (log2Frac m b : Int)
        f.round mode sat (decide (v < 0)) v.natAbs (-(fixBits : Int)) true

/-- VEXP2. -/
def execVexp2 (t : Ty) (d a : VReg) (s : State) : Host.Outcome State Fault Refusal :=
  s.lanewise t d a a fun x _ _ => (fmtOr64 t).exp2 s.rmode s.satOn ((fmtOr64 t).decode x)

/-- VLOG2. -/
def execVlog2 (t : Ty) (d a : VReg) (s : State) : Host.Outcome State Fault Refusal :=
  s.lanewise t d a a fun x _ _ => (fmtOr64 t).log2 s.rmode s.satOn ((fmtOr64 t).decode x)

end Sys2Proof.Machine
end

