-- ==== Sys2Proof/Machine/Matrix.lean ====
section
/-! DEFINITION. The matrix unit, the scale keeper and remote matrix commands (08 R256 to R272; 03 R106 to R108, R113,
R114). -/

namespace Sys2Proof.Machine

/-! Formats (Tables 2-4, 3-1, 8-5). -/

/-- The type code of a bank code. -/
def typeCode (bank : Nat) : Nat :=
  match bank with
  | 1 => 0
  | 2 => 1
  | 3 => 2
  | 4 => 3
  | 5 => 8
  | 6 => 9
  | 7 => 10
  | 8 => 11
  | 9 => 6
  | 10 => 5
  | _ => 15

/-- The bank code of a plane's type code. -/
def bankCode (ty : Nat) : Nat :=
  match ty with
  | 0 => 1
  | 1 => 2
  | 2 => 3
  | 3 => 4
  | 8 => 5
  | 9 => 6
  | 10 => 7
  | 11 => 8
  | 6 => 9
  | 5 => 10
  | _ => 0

/-- Whether a bank code is a format of the matrix unit; RAW, INT32 and FXA raise RESERVED_FORMAT as a reserved code does (DESIGN CHOICE, log
entry 168). -/
def matFormat (bank : Nat) : Bool := [1, 2, 3, 4, 5, 6, 7, 8, 9].contains bank

/-- KP of a bank code (Table 8-5). -/
def planeDepth (bank : Nat) : Nat :=
  match bank with
  | 5 | 6 | 9 => 64
  | 7 => 128
  | 8 => 256
  | _ => 32

/-- Whether two formats may be multiplied (R258). -/
def matPair (a b : Nat) : Bool := a == b || ((a == 5 || a == 6) && (b == 5 || b == 6))

/-- The output format F of an input format. -/
def matOut (a : Nat) : Nat := if a = 1 then 1 else if a = 9 then 10 else 2

/-! Planes. -/

def State.plane (s : State) (shadow : Bool) : Plane := if shadow then s.core.shadow else s.core.active
def State.setPlane (s : State) (shadow : Bool) (p : Plane) : State :=
  { s with core := if shadow then { s.core with shadow := p } else { s.core with active := p } }

/-- The offset of the scale byte of a block of a record's format (03 R83). -/
def recScale (fmt : Nat) (w : Word) (off : Nat) : Nat :=
  off / 8192 * 8192 + (bits w 16 13 + off % 8192 / groupBytes fmt) % 8192

/-- Row i of a tile in the own scratchpad: offset, and its codes. -/
def rowOff (r : Shape) (i : Nat) : Nat := r.base % 65536 + i * r.stride

def State.rowCodes (s : State) (r : Shape) (i : Nat) : List Nat :=
  let w := leNat (s.spBytes s.cid (rowOff r i) (rowBytes r.fmt r.cols))
  (List.range r.cols).map fun j => packedAt w (bankBits r.fmt) j

/-- The offset of the scale byte of block kb of row i of a tile. -/
def scaleAt (bf : Vector Word 8) (r : Shape) (i kb : Nat) : Nat :=
  let off := rowOff r i + kb * groupBytes r.fmt
  recScale r.fmt (bf.toList.getD (off / 8192) 0) off

/-- The scale byte of block kb of row i of a tile; 127 for the other formats. -/
def State.rowScale (s : State) (bf : Vector Word 8) (r : Shape) (i kb : Nat) : Nat :=
  if isBlock r.fmt then (memGet s.mem (spHome s.cid (scaleAt bf r i kb))).toNat else 127

/-- The faults of a tile operand of n bytes a row (R258). -/
def State.tileFault (s : State) (r : Shape) (n : Nat) : Option Flt :=
  let ea : DWord := BitVec.ofNat 64 r.base
  match regionOf s.cid ea with
  | .own off =>
    if off + (r.rows - 1) * r.stride + n > 65536 then some (fltAt translation ea)
    else if (List.range r.rows).any fun i => decide ((off + i * r.stride) % 8192 + n > 8192) then some (fltAt bankBounds ea)
    else if !s.core.inPart0 off ((r.rows - 1) * r.stride + n) then some (fltAt partitionBounds ea)
    else none
  | _ => some (fltAt translation ea)

/-- The matrix instructions with elements, by the OP codes of Table 8-7. -/
inductive MatOp where
  | mwld
  | mstrm
  | mmul
  | mrd
  deriving DecidableEq, Repr

def matOp? : Instr → Option MatOp
  | .mwld _ => some .mwld
  | .mstrm _ _ => some .mstrm
  | .mmul _ _ _ => some .mmul
  | .mrd _ _ => some .mrd
  | _ => none

def fmtFault (r : Shape) : Flt := fltAt reservedFormat (BitVec.ofNat 64 (r.base / 8192 * 8192))

/-- Whether the K columns of a record are whole blocks (Table 11-7). -/
def wholeBlocks (r : Shape) : Bool := !isBlock r.fmt || r.cols % 32 == 0

/-- The bytes of a row of a tile in an instruction: MRD puts a column's bytes unchanged into a RAW tile (Table 3-3; DESIGN
CHOICE, log entry 63). -/
def tileRow (op : MatOp) (p : Plane) (r : Shape) : Nat :=
  if op = .mrd ∧ r.fmt = 0 then rowBytes (bankCode p.fmt) r.cols else rowBytes r.fmt r.cols

/-- The checks of an instruction over its records (R258 to R264) against the working plane: its number of elements. -/
def State.matPlan (s : State) (op : MatOp) (p : Plane) (shs : List Shape) : Except Flt Nat :=
  match shs.findSome? fun r => s.tileFault r (tileRow op p r) with
  | some f => .error f
  | none =>
    match op, shs with
    | .mwld, [a] =>
      if !matFormat a.fmt then .error (fmtFault a)
      else if a.rows > 32 ∨ a.cols > planeDepth a.fmt ∨ wholeBlocks a = false then .error (flt channelState)
      else .ok a.rows
    | .mstrm, [x, y] =>
      let f := bankCode p.fmt
      if p.fmt = 15 then .error (flt channelState)
      else if !matFormat x.fmt || !matPair x.fmt f then .error (fmtFault x)
      else if y.fmt ≠ matOut x.fmt then .error (fmtFault y)
      else if x.cols ≠ p.k ∨ y.cols ≠ p.n ∨ x.rows ≠ y.rows then .error (flt channelState)
      else .ok x.rows
    | .mmul, [a, b, c] =>
      if !matFormat a.fmt then .error (fmtFault a)
      else if !matFormat b.fmt || !matPair a.fmt b.fmt then .error (fmtFault b)
      else if c.fmt ≠ matOut a.fmt then .error (fmtFault c)
      else if b.rows > 32 ∨ wholeBlocks b = false ∨ a.cols ≠ b.cols ∨ c.rows ≠ a.rows ∨ c.cols ≠ b.rows then .error (flt channelState)
      else .ok (((b.cols + planeDepth b.fmt - 1) / planeDepth b.fmt) * a.rows)
    | .mrd, [t] =>
      if p.fmt = 15 then .error (flt channelState)
      else if t.fmt = 11 then .error (fmtFault t)
      else if wholeBlocks t = false ∨ t.rows ≠ p.n ∨ t.cols ≠ p.k then .error (flt channelState)
      else .ok p.n
    | _, _ => .error (flt channelState)

/-! Sums (03 R106 to R108). -/

/-- The value of a code under its scale byte. -/
def codeValue (fmt code scale : Nat) : Fp := bankDecode fmt code scale

/-- One product, exact; for L6 by log fields with the sum of the scales (03 R95; R268). -/
def matProduct (fa fb : Nat) (a b : Nat × Nat) : Fp :=
  if fa = 8 then
    (if a.2 % 256 = 255 ∨ b.2 % 256 = 255 then .nan false
     else l6Product a.1 b.1 ((a.2 + b.2 : Nat) - 254))
  else (fpMul (codeValue fa a.1 a.2) (codeValue fb b.1 b.2)).1

/-- The exact sum of products: NaN and infinities as R107 says. -/
def exactSum : List Fp → Fp
  | [] => .fin false 0 0
  | p :: t => (fpAdd 0 p (exactSum t)).1

/-- A zero block sum is +0. -/
def plusZero : Fp → Fp
  | .fin n m e => if m = 0 then .fin false 0 0 else .fin n m e
  | v => v

/-- One k-block step of a floating accumulator: new pattern and counts (R106, R114). -/
def floatStep (f : FpFmt) (acc : Nat) (ps : List Fp) : Nat × Counts :=
  let s := plusZero (exactSum ps)
  let rs := (f.deliver 0 false s).1
  let a := f.decode acc
  let r := (f.deliver 0 false (fpAdd 0 a (f.decode rs)).1).1
  let v := f.decode r
  (r, ⟨(!v.isFin && !v.isNan && a.isFin && ps.all Fp.isFin).toNat, (v.isNan && !a.isNan).toNat, 0⟩)

/-- One k-block step of an INT32 accumulator (R108). -/
def intStep (acc : Nat) (ps : List Fp) : Nat × Counts :=
  let t := signedOf 32 acc + (ps.map Fp.int).sum
  (patternOf 32 t, ⟨(decide (clampInt 32 t ≠ t)).toNat, 0, 0⟩)

/-- An output element over k-blocks from an initial accumulator. -/
def matElement (out fa fb : Nat) (blocks : List (List ((Nat × Nat) × (Nat × Nat)))) (acc : Nat) : Nat × Counts :=
  blocks.foldl (fun r b =>
    let ps := b.map fun x => matProduct fa fb x.1 x.2
    let q := if out = 10 then intStep r.1 ps else floatStep ((bankFmt out).getD fp32) r.1 ps
    (q.1, r.2.add q.2)) (acc, Counts.zero)

/-- A row of codes, each with the scale byte of its block of 32. -/
def withScales (codes scales : List Nat) : List (Nat × Nat) :=
  codes.zipIdx.map fun c => (c.1, scales.getD (c.2 / 32) 127)

/-- The k-blocks of two rows of K values. -/
def kBlocks (a b : List (Nat × Nat)) : List (List ((Nat × Nat) × (Nat × Nat))) := chunks 32 ((a.length + 31) / 32) (a.zip b)

/-! Loading a plane. -/

/-- Column j of W from row j of a record, with its scales. -/
def State.loadColumn (s : State) (bf : Vector Word 8) (r : Shape) (ks : Bool) (tbase j k0 n : Nat) : List DWord × List Byte :=
  let codes := ((s.rowCodes r j).drop k0).take n
  let nb := if isBlock r.fmt then (n + 31) / 32 else 0
  let keeper := (s.coreAt (keeperOf s.cid)).keeper
  let sc := (List.range nb).map fun kb =>
    if ks then keeper.toList.getD ((tbase + j * (r.cols / 32) + kb) % 256) 0
    else BitVec.ofNat 8 (s.rowScale bf r j (k0 / 32 + kb))
  (codes.map fun c => BitVec.ofNat 64 c, sc)

/-- A plane with every column from a record: K-columns k0 to k0+n-1. -/
def State.loadAll (s : State) (bf : Vector Word 8) (r : Shape) (ks : Bool) (tbase k0 n : Nat) : Plane :=
  let cols := (List.range r.rows).map fun j => s.loadColumn bf r ks tbase j k0 n
  { fmt := typeCode r.fmt, k := n, n := r.rows, w := cols.map fun c => c.1, scale := cols.map fun c => c.2, src := none,
    lost := false }

/-- The codes of column j of a plane with their scale bytes. -/
def Plane.column (p : Plane) (j : Nat) : List (Nat × Nat) :=
  withScales ((p.w.getD j []).map fun w => w.toNat) ((p.scale.getD j []).map fun b => b.toNat)

/-! Elements. -/

/-- What an element comes to. -/
inductive MatOut where
  | ok (s : State)
  | fault (f : Flt)
  | wait

/-- An access of n bytes of the own scratchpad: a stall, an uncorrectable word, or nothing in the way (R246; 05 R178;
16 R439). -/
def State.byteBar (s : State) (read : Bool) (x : Nat × Nat) : Option MatOut :=
  if s.core.rangeStall s.cid x.1 x.2 then some .wait
  else if read && s.core.poisoned x.1 x.2 then some (.fault (accessFlt memPoison (BitVec.ofNat 64 x.1)))
  else none

/-- The bytes of an element of a bank format that must be aligned (03 R80). -/
def elemAlign (fmt : Nat) : Nat := if isBlock fmt then 1 else max 1 (bankBits fmt / 8)

/-- The bytes of columns k0 to k0+n-1 of row i of a tile, with the scale bytes of its blocks. -/
def rowParts (bf : Vector Word 8) (r : Shape) (i k0 n : Nat) (scales : Bool) : List (Nat × Nat) :=
  (rowOff r i + rowBytes r.fmt k0, rowBytes r.fmt n) ::
    (if isBlock r.fmt && scales then (List.range ((n + 31) / 32)).map fun kb => (scaleAt bf r i (k0 / 32 + kb), 1) else [])

/-- The accesses to columns of row i of a tile, under the rules of R246: alignment, stalls, uncorrectable words. -/
def State.rowBar (s : State) (bf : Vector Word 8) (r : Shape) (i k0 n : Nat) (scales read : Bool) : Option MatOut :=
  if rowOff r i % elemAlign r.fmt ≠ 0 then some (.fault (fltAt misalign (BitVec.ofNat 64 (rowOff r i))))
  else (rowParts bf r i k0 n scales).findSome? (s.byteBar read)

/-- The same for the whole of a row. -/
def State.wholeRow (s : State) (bf : Vector Word 8) (r : Shape) (i : Nat) (read : Bool) : Option MatOut :=
  s.rowBar bf r i 0 r.cols true read

def State.addExc (s : State) (k : Counts) : State := { s with core := { s.core with mxexc := addCounts s.core.mxexc k } }

/-- The operands of MWLD in a run: KS and TBASE. -/
def ElemRun.ks (r : ElemRun) : Bool := (r.vals.getD 0 0).getLsbD 32
def ElemRun.tbase (r : ElemRun) : Nat := bits (r.vals.getD 0 0) 40 8

/-- Element j of MWLD. -/
def State.mwldElem (s : State) (user : Bool) (r : ElemRun) (a : Shape) : MatOut :=
  match s.rowBar r.bfmt a r.k 0 a.cols (!r.ks) true with
  | some o => o
  | none =>
    let p := if r.k = 0 then
        { s.core.shadow with fmt := typeCode a.fmt, k := a.cols, n := a.rows, w := List.replicate a.rows (List.replicate a.cols 0),
                             scale := List.replicate a.rows (List.replicate (if isBlock a.fmt then a.cols / 32 else 0) 0), lost := s.core.shadow.lost && !user }
      else s.core.shadow
    let c := s.loadColumn r.bfmt a r.ks r.tbase r.k 0 a.cols
    .ok { s with core := { s.core with shadow := { p with w := p.w.set r.k c.1, scale := p.scale.set r.k c.2 } } }

/-- A row of sums written to an output tile. -/
def State.putRow (s : State) (y : Shape) (i : Nat) (vs : List (Nat × Counts)) : State :=
  let bytes := vs.flatMap fun v => leBytes v.1 (bankBits y.fmt / 8)
  (s.spWrite s.cid (rowOff y i) bytes).addExc (vs.foldl (fun k v => k.add v.2) Counts.zero)

/-- Row i of a streamed tile against a plane, from initial accumulators. -/
def State.streamRow (s : State) (bf : Vector Word 8) (p : Plane) (x : Shape) (i k0 n : Nat) (acc : Nat → Nat) :
    List (Nat × Counts) :=
  let nb := (n + 31) / 32
  let a := withScales (((s.rowCodes x i).drop k0).take n) ((List.range nb).map fun kb => s.rowScale bf x i (k0 / 32 + kb))
  (List.range p.n).map fun j => matElement (matOut x.fmt) x.fmt (bankCode p.fmt) (kBlocks a (p.column j)) (acc j)

/-- Element i of MSTRM. -/
def State.mstrmElem (s : State) (shadow : Bool) (r : ElemRun) (x y : Shape) : MatOut :=
  match s.wholeRow r.bfmt x r.k true, s.wholeRow r.bfmt y r.k false with
  | some o, _ => o
  | none, some o => o
  | none, none => .ok (s.putRow y r.k (s.streamRow r.bfmt (s.plane shadow) x r.k 0 x.cols fun _ => 0))

/-- Element e of MMUL: the plane is loaded with its chunk where the run has not done so, or at the chunk's first row; only
the chunk's columns are read. -/
def State.mmulElem (s : State) (shadow : Bool) (r : ElemRun) (a b c : Shape) : MatOut :=
  let kp := planeDepth b.fmt
  let ch := r.k / a.rows
  let i := r.k % a.rows
  let n := min kp (b.cols - ch * kp)
  let load := decide (i = 0 ∨ r.vec = 0)
  match (if load then (List.range b.rows).findSome? fun j => s.rowBar r.bfmt b j (ch * kp) n true true else none),
      s.rowBar r.bfmt a i (ch * kp) n true true, s.wholeRow r.bfmt c i true with
  | some o, _, _ => o
  | none, some o, _ => o
  | none, none, some o => o
  | none, none, none =>
    let s := if load then
        s.setPlane shadow { s.loadAll r.bfmt b false 0 (ch * kp) n with src := (s.plane shadow).src, lost := (s.plane shadow).lost }
      else s
    let old := s.rowCodes c i
    .ok (s.putRow c i (s.streamRow r.bfmt (s.plane shadow) a i (ch * kp) n fun j => old.getD j 0))

/-- Element j of MRD: column j as a row, converted under the destination bank's mode where the formats differ (R264). -/
def State.mrdElem (s : State) (shadow : Bool) (r : ElemRun) (t : Shape) : MatOut :=
  let p := s.plane shadow
  match (if t.fmt = 0 then s.byteBar false (rowOff t r.k, tileRow .mrd p t) else s.wholeRow r.bfmt t r.k false) with
  | some o => o
  | none =>
    let f := bankCode p.fmt
    let col := p.column r.k
    let off := rowOff t r.k
    let w := r.bfmt.toList.getD (off / 8192) 0
    let codes := col.map fun c => c.1
    let putScales (s : State) (l : List Nat) : State :=
      l.zipIdx.foldl (fun t' b =>
        t'.spWrite s.cid (recScale t.fmt w (off + b.2 * groupBytes t.fmt)) [BitVec.ofNat 8 b.1]) s
    if t.fmt = f ∨ t.fmt = 0 then
      let s := s.spWrite s.cid off (leBytes (pack (bankBits f) codes) (tileRow .mrd p t))
      .ok (if isBlock t.fmt then putScales s ((p.scale.getD r.k []).map fun b => b.toNat) else s)
    else
      let vs := col.map fun c => codeValue f c.1 c.2
      let gs := (chunks 32 ((vs.length + 31) / 32) vs).map fun g => groupEncode f t.fmt (bits w 4 3) (w.getLsbD 7) g
      let bytes := leBytes (pack (32 * bankBits t.fmt) (gs.map fun g => g.1)) (rowBytes t.fmt t.cols)
      let s := (s.spWrite s.cid off bytes).addExc (gs.foldl (fun k g => k.add g.2.2.2) Counts.zero)
      .ok (if isBlock t.fmt then putScales s (gs.map fun g => g.2.1.getD 0) else s)

/-- An element of a matrix run; user is false for slot 7. -/
def State.matStep (s : State) (op : MatOp) (user : Bool) (r : ElemRun) : MatOut :=
  match op, r.shapes with
  | .mwld, [a] => s.mwldElem user r a
  | .mstrm, [x, y] => s.mstrmElem (!user) r x y
  | .mmul, [a, b, c] => s.mmulElem (!user) r a b c
  | .mrd, [t] => s.mrdElem (!user) r t
  | _, _ => .wait

/-- What stands on completion: SRC of the planes; slot 7's MWLD leaves the user's (R259, R262, R267). -/
def State.matEnd (s : State) (op : MatOp) (user : Bool) (r : ElemRun) : State :=
  match op, r.shapes with
  | .mwld, [a] =>
    if user then { s with core := { s.core with shadow := { s.core.shadow with src := some (a, r.ks, r.tbase) } } } else s
  | .mmul, _ => s.setPlane (!user) { s.plane (!user) with src := none }
  | _, _ => s

/-! The unit (R257, R265, R266). -/

def isMatRun (r : ElemRun) : Bool := (matOp? r.ins).isSome

/-- Whether a matrix instruction of a slot 0 to 6, the sequencer or a remote command is under way. -/
def Core.matWork (c : Core) : Bool :=
  (([0, 1, 2, 3, 4, 5, 6] : List (Fin 8)).any fun i => c.slots[i].run.any isMatRun) || ((c.seqRun 0).any isMatRun) ||
    c.mcmdRun.isSome

/-- Whether work that slot 7 pauses still commits an element (R266). -/
def Core.pauses (c : Core) : Bool := c.pausing && c.matWork

/-- Whether slot 7 holds the unit over paused work. -/
def Core.held7 (c : Core) : Bool := c.slots[(7 : Fin 8)].paused && !c.pauses

/-- Whether the slot in turn must wait for the unit. -/
def State.matHeld (s : State) : Bool :=
  if s.sid.val = 7 then false
  else s.core.held7 || (s.core.slots[(7 : Fin 8)].run.any isMatRun) || s.core.matWork || s.core.seqs[(0 : Fin 3)].running

/-- A matrix instruction behind its gate. -/
def State.matIssue (s : State) (o : Opnds) (k : List DWord → State → State) : Host.Outcome State Fault Refusal :=
  s.issue o fun vs s' => if s.matHeld || s.heldByAcquire then s.stall else k vs s'

/-! Its pace (R265, Table 8-5). -/

/-- The cycles of a streamed row and of a loaded or read column of a bank code. -/
def matRates (bank : Nat) : Nat × Nat :=
  match bank with
  | 1 => (16, 4)
  | 2 => (4, 2)
  | _ => (1, 1)

/-- The cycles from the start of a run, at its element, to its first commit. -/
def State.matFirst (s : State) (user : Bool) (r : ElemRun) : Nat :=
  let p := matRates (bankCode (s.plane (!user)).fmt)
  match matOp? r.ins, r.shapes with
  | some .mwld, [a] => 1 + (matRates a.fmt).2
  | some .mrd, _ => 1 + p.2
  | some .mstrm, _ => 23 + p.1
  | some .mmul, [_, b, _] => b.rows * (matRates b.fmt).2 + 23 + (matRates b.fmt).1
  | _, _ => 1

/-- The cycles from the commit of an element to the next. -/
def State.matNext (s : State) (user : Bool) (r : ElemRun) : Nat :=
  let p := matRates (bankCode (s.plane (!user)).fmt)
  match matOp? r.ins, r.shapes with
  | some .mwld, [a] => (matRates a.fmt).2
  | some .mrd, _ => p.2
  | some .mstrm, _ => p.1
  | some .mmul, [a, b, _] => if (r.k + 1) % a.rows = 0 then s.matFirst user r else (matRates b.fmt).1
  | _, _ => 1

def State.setMatAt (s : State) (n : Nat) : State := { s with core := { s.core with matAt := s.coreCycles + n } }

/-- Whether the unit's next commit is due, for a run of the user's or of slot 7. -/
def State.matDue (s : State) (user : Bool) : Bool := decide (s.core.matAt ≤ s.coreCycles) && (user || !s.core.pauses)

/-- An element of run r has committed: the next is due at its pace; work that has committed its last before a pause gives way
to slot 7's. -/
def State.paced (s : State) (user : Bool) (r : ElemRun) : State :=
  if user && s.core.pausing then
    let t := { s with core := { s.core with pausing := false } }
    t.setMatAt (match s.core.slots[(7 : Fin 8)].run with
      | some q => 1 + s.matFirst false q
      | none => 1)
  else s.setMatAt (s.matNext user r)

/-- Slot 7 takes the unit over running work; its MWLD, lost, marks the shadow plane lost (R266, R267). -/
def State.takeUnit (s : State) (lost : Bool) : State :=
  if s.sid.val ≠ 7 then s
  else
    let work := s.core.matWork
    let c := { s.core with pausing := s.core.pausing || (work && !s.me.paused), loaded7 := s.core.loaded7 || (work && lost) }
    let s := ({ s with core := c }).setMe (if work then { s.me with paused := true } else s.me)
    if lost then { s with core := { s.core with shadow := { s.core.shadow with lost := true } } } else s

/-- A paused MWLD of a run restarts at element 0. -/
def restartMwld (r : ElemRun) : ElemRun := if matOp? r.ins = some .mwld then { r with k := 0 } else r

/-- The records of a list of handles, in order. -/
def State.resolveAll (s : State) (j : Option Job) : List Nat → Except Resolved (List Shape)
  | [] => .ok []
  | h :: t =>
    match s.resolveIn j h with
    | .ok r =>
      match s.resolveAll j t with
      | .ok l => .ok (r :: l)
      | .error e => .error e
    | e => .error e

/-- A matrix instruction of the slot in turn begins: handles, checks, elements. Its slot stalls, RUNNING, until it
completes, and the stall counts (R265, R266). -/
def State.matStart (s s' : State) (ins : Instr) (op : MatOp) (handles : List DWord) (vals : List DWord) : State :=
  if handles.any fun h => bits h 32 32 != 0 then s.raiseMacro (flt reservedField)
  else
    match s.resolveAll s.shapeJob (handles.map fun h => bits h 0 32) with
    | .error (.fault f) => (s.dropFailed).raiseMacro f
    | .error (.miss slot va) => (s.wantShape slot va).stall
    | .error (.ok _) => s
    | .ok shs =>
      match s.matPlan op (s.plane (s.sid.val = 7)) shs with
      | .error f => s.raiseMacro f
      | .ok n =>
        let r := { ElemRun.start ins n 0 with vals := vals, shapes := shs, bfmt := s.formats }
        if (s.macroStart n).isNone then s.raise (flt progressMismatch)
        else
          let t := (s'.takeUnit (op == .mwld)).startRun n r State.advance
          let u := if t.core.pauses then t else t.setMatAt (s.matFirst (decide (s.sid.val ≠ 7)) r)
          if u.me.run.isSome then u.setMe { u.me with stall := some (s.me.stall.getD s.now) } else u

/-- The fault of MWLD's operand bits (R259). -/
def mwldReserved (v : DWord) : Bool := bits v 33 7 != 0 || bits v 48 16 != 0

/-- MWLD. -/
def execMwld (a : Reg) (s : State) : Host.Outcome State Fault Refusal :=
  s.matIssue ⟨[a], none, false, true⟩ fun v s' =>
    if mwldReserved (arg v 0) then s.raiseMacro (flt reservedField)
    else s.matStart s' (.mwld a) .mwld [BitVec.ofNat 64 (bits (arg v 0) 0 32)] [arg v 0]

/-- MSTRM. -/
def execMstrm (a b : Reg) (s : State) : Host.Outcome State Fault Refusal :=
  s.matIssue ⟨[a, b], none, false, true⟩ fun v s' => s.matStart s' (.mstrm a b) .mstrm [arg v 0, arg v 1] []

/-- MMUL: the handles of A, Bᵀ and C. -/
def execMmul (d a b : Reg) (s : State) : Host.Outcome State Fault Refusal :=
  s.matIssue ⟨[a, b, d], none, false, true⟩ fun v s' => s.matStart s' (.mmul d a b) .mmul [arg v 0, arg v 1, arg v 2] []

/-- MRD. -/
def execMrd (d a : Reg) (s : State) : Host.Outcome State Fault Refusal :=
  s.matIssue ⟨[a], some d, false, true⟩ fun v s' => s.matStart s' (.mrd d a) .mrd [arg v 0] []

/-- The planes exchanged, a lost shadow plane reloaded from its source first (R260), whose reads may stall or meet an
uncorrectable word (R246). -/
def State.swapPlanes (s : State) : MatOut :=
  let sh := s.core.shadow
  let put (p : Plane) : MatOut := .ok { s with core := { s.core with active := p, shadow := s.core.active } }
  if !sh.lost then put sh
  else
    match sh.src with
    | none => put Plane.reset
    | some (r, ks, tb) =>
      match (List.range r.rows).findSome? fun j => s.rowBar s.core.bfmt r j 0 r.cols (!ks) true with
      | some o => o
      | none => put { s.loadAll s.core.bfmt r ks tb 0 r.cols with src := sh.src }

/-- MSWAP. -/
def execMswap (s : State) : Host.Outcome State Fault Refusal :=
  s.matIssue ⟨[], none, false, false⟩ fun _ s' =>
    if s.sid.val = 7 then s.raise (flt channelState)
    else
      match s'.swapPlanes with
      | .ok t => t.advance
      | .fault f => s.raise f
      | .wait => s.stall

/-- Every weight and scale of a plane zero (R263). -/
def Plane.cleared (p : Plane) : Plane :=
  if p.fmt = 15 then p
  else { p with w := p.w.map fun c => c.map fun _ => 0, scale := p.scale.map fun c => c.map fun _ => 0, src := none }

/-- MZERO. -/
def execMzero (s : State) : Host.Outcome State Fault Refusal :=
  s.matIssue ⟨[], none, false, false⟩ fun _ s' =>
    let sh := decide (s.sid.val = 7)
    ((s'.takeUnit false).setPlane sh (s.plane sh).cleared).advance

/-- The element of a matrix instruction of the slot in turn commits, unless the unit is held. -/
def State.matElem (s : State) (r : ElemRun) (op : MatOp) : State :=
  let user := decide (s.sid.val ≠ 7)
  if user && s.core.held7 then s
  else
    let dOf : Option Reg := match r.ins with
      | .mrd d _ => some d
      | _ => none
    let v : DWord := BitVec.ofNat 64 r.n
    let full := r.k + 1 == r.n && (match dOf with
      | some d => s.dstCheck d v == .stall
      | none => false)
    if full then s
    else
      match s.matStep op user r with
      | .wait => s
      | .fault f => s.raiseElem f r.k
      | .ok t =>
        t.stepRun { r with vec := 1 } fun u =>
          let u := u.matEnd op user r
          match dOf with
          | some d =>
            (match u.dstCheck d v with
             | .fault f => u.raise f
             | _ => (u.writeReg d v).advance)
          | none => u.advance

/-- MATRIX_RESUME: slot 7 has ended its work and releases the unit; a paused MWLD restarts if slot 7 executed one meanwhile, and
the work goes on from this cycle. -/
def execMatrixResume (s : State) : Host.Outcome State Fault Refusal :=
  .next (let m := s.core.slots[(7 : Fin 8)]
    if m.busy || !m.paused then s
    else
      let slots := s.core.slots.set 7 { m with paused := false }
      let again (r : ElemRun) : ElemRun := if s.core.loaded7 then restartMwld r else r
      let slots := Vector.ofFn fun i : Fin 8 => if i.val < 7 then { slots[i] with run := slots[i].run.map again } else slots[i]
      let seqs := s.core.seqs.map fun q => { q with run := q.run.map again }
      let run := s.core.mcmdRun.map fun x => (x.1, again x.2)
      let t := { s with core := { s.core with slots := slots, seqs := seqs, mcmdRun := run, loaded7 := false, pausing := false } }
      match (slots.toList.filterMap fun x => x.run.filter isMatRun) ++ (t.core.seqRun 0).toList ++ (run.map fun x => x.2).toList with
      | r :: _ => t.setMatAt (s.matFirst true r)
      | [] => t)

/-! The scale keeper (R269). -/

/-- MSCL. -/
def execMscl (d a : Reg) (s : State) : Host.Outcome State Fault Refusal :=
  s.issue ⟨[a], some d, false, false⟩ fun v s' =>
    let w := arg v 0
    let k := keeperOf s.cid
    if bits w 17 47 ≠ 0 then s.raise (flt reservedField)
    else if !s.core.inPart1 k then s.raise (fltAt partitionBounds (BitVec.ofNat 64 k))
    else
      let x := (s'.newWait (.mscl d) 7 none 0 none).popped [a] v
      (s'.holdSlot x).sendTo k (some (2 ^ 47 + k))
        (.scaleKeeperOp s'.self x.op (BitVec.ofNat 8 (bits w 0 8)) (BitVec.ofNat 8 (bits w 8 8)) (w.getLsbD 16))

/-- SCALE_KEEPER_OP at the keeper: the old entry is answered, the new one stored. -/
def execScaleKeeperOp (who : Who) (op : Nat) (index value : BitVec 8) (wr : Bool) (s : State) : Host.Outcome State Fault Refusal :=
  .next (let i : Fin 256 := Fin.ofNat 256 index.toNat
    let old := s.core.keeper[i]
    let t := if wr then { s with core := { s.core with keeper := s.core.keeper.set i value } } else s
    t.send who.core (.msclReply who op (old.setWidth 64)))

/-- MSCL_REPLY. -/
def State.keeperReply (s : State) (who : Who) (op : Nat) (v : DWord) : State :=
  match s.waitOf who.ent op with
  | some (_, w) =>
    (match w.kind with
     | .mscl d =>
       (match s.finishWait who.ent w (some d) v with
        | some t => t
        | none => s.send s.cid (.msclReply who op v))
     | _ => s)
  | none => s

def execMsclReply (who : Who) (op : Nat) (v : DWord) (s : State) : Host.Outcome State Fault Refusal :=
  .next (s.onCore who.core fun t => t.keeperReply who op v)

/-! Remote matrix commands (R271, R272). -/

/-- MCMD. -/
def execMcmd (d a b : Reg) (s : State) : Host.Outcome State Fault Refusal :=
  s.issue ⟨[a, b], some d, false, false⟩ fun v s' =>
    let h := arg v 0
    let ea := arg v 1
    match regionOf s.cid ea with
    | .own off =>
      if off % 8 ≠ 0 then s.raise (fltAt misalign ea)
      else if off % 8192 + 32 > 8192 then s.raise (fltAt bankBounds ea)
      else if !s.core.inPart0 off 32 then s.raise (fltAt partitionBounds ea)
      else if s.heldByAcquire || s.core.rangeStall s.cid off 32 then s.stall
      else if s.core.poisoned off 32 then s.raise (accessFlt memPoison ea)
      else
        let l := s.spBytes s.cid off 32
        let f (o n : Nat) := leNat ((l.drop o).take n)
        if bits h 23 41 ≠ 0 ∨ bits h 0 8 ≠ 0 ∨ f 0 1 > 5 ∨ f 1 1 > 63 ∨ f 2 6 ≠ 0 then s.raise (flt reservedField)
        else if bits h 8 12 > 2303 ∨ s.core.inPart1 (handleCore h) = false then s.raise (fltAt partitionBounds h)
        else if s.core.mcmdOut ≥ 4 then s.done s' d 1
        else
          let m : MatCmd := { who := s.self, slot := s.sid.val, code := f 0 1, tag := f 1 1, opa := leWord ((l.drop 8).take 8),
                              opb := BitVec.ofNat 64 (f 16 4), opd := BitVec.ofNat 64 (f 20 4),
                              token := leWord ((l.drop 24).take 8), job := s.myJob }
          match s'.dstCheck d 0 with
          | .stall => s.stall
          | .fault x => s.raise x
          | .ok =>
            let t := (s'.writeReg d 0).advance
            let t := { t with core := { t.core with tags := t.core.tags &&& ~~~(BitVec.ofNat 64 (2 ^ m.tag)),
                                                    mcmdOut := t.core.mcmdOut + 1 } }
            (t.countSend m.job s.die).sendFrom s.cid (handleCore h) (some s.self) s.outstanding
              (some (2 ^ 48 + handleCore h)) (.mcmdArrival m)
    | _ => s.raise (fltAt translation ea)

/-- The outcome of a remote command leaves for its issuer: the element in bits 47:0 of its last field, above it the
address. -/
def State.mcmdAnswer (s : State) (m : MatCmd) (code k : Nat) (addr : DWord) : State :=
  s.send m.who.core (.mcmdResult m.who m.slot m.tag code (k % 2 ^ 48 + addr.toNat * 2 ^ 48))

/-- The instruction, operation and handles of a command (Table 8-7). -/
def cmdParts (m : MatCmd) : Option (MatOp × Instr × List Nat) :=
  match m.code with
  | 0 => some (.mwld, .mwld .z, [bits m.opa 0 32])
  | 2 => some (.mstrm, .mstrm .z .z, [bits m.opa 0 32, bits m.opb 0 32])
  | 3 => some (.mmul, .mmul .z .z .z, [bits m.opa 0 32, bits m.opb 0 32, bits m.opd 0 32])
  | 5 => some (.mrd, .mrd .z .z, [bits m.opa 0 32])
  | _ => none

/-- The next remote command begins once the unit is free, as an instruction of a slot 0 to 6 would. -/
def State.nextCmd (s : State) : State :=
  if s.core.held7 || s.core.matWork || (s.core.slots[(7 : Fin 8)].run.any isMatRun) || s.core.seqs[(0 : Fin 3)].running then s
  else
    match s.core.mcmds with
    | [] => s
    | m :: rest =>
      let t := { s with core := { s.core with mcmds := rest } }
      match cmdParts m with
      | none =>
        if m.code = 1 then
          (match t.swapPlanes with
           | .ok u => u.mcmdAnswer m 0 0 0
           | .fault f => t.mcmdAnswer m f.code 0 f.eaddr
           | .wait => s)
        else (t.setPlane false t.core.active.cleared).mcmdAnswer m 0 0 0
      | some (op, ins, hs) =>
        if (m.code = 0 ∧ mwldReserved m.opa = true) ∨ (m.code ≠ 0 ∧ bits m.opa 32 32 ≠ 0) then t.mcmdAnswer m reservedField 0 0
        else
          match s.resolveAll (s.core.job.bind s.jobs.get?) hs with
          | .error (.fault f) => (t.dropFailed).mcmdAnswer m f.code 0 f.eaddr
          | .error (.miss slot va) => s.wantShape slot va
          | .error (.ok _) => s
          | .ok shs =>
            match s.matPlan op s.core.active shs with
            | .error f => t.mcmdAnswer m f.code 0 f.eaddr
            | .ok n =>
              let r := { ElemRun.start ins n 0 with vals := [m.opa], shapes := shs, bfmt := s.core.bfmt }
              ({ t with core := { t.core with mcmdRun := some (m, r) } }).setMatAt (s.matFirst true r)

/-- MCMD_ARRIVAL: accepted with the right token, or refused with CAP_DENIED. -/
def execMcmdArrival (m : MatCmd) (s : State) : Host.Outcome State Fault Refusal :=
  .next (if m.token = s.core.captok ∧ s.core.captok ≠ 0 then
      ({ s with core := { s.core with mcmds := s.core.mcmds ++ [m] } }).nextCmd
    else s.mcmdAnswer m capDenied 0 (BitVec.ofNat 64 s.cid))

/-- The element of the remote command under way commits. -/
def State.cmdElem (s : State) : State :=
  match s.core.mcmdRun with
  | none => s.nextCmd
  | some (m, r) =>
    if s.core.held7 || !s.matDue true then s
    else
      let finish (t : State) (code k : Nat) (addr : DWord) : State :=
        (({ t with core := { t.core with mcmdRun := none } }).mcmdAnswer m code k addr).nextCmd
      match matOp? r.ins with
      | none => s
      | some op =>
        match s.matStep op true r with
        | .wait => s
        | .fault f => finish s f.code r.k f.eaddr
        | .ok t =>
          if r.k + 1 < r.n then ({ t with core := { t.core with mcmdRun := some (m, { r with k := r.k + 1, vec := 1 }) } }).paced true r
          else finish ((t.matEnd op true r).paced true r) 0 0 0

/-- MCMD_RESULT at the issuer: the tag is set, or the fault is raised asynchronously (13 R367). -/
def State.cmdResult (s : State) (who : Who) (tag code k : Nat) : State :=
  let job := s.jobOf ((s.core.fibre? who.ent).getD Fibre.reset)
  let s := ({ s with core := { s.core with mcmdOut := s.core.mcmdOut - 1 } }).countConsume job s.die
  if code = 0 then s.setTags (BitVec.ofNat 64 (2 ^ tag))
  else
    let ea : DWord := BitVec.ofNat 64 (k / 2 ^ 48)
    let ei : DWord := BitVec.ofNat 64 (k % 2 ^ 48)
    if who.ent ≥ 256 then s.coreTrap code ea ei [] else s.raiseAsync who.ent (asyncOf code 0 ea ei 0 none false)

def execMcmdResult (who : Who) (_slot tag code idx : Nat) (s : State) : Host.Outcome State Fault Refusal :=
  .next (s.onCore who.core fun t => t.cmdResult who tag code idx)

end Sys2Proof.Machine
end

