-- ==== Sys2Proof/Machine/Switch.lean ====
section
/-! DEFINITION. Switch, restore, migration and abandonment of jobs (12 R355; 13 R374 to R380). -/

namespace Sys2Proof.Machine

/-! Images (Tables 13-4, 13-5). -/

/-- The 32 bytes of a shape record (11 Table 11-7). -/
def Shape.bytes (r : Shape) : List Byte :=
  leBytes r.base 6 ++ [BitVec.ofNat 8 r.fmt, 0] ++ leBytes r.gen 2 ++ leBytes r.rows 2 ++ leBytes r.cols 2 ++ [0, 0] ++
    leBytes r.stride 4 ++ List.replicate 12 0

/-- A list of bytes cut or filled with zeros to a length. -/
def padTo (n : Nat) (l : List Byte) : List Byte := l.take n ++ List.replicate (n - l.length) 0

/-- A plane image. -/
def Plane.image (p : Plane) : List Byte :=
  let s := match p.src with
    | some x => x
    | none => (⟨0, 0, 0, 0, 0, 0⟩, false, 0)
  let head := [BitVec.ofNat 8 p.fmt, BitVec.ofNat 8 (s.2.1.toNat + p.lost.toNat * 2 + p.src.isSome.toNat * 4)] ++
    leBytes p.k 2 ++ [BitVec.ofNat 8 p.n, BitVec.ofNat 8 s.2.2] ++ [0, 0] ++ (if p.src.isSome then s.1.bytes else List.replicate 32 0)
  let width := bankBits (bankCode p.fmt)
  let cols := (List.range 32).flatMap fun j =>
    padTo 256 (leBytes (pack width ((p.w.getD j []).map fun c => c.toNat)) (((p.w.getD j []).length * width + 7) / 8))
  let scales := (List.range 32).flatMap fun j => padTo 8 (p.scale.getD j [])
  padTo 8512 (padTo 64 head ++ cols ++ scales)

/-- The plane of an image. -/
def planeOf (l : List Byte) : Plane :=
  let fmt := fieldOf l 0 1
  let flags := fieldOf l 1 1
  let k := fieldOf l 2 2
  let n := fieldOf l 4 1
  let width := bankBits (bankCode fmt)
  let nb := if isBlock (bankCode fmt) then (k + 31) / 32 else 0
  if fmt = 15 then { Plane.reset with lost := flags / 2 % 2 == 1 }
  else
    { fmt := fmt, k := k, n := n,
      w := (List.range n).map fun j =>
        let w := leNat ((l.drop (64 + 256 * j)).take 256)
        (List.range k).map fun i => BitVec.ofNat 64 (packedAt w width i),
      scale := (List.range n).map fun j => (l.drop (8256 + 8 * j)).take nb,
      src := if flags / 4 % 2 = 1 then some (shapeOf ((l.drop 8).take 32), flags % 2 == 1, fieldOf l 5 1) else none,
      lost := flags / 2 % 2 == 1 }

/-- The KiB bitmap a fibre contributes (R375): that of its liveness point, else every KiB. -/
def State.liveMap (s : State) (f : Fibre) : DWord :=
  match f.live with
  | some p => if s.core.inPart0 (p.bmap.toNat * 8) 8 then s.spWord s.cid (p.bmap.toNat * 8) else BitVec.allOnes 64
  | none => BitVec.allOnes 64

/-- The bitmap of the saved scratchpad of the core in turn. -/
def State.saveMap (s : State) : DWord :=
  if s.core.saving.isSome then BitVec.allOnes 64
  else s.core.runq.foldl (fun m e => m ||| s.liveMap e.2) 0

/-- The KiB that a bitmap names, ascending. -/
def kibs (m : DWord) : List Nat := (List.range 64).filter fun i => m.getLsbD i

/-- Whether nothing is held or pending towards a job: no packet to its cores, no request of its own under way. -/
def State.quiet (s : State) (j : Job) : Bool :=
  s.net.all (fun p =>
    !(decide (p.dst < 20000) && j.holds p.dst) &&
      (match requestOf p.ev with
       | some q => q.job != some j.num
       | none => jobOfEv p.ev != some j.num)) &&
    s.core.channels.toList.all fun x => x.flight.isEmpty && x.pend.isEmpty

/-- The bytes of an endpoint entry (06 Table 6-1). -/
def Endpoint.bytes (x : Endpoint) : List Byte :=
  leBytes (x.low + x.rsv.toNat * 2 ^ 13 + x.lpq.toNat * 2 ^ 14 + x.owner.toNat * 2 ^ 16 + x.pep.toNat * 2 ^ 24 +
    x.pdie.toNat * 2 ^ 32 + x.pcore.toNat * 2 ^ 35 + x.buf.toNat * 2 ^ 64 + x.slotb.toNat * 2 ^ 80 + x.cnt * 2 ^ 94 +
    x.head * 2 ^ 99 + x.ext.toNat * 2 ^ 104) 16

/-- The words in a core's message slots, each with 1 + its port, or 33 + its port when it is the argument of a handler that
has fired and is not dispatched (07 R224, R242): the FIFOs by port, then the arguments by run-queue entry. -/
def Core.slotWords (c : Core) : List (Nat × DWord) :=
  (c.ports.flatMap fun p => p.2.fifo.map fun w => (1 + p.1, w)) ++
    c.runq.flatMap fun f => f.2.args.filterMap fun a => a.2.map fun w => (33 + a.1, w)

/-- The image of a port: its descriptor (07 Table 7-1). -/
def portWord : Option Port → DWord
  | none => 0
  | some p => BitVec.ofNat 64 (1 + p.counter.toNat * 2 + p.ovf.toNat * 4 + (p.depth - 1) % 64 * 8 + p.arm.toNat * 512 + p.woff * 65536)

/-- The 32 bytes of row n: its descriptor (07 Table 7-2) with what Tables 7-4 and 7-5 keep beside it, and a value of
LASTFIRE. -/
def Core.rowImage (c : Core) (n : Nat) : List Byte :=
  let r := (c.rows.get? n).getD Row.reset
  leBytes r.mask.toNat 4 ++ leBytes r.entry.toNat 6 ++
    [BitVec.ofNat 8 (r.pri.toNat + r.rearm.toNat * 8 + r.rotate.toNat * 16),
     BitVec.ofNat 8 ((c.rows.get? n).isSome.toNat + r.en.toNat * 2 + r.sat.toNat * 4 + r.frm.toNat * 16), r.wlc.setWidth 8,
     r.wlu.setWidth 8, (if n < 8 then (c.lastfire[Fin.ofNat 8 n]).setWidth 8 else 0), 0] ++
    leBytes r.seq 8 ++ leBytes r.id.toNat 8

/-- The row of an image, if one was installed. -/
def rowOfImage (l : List Byte) : Option Row :=
  let k := fieldOf l 10 1
  let b := fieldOf l 11 1
  if b % 2 = 0 then none
  else some { mask := BitVec.ofNat 32 (fieldOf l 0 4), entry := BitVec.ofNat 48 (fieldOf l 4 6), pri := BitVec.ofNat 3 (k % 8),
              rearm := k / 8 % 2 == 1, rotate := k / 16 % 2 == 1, en := b / 2 % 2 == 1, sat := b / 4 % 2 == 1,
              seq := fieldOf l 16 8, id := leWord ((l.drop 24).take 8), frm := BitVec.ofNat 3 (b / 16), wlc := BitVec.ofNat 8 (fieldOf l 12 1),
              wlu := BitVec.ofNat 2 (fieldOf l 13 1) }

/-- Ports, message slots with the owner of each, rows and endpoints in logical order, 4,096 bytes (R377; 07 R242; the places
within are a DESIGN CHOICE, log entry 79). -/
def Core.tableImage (c : Core) : List Byte :=
  let slots := c.slotWords.take 256
  ((List.range 32).flatMap fun i => leBytes (portWord (c.port? i)).toNat 8) ++
    padTo 2048 (slots.flatMap fun x => leBytes x.2.toNat 8) ++ padTo 256 (slots.map fun x => BitVec.ofNat 8 x.1) ++
    ((List.range 16).flatMap c.rowImage) ++ (List.range 64).flatMap fun e => (c.endpoint e).bytes

/-- A port of an image: its descriptor and the message slots it owns; the senders that wait at it are kept. -/
def portOfImage (w : DWord) (slots : List (Nat × DWord)) (i : Nat) (kept : Option Port) : Option Port :=
  if w.getLsbD 0 then
    some { counter := w.getLsbD 1, ovf := w.getLsbD 2, depth := if w.getLsbD 1 then 0 else bits w 3 6 + 1, arm := w.getLsbD 9,
           woff := bits w 16 16, fifo := (slots.filter fun x => x.1 == 1 + i).map fun x => x.2,
           held := (slots.filter fun x => x.1 == 33 + i).length, waiting := (kept.map fun p => p.waiting).getD [] }
  else none

/-- The arguments of fired handlers take their words from an image, in its order. -/
def argsOfImage : List (Nat × Option DWord) → List DWord → List (Nat × Option DWord) × List DWord
  | [], ws => ([], ws)
  | (p, none) :: t, ws =>
    let r := argsOfImage t ws
    ((p, none) :: r.1, r.2)
  | (p, some _) :: t, ws =>
    let r := argsOfImage t (ws.drop 1)
    ((p, some (ws.headD 0)) :: r.1, r.2)

/-- The same of every fibre of a run queue. -/
def fibresOfImage : Tbl Fibre → List DWord → Tbl Fibre
  | [], _ => []
  | (e, f) :: t, ws =>
    let r := argsOfImage f.args ws
    (e, { f with args := r.1 }) :: fibresOfImage t r.2

/-- The endpoint entry of an image; what it holds for its peers is kept. -/
def entryOfImage (l : List Byte) (x : Endpoint) : Endpoint :=
  let w := leNat l
  let f (lo len : Nat) := w / 2 ^ lo % 2 ^ len
  { Endpoint.ofImage l with closed := f 12 1 == 1, rsv := f 13 1 == 1, lpq := f 14 1 == 1, cnt := f 94 5, head := f 99 4,
                            offers := x.offers, kinds := x.kinds, notice := x.notice, busyTile := x.busyTile, orphan := x.orphan }

/-- The tables of a core as the 4,096 bytes of an image give them. -/
def Core.withTables (c : Core) (l : List Byte) : Core :=
  let owners := (l.drop 2304).take 256
  let slots := ((List.range 256).filter fun k => (owners.getD k 0) != 0).map fun k =>
    ((owners.getD k 0).toNat, leWord ((l.drop (256 + 8 * k)).take 8))
  let row (n : Nat) : List Byte := (l.drop (2560 + 32 * n)).take 32
  { c with
    ports := (List.range 32).filterMap fun i =>
      (portOfImage (leWord ((l.drop (8 * i)).take 8)) slots i (c.port? i)).map fun p => (i, p)
    rows := (List.range 16).filterMap fun n => (rowOfImage (row n)).map fun r => (n, r)
    lastfire := Vector.ofFn fun k => BitVec.ofNat 4 (fieldOf (row k.val) 14 1)
    runq := fibresOfImage c.runq ((slots.filter fun x => decide (x.1 > 32)).map fun x => x.2)
    endpoints := c.endpoints.map fun e => (e.1, entryOfImage ((l.drop (3072 + 16 * e.1)).take 16) e.2) }

/-- The progress of channels, sequencers and arrivals, within 1,024 bytes. -/
def Core.engineImage (c : Core) : List Byte :=
  padTo 1024 ((c.channels.toList.flatMap fun x =>
      leBytes (x.busy.toNat + x.halted.toNat * 2 + x.subscr.toNat * 4 + x.code * 256 + x.tag * 2 ^ 16) 8 ++ leBytes x.next 8 ++
        leBytes x.elems 8 ++ leBytes x.wm 8) ++
    (c.seqs.toList.flatMap fun q => leBytes (q.running.toNat + q.stopped.toNat * 2 + q.halted.toNat * 4 + q.code * 256) 8 ++ leBytes q.word 8) ++
    c.arrivals.flatMap fun a => leBytes a.core 2 ++ leBytes a.ch 2 ++ leBytes a.lo 2 ++ leBytes a.wm 4 ++ leBytes a.hi 4)

/-- The engines of a core go on from the progress that an image gives (R379). -/
def Core.withEngines (c : Core) (l : List Byte) : Core :=
  let word (o : Nat) : Nat := leNat ((l.drop o).take 8)
  let chan (i : Fin 8) : Channel :=
    let w := word (32 * i.val)
    { c.channels[i] with busy := w % 2 == 1, halted := w / 2 % 2 == 1, subscr := w / 4 % 2 == 1, code := w / 256 % 256,
                         tag := w / 2 ^ 16 % 64, next := word (32 * i.val + 8), elems := word (32 * i.val + 16), wm := word (32 * i.val + 24) }
  let seq (i : Fin 3) : Seq :=
    let w := word (256 + 16 * i.val)
    { c.seqs[i] with running := w % 2 == 1, stopped := w / 2 % 2 == 1, halted := w / 4 % 2 == 1, code := w / 256 % 256,
                     word := word (264 + 16 * i.val) }
  let rec_ (k : Nat) (a : Arrival) : Arrival :=
    let b := (l.drop (304 + 14 * k)).take 14
    if k < 51 then { a with lo := fieldOf b 4 2, wm := fieldOf b 6 4, hi := fieldOf b 10 4 } else a
  { c with channels := Vector.ofFn chan, seqs := Vector.ofFn seq, arrivals := c.arrivals.zipIdx.map fun x => rec_ x.2 x.1 }

/-- The image of the core in turn (Table 13-4). -/
def State.coreImage (s : State) (j : Job) : List Byte :=
  let c := s.core
  let m := s.saveMap
  let head := leBytes m.toNat 8 ++ [BitVec.ofNat 8 (c.saving.isSome.toNat + (s.quiet j).toNat * 2), 0] ++ leBytes (j.index s.cid) 2 ++
    leBytes c.runq.length 2
  let sys := [c.tags, c.stagecnt, c.exhausted.setWidth 64, c.mxexc, c.captok, c.livetab].flatMap fun w => leBytes w.toNat 8
  padTo 64 head ++ (c.s.toList.flatMap fun w => leBytes w.toNat 8) ++ (c.v.toList.flatMap fun w => leBytes w.toNat 64) ++
    padTo 128 (sys ++ c.bfmt.toList.flatMap fun w => leBytes w.toNat 4) ++ c.active.image ++ c.shadow.image ++
    (if keeperOf s.cid = s.cid then c.keeper.toList else List.replicate 256 0) ++
    ((List.range 256).flatMap fun e =>
      match c.runq.get? e with
      | some f => f.ctx.bytes
      | none => List.replicate 96 0) ++
    padTo 4096 c.tableImage ++ c.engineImage ++ (kibs m).flatMap fun i => s.spBytes s.cid (1024 * i) 1024

/-! Switch out (R375, R376). -/

/-- Whether the core in turn may write its image: no fibre of the job is resident, no result is under way, no carry is pending, its journal
entries are acknowledged or kept, the overflow latch is empty (07 R242). -/
def State.maySave (s : State) : Bool :=
  !s.core.saved && s.core.latch.isNone && s.core.late.isEmpty && (ordinary.all fun i => s.core.slots[i].ent.isNone) &&
    (s.core.journal.all fun e => e.cause.isSome || e.ent == 257) &&
    s.core.seqs.toList.all fun q => !(q.run.any fun r => r.carry)

/-- What a core keeps while its job is away: slot 7 and the core's own registers. -/
def emptiedCore (c : Core) : Core :=
  { (reclaimedCore c) with saved := true, part0 := Core.reset.part0, part1 := Core.reset.part1, full := [],
                           qmx := EngQueue.reset, qvx := EngQueue.reset, qcp := EngQueue.reset, qac := EngQueue.reset,
                           qs := Vector.replicate 8 [], shapes := [], poison := [] }

/-- The end of a switch: every core of the job is switched out, and the command completes. -/
def State.endSwitch (s : State) (j : Job) (region stride : Nat) (c : Cmd) : State :=
  let q := s.quiet j
  ({ s with jobs := s.jobs.set j.num { j with switching := none, switched := some (region, stride, q, s.nextId) } }).finishCmd c 0

/-- CORE_SWITCH_OUT at the core in turn. -/
def execCoreSwitchOut (s : State) : Host.Outcome State Fault Refusal :=
  .next (match s.core.job.bind s.jobs.get? with
    | none => s
    | some j =>
      match j.switching with
      | none => s
      | some (region, stride, cmd) =>
        if !s.maySave then s
        else
          let at_ := region + j.index s.cid * stride
          let t := (s.vPut at_ (s.coreImage j)).getD s
          let t := match s.core.saving with
            | some h => t.coreTrap livenessForced (BitVec.ofNat 64 at_) 0 [h]
            | none => t
          let kept := t.core
          let t := { t with core := emptiedCore kept }
          let j' := { j with saved := j.saved ++ [(s.cid, kept)] }
          let t := { t with jobs := t.jobs.set j.num j' }
          if j'.cores.all fun c => j'.saved.any fun x => x.1 == c then t.endSwitch j' region stride cmd else t)

/-- Whether the fibre of a slot of the core in turn has run too long without a liveness point: past LIVETAB.LIMIT, which at
0 forces no save (R376; 09 Table 9-2). -/
def State.tooLong (s : State) (m : Slot) : Bool :=
  let limit := bits s.core.livetab 0 32
  limit != 0 && decide (s.coreCycles - m.fib.liveSince > limit)

/-- FORCED_SAVE of a slot's fibre (R376): its liveness count has passed LIVETAB.LIMIT while a switch waits for it. -/
def execForcedSave (sl : Fin 8) (s : State) : Host.Outcome State Fault Refusal :=
  .next (let u := { s with sid := sl }
    let late := u.tooLong u.me
    if sl.val < 6 && u.me.atBoundary u.coreCycles && late && (match u.job? with
        | some j => j.switching.isSome
        | none => false) then
      let t := u.displace
      { t with sid := s.sid, core := { t.core with saving := some (whoHandle u.self) } }
    else s)

/-- SWITCH. -/
def execSwitch (c : Cmd) (s : State) : Host.Outcome State Fault Refusal :=
  s.command c 0x01 ⟨true, true, true, 0, false⟩ fun a s =>
    match s.liveJob a.a0 with
    | none => s.finishCmd c reservedField
    | some j =>
      if a.a1 % 64 ≠ 0 ∨ inDram a.a1 = false ∨ a.a2 % 131072 ≠ 0 ∨ inDram (a.a1 + (j.count * a.a2 - 1)) = false then
        s.finishCmd c reservedField
      else if j.switching.isSome ∨ j.switched.isSome then s.finishCmd c security
      else ({ s with jobs := s.jobs.set j.num { j with switching := some (a.a1, a.a2, c) } }).holdCmd c

/-! Restore (R379). -/

/-- Where a core of the old rectangle goes in the new one. -/
def moveCore (j k : Job) (c : Nat) : Nat := if j.holds c then k.core (j.index c) else c

def moveWho (f : Nat → Nat) (w : Who) : Who := { w with core := f w.core }

/-- A channel message of a moved job. -/
def moveMsg (f : Nat → Nat) (m : ChanMsg) : ChanMsg :=
  { m with who := moveWho f m.who, src := match m.src with
    | .core c e => .core (f c) e
    | .ext k n => .ext k n }

/-- An entry with PDIE and PCORE rewritten for a new rectangle. -/
def Endpoint.moved (f : Nat → Nat) (x : Endpoint) : Endpoint :=
  let p := f x.peerCore
  let x := if x.valid && decide (x.pkind.toNat ≤ 1) then { x with pdie := BitVec.ofNat 3 (p / 2304), pcore := BitVec.ofNat 12 (p % 2304) } else x
  { x with offers := x.offers.map (moveMsg f) }

/-- What a kept core names elsewhere in its partition, renamed for a new rectangle. -/
def Core.moved (f : Nat → Nat) (c : Core) : Core :=
  { c with endpoints := c.endpoints.map fun e => (e.1, e.2.moved f),
           ports := c.ports.map fun p => (p.1, { p.2 with waiting := p.2.waiting.map fun m => { m with who := moveWho f m.who } }),
           waiters := c.waiters.map fun w => ({ w.1 with who := moveWho f w.1.who }, w.2),
           channels := c.channels.map fun x => { x with who := moveWho f x.who, receivers := x.receivers.map f },
           arrivals := c.arrivals.map fun a => { a with core := f a.core },
           seqs := c.seqs.map fun q => { q with owner := q.owner.map (moveWho f) } }

/-- The fields of a job that name its cores. -/
def Job.moved (f : Nat → Nat) (j : Job) : Job :=
  { j with sinks := j.sinks.map fun k => (f k.1, k.2.1, k.2.2),
           gangs := j.gangs.map fun g => { g with members := g.members.map (moveWho f), arrived := g.arrived.map fun a => (moveWho f a.1, a.2) } }

/-- The tables of other agents that name a moved job's cores. -/
def State.moveTables (s : State) (j : Job) (f : Nat → Nat) : State :=
  let o := s.office
  let go (t : Nat × Nat × Nat × Nat) : Nat × Nat × Nat × Nat := (t.1, t.2.1, f t.2.2.1, t.2.2.2)
  let waiter (v : Event) (m : EvMsg) : EvMsg := if v.job = j.num then { m with who := moveWho f m.who } else m
  { s with office := { o with streamsIn := o.streamsIn.map go, streamsOut := o.streamsOut.map go },
           host := { s.host with bound := s.host.bound.map fun b => (b.1, (f b.2.1, b.2.2)) },
           dies := s.dies.map fun d => { d with events := d.events.map fun v => { v with waiters := v.waiters.map (waiter v) } } }

/-- The events of a job stand at the homes its rectangle gives (12 R356). -/
def State.moveEvents (s : State) (k : Job) : State :=
  let mine := s.dies.toList.flatMap fun d => d.events.filter fun v => v.job == k.num
  let s := { s with dies := s.dies.map fun d => { d with events := d.events.filter fun v => v.job != k.num } }
  mine.foldl (fun u v =>
    let h := k.eventHome v.name
    let d := u.dieOf h
    let far := d.setFull v
    u.setDie h (d.putEvent { v with waiters := v.waiters.map fun m => { m with die := h }, far := far,
                                    listed := if far then v.waiters.length else v.waiters.length - (16384 - d.poolUsed) })) s

/-- A fibre of an image: its context as the image holds it. -/
def ctxOfBytes (l : List Byte) : Ctx :=
  let p := chunks 8 8 l
  { p := Vector.ofFn fun i => leWord (p.getD i.val []), pg := leWord ((l.drop 64).take 8), id := leWord ((l.drop 72).take 8),
    pc := BitVec.ofNat 48 (leNat ((l.drop 80).take 6)), dl := BitVec.ofNat 48 (leNat ((l.drop 86).take 6)),
    status := BitVec.ofNat 32 (leNat ((l.drop 92).take 4)) }

/-- A core takes back its job: the sections of the image, and what the machine kept beside it. What it has left of the job's
cores is renamed by f. -/
def restoredCore (k : Job) (f : Nat → Nat) (kept : Core) (l : List Byte) (now : Core) (keeper : Bool) : Core :=
  let kept := ((kept.withTables ((l.drop 43328).take 4096)).withEngines ((l.drop 47424).take 1024)).moved f
  let word (o : Nat) : DWord := leWord ((l.drop o).take 8)
  { kept with
    slots := now.slots, stampCount := now.stampCount, lastIssue := now.lastIssue, recent6 := now.recent6, qsc := now.qsc, qhs := now.qhs, qhsLate := now.qhsLate
    utasks := now.utasks, urgent := now.urgent, handling := now.handling, zero := now.zero, halted := now.halted, utarg := now.utarg
    traps := kept.traps.filter (fun t => t.ent.isSome) ++ now.traps, lost := now.lost, trapSeq := now.trapSeq, trapbase := now.trapbase
    dbgbk := now.dbgbk, cause := now.cause, epc := now.epc, epg := now.epg, eaddr := now.eaddr, eidx := now.eidx, ejrn := now.ejrn
    lines := [], fetching := [], shapes := [], shaping := [], homes := now.homes, ce := now.ce, ue := now.ue
    saved := false, saving := none, job := some k.num
    part1 := BitVec.ofNat 64 (k.x0 + k.y0 * 2 ^ 8 + k.wm1 * 2 ^ 16 + k.hm1 * 2 ^ 24)
    s := Vector.ofFn fun i => word (64 + 8 * i.val)
    v := Vector.ofFn fun i => BitVec.ofNat 512 (leNat ((l.drop (320 + 64 * i.val)).take 64))
    tags := word 1344, stagecnt := word 1352, exhausted := (word 1360).setWidth 8, mxexc := word 1368, captok := word 1376
    livetab := word 1384
    bfmt := Vector.ofFn fun i => BitVec.ofNat 32 (leNat ((l.drop (1392 + 4 * i.val)).take 4))
    active := planeOf ((l.drop 1472).take 8512), shadow := planeOf ((l.drop 9984).take 8512)
    keeper := if keeper then Vector.ofFn fun i => l.getD (18496 + i.val) 0 else now.keeper
    runq := kept.runq.map fun e => (e.1, { e.2 with ctx := ctxOfBytes ((l.drop (18752 + 96 * e.1)).take 96), readyAt := 0 }) }

/-- A fibre among others in the order of their stamps. -/
def insertStamp (x : Nat × Fibre) : List (Nat × Fibre) → List (Nat × Fibre)
  | [] => [x]
  | y :: t => if x.2.stamp < y.2.stamp then x :: y :: t else y :: insertStamp x t

/-- The READY fibres of a restored core take new stamps, in the order of their old ones (12 R350). -/
def State.readyAgain (s : State) : State :=
  let l := s.core.runq.filter fun e => e.2.ctx.state == stReady
  (l.foldl (fun r x => insertStamp x r) []).foldl (fun t e => t.makeReady e.1) s

/-- The saved KiB written back, in ascending order. -/
def State.restorePad (s : State) (core : Nat) (l : List Byte) : State :=
  (kibs (leWord (l.take 8))).zipIdx.foldl (fun u x => u.spPut core (1024 * x.1) ((l.drop (48448 + 1024 * x.2)).take 1024)) s

/-- The images of a switched-out job at a region; none when one fails translation. -/
def State.images (s : State) (j : Job) (region stride : Nat) : Option (List (List Byte)) :=
  (List.range j.count).foldr (fun i r =>
    match r, s.vBytes (region + i * stride) 113984 with
    | some t, some l => some (l :: t)
    | _, _ => none) (some [])

/-- RESTORE. -/
def execRestore (c : Cmd) (s : State) : Host.Outcome State Fault Refusal :=
  s.command c 0x02 ⟨true, true, true, 8, false⟩ fun a s =>
    match s.liveJob a.a0 with
    | none => s.finishCmd c reservedField
    | some j =>
      let w := leNat (a.nonce.take 8)
      let k0 := { j with x0 := w % 256, y0 := w / 2 ^ 8 % 256, wm1 := w / 2 ^ 16 % 256, hm1 := w / 2 ^ 24 % 256 }
      if w ≥ 2 ^ 32 ∨ a.a1 % 64 ≠ 0 ∨ inDram a.a1 = false ∨ a.a2 % 131072 ≠ 0 ∨ k0.x0 + k0.wm1 ≥ 192 ∨ k0.y0 + k0.hm1 ≥ 96 then
        s.finishCmd c reservedField
      else if j.switched.isNone ∨ k0.wm1 ≠ j.wm1 ∨ k0.hm1 ≠ j.hm1 ∨ (k0.cores.any fun x => (s.coreAt x).job.isSome) = true then
        s.finishCmd c channelState
      else
        match s.images j a.a1 a.a2 with
        | none => s.finishCmd c translation
        | some ls =>
          let same := k0.x0 == j.x0 && k0.y0 == j.y0
          if !same && !(ls.all fun l => fieldOf l 8 1 / 2 % 2 == 1) then s.finishCmd c channelState
          else
            let f := moveCore j k0
            let k := { (k0.moved f) with switched := none, saved := [] }
            let t := j.cores.foldl (fun (u : State) x => u.modCore x fun y => if y.job.isNone then { y with saved := false } else y) s
            let t := if same then t else t.moveTables j f
            let t := { t with jobs := t.jobs.set k.num k }
            let t := if same then t else t.moveEvents k
            let t := ((List.range k.count).zip ls).foldl (fun (u : State) (x : Nat × List Byte) =>
              let dst := k.core x.1
              match j.saved.find? fun y => y.1 == j.core x.1 with
              | none => u
              | some y =>
                ((u.restorePad dst x.2).modCore dst fun now => restoredCore k f y.2 x.2 now (keeperOf dst == dst)).onCore dst
                  State.readyAgain) t
            t.equalise.finishCmd c 0

/-! Migration (R380). -/

/-- Whether a fibre of the core in turn may be taken: at a boundary, READY, PARKED, or in a wait that can be withdrawn. -/
def State.mayTake (s : State) (e : Nat) (f : Fibre) : Bool :=
  match s.core.slotOf? e with
  | some i => s.core.slots[i].atBoundary s.coreCycles
  | none =>
    f.ctx.state == stReady || f.ctx.state == stParked || (f.ctx.state == stBlocked && (match f.wait with
      | some w => s.withdrawable w
      | none => true))

/-- Whether every journal entry of a fibre of the core in turn is acknowledged (05 R159). -/
def State.settled (s : State) (e : Nat) : Bool := s.core.journal.all fun x => x.ent != e

/-- The endpoint entries that a fibre of a core owns. -/
def Core.ownedBy (c : Core) (e : Nat) : List (Nat × Endpoint) := c.endpoints.filter fun x => x.2.valid && x.2.ownerIx == e

/-- Whether a migration is refused: no free entry at the target, an index VALID there, an offer or a message held. -/
def State.refusesMove (s : State) (e target : Nat) : Bool :=
  let t := s.coreAt target
  t.freeEntry?.isNone || t.saved || (s.core.ownedBy e).any fun x =>
    (t.endpoint x.1).valid || !x.2.offers.isEmpty || !x.2.kinds.isEmpty

/-- The endpoint entries of a fibre move to the same indices of the target, each re-pointing its peer (06 R203). -/
def State.moveEntries (s : State) (es : List (Nat × Endpoint)) (target owner : Nat) : State :=
  let from_ := s.cid
  es.foldl (fun u x =>
    let u := u.putEntry x.1 Endpoint.reset
    let u := { u with core := { u.core with endpoints := u.core.endpoints.erase x.1 } }
    let y := { x.2 with owner := BitVec.ofNat 8 owner, orphan := false }
    let u := u.onCore target fun v => v.putEntry x.1 y
    if y.pkind.toNat == 0 then
      u.modCore y.peerCore fun c => c.modEndpoint y.pep.toNat fun z =>
        if z.peerCore == from_ && z.pep.toNat == x.1 then
          { z with pdie := BitVec.ofNat 3 (target / 2304), pcore := BitVec.ofNat 12 (target % 2304) }
        else z
    else u) s

/-- The fibre moves: context, named KiB, endpoint entries, and what the job keeps of it. -/
def State.moveFibre (s : State) (e : Nat) (f : Fibre) (target n : Nat) : State :=
  let es := s.core.ownedBy e
  let map := match f.live with
    | some p => if s.core.inPart0 (p.bmap.toNat * 8) 8 then s.spWord s.cid (p.bmap.toNat * 8) else 0
    | none => 0
  let t := (kibs map).foldl (fun u i => u.spPut target (1024 * i) (s.spBytes s.cid (1024 * i) 1024)) s
  let t := (t.modCore target fun c => c.disown n).moveEntries es target n
  let t := t.removeFibre e
  let old : Who := ⟨s.cid, e⟩
  let go (w : Who) : Who := if w = old then ⟨target, n⟩ else w
  let mine (c ep : Nat) : Bool := c == s.cid && es.any fun x => x.1 == ep
  let t := t.modJob f.job fun j =>
    { j with gangs := j.gangs.map fun g => { g with members := g.members.map go },
             sinks := j.sinks.map fun k => if mine k.1 k.2.1 then (target, k.2.1, k.2.2) else k }
  let park := f.ctx.state == stParked
  t.onCore target fun u =>
    let v := { u with core := { u.core with runq := u.core.runq.set n { f with wait := none, readyAt := 0 } } }
    if park then v else v.makeReady n

/-- MIGRATION_PLACE: the fibre is taken once it can be and only its journal entries may be outstanding (log entry 82); when these are
acknowledged it moves, or the migration is refused. -/
def execMigrationPlace (s : State) : Host.Outcome State Fault Refusal :=
  .next (match s.mgmt.migrating with
    | none => s
    | some (c, w, target) =>
      let ends (u : State) (status : Nat) : State :=
        ({ u with mgmt := { u.mgmt with migrating := none } }).finishCmd c status
      s.onCore w.core fun u =>
        match u.core.fibre? w.ent with
        | none => ends u channelState
        | some f =>
          if !u.mayTake w.ent f || !f.calm then u
          else
            let u := u.withdraw w.ent
            let u := match u.core.slotOf? w.ent with
              | some i => { ({ u with sid := i }).displace with sid := u.sid }
              | none => u
            if !u.settled w.ent then u
            else if u.refusesMove w.ent target then ends u channelState
            else
              match u.core.fibre? w.ent, (u.coreAt target).freeEntry? with
              | some g, some n => ends (u.moveFibre w.ent g target n).equalise 0
              | _, _ => ends u channelState)

/-- MIGRATE. -/
def execMigrate (c : Cmd) (s : State) : Host.Outcome State Fault Refusal :=
  s.command c 0x03 ⟨true, true, false, 0, false⟩ fun a s =>
    match fibreArg a.a0, coreArg a.a1 with
    | some w, some t =>
      match ((s.coreAt w.core).fibre? w.ent).bind fun f => f.job.bind s.jobs.get? with
      | none => s.finishCmd c reservedField
      | some j =>
        if !j.holds t then s.finishCmd c reservedField
        else if t = w.core then s.finishCmd c 0
        else { (s.holdCmd c) with mgmt := { (s.holdCmd c).mgmt with migrating := some (c, w, t) } }
    | _, _ => s.finishCmd c reservedField

/-! Abandonment (12 R355). -/

/-- A refusal of an access from outside the module that waited at an abandoned core. -/
def State.refuseOutside (s : State) (i : Issuer) (a : Access) : State :=
  if i.who.core ≥ 20000 then s.sendFrom i.who.core i.who.core none [] none (.remoteReply i.who i.op ⟨translation, a.addr, false, []⟩) else s

/-- Whether a packet is traffic of a job: towards its cores, or its event operations. -/
def trafficOf (j : Job) (p : Packet) : Bool :=
  (decide (p.dst < 20000) && j.holds p.dst && (match answersOf p.ev with
    | some (w, _) => w.ent != 257
    | none => true)) ||
    (decide (p.dst ≥ 40000) && (match p.ev with
      | .eventWaitArrival m | .eventSignalArrival m | .eventClearArrival m | .eventTestArrival m | .eventOverflowRetry m => m.job == j.num
      | _ => false))

/-- The accesses from outside among the traffic and waiters of a job's cores. -/
def State.outsideWaits (s : State) (j : Job) : List (Issuer × Access) :=
  (s.net.filterMap fun p =>
    if trafficOf j p then
      match p.ev with
      | .activeMessage i a => some (i, a)
      | .fullemptyRetry i a => some (i, a)
      | _ => none
    else none) ++ j.cores.flatMap fun c => if (s.coreAt c).job = some j.num then (s.coreAt c).waiters ++ (s.coreAt c).amq else []

/-- A job is stopped and reclaimed at once: its traffic and its waits elsewhere go. -/
def State.abandonJob (s : State) (j : Job) : State :=
  let outs := s.outsideWaits j
  let s := s.cull (trafficOf j)
  let s := { s with host := { s.host with waiting := s.host.waiting.filter fun w => w.2.job != some j.num },
                    office := { s.office with waiting := s.office.waiting.filter fun w => w.2.2.job != some j.num },
                    dies := s.dies.map fun d => { d with events := d.events.filter fun v => v.job != j.num } }
  let s := j.saved.foldl (fun (u : State) x => u.modCore x.1 fun y => if y.job.isNone then { y with saved := false } else y) s
  let s := s.reclaim j
  let s := outs.foldl (fun u w => u.refuseOutside w.1 w.2) s
  s.fileStatus j.die j.ownerq (statusWords 6 0 j.pool j.die 0 s.now (j.record.setWidth 64) false)

/-- ABANDON. -/
def execAbandon (c : Cmd) (s : State) : Host.Outcome State Fault Refusal :=
  s.command c 0x04 ⟨true, false, false, 0, false⟩ fun a s =>
    match s.liveJob a.a0 with
    | none => s.finishCmd c reservedField
    | some j => (s.abandonJob j).finishCmd c 0

end Sys2Proof.Machine
end

