-- ==== Sys2Proof/Machine/Mgmt.lean ====
section
/-! DEFINITION. The management controller and the power manager: security states, debug modes, power states, firmware,
attestation, tamper, soft errors, bring-up (16). -/

namespace Sys2Proof.Machine

/-! The combinations of Table 16-2. -/

/-- What a module does in a combination of security state, debug mode and power state: R, T, H, H+, N, O. -/
inductive Conduct where
  | jobs
  | test
  | hold
  | holdDebug
  | refresh
  | off
  deriving DecidableEq, Repr

/-- The cell of Table 16-2 that a module stands in; none where it is unreachable. -/
def Mgmt.conduct (m : Mgmt) : Option Conduct :=
  if m.dbg = .owner ∧ (m.sec = .blank ∨ m.sec = .retired) then none
  else
    match m.power with
    | .active => some (if m.sec = .provisioned ∨ m.sec = .locked then .jobs else .test)
    | .s1 => some (if m.dbg = .none then .hold else .holdDebug)
    | .s3 => if m.dbg = .none then some .refresh else none
    | .off => if m.dbg = .none then some .off else none

/-! Debug modes (R427, R432). -/

/-- A change made on every core that is not at reset. -/
def State.eachCore (s : State) (f : Core → Core) : State :=
  { s with core := f s.core, others := s.others.map fun c => (c.1, f c.2) }

/-- The debug mode changes; back at NONE, DBGCTL is clear on every core. The highest mode of every live job is kept. -/
def State.setDebug (s : State) (d : Dbg) : State :=
  let s := { s with mgmt := { s.mgmt with dbg := d },
                    jobs := s.jobs.map fun j => (j.1, { j.2 with maxDbg := max j.2.maxDbg (dbgCode d) }) }
  if d = .none then s.eachCore fun c => { c with dbgbk := false } else s

/-- A security state entered: the debug mode returns to NONE. -/
def State.setSecurity (s : State) (x : Sec) : State := ({ s with mgmt := { s.mgmt with sec := x } }).setDebug .none

/-! Security commands (R426, Table 16-1): refused with 0x1A from slot 7, in another state, or without the signature. -/

/-- PROVISION. -/
def execProvision (c : Cmd) (s : State) : Host.Outcome State Fault Refusal :=
  s.command c 0x20 ⟨false, true, false, 32, true⟩ fun a s =>
    if !fromHost c || s.mgmt.sec != .blank || !s.signedBy a Config.vendorKey then s.finishCmd c security
    else
      let t := s.setSecurity .provisioned
      ({ t with mgmt := { t.mgmt with ownerh := BitVec.ofNat 256 (leNat (a.nonce.take 32)), floor := a.a1 } }).finishCmd c 0

/-- LOCK. -/
def execLock (c : Cmd) (s : State) : Host.Outcome State Fault Refusal :=
  s.command c 0x21 ⟨false, false, false, 0, true⟩ fun a s =>
    if !fromHost c || s.mgmt.sec != .provisioned || !s.signedBy a s.mgmt.ownerh then s.finishCmd c security
    else (s.setSecurity .locked).finishCmd c 0

/-- The key store holds zeros (R426, R434). -/
def zeroStore : List Byte := List.replicate 4096 0

/-- RETIRE: the key store is zeroised. Jobs that are live are abandoned, since none runs in RETIRED (Table 16-2; DESIGN CHOICE, log
entry 162). -/
def execRetire (c : Cmd) (s : State) : Host.Outcome State Fault Refusal :=
  s.command c 0x22 ⟨false, false, false, 0, true⟩ fun a s =>
    let key := if s.mgmt.sec = .blank then Config.vendorKey else s.mgmt.ownerh
    if !fromHost c || s.mgmt.sec == .retired || !s.signedBy a key then s.finishCmd c security
    else
      let t := (s.jobs.foldl (fun (u : State) j => u.abandonJob j.2) s).setSecurity .retired
      ({ t with mgmt := { t.mgmt with keyStore := zeroStore } }).finishCmd c 0

/-- RELEASE: OWNERH is erased. -/
def execRelease (c : Cmd) (s : State) : Host.Outcome State Fault Refusal :=
  s.command c 0x23 ⟨false, false, false, 0, true⟩ fun a s =>
    if !fromHost c || s.mgmt.sec != .provisioned || !s.signedBy a s.mgmt.ownerh then s.finishCmd c security
    else
      let t := s.setSecurity .blank
      ({ t with mgmt := { t.mgmt with ownerh := 0 } }).finishCmd c 0

/-- SETTAMPER (R433). -/
def execSettamper (c : Cmd) (s : State) : Host.Outcome State Fault Refusal :=
  s.command c 0x12 ⟨true, false, false, 0, false⟩ fun a s =>
    if a.a0 ≥ 256 ∨ [0, 1, 2, 3].any (fun k => a.a0 / 4 ^ k % 4 = 3) then s.finishCmd c reservedField
    else if s.mgmt.sec ≠ .blank ∧ s.mgmt.sec ≠ .provisioned then s.finishCmd c security
    else ({ s with mgmt := { s.mgmt with tampcfg := BitVec.ofNat 8 a.a0 } }).finishCmd c 0

/-! Debug commands. -/

/-- DEBUGCHAL: a fresh challenge, written to NONCE. -/
def execDebugchal (c : Cmd) (s : State) : Host.Outcome State Fault Refusal :=
  s.command c 0x24 ⟨false, false, false, 32, false⟩ fun a s =>
    let v := Config.challenge s.mgmt.challenges
    let t := { s with mgmt := { s.mgmt with challenge := some v, challenges := s.mgmt.challenges + 1 } }
    ((t.vPut (a.block + 32) (hashBytes v)).getD t).finishCmd c 0

/-- The signatures of DEBUGOPEN: the owner's, and for VENDOR the vendor's after it; in BLANK and RETIRED the vendor's alone.
Two signatures share the signature bytes in halves. -/
def State.debugSigned (s : State) (a : CmdArgs) (ch : BitVec 256) : Bool :=
  let msg := hashBytes ch ++ hashBytes Config.mid ++ [BitVec.ofNat 8 a.a0]
  let l := s.sigBytes a
  let h := l.length / 2
  let owned := s.mgmt.sec == .provisioned || s.mgmt.sec == .locked
  if a.siglen = 0 then false
  else if a.a0 = 1 then owned && Config.falconValid s.mgmt.ownerh msg l
  else if owned then Config.falconValid s.mgmt.ownerh msg (l.take h) && Config.falconValid Config.vendorKey msg (l.drop h)
  else Config.falconValid Config.vendorKey msg l

/-- DEBUGOPEN: the last challenge is used up. S3 has no debug mode (Table 16-2). -/
def execDebugopen (c : Cmd) (s : State) : Host.Outcome State Fault Refusal :=
  s.command c 0x25 ⟨true, false, false, 32, true⟩ fun a s =>
    if a.a0 ≠ 1 ∧ a.a0 ≠ 2 then s.finishCmd c reservedField
    else if !fromHost c || s.mgmt.power == .s3 then s.finishCmd c security
    else
      let t := { s with mgmt := { s.mgmt with challenge := none } }
      match s.mgmt.challenge with
      | none => t.finishCmd c security
      | some ch =>
        if leNat (a.nonce.take 32) ≠ ch.toNat ∨ t.debugSigned a ch = false then t.finishCmd c security
        else (t.setDebug (if a.a0 = 1 then .owner else .vendor)).finishCmd c 0

/-- DEBUGEND. -/
def execDebugend (c : Cmd) (s : State) : Host.Outcome State Fault Refusal :=
  s.command c 0x26 named0 fun _ s => if !fromHost c then s.finishCmd c security else (s.setDebug .none).finishCmd c 0

/-- DBGSET: DBGBK of a core. -/
def execDbgset (c : Cmd) (s : State) : Host.Outcome State Fault Refusal :=
  s.command c 0x2A ⟨true, true, false, 0, false⟩ fun a s =>
    match coreArg a.a0 with
    | none => s.finishCmd c reservedField
    | some k =>
      if a.a1 > 1 then s.finishCmd c reservedField
      else if s.mgmt.dbg = .none then s.finishCmd c security
      else (s.modCore k fun x => { x with dbgbk := a.a1 == 1 }).finishCmd c 0

/-- DBGGO at the fibre's core: the trap frame of its last trap is taken as ERET takes it. -/
def State.debugGo (s : State) (e : Nat) : State × Nat :=
  match s.core.fibre? e with
  | none => (s, reservedField)
  | some f =>
    if f.ctx.state ≠ stFaulted ∨ bits s.core.cause 32 23 ≠ (whoHandle ⟨s.cid, e⟩).toNat then (s, security)
    else if s.core.cause.getLsbD 63 then (s.removeFibre e, 0)
    else
      match s.vBytes s.frameAddr 256 with
      | none => (s.vNote s.frameAddr 256, s.vFault s.frameAddr 256)
      | some l =>
        let s := s.vNote s.frameAddr 256
        match ctxOfFrame l f.ctx s.core.epc s.core.epg with
        | some x => (s.restoreFibre e x, 0)
        | none => (s, reservedField)

/-- DBGGO, behind the accesses to the frame that are under way (13 R369; 05 R147). -/
def execDbggo (c : Cmd) (s : State) : Host.Outcome State Fault Refusal :=
  s.command c 0x27 ⟨true, false, false, 0, false⟩ fun a s =>
    match fibreArg a.a0 with
    | none => s.finishCmd c reservedField
    | some w =>
      if s.mgmt.dbg = .none then s.finishCmd c security
      else
        let here := w.core == s.cid
        if ((if here then s else s.focus w.core 0)).frameBusy then s.retryCmd c
        else
        let r := ((if here then s else s.focus w.core 0)).debugGo w.ent
        (if here then r.1 else r.1.focus s.cid s.sid).finishCmd c r.2

/-! Attestation and firmware (R430, R431). -/

/-- ATTEST; in RETIRED there is no identity key to sign with (log entry 162). -/
def execAttest (c : Cmd) (s : State) : Host.Outcome State Fault Refusal :=
  s.command c 0x28 ⟨false, true, false, 32, false⟩ fun a s =>
    if a.a1 % 64 ≠ 0 ∨ inDram a.a1 = false then s.finishCmd c reservedField
    else if s.mgmt.sec = .retired then s.finishCmd c security
    else
      let sig := Config.shake256 (hashBytes s.mgmt.fwh ++ [BitVec.ofNat 8 (secCode s.mgmt.sec), BitVec.ofNat 8 (dbgCode s.mgmt.dbg)] ++
        a.nonce.take 32)
      match s.vPut a.a1 (s.completionBlock sig 0 (dbgCode s.mgmt.dbg) 0 0) with
      | none => s.finishCmd c translation
      | some t => t.finishCmd c 0

/-- FWUPDATE: the image is staged for the next boot; the floor is raised to its version where the owner's signature asks
for that. -/
def execFwupdate (c : Cmd) (s : State) : Host.Outcome State Fault Refusal :=
  s.command c 0x29 ⟨true, true, true, 0, true⟩ fun a s =>
    if a.a2 > 1 ∨ a.a1 = 0 ∨ inDram a.a0 = false then s.finishCmd c reservedField
    else
      match s.vBytes a.a0 a.a1 with
      | none => (s.vNote a.a0 a.a1).finishCmd c (s.vFault a.a0 a.a1)
      | some l =>
        let s := s.vNote a.a0 a.a1
        if a.a2 = 1 ∧ s.signedBy a s.mgmt.ownerh = false then s.finishCmd c security
        else
          let floor := if a.a2 = 1 then max s.mgmt.floor (Config.imageVersion l) else s.mgmt.floor
          ({ s with mgmt := { s.mgmt with staged := some l, floor := floor } }).finishCmd c 0

/-! Bring-up (R445). -/

/-- The first free entry of a bucket, else its first. -/
def State.freeBucket (s : State) (b : Nat) : Nat :=
  match (bucketEntries s.mem b).find? fun e => e.2.isNone with
  | some e => e.1
  | none => b

/-- A page of the system region: 2 MiB, homed at its directory stack, with RO, TOL and MIG clear and FILL 0. -/
def State.systemPage (s : State) (x : Nat × Nat) : State :=
  let d := placeHash (BitVec.ofNat 64 x.1) 8
  let p : Page := { giga := false, ro := false, tol := false, mig := false, home := d, fill := 0, pfn := x.2, key := x.1 }
  { s with mem := memPut s.mem (s.freeBucket (bucketAt d x.1)) p.bytes }

/-- Every core with every register and table at reset, and TRAPBASE as the firmware sets it. -/
def bootCores (cid : Nat) : Tbl Core :=
  ((List.range 18432).filter fun c => c != cid).map fun c => (c, { Core.reset with trapbase := BitVec.ofNat 64 Config.trapBase })

/-- Whether a place in memory belongs to a page directory (14 R400). -/
def inDirectory (a : Nat) : Bool :=
  (List.range 8).any fun d =>
    let b := dramHome d (Config.directoryBase d)
    decide (b ≤ a) && decide (a < b + 64 * Config.directoryBuckets d)

/-- What the firmware writes at bring-up into the tables that SETTABLE writes. -/
def State.bootTables (s : State) : State :=
  Config.bootTables.foldl (fun (t : State) x =>
    let a : CmdArgs := { siglen := 0, a0 := x.1, a1 := x.2.1, a2 := x.2.2.1, nonce := leBytes x.2.2.2.1 8 ++ leBytes x.2.2.2.2 8,
                         head := [], block := 0 }
    if badTable a then t else t.setTable a) s

/-- Steps 3 to 5 of R445: memory is cleared (at power-on the DRAM too, on the exit from S3 the scratchpads and the page directories
alone), the links are ganged, the cores and tables are set up and the system region is mapped; the module reports READY later
(State.reportReady). -/
def State.bringFrom3 (s : State) (dram : Bool) : State :=
  let mem := if dram then [] else s.mem.filter fun c => decide (c.1 ≥ 2 ^ 48) && !inDirectory c.1
  let hbm := s.hbm.map fun x => if dram then Stack.reset else { Stack.reset with poison := x.poison }
  let dies := Vector.ofFn fun (i : Fin 8) =>
    { Die.reset with recorder := ⟨(Config.recorderRing i.val).1, (Config.recorderRing i.val).2, 0, 0⟩ }
  let t := { s with core := { Core.reset with trapbase := BitVec.ofNat 64 Config.trapBase }, others := bootCores s.cid, mem := mem,
                    hbm := hbm, dies := dies, net := [], agents := Vector.replicate 18 Agent.reset, routines := [], migrations := [] }
  let t := (Config.systemRegion.foldl State.systemPage t).bootTables
  { t with mgmt := { t.mgmt with power := .active, ready := false } }

/-- Whether the boot ROM accepts an image (R430). -/
def State.imageGood (s : State) (l : List Byte) : Bool :=
  Config.imageSigned Config.vendorKey l &&
    (!(s.mgmt.sec == .provisioned || s.mgmt.sec == .locked) || Config.imageSigned s.mgmt.ownerh l) &&
    decide (s.mgmt.floor ≤ Config.imageVersion l)


/-! Power states (R425, R428, R437). -/

/-- Whether the mesh is drained: what is still held stands at its destination. -/
def State.drained (s : State) : Bool := s.net.all fun p => p.src == p.dst || !(s.deliverable p || s.admissible p)

/-- A core's waits after a sleep of ns nanoseconds, which do not count towards wait limits. -/
def Core.slept (c : Core) (ns : Nat) : Core :=
  let fibre (f : Fibre) : Fibre := { f with wait := f.wait.map fun w => { w with since := w.since + ns } }
  { c with slots := c.slots.map fun m => { m with fib := fibre m.fib, stall := m.stall.map fun t => t + ns },
           runq := c.runq.map fun e => (e.1, fibre e.2) }

/-- The clocks of every island go on from where they stood when the sleep began; no wait has counted it, in the cores or
in what is kept of jobs that are away. -/
def State.endSleep (s : State) : State :=
  let at_ := { s with cycle := s.mgmt.sleepAt }
  let ns := s.now - s.timeAt s.mgmt.sleepAt
  let t := s.eachCore fun c => c.slept ns
  { t with mgmt := { t.mgmt with power := .active, sleepAt := 0,
                                 counts := (List.range islandCount).map fun i => (i, (s.cycle, at_.islandSixteenths i)) },
           jobs := t.jobs.map fun j => (j.1, { j.2 with saved := j.2.saved.map fun x => (x.1, x.2.slept ns) }) }

/-- S1 is left: every fibre and engine goes on. -/
def State.leaveS1 (s : State) : State := s.endSleep

/-- S3 is entered: all SRAM but the key store is off, that of the Sorting Office and of the host die too; the debug mode is NONE. -/
def State.enterS3 (s : State) : State :=
  let t := s.setDebug .none
  { t with core := Core.reset, others := [], office := Office.reset,
           host := { HostDie.reset with mgmtdone := s.host.mgmtdone, mgmtcmd := s.host.mgmtcmd }, mem := t.mem.filter (fun c => decide (c.1 ≥ 2 ^ 48)), net := [],
           mgmt := { t.mgmt with power := .s3, ready := false, sleepAt := s.cycle } }

/-- OFF: what is fused or kept by the controller stays; the postmark clock starts again from 0 (12 R339). -/
def State.powerOff (s : State) : State :=
  let m := s.mgmt
  { State.reset with postmark := 0, clockAt := s.cycle, cycle := s.cycle, nextId := s.nextId, free := s.free, outside := s.outside,
                     agenda := s.agenda, cid := s.cid, sid := s.sid,
                     mgmt := { Mgmt.reset with sec := m.sec, ownerh := m.ownerh, floor := m.floor, keyStore := zeroStore, fused := m.fused, staged := m.staged,
                                               challenges := m.challenges, power := .off } }

/-- Whether no fibre is resident in any core. -/
def State.vacant (s : State) : Bool := (s.core :: s.others.map fun c => c.2).all fun c => ordinary.all fun i => c.slots[i].ent.isNone

/-- A SETPSTATE under way: S1 is reached once every resident fibre has been taken and nothing is in flight. -/
def State.settlePower (s : State) (c : Cmd) : State :=
  if s.mgmt.goal = some .s1 ∧ s.vacant = true ∧ s.drained = true then
    ({ s with mgmt := { s.mgmt with power := .s1, goal := none, sleepAt := s.cycle } }).finishCmd c 0
  else s

/-- BRING_UP: power-on with the firmware image in place, or the staged one, or the reset that ends a HALT (R434). The key store is restored
from the fused copy (R429). With an image that fails, the module stays in A0 and admits no job. -/
def execBringUp (image : List Byte) (s : State) : Host.Outcome State Fault Refusal :=
  .next (let s := if s.mgmt.halted then s.powerOff else s
    if s.mgmt.ready ∨ s.mgmt.verified ∨ (s.mgmt.power ≠ .off ∧ s.mgmt.power ≠ .active) then s
    else
      let l := s.mgmt.staged.getD image
      let s := if s.mgmt.power = .off then { s with postmark := 0, clockAt := s.cycle } else s
      let s := ({ s with mgmt := { s.mgmt with power := .active, staged := none,
                                               keyStore := if s.mgmt.sec = Sec.retired then zeroStore else s.mgmt.fused } }).setDebug .none
      if !s.imageGood l then s
      else ({ s with mgmt := { s.mgmt with verified := true, fwh := Config.shake256 l } }).bringFrom3 true)

/-- SETPSTATE: the states a value names are reached at once, but for S1, which its next turns reach. -/
def execSetpstate (c : Cmd) (s : State) : Host.Outcome State Fault Refusal :=
  if s.mgmt.waiting = [c] then .next (s.settlePower c)
  else
    s.command c 0x10 ⟨true, false, false, 0, false⟩ fun a s =>
      match a.a0, s.mgmt.power with
      | 0, .active => s.finishCmd c 0
      | 0, .s1 => s.leaveS1.finishCmd c 0
      | 0, .s3 => (s.endSleep.bringFrom3 false).finishCmd c 0
      | 1, .active => { (s.holdCmd c) with mgmt := { (s.holdCmd c).mgmt with goal := some .s1 } }
      | 1, .s1 => s.finishCmd c 0
      | 2, .s3 => s.finishCmd c 0
      | 2, .active | 2, .s1 =>
        if s.jobs.any fun j => j.2.switched.isNone then s.finishCmd c channelState else s.enterS3.finishCmd c 0
      | 3, .active | 3, .s1 | 3, .s3 => (s.finishCmd c 0).powerOff
      | 0, .off | 1, .s3 | 1, .off | 2, .off | 3, .off => s.finishCmd c security
      | _, _ => s.finishCmd c reservedField

/-! Tamper (R433, R434). -/

/-- The response of a source: 0 LOG, 1 HALT, 2 ERASE. -/
def State.response (s : State) (cause : Nat) : Nat := bits s.mgmt.tampcfg (2 * (cause - 1)) 2

/-- An entry of the tamper log, which keeps 64. -/
def State.logTamper (s : State) (cause island : Nat) : State :=
  let l := s.mgmt.tlog ++ [(cause, s.now, island)]
  { s with mgmt := { s.mgmt with tlog := if l.length > 64 then l.drop 1 else l } }

/-- LOG: SECURITY reaches slot 7 of core 0 of each compute die. -/
def State.tellTamper (s : State) (cause : Nat) : State :=
  (List.range 8).foldl (fun t d => t.onCore (2304 * d) fun u => u.coreTrap security (BitVec.ofNat 64 cause) 0 []) s

/-- TAMPER_EVENT: logged, with the effect of its response; after a HALT an ERASE still takes place, being the stronger. -/
def execTamperEvent (cause island : Nat) (s : State) : Host.Outcome State Fault Refusal :=
  .next (let absent := cause == 4 && !(s.mgmt.sec == .locked && s.mgmt.dbg == .none)
    if cause = 0 ∨ cause > 4 ∨ island ≥ islandCount ∨ absent = true then s
    else
      let r := s.response cause
      let t := s.logTamper cause island
      if r = 2 then
        let u := t.setSecurity .retired
        { u with mgmt := { u.mgmt with keyStore := zeroStore, fused := zeroStore, ownerh := 0, halted := true } }
      else if r = 1 then { t with mgmt := { t.mgmt with halted := true } }
      else if t.mgmt.halted then t
      else t.tellTamper cause)

/-! Islands (R435, R436; 12 R358). -/

/-- Whether an active module is in A1 (R436): PCAP is below 5,600 W, or a thermal reduction is in force. -/
def Mgmt.capped (m : Mgmt) : Bool := decide (m.pcap < 5600) || !m.thermal.isEmpty

/-- Every island of a group takes the step one above, or below, its slowest. -/
def State.moveGroup (s : State) (g : List Nat) (up : Bool) : State :=
  s.setSteps g (if up then min 11 (s.slowest g + 1) else s.slowest g - 1)

/-- THERMAL_REDUCTION: the group of an island above 105 °C is slowed. -/
def execThermalReduction (island : Nat) (s : State) : Host.Outcome State Fault Refusal :=
  .next (if island ≥ islandCount then s else
    let t := s.moveGroup (s.groupOf island) true
    { t with mgmt := { t.mgmt with thermal := if t.mgmt.thermal.contains island then t.mgmt.thermal else island :: t.mgmt.thermal } })

/-- POWER_SAMPLE, each 10 µs: the last ten samples form the average of 100 µs. -/
def execPowerSample (watts : Nat) (draws : List (Nat × Nat)) (s : State) : Host.Outcome State Fault Refusal :=
  .next (let l := draws.filter fun d => decide (d.1 < islandCount)
    { s with mgmt := { s.mgmt with samples := (watts :: s.mgmt.samples).take 10, draws := l } })

/-- The draw per island of a group, in units of a 1,000th watt. -/
def State.groupDraw (s : State) (g : List Nat) : Nat :=
  ((g.map fun i => (List.lookup i s.mgmt.draws).getD 0).sum * 1000) / max 1 g.length

/-- The group that draws the most per island. -/
def State.hungriest (s : State) : Option (List Nat) :=
  (s.mgmt.draws.map fun d => s.groupOf d.1).foldl (fun b g =>
    match b with
    | none => some g
    | some x => if s.groupDraw x < s.groupDraw g then some g else some x) none

/-- POWER_STEP, each 20 µs: over PCAP one step is raised; 3 % below it steps are lowered again. -/
def execPowerStep (s : State) : Host.Outcome State Fault Refusal :=
  .next (let n := s.mgmt.samples.length
    let total := s.mgmt.samples.sum
    if n = 0 then s
    else if total > s.mgmt.pcap * n then
      match s.hungriest with
      | some g => s.moveGroup g true
      | none => s
    else if total * 100 ≤ s.mgmt.pcap * 97 * n then
      let t := (s.mgmt.steps.foldl (fun (u : State) x => u.setSteps [x.1] (x.2 - 1)) s).equalise
      { t with mgmt := { t.mgmt with thermal := t.mgmt.thermal.filter fun i => t.stepOf i != 0 } }
    else s)

/-! The scrubber and soft errors (R438, R439, R440; 14 R394). -/

/-- A trap of the core in turn for an uncorrectable scratchpad word, against no fibre. -/
def State.scrubTrap (s : State) (off : Nat) : State :=
  s.queueTrap { code := memPoison, async := true, arg := 9, ent := none, slot := 0, epc := 0, epg := 0, eaddr := BitVec.ofNat 64 off,
                eidx := 0, jent := none, chan := false, wdrawn := false, lost := false, extra := [] }

/-- A trap for an uncorrectable word of the control store, which also marks the job; ARG and EADDR are not given (log
entry 92). -/
def State.storeTrap (s : State) : State :=
  let t := s.modJob s.core.job fun j => { j with faulted := true }
  ({ t with free := t.free + 9 }).queueTrap
    { code := memPoison, async := true, arg := Config.freeByte t.free, ent := none, slot := 0, epc := 0, epg := 0,
      eaddr := leWord ((List.range 8).map fun k => Config.freeByte (t.free + 1 + k)), eidx := 0, jent := none, chan := false,
      wdrawn := false, lost := false, extra := [] }

/-- What happens to a word of the core in turn, or to the head word of one of its queues: an error that was corrected and counted, an
uncorrectable one, which a reader or the scrubber may then meet or a write may clear, or the scrubber's read. Offsets from 64 KiB to
92 KiB are the control store; from 2^17 on, 64·entry + register code names a queue register, behind them the command FIFOs of the engines
and the FIFOs of the ports (log entry 91). -/
def State.scrubCore (t : State) (off : Nat) (bad : Option Bool) : State :=
  let again := decide (off < 65536) && t.core.poison.contains off
  match bad with
  | some false => { t with core := { t.core with ce := capAdd t.core.ce 1 } }
  | some true =>
    let u := { t with core := { t.core with ue := capAdd t.core.ue 1 } }
    if off < 65536 then
      { u with core := { u.core with poison := if again then u.core.poison else off :: u.core.poison } }
    else if off < 94208 then u.storeTrap
    else if 2 ^ 17 + 258 * 64 ≤ off then { u with core := { u.core with fifoPoison := (off - (2 ^ 17 + 258 * 64)) :: u.core.fifoPoison } }
    else { u with core := { u.core with queuePoison := ((off - 2 ^ 17) / 64, off % 64) :: u.core.queuePoison } }
  | none => if again then t.scrubTrap off else t

/-- A granule of a stack that the decoder corrected to a wrong one without report (14 R394): its bytes are free values. -/
def State.miscorrect (s : State) (k g : Nat) : State :=
  let l := (List.range 32).map fun i => Config.freeByte (s.free + i)
  { s with mem := memPut s.mem (dramHome k (g * 32)) l, free := s.free + 32 }

/-- SCRUB of a word of a core; as core 18,440, of the outbound FIFO of a mailbox, or, from 256 on, of its inbound one; from core 18,432 on, of a DRAM granule of a stack, which reads of it then find
uncorrectable (14 R396), which was corrected and counted, or, from 2^31 on, which holds a wrong correction (R394; log
entry 91). -/
def execScrub (core off : Nat) (bad : Option Bool) (s : State) : Host.Outcome State Fault Refusal :=
  .next (if core < 18432 then
      (if (off < 94208 ∧ off % 8 = 0) ∨ (2 ^ 17 ≤ off ∧ off < 2 ^ 17 + 258 * 64 + 36) then s.onCore core fun t => t.scrubCore off bad else s)
    else if core < 18440 then
      let x := s.stack (core - 18432)
      match bad with
      | some false => s.setStack (core - 18432) { x with cecnt := capAdd x.cecnt 1 }
      | some true =>
        if 2 ^ 32 ≤ off then s
        else if 2 ^ 31 ≤ off then s.miscorrect (core - 18432) (off - 2 ^ 31)
        else s.setStack (core - 18432) { x with poison := if x.poison.contains off then x.poison else off :: x.poison }
      | none => s
    else if core = 18440 ∧ off < 512 ∧ bad = some true then { s with host := { s.host with fifoPoison := off :: s.host.fifoPoison } }
    else s)

end Sys2Proof.Machine
end

