-- ==== Sys2Proof/Machine/Routine.lean ====
section
/-! DEFINITION. Loadable routines in the routine processor of a server (14 R389, R390), and the walk that completes a
translation (R400, R401). -/

namespace Sys2Proof.Machine

/-- The cycles of FDIV, FRCP and FSQRT (04 Table 4-1). -/
def divCost : Ty → Nat
  | .d => 28
  | .s => 14
  | _ => 8

/-- The scalar instructions of majors 0x01 to 0x16: their register fields, their meaning, their cycles. -/
def scalarOf (i : Instr) : Option (List Reg × (State → Host.Outcome State Fault Refusal) × Nat) :=
  match i with
  | .add d a b => some ([d, a, b], execAdd d a b, 1)
  | .sub d a b => some ([d, a, b], execSub d a b, 1)
  | .mul d a b => some ([d, a, b], execMul d a b, 3)
  | .mulh d a b => some ([d, a, b], execMulh d a b, 3)
  | .mulhu d a b => some ([d, a, b], execMulhu d a b, 3)
  | .div d a b => some ([d, a, b], execDiv d a b, 34)
  | .divu d a b => some ([d, a, b], execDivu d a b, 34)
  | .rem d a b => some ([d, a, b], execRem d a b, 34)
  | .remu d a b => some ([d, a, b], execRemu d a b, 34)
  | .and d a b => some ([d, a, b], execAnd d a b, 1)
  | .or d a b => some ([d, a, b], execOr d a b, 1)
  | .xor d a b => some ([d, a, b], execXor d a b, 1)
  | .andn d a b => some ([d, a, b], execAndn d a b, 1)
  | .shl d a b => some ([d, a, b], execShl d a b, 1)
  | .shr d a b => some ([d, a, b], execShr d a b, 1)
  | .sra d a b => some ([d, a, b], execSra d a b, 1)
  | .rot d a b => some ([d, a, b], execRot d a b, 1)
  | .min d a b => some ([d, a, b], execMin d a b, 1)
  | .max d a b => some ([d, a, b], execMax d a b, 1)
  | .minu d a b => some ([d, a, b], execMinu d a b, 1)
  | .maxu d a b => some ([d, a, b], execMaxu d a b, 1)
  | .cmpeq d a b => some ([d, a, b], execCmpeq d a b, 1)
  | .cmpne d a b => some ([d, a, b], execCmpne d a b, 1)
  | .cmplt d a b => some ([d, a, b], execCmplt d a b, 1)
  | .cmpltu d a b => some ([d, a, b], execCmpltu d a b, 1)
  | .cmple d a b => some ([d, a, b], execCmple d a b, 1)
  | .cmpleu d a b => some ([d, a, b], execCmpleu d a b, 1)
  | .cmov d a b => some ([d, a, b], execCmov d a b, 1)
  | .clz d a => some ([d, a], execClz d a, 1)
  | .ctz d a => some ([d, a], execCtz d a, 1)
  | .popc d a => some ([d, a], execPopc d a, 1)
  | .brev d a => some ([d, a], execBrev d a, 1)
  | .bswap d a => some ([d, a], execBswap d a, 1)
  | .exts sz d a => some ([d, a], execExts sz d a, 1)
  | .extz sz d a => some ([d, a], execExtz sz d a, 1)
  | .not d a => some ([d, a], execNot d a, 1)
  | .neg d a => some ([d, a], execNeg d a, 1)
  | .abs d a => some ([d, a], execAbs d a, 1)
  | .addi d a imm => some ([d, a], execAddi d a imm, 1)
  | .andi d a imm => some ([d, a], execAndi d a imm, 1)
  | .ori d a imm => some ([d, a], execOri d a imm, 1)
  | .xori d a imm => some ([d, a], execXori d a imm, 1)
  | .shli d a n => some ([d, a], execShli d a n, 1)
  | .shri d a n => some ([d, a], execShri d a n, 1)
  | .srai d a n => some ([d, a], execSrai d a n, 1)
  | .roti d a n => some ([d, a], execRoti d a n, 1)
  | .cmpeqi d a imm => some ([d, a], execCmpeqi d a imm, 1)
  | .cmplti d a imm => some ([d, a], execCmplti d a imm, 1)
  | .cmpltui d a imm => some ([d, a], execCmpltui d a imm, 1)
  | .lui d imm => some ([d], execLui d imm, 1)
  | .addpc d imm => some ([d], execAddpc d imm, 1)
  | .bfx d a pos wm1 => some ([d, a], execBfx d a pos wm1, 1)
  | .bfi d a pos wm1 => some ([d, a], execBfi d a pos wm1, 1)
  | .wid d k => some ([d], execWid d k, 1)
  | .addx d a b n => some ([d, a, b], execAddx d a b n, 1)
  | .br c a off => some ([a], execBr c a off, 1)
  | .bra off => some ([], execBra off, 1)
  | .call d imm => some ([d], execCall d imm, 1)
  | .jr a => some ([a], execJr a, 1)
  | .callr d a => some ([d, a], execCallr d a, 1)
  | .ret a => some ([a], execRet a, 1)
  | .loop a off => some ([a], execLoop a off, 1)
  | .fadd t d a b => some ([d, a, b], execFadd t d a b, 4)
  | .fsub t d a b => some ([d, a, b], execFsub t d a b, 4)
  | .fmul t d a b => some ([d, a, b], execFmul t d a b, 4)
  | .fdiv t d a b => some ([d, a, b], execFdiv t d a b, divCost t)
  | .fsqrt t d a => some ([d, a], execFsqrt t d a, divCost t)
  | .fmin t d a b => some ([d, a, b], execFmin t d a b, 4)
  | .fmax t d a b => some ([d, a, b], execFmax t d a b, 4)
  | .fabs t d a => some ([d, a], execFabs t d a, 4)
  | .fneg t d a => some ([d, a], execFneg t d a, 4)
  | .fcmpeq t d a b => some ([d, a, b], execFcmpeq t d a b, 4)
  | .fcmplt t d a b => some ([d, a, b], execFcmplt t d a b, 4)
  | .fcmple t d a b => some ([d, a, b], execFcmple t d a b, 4)
  | .fclass t d a => some ([d, a], execFclass t d a, 4)
  | .frcp t d a => some ([d, a], execFrcp t d a, divCost t)
  | .ffma t d a b c => some ([d, a, b, c], execFfma t d a b c, 4)
  | .fcvt dty sty d a => some ([d, a], execFcvt dty sty d a, 4)
  | _ => none

/-- Register fields 0 to 10 (R390). -/
def routineReg : Reg → Bool
  | .p _ | .l _ | .z => true
  | _ => false

/-- The routine processor at its start: p0, p1, p2 hold VA, A, B; the code stands from address 0 (log entry 24). -/
def routineStart (s : State) (q : Req) (code : List Word) : State :=
  let p : Vector DWord 8 := ((((Vector.replicate 8 0).set 0 (q.va.setWidth 64)).set 1 q.a).set 2 q.b)
  let bytes := code.flatMap fun w => leBytes w.toNat 4
  let lines := (chunks 64 (bytes.length / 64 + 1) bytes).zipIdx.map fun x => (x.2, x.1)
  let m := { Slot.reset with ent := some 0, fib := { Fibre.reset with ctx := { Ctx.reset with p := p, status := 0 } } }
  { State.reset with core := { Core.reset with slots := Core.reset.slots.set 0 m, lines := lines }, free := s.free }

/-- A routine whose p7 records a loop knows LEND from its own words (04 R141). -/
def State.routineLend (s : State) : State :=
  let l := bits s.ctx.p[7] 0 46 * 4
  let read (a : Nat) : Option Word := some ((lineWord s.core.lines a).getD 0)
  if s.ctx.p[7].getLsbD 63 then s.setMe { s.me with lend := some (l, (lendOf read l).toOption) } else s

/-- A held store: address and bytes. -/
abbrev Held := List (Nat × List Byte)

/-- A byte through the held stores, the latest first. -/
def heldByte (h : Held) (a : Nat) (b : Byte) : Byte :=
  match h.find? fun x => decide (x.1 ≤ a) && decide (a < x.1 + x.2.length) with
  | some x => x.2.getD (a - x.1) 0
  | none => b

/-- The end of a routine: its stores in order as one step, the result p0 (R390); a read-only page refuses stores. -/
def State.endRoutine (s : State) (q : Req) (p : Page) (held : Held) (sub : Bool) (result : DWord) : State × Rep :=
  if !held.isEmpty && p.ro then (s, badRep translation)
  else
    let put (acc : State × Option Nat × Bool) (x : Nat × List Byte) : State × Option Nat × Bool :=
      match acc.2.1 with
      | some _ => acc
      | none =>
        match acc.1.dramUpdate q p (p.pa x.1) x.2.length fun _ => x.2 with
        | (t, .ok (_, b)) => (t, none, acc.2.2 || b)
        | (_, .error c) => (acc.1, some c, acc.2.2)
    match held.reverse.foldl put (s, none, sub) with
    | (t, none, b) => (t, { okRep result with sub := b })
    | (_, some c, _) => (s.setStack q.stack { s.stack q.stack with uecnt := capAdd (s.stack q.stack).uecnt 1 }, badRep c)

/-- The run of a routine, at most n further words (R390). -/
def routineRun (q : Req) (p : Page) : Nat → State → State → Held → Bool → Nat → State × Rep
  | 0, s, _, _, _, _ => (s, badRep routineAbort)
  | n + 1, s, t0, held, sub, cycles =>
    let t := t0.routineLend
    match lineWord t.core.lines t.ctx.pc.toNat with
    | none => (s, badRep routineAbort)
    | some w =>
      match decode w with
      | .error _ => (s, badRep routineAbort)
      | .ok i =>
        let va := q.va.toNat
        let inBlock (ea : DWord) (k : Nat) := ea.toNat % k == 0 && ea.toNat / 256 == va / 256
        let load (sx : Bool) (sz : Size) (d a : Reg) (off : BitVec 12) : State × Rep :=
          let k := sizeBytes sz
          let ea := effective (((t.popReg a).map (·.1)).getD 0) (off.signExtend 64) k
          if !(routineReg d && routineReg a) || !inBlock ea k || decide (cycles + 4 > 256) then (s, badRep routineAbort)
          else
            match s.dramRead q p (p.pa ea.toNat) k with
            | (s', .error c) => (s', badRep c)
            | (s', .ok (l, b)) =>
              let l := l.zipIdx.map fun x => heldByte held (ea.toNat + x.2) x.1
              match resultOf (.load d sz sx) [leWord l] with
              | some (_, v) => routineRun q p n s' (t.writeReg d v).advance held (sub || b) (cycles + 4)
              | none => (s, badRep routineAbort)
        match i with
        | .trap c => if c = 0 ∧ cycles < 256 then s.endRoutine q p held sub t.ctx.p[0] else (s, badRep routineAbort)
        | .ld sz d a off => load false sz d a off
        | .lds sz d a off => load true sz d a off
        | .st sz d a off =>
          let k := sizeBytes sz
          let ea := effective (((t.popReg a).map (·.1)).getD 0) (off.signExtend 64) k
          let v := ((t.popReg d).map (·.1)).getD 0
          if !(routineReg d && routineReg a) || !inBlock ea k || decide (cycles + 1 > 256) || decide (held.length ≥ 16) then
            (s, badRep routineAbort)
          else routineRun q p n s t.advance ((ea.toNat, leBytes v.toNat k) :: held) sub (cycles + 1)
        | i =>
          match scalarOf i with
          | none => (s, badRep routineAbort)
          | some (regs, f, c) =>
            if !regs.all routineReg || decide (cycles + c > 256) then (s, badRep routineAbort)
            else
              match f t with
              | .next t' => if t'.core.traps.isEmpty then routineRun q p n s t' held sub (cycles + c) else (s, badRep routineAbort)
              | _ => (s, badRep routineAbort)

/-- The act of a loaded routine; one that is not loaded gives STATUS 0x16 (R389). -/
def bodyLoadable : Act := fun s q p _ =>
  match s.routines.get? q.routine with
  | none => (s, badRep routineAbort)
  | some r => routineRun q p 257 s (routineStart s q r.code) [] false 0

/-- LOADABLE_ROUTINE: a request that names a routine 24 to 63 arrives. -/
def execLoadableRoutine (q : Req) (s : State) : Host.Outcome State Fault Refusal :=
  .next (if s.walking q then s.sendWalk q
    else match s.cached q.stack q.va.toNat with
      | some p => s.servePage q p false bodyLoadable
      | none => s.sendWalk q)

/-- A request whose translation is known is served: by a fixed routine or a loaded one. -/
def State.serve (s : State) (q : Req) (p : Page) : State :=
  if q.routine ≥ 24 then s.servePage q p false bodyLoadable else s.servePage q p (fixedBody q).2.1 (fixedBody q).2.2

/-- TABLE_WALK: the directory gives the page or STATUS 0x13; the request then executes or is forwarded. -/
def execTableWalk (q : Req) (s : State) : Host.Outcome State Fault Refusal :=
  .next (match s.walk q.va.toNat with
    | none => s.reply q (badRep translation)
    | some (_, p) => (s.setStack q.stack ((s.stack q.stack).keepEntry q.va.toNat p)).serve q p)

/-- Whether an operation that was forwarded ahead of an end marker is not yet performed. -/
def State.ahead (s : State) (m : Migration) : Bool :=
  s.net.any fun p => (requestOf p.ev).any fun q => m.queued.any fun x => x.op == q.op && x.who == q.who

/-- END_MARKER, behind the forwarded operations: the new home performs the held requests in arrival order; the SVC reply follows. -/
def execEndMarker (n : Nat) (s : State) : Host.Outcome State Fault Refusal :=
  .next (match s.migrations.find? fun m => m.num == n && m.copied with
    | none => s
    | some m =>
      if s.ahead m then s.sendFrom (serverDst m.newHome) (serverDst m.newHome) none [] none (.endMarker n)
      else
        let t := { s with migrations := s.migrations.filter fun x => x.num != n }
        (m.held.foldl (fun t q => t.serve q { m.page with home := m.newHome }) t).reply { m.req with stack := m.newHome } (okRep 0))

end Sys2Proof.Machine
end

