-- ==== Sys2Proof/Machine/Seq.lean ====
section
/-! DEFINITION. Engine sequencers, engine commands, and the elements of macro-instructions (08 R277 to R284; 01 R27,
R28). -/

namespace Sys2Proof.Machine

/-! XFORK and XJOIN (R280, R282). -/

/-- An entry of the descriptor: PADDR, NWORD, REP. -/
def seqEntry (l : List Byte) (e : Nat) : Nat × Nat × Nat :=
  let f (o : Nat) := leNat ((l.drop (16 * e + o)).take 2)
  (f 0, f 2, f 4)

/-- The fault of a descriptor (R280): RESERVED_FIELD of its fields, a PADDR that is not 4-aligned among them, then PARTITION_BOUNDS of a
program that leaves the own scratchpad or the partition (DESIGN CHOICE, log entry 169). -/
def State.xforkFault (s : State) (l : List Byte) : Option Flt :=
  let bad (e : Nat) : Bool :=
    let x := seqEntry l e
    ((l.drop (16 * e + 6)).take 10).any (· != 0) || (x.2.2 != 0 && (x.2.1 == 0 || decide (x.2.1 > 4096) || x.1 % 4 != 0))
  let out (e : Nat) : Bool :=
    let x := seqEntry l e
    x.2.2 != 0 && !s.core.inPart0 x.1 (4 * x.2.1)
  if bad 0 || bad 1 || bad 2 then some (flt reservedField)
  else
    match ([0, 1, 2] : List Nat).find? out with
    | some e => some (fltAt partitionBounds (BitVec.ofNat 64 (seqEntry l e).1))
    | none => none

/-- Whether a split-phase access of the fibre in turn to its own scratchpad is still to be performed. -/
def State.ownPending (s : State) : Bool :=
  s.fib.qam.any fun q => q.val.isNone && (match regionOf s.cid q.addr with
    | .own _ => true
    | _ => false)

/-- XFORK: no sequencer starts before the fibre's earlier accesses to its own scratchpad (R283); the sequencers of an
earlier XFORK of the fibre are no longer joined (R282). -/
def execXfork (a : Reg) (s : State) : Host.Outcome State Fault Refusal :=
  s.issue ⟨[a], none, false, false⟩ fun v s' =>
    let ea := arg v 0
    match regionOf s.cid ea with
    | .own off =>
      if off % 8 ≠ 0 then s.raise (fltAt misalign ea)
      else if off % 8192 + 48 > 8192 then s.raise (fltAt bankBounds ea)
      else if !s.core.inPart0 off 48 then s.raise (fltAt partitionBounds ea)
      else if s.heldByAcquire || s.core.rangeStall s.cid off 48 then s.stall
      else if s.core.poisoned off 48 then s.raise (accessFlt memPoison ea)
      else
        let l := s.spBytes s.cid off 48
        match s.xforkFault l with
        | some f => s.raise f
        | none =>
          if s.ownPending then s.stall
          else if ([0, 1, 2] : List (Fin 3)).any fun e => decide ((seqEntry l e.val).2.2 ≠ 0) && s.core.seqs[e].running then s.stall
          else
            let seqs := Vector.ofFn fun e : Fin 3 =>
              let x := seqEntry l e.val
              if x.2.2 = 0 then
                (if s.core.seqs[e].owner = some s.self then { s.core.seqs[e] with joined := true } else s.core.seqs[e])
              else { Seq.reset with running := true, paddr := x.1, nword := x.2.1, rep := x.2.2, owner := some s.self, joined := false,
                                     ready := s.coreCycles + 1 }
            let t := { s' with core := { s'.core with seqs := seqs } }
            (t.setFib { t.fib with xfork := true }).advance
    | _ => s.raise (fltAt translation ea)

/-- The word XJOIN writes of a halted sequencer. -/
def joinWord (q : Seq) (e : Nat) : DWord :=
  BitVec.ofNat 64 (q.code % 64 + e * 64 + q.word % 4096 * 256 + (match q.run with
    | some r => r.k
    | none => 0) % 2 ^ 44 * 2 ^ 20)

/-- Whether a copy that the copy sequencer issued for a fibre is still under way. -/
def Core.seqCopies (c : Core) (w : Who) : Bool := c.channels.toList.any fun x => x.busy && x.bySeq && x.who == w

/-- XJOIN: every sequencer of the last XFORK has ended (R282), and every access of theirs, those of copies among them, is
performed (R283). -/
def execXjoin (d : Reg) (s : State) : Host.Outcome State Fault Refusal :=
  s.issue ⟨[], some d, false, false⟩ fun _ s' =>
    let mine (e : Fin 3) : Bool := s.core.seqs[e].owner == some s.self && !s.core.seqs[e].joined
    let es := ([0, 1, 2] : List (Fin 3)).filter mine
    if (es.any fun e => s.core.seqs[e].running) || (!es.isEmpty && s.core.seqCopies s.self) then s.stall
    else
      let fl := es.foldl (fun f e => f ||| s.core.seqs[e].flags) 0
      let v : DWord := match es.find? fun e => s.core.seqs[e].halted with
        | some e => joinWord s.core.seqs[e] e.val
        | none => 0
      let seqs := Vector.ofFn fun e : Fin 3 => if mine e then Seq.reset else s.core.seqs[e]
      let t := { s' with core := { s'.core with seqs := seqs } }
      let t := (t.setFib { t.fib with xfork := false }).setCtx (t.ctx.orFlags fl)
      s.done t d v

/-! Sequenced words (R281). -/

/-- Whether a scalar field may stand in a sequenced word. -/
def seqReg : Reg → Bool
  | .s _ | .z => true
  | _ => false

/-- The admitted instructions of an engine: their scalar fields and their meaning. -/
def seqExec (e : Eng) (i : Instr) : Option (List Reg × (State → Host.Outcome State Fault Refusal)) :=
  match e, i with
  | _, .cpwa d a => some (if d = .z then [a] else [.id], execCpwa d a)
  | _, .cpwn d a => some (if d = .z then [a] else [.id], execCpwn d a)
  | .mat, .mwld a => some ([a], execMwld a)
  | .mat, .mswap => some ([], execMswap)
  | .mat, .mstrm a b => some ([a, b], execMstrm a b)
  | .mat, .mmul d a b => some ([d, a, b], execMmul d a b)
  | .mat, .mzero => some ([], execMzero)
  | .mat, .mrd d a => some ([d, a], execMrd d a)
  | .vec, .vadd t d a b => some ([], execVadd t d a b)
  | .vec, .vsub t d a b => some ([], execVsub t d a b)
  | .vec, .vmul t d a b => some ([], execVmul t d a b)
  | .vec, .vfma t d a b => some ([], execVfma t d a b)
  | .vec, .vmin t d a b => some ([], execVmin t d a b)
  | .vec, .vmax t d a b => some ([], execVmax t d a b)
  | .vec, .vabs t d a => some ([], execVabs t d a)
  | .vec, .vneg t d a => some ([], execVneg t d a)
  | .vec, .vcmpEq t d a b => some ([], execVcmpEq t d a b)
  | .vec, .vcmpLt t d a b => some ([], execVcmpLt t d a b)
  | .vec, .vcmpLe t d a b => some ([], execVcmpLe t d a b)
  | .vec, .vsel t d a b => some ([], execVsel t d a b)
  | .vec, .vand t d a b => some ([], execVand t d a b)
  | .vec, .vor t d a b => some ([], execVor t d a b)
  | .vec, .vxor t d a b => some ([], execVxor t d a b)
  | .vec, .vshl t d a b => some ([], execVshl t d a b)
  | .vec, .vshr t d a b => some ([], execVshr t d a b)
  | .vec, .vld d a off => some ([a], execVld d a off)
  | .vec, .vst d a off => some ([a], execVst d a off)
  | .vec, .vlds t d a b => some ([a, b], execVlds t d a b)
  | .vec, .vsts t d a b => some ([a, b], execVsts t d a b)
  | .vec, .vgath t d a b => some ([a], execVgath t d a b)
  | .vec, .vscat t d a b => some ([a], execVscat t d a b)
  | .vec, .vredAdd t d a => some ([d], execVredAdd t d a)
  | .vec, .vredMin t d a => some ([d], execVredMin t d a)
  | .vec, .vredMax t d a => some ([d], execVredMax t d a)
  | .vec, .vdot t d a b => some ([d], execVdot t d a b)
  | .vec, .vshf t d a b => some ([], execVshf t d a b)
  | .vec, .vbcast t d a => some ([a], execVbcast t d a)
  | .vec, .vext d a n => some ([d], execVext d a n)
  | .vec, .vins d a n => some ([a], execVins d a n)
  | .vec, .vcvt dt st d a => some ([], execVcvt dt st d a)
  | .vec, .vexp2 t d a => some ([], execVexp2 t d a)
  | .vec, .vlog2 t d a => some ([], execVlog2 t d a)
  | .cpy, .cpy d a n tag sh rr => some ([d, a, n], execCpy d a n tag sh rr)
  | .cpy, .cpym d a n tag sh rr => some ([d, a, n], execCpym d a n tag sh rr)
  | .cpy, .stage n => some ([], execStage n)
  | _, _ => none

def engIndex : Eng → Fin 3
  | .mat => 0
  | .vec => 1
  | .cpy => 2

def State.seq (s : State) (e : Eng) : Seq := s.core.seqs[engIndex e]
def State.setSeq (s : State) (e : Eng) (q : Seq) : State :=
  { s with core := { s.core with seqs := s.core.seqs.set (engIndex e) q } }

/-- The sequencer halts at its word (R281). -/
def State.haltSeq (s : State) (e : Eng) (code : Nat) : State :=
  let q := s.seq e
  s.setSeq e { q with running := false, stopped := false, halted := true, code := code }

/-- A write of the vector sequencer is kept against any slot (R245): those that a word or element has added to the results under way
of a core, and show from a count of its cycles on. -/
def Core.sequenced (c old : Core) (due : Nat) : Core :=
  { c with late := old.late ++ (c.late.drop old.late.length).map fun x => { x with due := due, rank := 8 } }

/-- The word is done: the next one, the next pass, or the end. -/
def State.nextWord (s : State) (e : Eng) : State :=
  let q := s.seq e
  if q.word + 1 < q.nword then s.setSeq e { q with word := q.word + 1, run := none }
  else if q.rep > 1 then s.setSeq e { q with word := 0, rep := q.rep - 1, run := none }
  else s.setSeq e { q with word := q.word + 1, run := none, running := false }

/-- What a sequenced word does, in a slot of its own: slot 0 for the moment, with the owner's job and rounding mode. -/
def State.seqWord (s : State) (e : Eng) (i : Instr) (f : State → Host.Outcome State Fault Refusal) : State :=
  let q := s.seq e
  let owner := q.owner.bind fun w => (s.coreAt w.core).fibre? w.ent
  let own := owner.getD Fibre.reset
  let ctx := { Ctx.reset with pc := BitVec.ofNat 48 (q.paddr + 4 * q.word), status := putBits (0 : Word) 10 3 own.ctx.frm }
  let lat := occupancy i
  let me : Slot := { Slot.reset with lat := lat, ent := some ((q.owner.map fun w => w.ent).getD 0), fib := { Fibre.reset with ctx := ctx, job := own.job } }
  let slot0 := s.core.slots[(0 : Fin 8)]
  let slot6 := s.core.slots[(6 : Fin 8)]
  let s1 := { (s.setSeq e { q with running := false, run := none }) with
              sid := 0, core := { s.core with slots := (s.core.slots.set 6 slot0).set 0 me,
                                              seqs := s.core.seqs.set (engIndex e) { q with running := false, run := none } } }
  let copies (t : State) : Vector Channel 8 :=
    Vector.ofFn fun i => let x := t.core.channels[i]; if x.busy && !s.core.channels[i].busy then { x with bySeq := true } else x
  let back (t : State) (q' : Seq) : State :=
    let c := t.core.sequenced s.core (s.coreCycles + lat)
    { t with sid := s.sid, core := { c with slots := (c.slots.set 6 slot6).set 0 slot0, channels := copies t,
                                            seqs := c.seqs.set (engIndex e) q' } }
  match f s1 with
  | .next t =>
    if t.core.traps.length > s.core.traps.length then s.haltSeq e ((t.core.traps.getLast?.map fun x => x.code).getD 0)
    else
      let m := t.core.slots[(0 : Fin 8)]
      let fl : BitVec 7 := BitVec.ofNat 7 m.fib.ctx.flags
      match m.run with
      | some r => back t { q with run := some r, flags := q.flags ||| fl, ready := s.coreCycles + lat }
      | none =>
        if m.stall.isSome then back t q
        else (back t { q with flags := q.flags ||| fl, ready := s.coreCycles + lat }).nextWord e
  | _ => s

/-- The next element of a sequenced macro-instruction. -/
def State.seqElem (s : State) (e : Eng) (r : ElemRun) : State :=
  let q := s.seq e
  let go (t : State) (r : ElemRun) (fin : State → State) : State :=
    let u := t.setSeq e { q with ready := s.coreCycles + 1 }
    if r.k + 1 < r.n then u.setSeq e { q with run := some { r with k := r.k + 1 }, ready := s.coreCycles + 1 } else (fin u).nextWord e
  match e with
  | .vec =>
    match ({ s with sid := 0 }).vecElement r with
    | .inl t => go { t with sid := s.sid, core := t.core.sequenced s.core (s.coreCycles + 1) } r id
    | .inr (.fault f) => s.haltSeq e f.code
    | .inr _ => s
  | .mat =>
    if s.core.held7 || !s.matDue true then s
    else
      match matOp? r.ins with
      | none => s
      | some op =>
        match s.matStep op true r with
        | .wait => s
        | .fault f => s.haltSeq e f.code
        | .ok t =>
          go (t.paced true r) { r with vec := 1 } fun u =>
            let u := u.matEnd op true r
            match r.ins with
            | .mrd (.s i) _ => { u with core := { u.core with late := u.core.late ++ [⟨s.coreCycles + 1, 8, .reg i (BitVec.ofNat 64 r.n)⟩] } }
            | _ => u
  | .cpy => s

/-- SEQUENCER_WORD. -/
def execSequencerWord (e : Eng) (s : State) : Host.Outcome State Fault Refusal :=
  .next (let q := s.seq e
    if !q.running || q.stopped || decide (s.coreCycles < q.ready) then s
    else
      match q.run with
      | some r => s.seqElem e r
      | none =>
        let off := q.paddr + 4 * q.word
        if s.core.poisoned off 4 then s.haltSeq e memPoison
        else
          let w : Word := BitVec.ofNat 32 (leNat (s.spBytes s.cid off 4))
          match decode w with
          | .error .illegalOp => s.haltSeq e illegalOp
          | .error .reservedField => s.haltSeq e reservedField
          | .ok i =>
            match seqExec e i with
            | none => s.haltSeq e illegalOp
            | some (rs, f) => if rs.all seqReg then s.seqWord e i f else s.haltSeq e reservedField)

/-! Engine commands (R284, Table 8-11). -/

/-- The queue of an engine's commands. -/
def Core.engQueue (c : Core) : EngQ → EngQueue
  | .mx => c.qmx
  | .vx => c.qvx
  | .ac => c.qac

def Core.setEngQueue (c : Core) (q : EngQ) (x : EngQueue) : Core :=
  match q with
  | .mx => { c with qmx := x }
  | .vx => { c with qvx := x }
  | .ac => { c with qac := x }

/-- The sequencer that ENG names. -/
def engOf (n : Nat) : Option Eng :=
  match n with
  | 0 => some .mat
  | 1 => some .vec
  | 2 => some .cpy
  | _ => none

/-- Whether an access updates an accumulator cell. -/
def accUpdate (a : Access) : Bool := a.kind == .accw || a.kind == .accz || a.kind == .accset

/-- Whether a packet is an accumulator update of a core on its way. -/
def accPacket (core : Nat) (p : Packet) : Bool :=
  match p.ev with
  | .activeMessage f a => f.who.core == core && accUpdate a
  | _ => false

/-- Whether an accumulator update of the core in turn waits for the slot 6 of its target. -/
def State.accQueued (s : State) : Bool :=
  (s.core :: s.others.map fun x => x.2).any fun c => c.amq.any fun q => q.1.who.core == s.cid && accUpdate q.2

/-- Whether a sequencer's word is executing in its engine. -/
def Core.seqBusy (c : Core) (e : Fin 3) : Bool := (c.seqRun e).isSome && !c.seqs[e].stopped

def isAccRun (r : ElemRun) : Bool :=
  match r.ins with
  | .accw _ _ _ | .accmv _ _ => true
  | _ => false

/-- BUSY of an engine: its unit executes, or, for the accumulators, carries or posted updates are pending. -/
def State.engBusy (s : State) (n : Nat) : Bool :=
  let slots := ([0, 1, 2, 3, 4, 5, 6, 7] : List (Fin 8))
  match n with
  | 0 => if s.core.held7 then s.core.slots[(7 : Fin 8)].run.any isMatRun else (slots.any fun i => s.core.slots[i].run.any isMatRun) || s.core.mcmdRun.isSome || s.core.seqBusy 0
  | 1 => (slots.any fun i => s.core.slots[i].run.any fun r => isVecMacro r.ins) || s.core.seqBusy 1 || decide (s.coreCycles < s.core.vecTill) ||
      (s.core.seqs[(1 : Fin 3)].running && decide (s.coreCycles < s.core.seqs[(1 : Fin 3)].ready))
  | 2 => s.core.channels.toList.any fun x => x.busy
  | _ => (slots.any fun i => s.core.slots[i].run.any isAccRun) || s.net.any (accPacket s.cid) || s.accQueued

/-- The result word of an engine. -/
def State.engResult (s : State) (n code : Nat) : DWord :=
  let q := match engOf n with
    | some e => s.seq e
    | none => Seq.reset
  let mat := decide (n = 0)
  BitVec.ofNat 64 ((s.engBusy n).toNat + q.running.toNat * 2 + q.stopped.toNat * 4 + q.halted.toNat * 8 +
    (mat && s.core.held7).toNat * 16 + (mat && s.core.shadow.lost).toNat * 32 + (if mat then s.core.active.fmt * 64 else 0) +
    (if mat then s.core.shadow.fmt * 1024 else 0) + (if code ≠ 0 then code else q.code) % 64 * 2 ^ 14 + q.word % 4096 * 2 ^ 20 +
    (match q.run with
     | some r => r.k
     | none => 0) % 2 ^ 32 * 2 ^ 32)

/-- The number of an engine's command FIFO among the FIFOs of a core. -/
def queueNum : EngQ → Nat
  | .mx => 0
  | .vx => 1
  | .ac => 2

/-- The command at the head of an engine queue, when its OP is among those asked for and its result has room. Of several refusals the
first holds, in the order MEM_POISON, 0x02, 0x03, 0x15 (DESIGN CHOICE, log entry 160). -/
def State.engCommand (s : State) (k : EngQ) (ops : Nat → Bool) : State :=
  let x := s.core.engQueue k
  let bad := (s.readFifo (queueNum k)).1
  match x.cmds with
  | [] => s
  | (w, slot) :: rest =>
    let op := bits w 0 4
    let n := bits w 4 2
    if !ops op || decide (x.res.length ≥ 4) then s
    else
      let running := match engOf n with
        | some e => (s.seq e).running
        | none => false
      let s := (s.readFifo (queueNum k)).2
      let code :=
        if bad then memPoison
        else if op > 2 ∨ bits w 6 58 ≠ 0 then reservedField
        else if op ≠ 0 ∧ slot ≠ 7 then privilege
        else if op ≠ 0 ∧ running = false then queueMisuse
        else 0
      let s1 := match (if code = 0 ∧ op ≠ 0 then engOf n else none) with
        | some e => s.setSeq e { s.seq e with stopped := op == 1 }
        | none => s
      { s1 with core := s1.core.setEngQueue k ⟨rest, x.res ++ [s1.engResult n code]⟩ }

/-- ENGINE_QUERY, and the refusal of a reserved OP. -/
def execEngineQuery (q : EngQ) (s : State) : Host.Outcome State Fault Refusal :=
  .next (s.engCommand q fun op => op == 0 || decide (op > 2))

/-- ENGINE_STOP. -/
def execEngineStop (q : EngQ) (s : State) : Host.Outcome State Fault Refusal := .next (s.engCommand q fun op => op == 1)

/-- ENGINE_GO. -/
def execEngineGo (q : EngQ) (s : State) : Host.Outcome State Fault Refusal := .next (s.engCommand q fun op => op == 2)

/-! ELEMENT_COMMIT (01 R28). -/

/-- The next element of the run of the slot in turn; one of the matrix unit at the unit's pace (R265). -/
def State.commitElem (s : State) (r : ElemRun) : State :=
  match r.ins with
  | .sendt e _ => s.sendtElem r e.toNat
  | .recvt d e _ => s.recvtElem r d e.toNat
  | .accw _ _ _ => s.accwElem r
  | .accmv _ _ => s.accmvElem r
  | i =>
    match matOp? i with
    | some op =>
      let user := decide (s.sid.val ≠ 7)
      if !s.matDue user then s
      else
        let t := s.matElem r op
        if (t.me.run.map fun q => q.k) = some r.k then t else t.paced user r
    | none => s.vecElem r

/-- ELEMENT_COMMIT of a slot; slot 6 stands for the remote matrix command under way. -/
def execElementCommit (sl : Fin 8) (s : State) : Host.Outcome State Fault Refusal :=
  .next (let t := { s with sid := sl }
    let u := match t.me.run with
      | some r => if t.core.occupied sl t.coreCycles then t else t.commitElem r
      | none => if sl.val = 6 then t.cmdElem else t
    { u with sid := s.sid })

end Sys2Proof.Machine
end

