-- ==== Sys2Proof/Machine/Dispatch.lean ====
section
/-! DEFINITION. One arm for every constructor of Instr: the direct call of its meaning. -/

namespace Sys2Proof.Machine

def exec (i : Instr) (s : State) : Host.Outcome State Fault Refusal :=
  match i with
  | .add d a b => Sys2Proof.Machine.execAdd d a b s
  | .sub d a b => Sys2Proof.Machine.execSub d a b s
  | .mul d a b => Sys2Proof.Machine.execMul d a b s
  | .mulh d a b => Sys2Proof.Machine.execMulh d a b s
  | .mulhu d a b => Sys2Proof.Machine.execMulhu d a b s
  | .div d a b => Sys2Proof.Machine.execDiv d a b s
  | .divu d a b => Sys2Proof.Machine.execDivu d a b s
  | .rem d a b => Sys2Proof.Machine.execRem d a b s
  | .remu d a b => Sys2Proof.Machine.execRemu d a b s
  | .and d a b => Sys2Proof.Machine.execAnd d a b s
  | .or d a b => Sys2Proof.Machine.execOr d a b s
  | .xor d a b => Sys2Proof.Machine.execXor d a b s
  | .andn d a b => Sys2Proof.Machine.execAndn d a b s
  | .shl d a b => Sys2Proof.Machine.execShl d a b s
  | .shr d a b => Sys2Proof.Machine.execShr d a b s
  | .sra d a b => Sys2Proof.Machine.execSra d a b s
  | .rot d a b => Sys2Proof.Machine.execRot d a b s
  | .min d a b => Sys2Proof.Machine.execMin d a b s
  | .max d a b => Sys2Proof.Machine.execMax d a b s
  | .minu d a b => Sys2Proof.Machine.execMinu d a b s
  | .maxu d a b => Sys2Proof.Machine.execMaxu d a b s
  | .cmpeq d a b => Sys2Proof.Machine.execCmpeq d a b s
  | .cmpne d a b => Sys2Proof.Machine.execCmpne d a b s
  | .cmplt d a b => Sys2Proof.Machine.execCmplt d a b s
  | .cmpltu d a b => Sys2Proof.Machine.execCmpltu d a b s
  | .cmple d a b => Sys2Proof.Machine.execCmple d a b s
  | .cmpleu d a b => Sys2Proof.Machine.execCmpleu d a b s
  | .cmov d a b => Sys2Proof.Machine.execCmov d a b s
  | .clz d a => Sys2Proof.Machine.execClz d a s
  | .ctz d a => Sys2Proof.Machine.execCtz d a s
  | .popc d a => Sys2Proof.Machine.execPopc d a s
  | .brev d a => Sys2Proof.Machine.execBrev d a s
  | .bswap d a => Sys2Proof.Machine.execBswap d a s
  | .exts sz d a => Sys2Proof.Machine.execExts sz d a s
  | .extz sz d a => Sys2Proof.Machine.execExtz sz d a s
  | .not d a => Sys2Proof.Machine.execNot d a s
  | .neg d a => Sys2Proof.Machine.execNeg d a s
  | .abs d a => Sys2Proof.Machine.execAbs d a s
  | .addi d a imm => Sys2Proof.Machine.execAddi d a imm s
  | .andi d a imm => Sys2Proof.Machine.execAndi d a imm s
  | .ori d a imm => Sys2Proof.Machine.execOri d a imm s
  | .xori d a imm => Sys2Proof.Machine.execXori d a imm s
  | .shli d a n => Sys2Proof.Machine.execShli d a n s
  | .shri d a n => Sys2Proof.Machine.execShri d a n s
  | .srai d a n => Sys2Proof.Machine.execSrai d a n s
  | .roti d a n => Sys2Proof.Machine.execRoti d a n s
  | .cmpeqi d a imm => Sys2Proof.Machine.execCmpeqi d a imm s
  | .cmplti d a imm => Sys2Proof.Machine.execCmplti d a imm s
  | .cmpltui d a imm => Sys2Proof.Machine.execCmpltui d a imm s
  | .lui d imm => Sys2Proof.Machine.execLui d imm s
  | .addpc d imm => Sys2Proof.Machine.execAddpc d imm s
  | .bfx d a pos wm1 => Sys2Proof.Machine.execBfx d a pos wm1 s
  | .bfi d a pos wm1 => Sys2Proof.Machine.execBfi d a pos wm1 s
  | .wid d k => Sys2Proof.Machine.execWid d k s
  | .addx d a b n => Sys2Proof.Machine.execAddx d a b n s
  | .br c a off => Sys2Proof.Machine.execBr c a off s
  | .bra off => Sys2Proof.Machine.execBra off s
  | .call d imm => Sys2Proof.Machine.execCall d imm s
  | .jr a => Sys2Proof.Machine.execJr a s
  | .callr d a => Sys2Proof.Machine.execCallr d a s
  | .ret a => Sys2Proof.Machine.execRet a s
  | .loop a off => Sys2Proof.Machine.execLoop a off s
  | .fadd t d a b => Sys2Proof.Machine.execFadd t d a b s
  | .fsub t d a b => Sys2Proof.Machine.execFsub t d a b s
  | .fmul t d a b => Sys2Proof.Machine.execFmul t d a b s
  | .fdiv t d a b => Sys2Proof.Machine.execFdiv t d a b s
  | .fsqrt t d a => Sys2Proof.Machine.execFsqrt t d a s
  | .fmin t d a b => Sys2Proof.Machine.execFmin t d a b s
  | .fmax t d a b => Sys2Proof.Machine.execFmax t d a b s
  | .fabs t d a => Sys2Proof.Machine.execFabs t d a s
  | .fneg t d a => Sys2Proof.Machine.execFneg t d a s
  | .fcmpeq t d a b => Sys2Proof.Machine.execFcmpeq t d a b s
  | .fcmplt t d a b => Sys2Proof.Machine.execFcmplt t d a b s
  | .fcmple t d a b => Sys2Proof.Machine.execFcmple t d a b s
  | .fclass t d a => Sys2Proof.Machine.execFclass t d a s
  | .frcp t d a => Sys2Proof.Machine.execFrcp t d a s
  | .ffma t d a b c => Sys2Proof.Machine.execFfma t d a b c s
  | .fcvt dty sty d a => Sys2Proof.Machine.execFcvt dty sty d a s
  | .ld sz d a off => Sys2Proof.Machine.execLd sz d a off s
  | .lds sz d a off => Sys2Proof.Machine.execLds sz d a off s
  | .st sz d a off => Sys2Proof.Machine.execSt sz d a off s
  | .ldfe d a off => Sys2Proof.Machine.execLdfe d a off s
  | .ldff d a off => Sys2Proof.Machine.execLdff d a off s
  | .stfe d a off => Sys2Proof.Machine.execStfe d a off s
  | .stff d a off => Sys2Proof.Machine.execStff d a off s
  | .pst sz d a off => Sys2Proof.Machine.execPst sz d a off s
  | .ship q n a b => Sys2Proof.Machine.execShip q n a b s
  | .aadd o sz d a b => Sys2Proof.Machine.execAadd o sz d a b s
  | .aswp o sz d a b => Sys2Proof.Machine.execAswp o sz d a b s
  | .acas o sz d a b => Sys2Proof.Machine.execAcas o sz d a b s
  | .aand o sz d a b => Sys2Proof.Machine.execAand o sz d a b s
  | .aor o sz d a b => Sys2Proof.Machine.execAor o sz d a b s
  | .axor o sz d a b => Sys2Proof.Machine.execAxor o sz d a b s
  | .amin o sz d a b => Sys2Proof.Machine.execAmin o sz d a b s
  | .amax o sz d a b => Sys2Proof.Machine.execAmax o sz d a b s
  | .aminu o sz d a b => Sys2Proof.Machine.execAminu o sz d a b s
  | .amaxu o sz d a b => Sys2Proof.Machine.execAmaxu o sz d a b s
  | .ainc o sz d a => Sys2Proof.Machine.execAinc o sz d a s
  | .fenceBank a => Sys2Proof.Machine.execFenceBank a s
  | .fence c => Sys2Proof.Machine.execFence c s
  | .cpy d a n tag sh rr => Sys2Proof.Machine.execCpy d a n tag sh rr s
  | .cpym d a n tag sh rr => Sys2Proof.Machine.execCpym d a n tag sh rr s
  | .cpwa d a => Sys2Proof.Machine.execCpwa d a s
  | .cpwn d a => Sys2Proof.Machine.execCpwn d a s
  | .cpff d a => Sys2Proof.Machine.execCpff d a s
  | .cpts d a => Sys2Proof.Machine.execCpts d a s
  | .stage n => Sys2Proof.Machine.execStage n s
  | .wmrd d ch => Sys2Proof.Machine.execWmrd d ch s
  | .tsub d a b => Sys2Proof.Machine.execTsub d a b s
  | .trel a b => Sys2Proof.Machine.execTrel a b s
  | .trelSt a b => Sys2Proof.Machine.execTrelSt a b s
  | .send e a => Sys2Proof.Machine.execSend e a s
  | .sendt e a => Sys2Proof.Machine.execSendt e a s
  | .recv d e => Sys2Proof.Machine.execRecv d e s
  | .recvt d e a => Sys2Proof.Machine.execRecvt d e a s
  | .sendx d e a => Sys2Proof.Machine.execSendx d e a s
  | .recvx d e a => Sys2Proof.Machine.execRecvx d e a s
  | .probe d e => Sys2Proof.Machine.execProbe d e s
  | .eos e => Sys2Proof.Machine.execEos e s
  | .alt d a => Sys2Proof.Machine.execAlt d a s
  | .altt d a b => Sys2Proof.Machine.execAltt d a b s
  | .bind e a => Sys2Proof.Machine.execBind e a s
  | .unbind e => Sys2Proof.Machine.execUnbind e s
  | .chmode e a => Sys2Proof.Machine.execChmode e a s
  | .post d pt a => Sys2Proof.Machine.execPost d pt a s
  | .jpat n a => Sys2Proof.Machine.execJpat n a s
  | .jarm n => Sys2Proof.Machine.execJarm n s
  | .jdis n => Sys2Proof.Machine.execJdis n s
  | .jrd d n => Sys2Proof.Machine.execJrd d n s
  | .pcfg pt a => Sys2Proof.Machine.execPcfg pt a s
  | .fork d a b => Sys2Proof.Machine.execFork d a b s
  | .joinc d => Sys2Proof.Machine.execJoinc d s
  | .lnch d a => Sys2Proof.Machine.execLnch d a s
  | .yield => Sys2Proof.Machine.execYield s
  | .park => Sys2Proof.Machine.execPark s
  | .wake a => Sys2Proof.Machine.execWake a s
  | .setpri a => Sys2Proof.Machine.execSetpri a s
  | .setdl a => Sys2Proof.Machine.execSetdl a s
  | .setwl a => Sys2Proof.Machine.execSetwl a s
  | .rdtime d => Sys2Proof.Machine.execRdtime d s
  | .getst d => Sys2Proof.Machine.execGetst d s
  | .evwait a => Sys2Proof.Machine.execEvwait a s
  | .evwaitQev a => Sys2Proof.Machine.execEvwaitQev a s
  | .evsig a => Sys2Proof.Machine.execEvsig a s
  | .evclr a => Sys2Proof.Machine.execEvclr a s
  | .evtst d a => Sys2Proof.Machine.execEvtst d a s
  | .bar d a => Sys2Proof.Machine.execBar d a s
  | .barBrk a => Sys2Proof.Machine.execBarBrk a s
  | .vadd t d a b => Sys2Proof.Machine.execVadd t d a b s
  | .vsub t d a b => Sys2Proof.Machine.execVsub t d a b s
  | .vmul t d a b => Sys2Proof.Machine.execVmul t d a b s
  | .vfma t d a b => Sys2Proof.Machine.execVfma t d a b s
  | .vmin t d a b => Sys2Proof.Machine.execVmin t d a b s
  | .vmax t d a b => Sys2Proof.Machine.execVmax t d a b s
  | .vabs t d a => Sys2Proof.Machine.execVabs t d a s
  | .vneg t d a => Sys2Proof.Machine.execVneg t d a s
  | .vcmpEq t d a b => Sys2Proof.Machine.execVcmpEq t d a b s
  | .vcmpLt t d a b => Sys2Proof.Machine.execVcmpLt t d a b s
  | .vcmpLe t d a b => Sys2Proof.Machine.execVcmpLe t d a b s
  | .vsel t d a b => Sys2Proof.Machine.execVsel t d a b s
  | .vand t d a b => Sys2Proof.Machine.execVand t d a b s
  | .vor t d a b => Sys2Proof.Machine.execVor t d a b s
  | .vxor t d a b => Sys2Proof.Machine.execVxor t d a b s
  | .vshl t d a b => Sys2Proof.Machine.execVshl t d a b s
  | .vshr t d a b => Sys2Proof.Machine.execVshr t d a b s
  | .vld d a off => Sys2Proof.Machine.execVld d a off s
  | .vst d a off => Sys2Proof.Machine.execVst d a off s
  | .vlds t d a b => Sys2Proof.Machine.execVlds t d a b s
  | .vsts t d a b => Sys2Proof.Machine.execVsts t d a b s
  | .vgath t d a b => Sys2Proof.Machine.execVgath t d a b s
  | .vscat t d a b => Sys2Proof.Machine.execVscat t d a b s
  | .vredAdd t d a => Sys2Proof.Machine.execVredAdd t d a s
  | .vredMin t d a => Sys2Proof.Machine.execVredMin t d a s
  | .vredMax t d a => Sys2Proof.Machine.execVredMax t d a s
  | .vdot t d a b => Sys2Proof.Machine.execVdot t d a b s
  | .vshf t d a b => Sys2Proof.Machine.execVshf t d a b s
  | .vbcast t d a => Sys2Proof.Machine.execVbcast t d a s
  | .vext d a n => Sys2Proof.Machine.execVext d a n s
  | .vins d a n => Sys2Proof.Machine.execVins d a n s
  | .vcvt dty sty d a => Sys2Proof.Machine.execVcvt dty sty d a s
  | .vexp2 t d a => Sys2Proof.Machine.execVexp2 t d a s
  | .vlog2 t d a => Sys2Proof.Machine.execVlog2 t d a s
  | .mwld a => Sys2Proof.Machine.execMwld a s
  | .mswap => Sys2Proof.Machine.execMswap s
  | .mstrm a b => Sys2Proof.Machine.execMstrm a b s
  | .mmul d a b => Sys2Proof.Machine.execMmul d a b s
  | .mzero => Sys2Proof.Machine.execMzero s
  | .mrd d a => Sys2Proof.Machine.execMrd d a s
  | .mcmd d a b => Sys2Proof.Machine.execMcmd d a b s
  | .mscl d a => Sys2Proof.Machine.execMscl d a s
  | .accw t a b => Sys2Proof.Machine.execAccw t a b s
  | .accz a => Sys2Proof.Machine.execAccz a s
  | .accrd t d a => Sys2Proof.Machine.execAccrd t d a s
  | .accmv a b => Sys2Proof.Machine.execAccmv a b s
  | .accset a b => Sys2Proof.Machine.execAccset a b s
  | .xfork a => Sys2Proof.Machine.execXfork a s
  | .xjoin d => Sys2Proof.Machine.execXjoin d s
  | .prgrd d => Sys2Proof.Machine.execPrgrd d s
  | .prgwr a => Sys2Proof.Machine.execPrgwr a s
  | .trap code => Sys2Proof.Machine.execTrap code s
  | .eret => Sys2Proof.Machine.execEret s
  | .bkpt code => Sys2Proof.Machine.execBkpt code s
  | .rfwin a => Sys2Proof.Machine.execRfwin a s
  | .syncid => Sys2Proof.Machine.execSyncid s
  | .mfsr d sr => Sys2Proof.Machine.execMfsr d sr s
  | .mtsr sr a => Sys2Proof.Machine.execMtsr sr a s
  | .mtsrUtask a => Sys2Proof.Machine.execMtsrUtask a s
  | .mtsrDlprobe a => Sys2Proof.Machine.execMtsrDlprobe a s
  | .mtsrEjrn a => Sys2Proof.Machine.execMtsrEjrn a s
  | .himm p => Sys2Proof.Machine.execHimm p s
  | .hsch spin => Sys2Proof.Machine.execHsch spin s
  | .hlive lreg bmap => Sys2Proof.Machine.execHlive lreg bmap s
  | .hmod rmv rm satv sat wide => Sys2Proof.Machine.execHmod rmv rm satv sat wide s
  | .timerArm t => Sys2Proof.Machine.execTimerArm t s
  | .timerCancel => Sys2Proof.Machine.execTimerCancel s
  | .qscPush w => Sys2Proof.Machine.execQscPush w s
  | .qhsPush w => Sys2Proof.Machine.execQhsPush w s
  | .copyQuery => Sys2Proof.Machine.execCopyQuery s
  | .copyResume => Sys2Proof.Machine.execCopyResume s
  | .copyCancel => Sys2Proof.Machine.execCopyCancel s
  | .engineQuery q => Sys2Proof.Machine.execEngineQuery q s
  | .engineStop q => Sys2Proof.Machine.execEngineStop q s
  | .engineGo q => Sys2Proof.Machine.execEngineGo q s
  | .dispatch => Sys2Proof.Machine.execDispatch s
  | .displacement => Sys2Proof.Machine.execDisplacement s
  | .waitLimit ent => Sys2Proof.Machine.execWaitLimit ent s
  | .timerExpiry ent => Sys2Proof.Machine.execTimerExpiry ent s
  | .timeoutExpiry ent => Sys2Proof.Machine.execTimeoutExpiry ent s
  | .deadLetterProbe ent => Sys2Proof.Machine.execDeadLetterProbe ent s
  | .deadLetterProbeArrival p => Sys2Proof.Machine.execDeadLetterProbeArrival p s
  | .messageArrival m => Sys2Proof.Machine.execMessageArrival m s
  | .recvNoticeArrival ep on => Sys2Proof.Machine.execRecvNoticeArrival ep on s
  | .sendReply who op code => Sys2Proof.Machine.execSendReply who op code s
  | .creditReturn ep => Sys2Proof.Machine.execCreditReturn ep s
  | .activeMessage f a => Sys2Proof.Machine.execActiveMessage f a s
  | .remoteReply who op r => Sys2Proof.Machine.execRemoteReply who op r s
  | .fullemptyNotice who op => Sys2Proof.Machine.execFullemptyNotice who op s
  | .fullemptyRetry f a => Sys2Proof.Machine.execFullemptyRetry f a s
  | .splitPhaseReply who op r => Sys2Proof.Machine.execSplitPhaseReply who op r s
  | .shipReply q r => Sys2Proof.Machine.execShipReply q r s
  | .journalAck j op => Sys2Proof.Machine.execJournalAck j op s
  | .postedStoreRefused j op r => Sys2Proof.Machine.execPostedStoreRefused j op r s
  | .postArrival m => Sys2Proof.Machine.execPostArrival m s
  | .patternFire => Sys2Proof.Machine.execPatternFire s
  | .wakeArrival ent job => Sys2Proof.Machine.execWakeArrival ent job s
  | .forkChildCreate c => Sys2Proof.Machine.execForkChildCreate c s
  | .eventWaitArrival m => Sys2Proof.Machine.execEventWaitArrival m s
  | .eventSignalArrival m => Sys2Proof.Machine.execEventSignalArrival m s
  | .eventClearArrival m => Sys2Proof.Machine.execEventClearArrival m s
  | .eventTestArrival m => Sys2Proof.Machine.execEventTestArrival m s
  | .eventReply m test value => Sys2Proof.Machine.execEventReply m test value s
  | .eventOverflowRetry m => Sys2Proof.Machine.execEventOverflowRetry m s
  | .barrierArrival who op job gang => Sys2Proof.Machine.execBarrierArrival who op job gang s
  | .barrierCompletion who op broken => Sys2Proof.Machine.execBarrierCompletion who op broken s
  | .copyElement ch k => Sys2Proof.Machine.execCopyElement ch k s
  | .copyComplete ch => Sys2Proof.Machine.execCopyComplete ch s
  | .copyHalt ch k code addr => Sys2Proof.Machine.execCopyHalt ch k code addr s
  | .copyResend ch => Sys2Proof.Machine.execCopyResend ch s
  | .scheduledFlitDelivery ch k collide => Sys2Proof.Machine.execScheduledFlitDelivery ch k collide s
  | .tilePush ch => Sys2Proof.Machine.execTilePush ch s
  | .tileWriteback ch slot => Sys2Proof.Machine.execTileWriteback ch slot s
  | .mcmdArrival m => Sys2Proof.Machine.execMcmdArrival m s
  | .mcmdResult who slot tag code idx => Sys2Proof.Machine.execMcmdResult who slot tag code idx s
  | .matrixResume => Sys2Proof.Machine.execMatrixResume s
  | .sequencerWord e => Sys2Proof.Machine.execSequencerWord e s
  | .scaleKeeperOp who op index value wr => Sys2Proof.Machine.execScaleKeeperOp who op index value wr s
  | .msclReply who op v => Sys2Proof.Machine.execMsclReply who op v s
  | .trapDelivery => Sys2Proof.Machine.execTrapDelivery s
  | .urgentTaskStart => Sys2Proof.Machine.execUrgentTaskStart s
  | .forcedSave sl => Sys2Proof.Machine.execForcedSave sl s
  | .coreSwitchOut => Sys2Proof.Machine.execCoreSwitchOut s
  | .migrationPlace => Sys2Proof.Machine.execMigrationPlace s
  | .fetchLineFill line bytes code => Sys2Proof.Machine.execFetchLineFill line bytes code s
  | .shapeCacheFill slot bytes code => Sys2Proof.Machine.execShapeCacheFill slot bytes code s
  | .shapeCacheInvalidate slot op => Sys2Proof.Machine.execShapeCacheInvalidate slot op s
  | .jobStart die pool => Sys2Proof.Machine.execJobStart die pool s
  | .jobCompletionCheck job => Sys2Proof.Machine.execJobCompletionCheck job s
  | .statusRecordForward die => Sys2Proof.Machine.execStatusRecordForward die s
  | .admissionResume page => Sys2Proof.Machine.execAdmissionResume page s
  | .envelopeAdmit pkt => Sys2Proof.Machine.execEnvelopeAdmit pkt s
  | .clockUpdate agent rows => Sys2Proof.Machine.execClockUpdate agent rows s
  | .rd8 q => Sys2Proof.Machine.execRd8 q s
  | .rd32 q => Sys2Proof.Machine.execRd32 q s
  | .rd64 q => Sys2Proof.Machine.execRd64 q s
  | .wt8 q => Sys2Proof.Machine.execWt8 q s
  | .wt32 q => Sys2Proof.Machine.execWt32 q s
  | .wt64 q => Sys2Proof.Machine.execWt64 q s
  | .wtm q => Sys2Proof.Machine.execWtm q s
  | .routineAadd q => Sys2Proof.Machine.execRoutineAadd q s
  | .routineAswp q => Sys2Proof.Machine.execRoutineAswp q s
  | .routineAcas q => Sys2Proof.Machine.execRoutineAcas q s
  | .routineAand q => Sys2Proof.Machine.execRoutineAand q s
  | .routineAor q => Sys2Proof.Machine.execRoutineAor q s
  | .routineAxor q => Sys2Proof.Machine.execRoutineAxor q s
  | .routineAmin q => Sys2Proof.Machine.execRoutineAmin q s
  | .routineAmax q => Sys2Proof.Machine.execRoutineAmax q s
  | .routineAminu q => Sys2Proof.Machine.execRoutineAminu q s
  | .routineAmaxu q => Sys2Proof.Machine.execRoutineAmaxu q s
  | .fadd32 q => Sys2Proof.Machine.execFadd32 q s
  | .xacc q => Sys2Proof.Machine.execXacc q s
  | .gath8 q => Sys2Proof.Machine.execGath8 q s
  | .publish q => Sys2Proof.Machine.execPublish q s
  | .fill64 q => Sys2Proof.Machine.execFill64 q s
  | .svcMigrate q => Sys2Proof.Machine.execSvcMigrate q s
  | .svcInval q => Sys2Proof.Machine.execSvcInval q s
  | .svcLoad q => Sys2Proof.Machine.execSvcLoad q s
  | .svcUnload q => Sys2Proof.Machine.execSvcUnload q s
  | .tsvc q => Sys2Proof.Machine.execTsvc q s
  | .loadableRoutine q => Sys2Proof.Machine.execLoadableRoutine q s
  | .tableWalk q => Sys2Proof.Machine.execTableWalk q s
  | .pageCopyComplete m => Sys2Proof.Machine.execPageCopyComplete m s
  | .endMarker m => Sys2Proof.Machine.execEndMarker m s
  | .refreshInterval stack => Sys2Proof.Machine.execRefreshInterval stack s
  | .refresh stack bank => Sys2Proof.Machine.execRefresh stack bank s
  | .rfwinNotice stack len => Sys2Proof.Machine.execRfwinNotice stack len s
  | .creditOrAcknowledgement f => Sys2Proof.Machine.execCreditOrAcknowledgement f s
  | .streamMessage f => Sys2Proof.Machine.execStreamMessage f s
  | .accessRequest f => Sys2Proof.Machine.execAccessRequest f s
  | .accessReply f => Sys2Proof.Machine.execAccessReply f s
  | .writeWithEnqueue f => Sys2Proof.Machine.execWriteWithEnqueue f s
  | .collectiveData f down flags => Sys2Proof.Machine.execCollectiveData f down flags s
  | .collectiveControl f commit down => Sys2Proof.Machine.execCollectiveControl f commit down s
  | .linkDown link => Sys2Proof.Machine.execLinkDown link s
  | .collectiveSubmit block who job => Sys2Proof.Machine.execCollectiveSubmit block who job s
  | .collectiveComplete comm seq => Sys2Proof.Machine.execCollectiveComplete comm seq s
  | .collectiveLimitExpiry comm seq => Sys2Proof.Machine.execCollectiveLimitExpiry comm seq s
  | .collectiveRecordExpiry comm seq => Sys2Proof.Machine.execCollectiveRecordExpiry comm seq s
  | .mailboxIn m w => Sys2Proof.Machine.execMailboxIn m w s
  | .mailboxLp m => Sys2Proof.Machine.execMailboxLp m s
  | .mailboxToken m => Sys2Proof.Machine.execMailboxToken m s
  | .mailboxOut m => Sys2Proof.Machine.execMailboxOut m s
  | .qhsin m w => Sys2Proof.Machine.execQhsin m w s
  | .registerWrite off w => Sys2Proof.Machine.execRegisterWrite off w s
  | .notifyWrite page reg w fromHost => Sys2Proof.Machine.execNotifyWrite page reg w fromHost s
  | .doorbell page n => Sys2Proof.Machine.execDoorbell page n s
  | .hostBar4Access off len data write => Sys2Proof.Machine.execHostBar4Access off len data write s
  | .hostAtomicop off op size a b => Sys2Proof.Machine.execHostAtomicop off op size a b s
  | .switch c => Sys2Proof.Machine.execSwitch c s
  | .restore c => Sys2Proof.Machine.execRestore c s
  | .migrate c => Sys2Proof.Machine.execMigrate c s
  | .abandon c => Sys2Proof.Machine.execAbandon c s
  | .urgent c => Sys2Proof.Machine.execUrgent c s
  | .setpstate c => Sys2Proof.Machine.execSetpstate c s
  | .setcap c => Sys2Proof.Machine.execSetcap c s
  | .settamper c => Sys2Proof.Machine.execSettamper c s
  | .provision c => Sys2Proof.Machine.execProvision c s
  | .lock c => Sys2Proof.Machine.execLock c s
  | .retire c => Sys2Proof.Machine.execRetire c s
  | .release c => Sys2Proof.Machine.execRelease c s
  | .debugchal c => Sys2Proof.Machine.execDebugchal c s
  | .debugopen c => Sys2Proof.Machine.execDebugopen c s
  | .debugend c => Sys2Proof.Machine.execDebugend c s
  | .dbggo c => Sys2Proof.Machine.execDbggo c s
  | .attest c => Sys2Proof.Machine.execAttest c s
  | .fwupdate c => Sys2Proof.Machine.execFwupdate c s
  | .dbgset c => Sys2Proof.Machine.execDbgset c s
  | .setclock c => Sys2Proof.Machine.execSetclock c s
  | .reccfg c => Sys2Proof.Machine.execReccfg c s
  | .counters c => Sys2Proof.Machine.execCounters c s
  | .settable c => Sys2Proof.Machine.execSettable c s
  | .tamperEvent cause island => Sys2Proof.Machine.execTamperEvent cause island s
  | .thermalReduction island => Sys2Proof.Machine.execThermalReduction island s
  | .powerSample watts draws => Sys2Proof.Machine.execPowerSample watts draws s
  | .powerStep => Sys2Proof.Machine.execPowerStep s
  | .scrub core off bad => Sys2Proof.Machine.execScrub core off bad s
  | .bringUp image => Sys2Proof.Machine.execBringUp image s
  | .hschSpinExpiry sl => Sys2Proof.Machine.execHschSpinExpiry sl s
  | .elementCommit sl => Sys2Proof.Machine.execElementCommit sl s
  | .envelopeAcknowledgement src dst n => Sys2Proof.Machine.execEnvelopeAcknowledgement src dst n s
  | .rfwinWindowExpiry stack => Sys2Proof.Machine.execRfwinWindowExpiry stack s

end Sys2Proof.Machine
end

