-- ==== Sys2Proof/Machine/Events.lean ====
section
/-! DEFINITION. The events as packets and the agenda name them: each is the same meaning that exec calls. -/

namespace Sys2Proof.Machine

/-- One event: the meaning of its row. -/
def execEv (e : Ev) (s : State) : Host.Outcome State Fault Refusal :=
  match e with
  | .timerArm t => Sys2Proof.Machine.execTimerArm t s
  | .timerCancel => Sys2Proof.Machine.execTimerCancel s
  | .qscPush w => Sys2Proof.Machine.execQscPush w s
  | .qhsPush w => Sys2Proof.Machine.execQhsPush w s
  | .copyQuery => Sys2Proof.Machine.execCopyQuery s
  | .copyResume => Sys2Proof.Machine.execCopyResume s
  | .copyCancel => Sys2Proof.Machine.execCopyCancel s
  | .engineQuery q => Sys2Proof.Machine.execEngineQuery q s
  | .engineStop q => Sys2Proof.Machine.execEngineStop q s
  | .engineGo q => Sys2Proof.Machine.execEngineGo q s
  | .dispatch => Sys2Proof.Machine.execDispatch s
  | .displacement => Sys2Proof.Machine.execDisplacement s
  | .waitLimit ent => Sys2Proof.Machine.execWaitLimit ent s
  | .timerExpiry ent => Sys2Proof.Machine.execTimerExpiry ent s
  | .timeoutExpiry ent => Sys2Proof.Machine.execTimeoutExpiry ent s
  | .deadLetterProbe ent => Sys2Proof.Machine.execDeadLetterProbe ent s
  | .deadLetterProbeArrival p => Sys2Proof.Machine.execDeadLetterProbeArrival p s
  | .messageArrival m => Sys2Proof.Machine.execMessageArrival m s
  | .recvNoticeArrival ep on => Sys2Proof.Machine.execRecvNoticeArrival ep on s
  | .sendReply who op code => Sys2Proof.Machine.execSendReply who op code s
  | .creditReturn ep => Sys2Proof.Machine.execCreditReturn ep s
  | .activeMessage f a => Sys2Proof.Machine.execActiveMessage f a s
  | .remoteReply who op r => Sys2Proof.Machine.execRemoteReply who op r s
  | .fullemptyNotice who op => Sys2Proof.Machine.execFullemptyNotice who op s
  | .fullemptyRetry f a => Sys2Proof.Machine.execFullemptyRetry f a s
  | .splitPhaseReply who op r => Sys2Proof.Machine.execSplitPhaseReply who op r s
  | .shipReply q r => Sys2Proof.Machine.execShipReply q r s
  | .journalAck j op => Sys2Proof.Machine.execJournalAck j op s
  | .postedStoreRefused j op r => Sys2Proof.Machine.execPostedStoreRefused j op r s
  | .postArrival m => Sys2Proof.Machine.execPostArrival m s
  | .patternFire => Sys2Proof.Machine.execPatternFire s
  | .wakeArrival ent job => Sys2Proof.Machine.execWakeArrival ent job s
  | .forkChildCreate c => Sys2Proof.Machine.execForkChildCreate c s
  | .eventWaitArrival m => Sys2Proof.Machine.execEventWaitArrival m s
  | .eventSignalArrival m => Sys2Proof.Machine.execEventSignalArrival m s
  | .eventClearArrival m => Sys2Proof.Machine.execEventClearArrival m s
  | .eventTestArrival m => Sys2Proof.Machine.execEventTestArrival m s
  | .eventReply m test value => Sys2Proof.Machine.execEventReply m test value s
  | .eventOverflowRetry m => Sys2Proof.Machine.execEventOverflowRetry m s
  | .barrierArrival who op job gang => Sys2Proof.Machine.execBarrierArrival who op job gang s
  | .barrierCompletion who op broken => Sys2Proof.Machine.execBarrierCompletion who op broken s
  | .copyElement ch k => Sys2Proof.Machine.execCopyElement ch k s
  | .copyComplete ch => Sys2Proof.Machine.execCopyComplete ch s
  | .copyHalt ch k code addr => Sys2Proof.Machine.execCopyHalt ch k code addr s
  | .copyResend ch => Sys2Proof.Machine.execCopyResend ch s
  | .scheduledFlitDelivery ch k collide => Sys2Proof.Machine.execScheduledFlitDelivery ch k collide s
  | .tilePush ch => Sys2Proof.Machine.execTilePush ch s
  | .tileWriteback ch slot => Sys2Proof.Machine.execTileWriteback ch slot s
  | .mcmdArrival m => Sys2Proof.Machine.execMcmdArrival m s
  | .mcmdResult who slot tag code idx => Sys2Proof.Machine.execMcmdResult who slot tag code idx s
  | .matrixResume => Sys2Proof.Machine.execMatrixResume s
  | .sequencerWord e => Sys2Proof.Machine.execSequencerWord e s
  | .scaleKeeperOp who op index value wr => Sys2Proof.Machine.execScaleKeeperOp who op index value wr s
  | .msclReply who op v => Sys2Proof.Machine.execMsclReply who op v s
  | .trapDelivery => Sys2Proof.Machine.execTrapDelivery s
  | .urgentTaskStart => Sys2Proof.Machine.execUrgentTaskStart s
  | .forcedSave sl => Sys2Proof.Machine.execForcedSave sl s
  | .coreSwitchOut => Sys2Proof.Machine.execCoreSwitchOut s
  | .migrationPlace => Sys2Proof.Machine.execMigrationPlace s
  | .fetchLineFill line bytes code => Sys2Proof.Machine.execFetchLineFill line bytes code s
  | .shapeCacheFill slot bytes code => Sys2Proof.Machine.execShapeCacheFill slot bytes code s
  | .shapeCacheInvalidate slot op => Sys2Proof.Machine.execShapeCacheInvalidate slot op s
  | .jobStart die pool => Sys2Proof.Machine.execJobStart die pool s
  | .jobCompletionCheck job => Sys2Proof.Machine.execJobCompletionCheck job s
  | .statusRecordForward die => Sys2Proof.Machine.execStatusRecordForward die s
  | .admissionResume page => Sys2Proof.Machine.execAdmissionResume page s
  | .envelopeAdmit pkt => Sys2Proof.Machine.execEnvelopeAdmit pkt s
  | .clockUpdate agent rows => Sys2Proof.Machine.execClockUpdate agent rows s
  | .rd8 q => Sys2Proof.Machine.execRd8 q s
  | .rd32 q => Sys2Proof.Machine.execRd32 q s
  | .rd64 q => Sys2Proof.Machine.execRd64 q s
  | .wt8 q => Sys2Proof.Machine.execWt8 q s
  | .wt32 q => Sys2Proof.Machine.execWt32 q s
  | .wt64 q => Sys2Proof.Machine.execWt64 q s
  | .wtm q => Sys2Proof.Machine.execWtm q s
  | .routineAadd q => Sys2Proof.Machine.execRoutineAadd q s
  | .routineAswp q => Sys2Proof.Machine.execRoutineAswp q s
  | .routineAcas q => Sys2Proof.Machine.execRoutineAcas q s
  | .routineAand q => Sys2Proof.Machine.execRoutineAand q s
  | .routineAor q => Sys2Proof.Machine.execRoutineAor q s
  | .routineAxor q => Sys2Proof.Machine.execRoutineAxor q s
  | .routineAmin q => Sys2Proof.Machine.execRoutineAmin q s
  | .routineAmax q => Sys2Proof.Machine.execRoutineAmax q s
  | .routineAminu q => Sys2Proof.Machine.execRoutineAminu q s
  | .routineAmaxu q => Sys2Proof.Machine.execRoutineAmaxu q s
  | .fadd32 q => Sys2Proof.Machine.execFadd32 q s
  | .xacc q => Sys2Proof.Machine.execXacc q s
  | .gath8 q => Sys2Proof.Machine.execGath8 q s
  | .publish q => Sys2Proof.Machine.execPublish q s
  | .fill64 q => Sys2Proof.Machine.execFill64 q s
  | .svcMigrate q => Sys2Proof.Machine.execSvcMigrate q s
  | .svcInval q => Sys2Proof.Machine.execSvcInval q s
  | .svcLoad q => Sys2Proof.Machine.execSvcLoad q s
  | .svcUnload q => Sys2Proof.Machine.execSvcUnload q s
  | .tsvc q => Sys2Proof.Machine.execTsvc q s
  | .loadableRoutine q => Sys2Proof.Machine.execLoadableRoutine q s
  | .tableWalk q => Sys2Proof.Machine.execTableWalk q s
  | .pageCopyComplete m => Sys2Proof.Machine.execPageCopyComplete m s
  | .endMarker m => Sys2Proof.Machine.execEndMarker m s
  | .refreshInterval stack => Sys2Proof.Machine.execRefreshInterval stack s
  | .refresh stack bank => Sys2Proof.Machine.execRefresh stack bank s
  | .rfwinNotice stack len => Sys2Proof.Machine.execRfwinNotice stack len s
  | .creditOrAcknowledgement f => Sys2Proof.Machine.execCreditOrAcknowledgement f s
  | .streamMessage f => Sys2Proof.Machine.execStreamMessage f s
  | .accessRequest f => Sys2Proof.Machine.execAccessRequest f s
  | .accessReply f => Sys2Proof.Machine.execAccessReply f s
  | .writeWithEnqueue f => Sys2Proof.Machine.execWriteWithEnqueue f s
  | .collectiveData f down flags => Sys2Proof.Machine.execCollectiveData f down flags s
  | .collectiveControl f commit down => Sys2Proof.Machine.execCollectiveControl f commit down s
  | .linkDown link => Sys2Proof.Machine.execLinkDown link s
  | .collectiveSubmit block who job => Sys2Proof.Machine.execCollectiveSubmit block who job s
  | .collectiveComplete comm seq => Sys2Proof.Machine.execCollectiveComplete comm seq s
  | .collectiveLimitExpiry comm seq => Sys2Proof.Machine.execCollectiveLimitExpiry comm seq s
  | .collectiveRecordExpiry comm seq => Sys2Proof.Machine.execCollectiveRecordExpiry comm seq s
  | .mailboxIn m w => Sys2Proof.Machine.execMailboxIn m w s
  | .mailboxLp m => Sys2Proof.Machine.execMailboxLp m s
  | .mailboxToken m => Sys2Proof.Machine.execMailboxToken m s
  | .mailboxOut m => Sys2Proof.Machine.execMailboxOut m s
  | .qhsin m w => Sys2Proof.Machine.execQhsin m w s
  | .registerWrite off w => Sys2Proof.Machine.execRegisterWrite off w s
  | .notifyWrite page reg w fromHost => Sys2Proof.Machine.execNotifyWrite page reg w fromHost s
  | .doorbell page n => Sys2Proof.Machine.execDoorbell page n s
  | .hostBar4Access off len data write => Sys2Proof.Machine.execHostBar4Access off len data write s
  | .hostAtomicop off op size a b => Sys2Proof.Machine.execHostAtomicop off op size a b s
  | .switch c => Sys2Proof.Machine.execSwitch c s
  | .restore c => Sys2Proof.Machine.execRestore c s
  | .migrate c => Sys2Proof.Machine.execMigrate c s
  | .abandon c => Sys2Proof.Machine.execAbandon c s
  | .urgent c => Sys2Proof.Machine.execUrgent c s
  | .setpstate c => Sys2Proof.Machine.execSetpstate c s
  | .setcap c => Sys2Proof.Machine.execSetcap c s
  | .settamper c => Sys2Proof.Machine.execSettamper c s
  | .provision c => Sys2Proof.Machine.execProvision c s
  | .lock c => Sys2Proof.Machine.execLock c s
  | .retire c => Sys2Proof.Machine.execRetire c s
  | .release c => Sys2Proof.Machine.execRelease c s
  | .debugchal c => Sys2Proof.Machine.execDebugchal c s
  | .debugopen c => Sys2Proof.Machine.execDebugopen c s
  | .debugend c => Sys2Proof.Machine.execDebugend c s
  | .dbggo c => Sys2Proof.Machine.execDbggo c s
  | .attest c => Sys2Proof.Machine.execAttest c s
  | .fwupdate c => Sys2Proof.Machine.execFwupdate c s
  | .dbgset c => Sys2Proof.Machine.execDbgset c s
  | .setclock c => Sys2Proof.Machine.execSetclock c s
  | .reccfg c => Sys2Proof.Machine.execReccfg c s
  | .counters c => Sys2Proof.Machine.execCounters c s
  | .settable c => Sys2Proof.Machine.execSettable c s
  | .tamperEvent cause island => Sys2Proof.Machine.execTamperEvent cause island s
  | .thermalReduction island => Sys2Proof.Machine.execThermalReduction island s
  | .powerSample watts draws => Sys2Proof.Machine.execPowerSample watts draws s
  | .powerStep => Sys2Proof.Machine.execPowerStep s
  | .scrub core off bad => Sys2Proof.Machine.execScrub core off bad s
  | .bringUp image => Sys2Proof.Machine.execBringUp image s
  | .hschSpinExpiry sl => Sys2Proof.Machine.execHschSpinExpiry sl s
  | .elementCommit sl => Sys2Proof.Machine.execElementCommit sl s
  | .envelopeAcknowledgement src dst n => Sys2Proof.Machine.execEnvelopeAcknowledgement src dst n s
  | .rfwinWindowExpiry stack => Sys2Proof.Machine.execRfwinWindowExpiry stack s

end Sys2Proof.Machine
end

