-- ==== Sys2Proof/Machine/Schedule.lean ====
section
/-! DEFINITION. Whose turn is next: the agenda that timing and the outside give, and without one the order of 01 R16
for issue, with the pending work of the machine between (log entry 5). -/

namespace Sys2Proof.Machine

/-! Issue (01 R14, R16). -/

/-- Whether a slot holds code to run (01 R14). -/
def Core.holds (c : Core) (i : Fin 8) : Bool :=
  if i.val < 6 then c.slots[i].ent.isSome else c.slots[i].busy

/-- Whether the slot waits for its own next instruction only. -/
def Core.idleIssue (c : Core) (i : Fin 8) : Bool :=
  c.holds i && c.slots[i].fib.wait.isNone && c.slots[i].run.isNone && !c.halted

/-- A slot that is ready to issue in a cycle (R16): no instruction and no swap occupies it (04 R117; R17), and none that has issued
stalls in it. -/
def Core.readySlot (c : Core) (i : Fin 8) (now : Nat) : Bool := c.idleIssue i && c.slots[i].stall.isNone && !c.occupied i now

/-- A slot whose instruction has issued and stalls. -/
def Core.stalledSlot (c : Core) (i : Fin 8) : Bool := c.idleIssue i && c.slots[i].stall.isSome

/-- Slots 0 to 5 in rotation after the last of them to issue. -/
def Core.rotation (c : Core) : List (Fin 8) :=
  [1, 2, 3, 4, 5, 6].map fun k => Fin.ofNat 8 ((c.lastIssue + k) % 6)

/-- The issue choice of R16 in a cycle of the core. -/
def Core.choose (c : Core) (now : Nat) : Option (Fin 8) :=
  if c.readySlot 7 now then some 7
  else if c.readySlot 6 now && decide ((c.recent6.filter fun t => decide (now ≤ t + 7)).length < 2) then some 6
  else
    match c.rotation.find? fun i => c.readySlot i now with
    | some i => some i
    | none => if c.readySlot 6 now then some 6 else none

/-- The slot in turn issues in this cycle, unless its instruction has issued and stalls: the memory of R16 takes note. -/
def State.noteIssue (s : State) : State :=
  let c := s.core
  if !c.readySlot s.sid s.coreCycles then s else
  { s with core := { c with lastIssue := if s.sid.val < 6 then s.sid.val else c.lastIssue, issued := some s.coreCycles,
                            recent6 := if s.sid.val = 6 then (s.coreCycles :: c.recent6).take 2 else c.recent6 } }

/-- The slot of the core in turn that may issue: while the module is about to stop its clocks, one with a resident fibre (16 R437). -/
def State.choice (s : State) : Option (Fin 8) :=
  if s.mgmt.goal.isSome then s.core.rotation.find? fun i => s.core.readySlot i s.coreCycles else s.core.choose s.coreCycles

/-- The slot that goes on in a turn that names one: a slot that competes for issue gives way to the choice of R16. -/
def State.chosen (s : State) (i : Fin 8) : Fin 8 :=
  if s.core.readySlot i s.coreCycles then s.choice.getD i else i

/-- Whether a core has issued in the present cycle of its own (R16). -/
def State.hasIssued (s : State) : Bool := s.core.issued == some s.coreCycles

/-- Whether an event comes about by the arrival of a packet alone. -/
def packetOnly : Ev → Bool
  | .messageArrival _ | .recvNoticeArrival _ _ | .sendReply _ _ _ | .creditReturn _ | .activeMessage _ _ | .fullemptyNotice _ _
  | .fullemptyRetry _ _ | .shipReply _ _ | .journalAck _ _ | .postedStoreRefused _ _ _ | .postArrival _ | .wakeArrival _ _
  | .forkChildCreate _ | .eventWaitArrival _ | .eventSignalArrival _ | .eventClearArrival _ | .eventTestArrival _
  | .eventReply _ _ _ | .eventOverflowRetry _ | .barrierArrival _ _ _ _ | .barrierCompletion _ _ _ | .deadLetterProbeArrival _
  | .mcmdArrival _ | .mcmdResult _ _ _ _ _ | .scaleKeeperOp _ _ _ _ _ | .msclReply _ _ _ | .fetchLineFill _ _ _
  | .shapeCacheFill _ _ _ | .shapeCacheInvalidate _ _ | .clockUpdate _ _ | .envelopeAcknowledgement _ _ _
  | .collectiveSubmit _ _ _ | .remoteReply _ _ _ | .splitPhaseReply _ _ _ => true
  | e => (requestOf e).isSome

/-! What may happen next. -/

/-- Something that may happen: the core and slot in turn for it, the event (none: the slot goes on with its instruction)
and the packet it takes from the network. -/
structure Work where
  core : Nat
  slot : Fin 8
  ev : Option Ev
  pkt : Option Nat

def State.workAt (s : State) (slot : Fin 8) (ev : Option Ev) : Work := ⟨s.cid, slot, ev, none⟩

/-- An element of a list, by a number. -/
def pick {α : Type} (n : Nat) (l : List α) : Option α := if l.isEmpty then none else l[n % l.length]?

/-- The dispatcher, slot 7 and slot 6 of the core in turn; a core that is switched out serves slot 7 alone (13 R376). -/
def State.hardwareWork (s : State) : Option Ev :=
  let c := s.core
  let active := match c.amq with
    | (f, a) :: _ => if c.slot6Busy || c.accessStall s.cid (a.addr.toNat % 65536) a then none else some (Ev.activeMessage f a)
    | [] => none
  if c.halted then none
  else if s.mgmt.goal.isSome then (if c.saved then none else active)
  else if c.slot7Free && !c.traps.isEmpty then some .trapDelivery
  else if c.slot7Free && !c.utasks.isEmpty then some .urgentTaskStart
  else if c.slots[(7 : Fin 8)].paused && !c.slots[(7 : Fin 8)].busy then some .matrixResume
  else if c.saved then none
  else if (c.freeSlot? s.coreCycles).isSome && !s.readyFibres.isEmpty then some .dispatch
  else if s.displaced?.isSome then some .displacement
  else active

/-- Whether the module is about to stop its clocks and no fibre is resident in the core in turn any more (16 R437; 13 R375 step 2). -/
def State.stopping (s : State) : Bool := s.mgmt.goal.isSome && ordinary.all fun i => s.core.slots[i].ent.isNone

/-- Whether the engines and elements of the core in turn go on. -/
def State.enginesRun (s : State) : Bool := !s.core.halted && !s.stopping && (!s.core.saved || s.core.slots[(7 : Fin 8)].busy)

/-- The next element of a slot, where one may commit in this cycle. -/
def State.elementWork (s : State) (i : Fin 8) : Option Ev :=
  let c := s.core
  let due := c.slots[i].run.isSome && !c.occupied i s.coreCycles
  if s.enginesRun && (due || (i.val == 6 && (c.mcmdRun.isSome || !c.mcmds.isEmpty))) then some (.elementCommit i) else none

/-- The next word of a sequencer, where one may go on in this cycle. -/
def State.sequenceWork (s : State) (e : Eng) : Option Ev :=
  if s.enginesRun && (s.seq e).running && !(s.seq e).stopped && decide ((s.seq e).ready ≤ s.coreCycles) then some (.sequencerWord e)
  else none

/-- Whether a slot of the core in turn re-evaluates: it stalls, or has a trap to take at its boundary. -/
def State.retries (s : State) (i : Fin 8) : Bool :=
  let m := s.core.slots[i]
  (s.mgmt.goal.isNone || decide (i.val < 6)) && (s.core.stalledSlot i ||
    (decide (i.val < 6) && m.ent.isSome && !m.fib.pend.isEmpty && (m.run.isSome || m.fib.wait.isSome)))

/-- The cores that are not at reset, from the one after the core in turn to that one itself. -/
def State.coreOrder (s : State) : List Nat :=
  let l := s.others.map fun c => c.1
  (l.filter fun c => decide (c > s.cid)) ++ (l.filter fun c => decide (c < s.cid)) ++ [s.cid]

/-! The network and the agents beside the cores. -/

/-- The packets that may be admitted, and those that may be delivered. -/
def State.netWork (s : State) : List Work :=
  s.net.filterMap fun p =>
    if s.admissible p then some ⟨s.cid, s.sid, some (.envelopeAdmit p.num), none⟩
    else if s.deliverable p then some ⟨if p.dst < 20000 then p.dst else s.cid, if p.dst < 20000 then 0 else s.sid, some p.ev, some p.num⟩
    else none

/-- The event of a command by its OP; a reserved one is refused by any. -/
def cmdEv (op : Nat) (c : Cmd) : Ev :=
  match op with
  | 0x01 => .switch c
  | 0x02 => .restore c
  | 0x03 => .migrate c
  | 0x04 => .abandon c
  | 0x05 => .urgent c
  | 0x10 => .setpstate c
  | 0x11 => .setcap c
  | 0x12 => .settamper c
  | 0x20 => .provision c
  | 0x21 => .lock c
  | 0x22 => .retire c
  | 0x23 => .release c
  | 0x24 => .debugchal c
  | 0x25 => .debugopen c
  | 0x26 => .debugend c
  | 0x27 => .dbggo c
  | 0x28 => .attest c
  | 0x29 => .fwupdate c
  | 0x2A => .dbgset c
  | 0x30 => .setclock c
  | 0x31 => .reccfg c
  | 0x32 => .counters c
  | _ => .settable c

/-- The next management command, or the power state that one under way waits for. -/
def State.commandWork (s : State) : List Work :=
  match s.mgmt.waiting, s.mgmt.cmds with
  | c :: _, _ => if s.mgmt.goal.isSome then [s.workAt s.sid (some (.setpstate c))] else []
  | [], c :: _ => [s.workAt s.sid (some (cmdEv ((s.cmdOp c).getD 0) c))]
  | [], [] => []

/-- What time brings to fibre e of the core in turn. -/
def State.timeWork (s : State) (e : Nat) (f : Fibre) : List Ev :=
  let stalled := match s.core.slotOf? e with
    | some i => (match s.core.slots[i].stall with
      | some t => f.wait.isNone && e != 257 && !({ s with sid := i }).uncountedStall && s.overLimit f.ctx t
      | none => false)
    | none => false
  let limit := match f.wait with
    | some w => !timed w.kind && e != 257 && !w.limitHit && s.overLimit f.ctx w.since
    | none => stalled
  let due := match f.wait with
    | some w => s.expired w.due
    | none => false
  let probe := match s.core.channelWait e, f.wait with
    | some _, some w => !w.probed && w.thr != 0 && decide (s.now > w.since + w.thr) && (s.dies[Fin.ofNat 8 s.die]).dlprobe != 0
    | _, _ => false
  (if limit then [Ev.waitLimit e] else []) ++ (if due then [Ev.timeoutExpiry e] else []) ++
    (if (s.timersDue e f).isEmpty then [] else [Ev.timerExpiry e]) ++ (if probe then [Ev.deadLetterProbe e] else [])

/-- The same for every fibre of the core in turn, and the holds of HSCH. -/
def State.timersWork (s : State) : List Work :=
  let res := eachSlot.filterMap fun i => if s.core.holds i then some (entOf i s.core.slots[i], s.core.slots[i].fib) else none
  (((res ++ s.core.runq).flatMap fun x => s.timeWork x.1 x.2).map fun e => s.workAt 0 (some e)) ++
    eachSlot.filterMap fun i => match s.core.slots[i].spin with
      | some t => if s.coreCycles ≥ t ∧ (s.core.slots[i].fib.wait.isSome || s.core.slots[i].stall.isSome) = true then some (s.workAt i (some (.hschSpinExpiry i))) else none
      | none => none

/-- What a channel of the core in turn does next. -/
def State.channelWork (s : State) (i : Fin 8) : Option Ev :=
  let x := s.core.channels[i]
  if !x.busy || x.halted then none
  else if x.subscr then
    match x.back with
    | b :: _ => some (.tileWriteback i b.1)
    | [] => if x.next < x.elems then some (.tilePush i) else if x.full.isEmpty then some (.copyComplete i) else none
  else if !x.pend.isEmpty then some (.copyResend i)
  else if x.next = x.elems then (if x.flight.isEmpty && x.flush.all (fun f => f.2) then some (.copyComplete i) else none)
  else
    let n := x.above.length + x.flight.length + 1
    let ks := if x.overlap then [if x.down then x.elems - 1 - x.next else x.next] else (List.range n).map fun k => x.next + k
    (ks.find? fun k => x.mayGo k).map fun k => if x.sched.isSome then .scheduledFlitDelivery i k none else .copyElement i k

/-- The event of an engine queue's head command. -/
def engEv (w : DWord) (q : EngQ) : Ev :=
  match bits w 0 4 with
  | 1 => .engineStop q
  | 2 => .engineGo q
  | _ => .engineQuery q

def copyEv (w : DWord) : Ev :=
  match bits w 0 4 with
  | 1 => .copyResume
  | 2 => .copyCancel
  | _ => .copyQuery

/-- The engines of the core in turn: channels, engine queues. -/
def State.engineWork (s : State) : List Work :=
  let c := s.core
  let qs := ([EngQ.mx, EngQ.vx, EngQ.ac].filterMap fun q => (c.engQueue q).cmds.head?.map fun w => engEv w.1 q) ++
    (c.qcp.cmds.head?.map fun w => copyEv w.1).toList
  let chans := if s.stopping then [] else eachSlot.filterMap s.channelWork
  (qs ++ chans).map fun e => s.workAt 0 (some e)

/-- Switches at the core in turn. -/
def State.switchWork (s : State) : List Work :=
  match s.core.job.bind s.jobs.get? with
  | none => []
  | some j =>
    if j.switching.isNone then []
    else if s.maySave then [s.workAt 0 (some .coreSwitchOut)]
    else ordinary.filterMap fun i =>
      let m := s.core.slots[i]
      if m.atBoundary s.coreCycles && s.tooLong m then some (s.workAt i (some (.forcedSave i)))
      else if m.ent.isSome && m.run.isSome then some (s.workAt i none)
      else none

/-- Launchers, records, pages, migrations, collectives, stacks. -/
def State.dieWork (s : State) : List Work :=
  let at0 (e : Ev) : Work := s.workAt s.sid (some e)
  let jobs := (List.range 8).flatMap fun d =>
    ((s.dieOf d).pool.map fun p => Ev.jobStart d p.idx) ++ (if (s.dieOf d).status.isEmpty then [] else [Ev.statusRecordForward d])
  let checks := s.jobs.filterMap fun j =>
    if (j.2.sinks.all fun k => k.2.2) && j.2.switching.isNone && j.2.switched.isNone then some (Ev.jobCompletionCheck j.1) else none
  let pages := s.host.pages.filterMap fun p => if p.2.target.isSome then some (Ev.admissionResume p.1) else none
  let mig := (if s.mgmt.migrating.isSome then [Ev.migrationPlace] else []) ++
    s.migrations.filterMap fun m => if m.copied then none else some (Ev.pageCopyComplete m.num)
  let colls := s.office.colls.filterMap fun c =>
    if c.state = 0 ∧ c.decided.isNone = true ∧ c.asked = false ∧ s.now ≥ c.start + c.limit * 1000 then some (Ev.collectiveLimitExpiry c.comm c.seq)
    else if c.state ≠ 0 ∧ s.now ≥ c.start + 2 * c.limit * 1000 then some (Ev.collectiveRecordExpiry c.comm c.seq)
    else none
  let wins := eachSlot.filterMap fun k => match (s.hbm[k]).window with
    | some t => if s.now ≥ t then some (Ev.rfwinWindowExpiry k) else none
    | none => none
  (jobs ++ checks ++ pages ++ mig ++ colls ++ wins).map at0

/-- The core whose slow work is looked at in this turn. -/
def State.probeCore (s : State) : State :=
  match pick (s.cycle / 64) s.coreOrder with
  | some c => s.focus c 0
  | none => s

/-- The work beside the cores' own, by its kind. -/
def State.sideWork (s : State) (kind : Nat) : List Work :=
  match kind with
  | 0 | 2 | 4 => s.netWork
  | 1 => s.commandWork
  | 3 => s.probeCore.timersWork
  | 5 => s.probeCore.engineWork
  | 6 => s.probeCore.switchWork
  | _ => s.dieWork

/-- The first kind of side work that has some, from one on (structural on a count of kinds). -/
def State.anySide (s : State) : Nat → Nat → Option Work
  | 0, _ => none
  | n + 1, k =>
    match pick (s.cycle / 64) (s.sideWork (k % 8)) with
    | some w => some w
    | none => s.anySide n (k + 1)

/-! What waits for room is tested again. -/

/-- The full/empty waiters of the core in turn, its entries that hold a message and its fibres in replay. -/
def State.settleCore (s : State) : State :=
  let s := (s.core.waiters.map fun w => w.2.addr.toNat % 65536).eraseDups.foldl (fun t off => State.retest 33 t off) s
  let s := (s.core.endpoints.filter fun e => e.2.valid && e.2.ready).foldl (fun t e => t.resolveEntry e.1) s
  (s.core.runq.filter fun e => s.recMode e.2 == 2).foldl (fun t e => State.replayArrivals 64 t e.1) s

/-- The same of one core in each turn, and of the mailboxes with waiting senders and records, of the requests of the host and of the frames
that wait. -/
def State.settle (s : State) : State :=
  let s := s.host.waiting.foldl (fun t w => t.wakeSender w.1) s
  let s := s.host.letters.foldl (fun t l => State.sendLetters t.host.letters.length t l.1) s
  let s := (State.retryHost s.host.kept.length s).retryFrames
  match pick (s.cycle / 8) s.coreOrder with
  | some c => s.onCore c State.settleCore
  | none => s

/-! The start of a cycle. -/

/-- Whether the ports and patterns of a core have something to do. -/
def Core.portsBusy (c : Core) : Bool :=
  !c.saved && !c.halted && ((c.ports.any fun p => !p.2.waiting.isEmpty) || c.rows.any fun r => r.2.en)

/-- The pattern unit of the core in turn, ahead of everything else in the cycle (07 R232): the changes of the cycle before are
applied, with the posts that they let in, the rows evaluated and at most one fired. -/
def State.portCycle (s : State) : State := s.settlePorts.evaluate

/-- Whether the clocks run: nothing of the cores goes on otherwise (16 R428, R437). -/
def State.awake (s : State) : Bool := s.mgmt.power == .active

/-- The pattern units of the cores for which a cycle of their own begins (00 R1). -/
def State.patterns (s : State) : State :=
  if s.awake then
    (s.coreOrder.filter fun c => s.ticks c && (s.coreAt c).portsBusy).foldl (fun t c => t.onCore c State.portCycle) s
  else s

/-- The stalled slots of a core, which re-evaluate in each of its cycles (R16). -/
def State.retryActs (s : State) (c : Nat) : List Todo :=
  let t := s.focus c 0
  (eachSlot.filter fun i => t.retries i).map fun i => ⟨c, .retry i⟩

/-- What else a core may do in a cycle of its own: its elements, its sequencers, its hardware, and one issue. -/
def coreActs (c : Nat) : List Todo :=
  (eachSlot.map fun i => ⟨c, .element i⟩) ++ ([Eng.mat, Eng.vec, Eng.cpy].map fun e => ⟨c, .sequence e⟩) ++
    List.replicate 8 ⟨c, .hardware⟩ ++ [⟨c, .issue⟩]

/-- What is to come in a cycle: in each core whose own cycle begins the slots that re-evaluate, then, where no agenda says what happens,
the rest of each core and one piece of side work. -/
def State.cycleActs (s : State) : List Todo :=
  let cores := if s.mgmt.power = .active then s.coreOrder.filter fun c => s.ticks c else []
  (cores.flatMap fun c => s.retryActs c) ++ (if s.agenda.isEmpty then (cores.flatMap coreActs) ++ [⟨s.cid, .side⟩] else [])

/-- The end of bring-up (16 R445 step 6): MGMTSTATE reports READY once the commands submitted before are executed. -/
def State.reportReady (s : State) : State :=
  if s.mgmt.verified && s.mgmt.power == .active && !s.mgmt.ready && s.mgmt.cmds.isEmpty && s.mgmt.waiting.isEmpty then
    { s with mgmt := { s.mgmt with ready := true } }
  else s

/-- A module cycle begins: results that are due are written (04 R117), the pattern units act, packets that had to wait at their
senders and whatever waits for room are tested again, and what else is to come in the cycle is listed. -/
def State.newCycle (s : State) : State :=
  let s := (s.tick 1).reportReady.patterns
  let s := s.stampHeld s.net
  let s := if s.cycle % 8 = 0 ∧ s.awake then s.settle else s
  { s with acts := s.cycleActs }

/-! The machine's own turn. -/

/-- What a turn comes to: time passes, a slot goes on with its instruction, or an event takes place. -/
inductive NextTurn where
  | idle (s : State)
  | issue (s : State)
  | event (s : State) (e : Ev)

/-- The turn of a piece of work. -/
def State.takeWork (s : State) (w : Work) : NextTurn :=
  let s := match w.pkt with
    | some n => s.dropPacket n
    | none => s
  let s := s.focus w.core w.slot
  match w.ev with
  | some e => .event s e
  | none => .issue s

/-- What one of the things to come in a cycle comes to: nothing where it is not so. -/
def State.act (s : State) (a : Todo) : Option NextTurn :=
  let t := s.focus a.core 0
  match a.kind with
  | .retry i => if t.retries i then some (.issue { t with sid := i }) else none
  | .element i => (t.elementWork i).map fun e => .event { t with sid := i } e
  | .sequence e => (t.sequenceWork e).map fun e => .event t e
  | .hardware => t.hardwareWork.map fun e => .event t e
  | .issue =>
    if t.hasIssued then none
    else t.choice.map fun i => .issue ({ t with sid := i } : State).noteIssue
  | .side =>
    if s.mgmt.power ≠ .active then s.commandWork.head?.map fun w => s.takeWork w
    else (s.anySide 8 (s.cycle / 8)).map fun w => s.takeWork w

/-- The first of the things to come that comes to something; the rest is still to come. -/
def State.firstAct (s : State) : List Todo → Option NextTurn
  | [] => none
  | a :: rest =>
    match ({ s with acts := rest }).act a with
    | some r => some r
    | none => s.firstAct rest

/-- Whether a thing to come takes place whatever the agenda says. -/
def Todo.isRetry (a : Todo) : Bool :=
  match a.kind with
  | .retry _ => true
  | _ => false

/-- Whether an event can take place while the clocks are stopped: a management command, a host write of a register of BAR0, which may
submit one, bring-up, a tamper event (16 R428, R434, R437). -/
def anyPower : Ev → Bool
  | .switch _ | .restore _ | .migrate _ | .abandon _ | .urgent _ | .setpstate _ | .setcap _ | .settamper _ | .provision _ | .lock _
  | .retire _ | .release _ | .debugchal _ | .debugopen _ | .debugend _ | .dbggo _ | .attest _ | .fwupdate _ | .dbgset _ | .setclock _
  | .reccfg _ | .counters _ | .settable _ | .registerWrite _ _ | .bringUp _ | .tamperEvent _ _ => true
  | _ => false

/-- Whether the agenda's next turn is a tamper event, or the power-on that ends a HALT (16 R434). -/
def State.tamperDue (s : State) : Bool :=
  match s.agenda with
  | t :: _ =>
    match t.ev with
    | some (.tamperEvent _ _) => true
    | some (.bringUp _) => true
    | _ => false
  | [] => false

/-- Whether an element or a sequenced word that the agenda names has to wait for its cycle. -/
def State.elementWaits (s : State) (e : Ev) : Bool :=
  match e with
  | .elementCommit i => s.core.slots[i].run.isSome && decide (s.coreCycles < s.core.slots[i].ready)
  | .sequencerWord e => (s.seq e).running && decide (s.coreCycles < (s.seq e).ready)
  | _ => false

/-- The number of a request to the host that an event of the outside world completes (15 R407): one that has left and has no completion
under way. -/
def State.completes (s : State) (e : Ev) : Option Who :=
  match answersOf e with
  | none => none
  | some (w, op) =>
    let asked := s.outside.any fun o => match o with
      | .pcieRead _ _ _ n => n == op
      | .pcieAtomic _ _ _ _ _ n => n == op
      | _ => false
    if asked && !(s.net.any fun p => (answersOf p.ev).map (fun x => x.2) == some op) then some w else none

/-- A completion of the host enters at the host die and goes to the core, or to the Sorting Office, that asked. -/
def State.completion (s : State) (e : Ev) : State :=
  match s.completes e with
  | some w => s.sendFrom hostDst w.core none [] none e
  | none => s

/-- The turn a Turn names, when the cycles before it have passed. An issue waits until its core may issue again and its slot is free;
a packet arrives only where one may be delivered (10 R314); what cannot be is left out. -/
def State.takeTurn (s : State) (t : Turn) (rest : List Turn) : NextTurn :=
  let left : State := { s with agenda := rest }
  let u := left.focus t.core t.slot
  match t.ev with
  | none =>
    if s.mgmt.power ≠ .active then .idle left
    else if u.core.readySlot t.slot u.coreCycles && u.hasIssued || u.core.idleIssue t.slot && decide (u.coreCycles < u.me.ready) then
      .idle s.newCycle
    else .issue ({ u with sid := u.chosen t.slot } : State).noteIssue
  | some e =>
    if s.mgmt.power ≠ .active && !anyPower e then .idle left
    else if packetOnly e then
      match left.net.find? fun p => p.ev == e && left.deliverable p with
      | some p => .event (u.dropPacket p.num) e
      | none => .idle (left.completion e)
    else if u.elementWaits e then .idle s.newCycle
    else .event u e

/-- The next turn: a slot that re-evaluates in this cycle; else the agenda's; else what else is to come in the cycle; else the next
cycle begins. -/
def State.nextTurn (s : State) : NextTurn :=
  match s.agenda with
  | t :: rest =>
    match s.firstAct (s.acts.filter Todo.isRetry) with
    | some r => r
    | none =>
      let s := { s with acts := [] }
      if t.pass = 0 then s.takeTurn t rest
      else .idle ({ s with agenda := { t with pass := t.pass - 1 } :: rest }).newCycle
  | [] => (s.firstAct s.acts).getD (.idle s.newCycle)

end Sys2Proof.Machine
end

