-- ==== Sys2Proof/Machine/Step.lean ====
section
/-! DEFINITION. One step of the module, and the placement of a word where the next step fetches. -/

namespace Sys2Proof.Machine

/-- One turn: time passes; an event is performed whole; or a slot goes on: it fetches at its PC and executes the instruction, which
occupies it for its cycles (04 R117). -/
def stepTurn (r : NextTurn) : Host.Outcome State Fault Refusal :=
  match r with
  | .idle s => .next s
  | .event s e => execEv e s
  | .issue s =>
    match s.fetch with
    | .run i t => exec i (t.occupying i)
    | .whole t => .next t

/-- One step: the next turn of the module; after a tamper HALT or ERASE there is none until the module is powered on again, but for
further tamper events (16 R434). -/
def step (s : State) : Host.Outcome State Fault Refusal :=
  if s.mgmt.halted && !s.tamperDue then .fault .moduleHalted else stepTurn s.nextTurn

/-- Where withFetchWord places its word: the start of the DRAM window. -/
def probeAt : Nat := 0x100000000000

/-- The word that follows a placed word: one that a hint may stand before, else ADDI z, z, 0. -/
def probeNext (w : Word) : Word :=
  if isHintWord w && hintKind w == 3 then
    if w.getLsbD 6 then (encode (.acas .rlx .b8 (.p 0) (.p 0) (.p 2))).getD 0
    else (encode (.fadd .d .z .z .z)).getD 0
  else (encode (.addi .z .z 0)).getD 0

/-- The fetch line with a word at its start. -/
def probeLine (w : Word) : List Byte :=
  (leBytes w.toNat 4 ++ leBytes (probeNext w).toNat 4) ++
    ((List.replicate 14 ((encode (.addi .z .z 0)).getD 0)).flatMap fun x => leBytes x.toNat 4)

/-- A job whose code image is the probe's line: what a launch leaves in the tables for one fibre (log entry 6). -/
def probeJob : Job :=
  { num := 0, die := 0, pool := 0, record := 0, x0 := 0, y0 := 0, wm1 := 0, hm1 := 0, widths := [0, 0, 0, 0, 0, 0],
    det := false, orf := 0, recm := 0, pri := 7, evbase := 0, evcount := 65536, codebase := probeAt, codelen := 64,
    shapebase := probeAt, shapecnt := 0, sched := [], ownerq := 0, cpladdr := 0, sinks := [], gangs := [],
    sent := Vector.replicate 8 0, consumed := Vector.replicate 8 0, subs := 0, coll := 0, rech := 0, start := 0, faulted := false,
    switching := none, switched := none, saved := [], maxDbg := 0 }

/-- The state with a word where the next step fetches: the slot in turn (slot 0 for the resident slots) holds a
RUNNING fibre of a job at the word, which stands in the core's fetch buffer, and that slot has the next turn, in this cycle, and is
the one that issues (01 R16). -/
def State.withFetchWord (s : State) (_nbits w : Nat) : State :=
  let i : Fin 8 := if s.sid.val < 6 then s.sid else 0
  let m := s.core.slots[i]
  let ctx := { m.fib.ctx.inState stRunning 0 with pc := BitVec.ofNat 48 probeAt }
  let m := { m with ent := some (m.ent.getD 0), hints := Hints.reset, group := none, run := none, stall := none,
                    paused := false, line := none, lend := none, lat := 1, ready := 0, fib := { m.fib with ctx := ctx, job := some 0, wait := none, pend := [] } }
  let idle (k : Fin 8) : Slot := { s.core.slots[k] with busy := false }
  { s with core := { s.core with slots := ((s.core.slots.set 6 (idle 6)).set 7 (idle 7)).set i m, halted := false, saved := false,
                                 lastIssue := (i.val + 5) % 6, issued := none, late := [],
                                 lines := (probeAt / 64, probeLine (BitVec.ofNat 32 w)) :: s.core.lines },
           jobs := s.jobs.set 0 probeJob,
           mgmt := { s.mgmt with halted := false, power := .active, goal := none },
           agenda := ⟨0, s.cid, i, none⟩ :: s.agenda, acts := [] }

end Sys2Proof.Machine
end

