-- ==== Sys2Proof/Safety.lean ====
section
/-! DEFINITION. The terms that claims use: the invariants of every step, and what it is for an instruction to pass its
checks and complete. -/

namespace Sys2Proof.Machine

/-- Memory stands in its canonical form. -/
def State.memOk (s : State) : Prop := memWf s.mem = true

/-- An instruction with the operands o passes its gate in s (02 R51; 01 R24): no field of it faults and every queue it
reads holds a word; vs are its source values in field order and t is the state after the pops. -/
def State.Ready (s : State) (o : Opnds) (vs : List DWord) (t : State) : Prop :=
  s.gateFault o = none ∧ s.popAll o.reads = some (vs, t)

/-- i reads a and b, in that order, and completes with f of the two values in d. -/
def Computes2 (i : Instr) (d a b : Reg) (f : DWord → DWord → DWord) : Prop :=
  ∀ (s : State) (x y : DWord) (t : State), s.Ready ⟨[a, b], some d, false, false⟩ [x, y] t →
    t.dstCheck d (f x y) = .ok → exec i s = .next ((t.writeReg d (f x y)).advance)

/-- i reads a and completes with f of its value in d; f may depend on the hints of the group. -/
def Computes1 (i : Instr) (d a : Reg) (f : State → DWord → DWord) : Prop :=
  ∀ (s : State) (x : DWord) (t : State), s.Ready ⟨[a], some d, false, false⟩ [x] t →
    t.dstCheck d (f s x) = .ok → exec i s = .next ((t.writeReg d (f s x)).advance)

/-- i reads nothing and completes with f in d. -/
def Computes0 (i : Instr) (d : Reg) (f : State → DWord) : Prop :=
  ∀ s : State, s.Ready ⟨[], some d, false, false⟩ [] s → s.dstCheck d (f s) = .ok →
    exec i s = .next ((s.writeReg d (f s)).advance)

/-- A floating-point instruction: the result in d, its flags sticky in FLAGS (03 R112). -/
def Floats (i : Instr) (reads : List Reg) (d : Reg) (f : State → List DWord → Nat × BitVec 7) : Prop :=
  ∀ (s : State) (vs : List DWord) (t : State), s.Ready ⟨reads, some d, false, false⟩ vs t →
    t.dstCheck d (BitVec.ofNat 64 (f s vs).1) = .ok →
    exec i s = .next (((t.setCtx (t.ctx.orFlags (f s vs).2)).writeReg d (BitVec.ofNat 64 (f s vs).1)).advance)

/-- An access that passes the checks of R146 at offset o of the own scratchpad, with nothing to wait for. -/
def State.LocalAt (s : State) (a : Access) (align o : Nat) : Prop :=
  regionOf s.cid a.addr = .own o ∧ a.addr.toNat % align = 0 ∧ o % 8192 + accSpan a ≤ 8192 ∧ s.core.inPart0 o (accSpan a) = true ∧
    s.heldByAcquire = false ∧ s.core.rangeStall s.cid o (accSpan a) = false

/-- The fields of an instruction, or the word of a time-out register, that its meaning refuses before its gate: a LOOP with an
offset below 1 (02 R51), an MTSR of a register that it may not write (02 R52), a SHIP to no memory queue (05 R160), an ALTT
with a time-out of 2^40 or more (06 R199). -/
def State.refusedEarly (s : State) : Instr → Bool
  | .loop _ off => decide ((s.immB off).toInt < 1)
  | .mtsr sr _ => (s.numberFault sr).isSome
  | .mtsrUtask _ | .mtsrDlprobe _ | .mtsrEjrn _ => decide (s.sid ≠ 7)
  | .ship q _ _ _ => (qmIndex q).isNone
  | .altt _ _ b => s.badTime b
  | _ => false

/-- The end of a memory instruction of the own scratchpad that has its value v: in d, or, for d = qam, in an entry of qam
(05 R150); and what it asks of d. -/
def State.endsIn (u : State) (d : Reg) (ea : DWord) (acq : Bool) (k : WaitKind) (v : DWord) : State :=
  if d = .qam then (u.reserveQam ea acq k (some v) none).advance else (u.writeReg d v).advance

def State.takes (t : State) (d : Reg) (v : DWord) : Prop :=
  if d = .qam then t.fib.qam.length < 4 else t.dstCheck d v = .ok

/-- No full/empty wait of the core in turn stands at the word of an offset (05 R155). -/
def State.noWaiter (t : State) (o : Nat) : Prop := ∀ w ∈ t.core.waiters, w.2.addr.toNat % 65536 ≠ o

/-- A channel instruction on entry e passes its gate and the checks of the entry (06 R192), and reads its operands. -/
def State.OnEntry (s : State) (e : Nat) (op : ChanOp) (o : Opnds) (vs : List DWord) (t : State) : Prop :=
  s.gateFault o = none ∧ s.entryBad (s.core.endpoint e) (some op) = false ∧ (s.core.endpoint e).closed = false ∧
    s.replayed s.self.ent = none ∧
    ∃ u, s.popAll o.reads = some (vs, u) ∧ t = u.clearRsv (if op = .recv ∨ op = .recvTile then some e else none)

/-- The vector unit takes an instruction that reads no scalar register (08 R244). -/
def State.VecFree (s : State) : Prop := s.gateFault ⟨[], none, false, false⟩ = none ∧ s.vecHeld = false

/-- u is s but that the lanes of the mask m of vector register d are to be written with v when the cycles of the instruction in turn have
passed (08 R245). -/
def State.VecWrites (s u : State) (d : VReg) (m v : VWord) : Prop :=
  u.core.late = s.core.late ++ [⟨s.coreCycles + s.me.lat, s.sid.val, .vec d m v⟩] ∧ u.core.v = s.core.v ∧ u.mem = s.mem

/-- i writes f of each lane to lane k of d when its cycles have passed, its flags sticky at once, and leaves the other vector
registers, memory, the private and the shared registers alone (08 R245, R247). -/
def Lanewise (i : Instr) (t : Ty) (d : VReg) (f : State → Nat → Nat × BitVec 7) : Prop :=
  ∀ s : State, s.VecFree → ∃ u x, exec i s = .next u ∧
    u.core.late = s.core.late ++ [⟨s.coreCycles + s.me.lat, s.sid.val, .vec d (BitVec.allOnes 512) x⟩] ∧
    (∀ k < 512 / tyBits t, lane (tyBits t) x k = (f s k).1 % 2 ^ tyBits t) ∧
    u.ctx.status = (s.ctx.orFlags (((List.range (512 / tyBits t)).map fun k => (f s k).2).foldl (fun x y => x ||| y) 0)).status ∧
    u.ctx.pc = s.advance.ctx.pc ∧ u.core.v = s.core.v ∧ u.mem = s.mem ∧ u.core.s = s.core.s ∧
    (∀ k : Fin 8, k ≠ 7 → u.ctx.p[k] = s.ctx.p[k])

/-- A request at the server of the home of its page: aligned, its translation cached, no migration or earlier walk of the
page in its way (14 R391, R401, R402). -/
def State.Serves (s : State) (q : Req) (align : Nat) (p : Page) : Prop :=
  q.va.toNat % align = 0 ∧ s.walking q = false ∧ s.cached q.stack q.va.toNat = some p ∧ s.migHold q = .free ∧ p.home = q.stack

/-- The controller takes the command c: it is at the head of the queue, none is under way, its 64-aligned block lies in the DRAM window and can be read, has this OP,
and sets nothing that the command does not name (16 R443, R444). The arguments are a; t is the state without the command. -/
def State.Commanded (s : State) (c : Cmd) (op : Nat) (n : Names) (a : CmdArgs) (t : State) : Prop :=
  let u : State := { s with mgmt := { s.mgmt with cmds := s.mgmt.cmds.tail } }
  t = u.vNote c.block.toNat 64 ∧ s.mgmt.cmds.head? = some c ∧ s.mgmt.waiting = [] ∧ s.mgmt.power ≠ .off ∧
    c.block.toNat % 64 = 0 ∧ inDram c.block.toNat = true ∧
    ∃ l, u.vBytes c.block.toNat 64 = some l ∧ a = argsOf c.block.toNat l ∧ fieldOf l 0 1 = op ∧ unnamed n l a = false

/-- The requests of the host (10 R317; 15 R421 to R424). -/
def IsHostRequest (i : Instr) (e : Ev) : Prop :=
  (∃ m w, i = .mailboxIn m w ∧ e = .mailboxIn m w) ∨ (∃ m, i = .mailboxLp m ∧ e = .mailboxLp m) ∨ (∃ m, i = .mailboxToken m ∧ e = .mailboxToken m) ∨
    (∃ m, i = .mailboxOut m ∧ e = .mailboxOut m) ∨ (∃ m w, i = .qhsin m w ∧ e = .qhsin m w) ∨
    (∃ off w, i = .registerWrite off w ∧ e = .registerWrite off w) ∨
    (∃ page reg w, i = .notifyWrite page reg w true ∧ e = .notifyWrite page reg w true) ∨
    (∃ off len data write, i = .hostBar4Access off len data write ∧ e = .hostBar4Access off len data write) ∨
    (∃ off op size a b, i = .hostAtomicop off op size a b ∧ e = .hostAtomicop off op size a b)

/-- The BARs are enabled, and no earlier request of the host waits (16 R445; 10 R317). -/
def State.HostOpen (s : State) : Prop := s.mgmt.verified = true ∧ s.host.kept = []

/-- A request of the host waits behind the others. -/
def State.keepRequest (s : State) (e : Ev) : State := { s with host := { s.host with kept := s.host.kept ++ [e] } }

/-- The commands of Table 16-7: the instruction, its OP, and what its block may set (Table 16-8). -/
def IsCommand (c : Cmd) (i : Instr) (op : Nat) (n : Names) : Prop :=
    (i = .switch c ∧ op = 0x01 ∧ n = ⟨true, true, true, 0, false⟩) ∨
    (i = .restore c ∧ op = 0x02 ∧ n = ⟨true, true, true, 8, false⟩) ∨
    (i = .migrate c ∧ op = 0x03 ∧ n = ⟨true, true, false, 0, false⟩) ∨
    (i = .abandon c ∧ op = 0x04 ∧ n = ⟨true, false, false, 0, false⟩) ∨
    (i = .urgent c ∧ op = 0x05 ∧ n = ⟨true, true, true, 1, false⟩) ∨
    (i = .setpstate c ∧ op = 0x10 ∧ n = ⟨true, false, false, 0, false⟩) ∨
    (i = .setcap c ∧ op = 0x11 ∧ n = ⟨true, false, false, 0, false⟩) ∨
    (i = .settamper c ∧ op = 0x12 ∧ n = ⟨true, false, false, 0, false⟩) ∨
    (i = .provision c ∧ op = 0x20 ∧ n = ⟨false, true, false, 32, true⟩) ∨
    (i = .lock c ∧ op = 0x21 ∧ n = ⟨false, false, false, 0, true⟩) ∨
    (i = .retire c ∧ op = 0x22 ∧ n = ⟨false, false, false, 0, true⟩) ∨
    (i = .release c ∧ op = 0x23 ∧ n = ⟨false, false, false, 0, true⟩) ∨
    (i = .debugchal c ∧ op = 0x24 ∧ n = ⟨false, false, false, 32, false⟩) ∨
    (i = .debugopen c ∧ op = 0x25 ∧ n = ⟨true, false, false, 32, true⟩) ∨
    (i = .debugend c ∧ op = 0x26 ∧ n = ⟨false, false, false, 0, false⟩) ∨
    (i = .dbggo c ∧ op = 0x27 ∧ n = ⟨true, false, false, 0, false⟩) ∨
    (i = .attest c ∧ op = 0x28 ∧ n = ⟨false, true, false, 32, false⟩) ∨
    (i = .fwupdate c ∧ op = 0x29 ∧ n = ⟨true, true, true, 0, true⟩) ∨
    (i = .dbgset c ∧ op = 0x2A ∧ n = ⟨true, true, false, 0, false⟩) ∨
    (i = .setclock c ∧ op = 0x30 ∧ n = ⟨true, false, false, 0, false⟩) ∨
    (i = .reccfg c ∧ op = 0x31 ∧ n = ⟨true, true, true, 16, false⟩) ∨
    (i = .counters c ∧ op = 0x32 ∧ n = ⟨true, true, false, 0, false⟩) ∨
    (i = .settable c ∧ op = 0x33 ∧ n = ⟨true, true, true, 16, false⟩)

/-- The register instructions that end in their slot: sources in the order they are read, destination (04 R115 to R134;
05 R183, R185). -/
def regOpOf : Instr → Option (List Reg × Reg)
  | .add d a b => some ([a, b], d)
  | .sub d a b => some ([a, b], d)
  | .mul d a b => some ([a, b], d)
  | .mulh d a b => some ([a, b], d)
  | .mulhu d a b => some ([a, b], d)
  | .and d a b => some ([a, b], d)
  | .or d a b => some ([a, b], d)
  | .xor d a b => some ([a, b], d)
  | .andn d a b => some ([a, b], d)
  | .shl d a b => some ([a, b], d)
  | .shr d a b => some ([a, b], d)
  | .sra d a b => some ([a, b], d)
  | .rot d a b => some ([a, b], d)
  | .min d a b => some ([a, b], d)
  | .max d a b => some ([a, b], d)
  | .minu d a b => some ([a, b], d)
  | .maxu d a b => some ([a, b], d)
  | .cmpeq d a b => some ([a, b], d)
  | .cmpne d a b => some ([a, b], d)
  | .cmplt d a b => some ([a, b], d)
  | .cmpltu d a b => some ([a, b], d)
  | .cmple d a b => some ([a, b], d)
  | .cmpleu d a b => some ([a, b], d)
  | .cmov d a b => some ([a, b, d], d)
  | .clz d a => some ([a], d)
  | .ctz d a => some ([a], d)
  | .popc d a => some ([a], d)
  | .brev d a => some ([a], d)
  | .bswap d a => some ([a], d)
  | .not d a => some ([a], d)
  | .neg d a => some ([a], d)
  | .abs d a => some ([a], d)
  | .exts _ d a => some ([a], d)
  | .extz _ d a => some ([a], d)
  | .addi d a _ => some ([a], d)
  | .andi d a _ => some ([a], d)
  | .ori d a _ => some ([a], d)
  | .xori d a _ => some ([a], d)
  | .shli d a _ => some ([a], d)
  | .shri d a _ => some ([a], d)
  | .srai d a _ => some ([a], d)
  | .roti d a _ => some ([a], d)
  | .cmpeqi d a _ => some ([a], d)
  | .cmplti d a _ => some ([a], d)
  | .cmpltui d a _ => some ([a], d)
  | .lui d _ => some ([], d)
  | .addpc d _ => some ([], d)
  | .wid d _ => some ([], d)
  | .bfx d a _ _ => some ([a], d)
  | .bfi d a _ _ => some ([a, d], d)
  | .addx d a b _ => some ([a, b], d)
  | .fadd _ d a b => some ([a, b], d)
  | .fsub _ d a b => some ([a, b], d)
  | .fmul _ d a b => some ([a, b], d)
  | .fdiv _ d a b => some ([a, b], d)
  | .fmin _ d a b => some ([a, b], d)
  | .fmax _ d a b => some ([a, b], d)
  | .fcmpeq _ d a b => some ([a, b], d)
  | .fcmplt _ d a b => some ([a, b], d)
  | .fcmple _ d a b => some ([a, b], d)
  | .fsqrt _ d a => some ([a], d)
  | .fabs _ d a => some ([a], d)
  | .fneg _ d a => some ([a], d)
  | .fclass _ d a => some ([a], d)
  | .frcp _ d a => some ([a], d)
  | .ffma _ d a b c => some ([a, b, c], d)
  | .fcvt _ _ d a => some ([a], d)
  | .cpff d a => some ([a], d)
  | .cpts d a => some ([a], d)
  | .wmrd d _ => some ([], d)
  | _ => none

/-- What an instruction asks of its gate, by its fields (02 Tables 2-6 to 2-14). -/
def gateOf : Instr → Option Opnds
  | .add d a b => some ⟨[a, b], some d, false, false⟩
  | .sub d a b => some ⟨[a, b], some d, false, false⟩
  | .mul d a b => some ⟨[a, b], some d, false, false⟩
  | .mulh d a b => some ⟨[a, b], some d, false, false⟩
  | .mulhu d a b => some ⟨[a, b], some d, false, false⟩
  | .and d a b => some ⟨[a, b], some d, false, false⟩
  | .or d a b => some ⟨[a, b], some d, false, false⟩
  | .xor d a b => some ⟨[a, b], some d, false, false⟩
  | .andn d a b => some ⟨[a, b], some d, false, false⟩
  | .shl d a b => some ⟨[a, b], some d, false, false⟩
  | .shr d a b => some ⟨[a, b], some d, false, false⟩
  | .sra d a b => some ⟨[a, b], some d, false, false⟩
  | .rot d a b => some ⟨[a, b], some d, false, false⟩
  | .min d a b => some ⟨[a, b], some d, false, false⟩
  | .max d a b => some ⟨[a, b], some d, false, false⟩
  | .minu d a b => some ⟨[a, b], some d, false, false⟩
  | .maxu d a b => some ⟨[a, b], some d, false, false⟩
  | .cmpeq d a b => some ⟨[a, b], some d, false, false⟩
  | .cmpne d a b => some ⟨[a, b], some d, false, false⟩
  | .cmplt d a b => some ⟨[a, b], some d, false, false⟩
  | .cmpltu d a b => some ⟨[a, b], some d, false, false⟩
  | .cmple d a b => some ⟨[a, b], some d, false, false⟩
  | .cmpleu d a b => some ⟨[a, b], some d, false, false⟩
  | .cmov d a b => some ⟨[a, b, d], some d, false, false⟩
  | .clz d a => some ⟨[a], some d, false, false⟩
  | .ctz d a => some ⟨[a], some d, false, false⟩
  | .popc d a => some ⟨[a], some d, false, false⟩
  | .brev d a => some ⟨[a], some d, false, false⟩
  | .bswap d a => some ⟨[a], some d, false, false⟩
  | .not d a => some ⟨[a], some d, false, false⟩
  | .neg d a => some ⟨[a], some d, false, false⟩
  | .abs d a => some ⟨[a], some d, false, false⟩
  | .exts _ d a => some ⟨[a], some d, false, false⟩
  | .extz _ d a => some ⟨[a], some d, false, false⟩
  | .addi d a _ => some ⟨[a], some d, false, false⟩
  | .andi d a _ => some ⟨[a], some d, false, false⟩
  | .ori d a _ => some ⟨[a], some d, false, false⟩
  | .xori d a _ => some ⟨[a], some d, false, false⟩
  | .shli d a _ => some ⟨[a], some d, false, false⟩
  | .shri d a _ => some ⟨[a], some d, false, false⟩
  | .srai d a _ => some ⟨[a], some d, false, false⟩
  | .roti d a _ => some ⟨[a], some d, false, false⟩
  | .cmpeqi d a _ => some ⟨[a], some d, false, false⟩
  | .cmplti d a _ => some ⟨[a], some d, false, false⟩
  | .cmpltui d a _ => some ⟨[a], some d, false, false⟩
  | .lui d _ => some ⟨[], some d, false, false⟩
  | .addpc d _ => some ⟨[], some d, false, false⟩
  | .wid d _ => some ⟨[], some d, false, false⟩
  | .bfx d a _ _ => some ⟨[a], some d, false, false⟩
  | .bfi d a _ _ => some ⟨[a, d], some d, false, false⟩
  | .addx d a b _ => some ⟨[a, b], some d, false, false⟩
  | .fadd _ d a b => some ⟨[a, b], some d, false, false⟩
  | .fsub _ d a b => some ⟨[a, b], some d, false, false⟩
  | .fmul _ d a b => some ⟨[a, b], some d, false, false⟩
  | .fdiv _ d a b => some ⟨[a, b], some d, false, false⟩
  | .fmin _ d a b => some ⟨[a, b], some d, false, false⟩
  | .fmax _ d a b => some ⟨[a, b], some d, false, false⟩
  | .fcmpeq _ d a b => some ⟨[a, b], some d, false, false⟩
  | .fcmplt _ d a b => some ⟨[a, b], some d, false, false⟩
  | .fcmple _ d a b => some ⟨[a, b], some d, false, false⟩
  | .fsqrt _ d a => some ⟨[a], some d, false, false⟩
  | .fabs _ d a => some ⟨[a], some d, false, false⟩
  | .fneg _ d a => some ⟨[a], some d, false, false⟩
  | .fclass _ d a => some ⟨[a], some d, false, false⟩
  | .frcp _ d a => some ⟨[a], some d, false, false⟩
  | .ffma _ d a b c => some ⟨[a, b, c], some d, false, false⟩
  | .fcvt _ _ d a => some ⟨[a], some d, false, false⟩
  | .cpff d a => some ⟨[a], some d, false, false⟩
  | .cpts d a => some ⟨[a], some d, false, false⟩
  | .wmrd d _ => some ⟨[], some d, false, false⟩
  | .div d a b => some ⟨[a, b], some d, false, false⟩
  | .divu d a b => some ⟨[a, b], some d, false, false⟩
  | .rem d a b => some ⟨[a, b], some d, false, false⟩
  | .remu d a b => some ⟨[a, b], some d, false, false⟩
  | .br _ a _ => some ⟨[a], none, false, false⟩
  | .bra _ => some ⟨[], none, false, false⟩
  | .call d _ => some ⟨[], some d, false, false⟩
  | .jr a => some ⟨[a], none, false, false⟩
  | .ret a => some ⟨[a], none, false, false⟩
  | .callr d a => some ⟨[a], some d, false, false⟩
  | .loop a _ => some ⟨[a], none, false, false⟩
  | .ld _ d a _ => some ⟨[a], splitDst d, false, false⟩
  | .lds _ d a _ => some ⟨[a], splitDst d, false, false⟩
  | .ldfe d a _ => some ⟨[a], splitDst d, false, false⟩
  | .ldff d a _ => some ⟨[a], splitDst d, false, false⟩
  | .st _ d a _ => some ⟨[a, d], none, false, false⟩
  | .pst _ d a _ => some ⟨[a, d], none, false, false⟩
  | .stfe d a _ => some ⟨[a, d], none, false, false⟩
  | .stff d a _ => some ⟨[a, d], none, false, false⟩
  | .aadd _ _ d a b => some ⟨[a, b], splitDst d, false, false⟩
  | .aswp _ _ d a b => some ⟨[a, b], splitDst d, false, false⟩
  | .aand _ _ d a b => some ⟨[a, b], splitDst d, false, false⟩
  | .aor _ _ d a b => some ⟨[a, b], splitDst d, false, false⟩
  | .axor _ _ d a b => some ⟨[a, b], splitDst d, false, false⟩
  | .amin _ _ d a b => some ⟨[a, b], splitDst d, false, false⟩
  | .amax _ _ d a b => some ⟨[a, b], splitDst d, false, false⟩
  | .aminu _ _ d a b => some ⟨[a, b], splitDst d, false, false⟩
  | .amaxu _ _ d a b => some ⟨[a, b], splitDst d, false, false⟩
  | .ainc _ _ d a => some ⟨[a], splitDst d, false, false⟩
  | .ship _ _ a b => some ⟨[a, b, pairNext b], none, false, false⟩
  | .fenceBank a => some ⟨[a], none, false, false⟩
  | .fence _ => some ⟨[], none, false, false⟩
  | .cpy d a n _ _ _ => some ⟨[a, n, d], none, false, false⟩
  | .cpym d a n _ _ _ => some ⟨[a, n, d], none, false, false⟩
  | .cpwa d a => some ⟨[a], some d, false, false⟩
  | .cpwn d a => some ⟨[a], some d, false, false⟩
  | .stage _ => some ⟨[], none, false, false⟩
  | .tsub d a b => some ⟨[a, b], some d, false, false⟩
  | .trel a b => some ⟨[a, b], none, false, false⟩
  | .trelSt a b => some ⟨[a, b], none, false, false⟩
  | .alt d a => some ⟨[a], some d, false, false⟩
  | .altt d a b => some ⟨[a, b], some d, false, false⟩
  | .probe d _ => some ⟨[], some d, false, false⟩
  | .bind _ a => some ⟨[a], none, true, false⟩
  | .unbind _ => some ⟨[], none, true, false⟩
  | .chmode _ a => some ⟨[a], none, true, false⟩
  | .barBrk a => some ⟨[a], none, true, false⟩
  | .prgwr a => some ⟨[a], none, true, false⟩
  | .eret => some ⟨[], none, true, false⟩
  | .rfwin a => some ⟨[a], none, true, false⟩
  | .trap _ => some ⟨[], none, false, false⟩
  | .bkpt _ => some ⟨[], none, false, false⟩
  | .syncid => some ⟨[], none, false, false⟩
  | .prgrd d => some ⟨[], some d, false, false⟩
  | .mfsr d _ => some ⟨[], some d, false, false⟩
  | .mtsr _ a => some ⟨[a], none, false, false⟩
  | .mtsrUtask a => some ⟨[a], none, false, false⟩
  | .mtsrDlprobe a => some ⟨[a], none, false, false⟩
  | .mtsrEjrn a => some ⟨[a], none, false, false⟩
  | .evwait a => some ⟨[a], none, false, false⟩
  | .evwaitQev a => some ⟨[a], none, false, false⟩
  | .evsig a => some ⟨[a], none, false, false⟩
  | .evclr a => some ⟨[a], none, false, false⟩
  | .bar d a => some ⟨[a], some d, false, false⟩
  | .wake a => some ⟨[a], none, false, false⟩
  | .setpri a => some ⟨[a], none, false, false⟩
  | .setdl a => some ⟨[a], none, false, false⟩
  | .setwl a => some ⟨[a], none, false, false⟩
  | .rdtime d => some ⟨[], some d, false, false⟩
  | .yield => some ⟨[], none, false, false⟩
  | .park => some ⟨[], none, false, false⟩
  | .joinc d => some ⟨[], some d, false, false⟩
  | .lnch d a => some ⟨[a], some d, false, false⟩
  | .jpat _ a => some ⟨[a], none, false, false⟩
  | .jarm _ => some ⟨[], none, false, false⟩
  | .jdis _ => some ⟨[], none, false, false⟩
  | .pcfg _ a => some ⟨[a], none, false, false⟩
  | .xfork a => some ⟨[a], none, false, false⟩
  | .xjoin d => some ⟨[], some d, false, false⟩
  | _ => none

/-- The floating-point instructions, which may set the sticky flags (04 R129 to R134). -/
def isFloat : Instr → Bool
  | .fadd _ _ _ _ => true
  | .fsub _ _ _ _ => true
  | .fmul _ _ _ _ => true
  | .fdiv _ _ _ _ => true
  | .fmin _ _ _ _ => true
  | .fmax _ _ _ _ => true
  | .fcmpeq _ _ _ _ => true
  | .fcmplt _ _ _ _ => true
  | .fcmple _ _ _ _ => true
  | .fsqrt _ _ _ => true
  | .fabs _ _ _ => true
  | .fneg _ _ _ => true
  | .fclass _ _ _ => true
  | .frcp _ _ _ => true
  | .ffma _ _ _ _ _ => true
  | .fcvt _ _ _ _ => true
  | _ => false

end Sys2Proof.Machine
end

