-- ==== Sys2Proof/Certificates/Slice0/Obligations.lean ====
section
/-! DEFINITION. The statements about the model, for the provers. -/

open Sys2Proof Sys2Proof.Machine

/-! Scalar instructions (04). -/

/-- R118: the sums, products, logic and shifts of major 0x01, their encodings, and what they write.
R118: the minima, maxima and comparisons of major 0x01. -/
def Obligations.IntegerResults : Prop :=
  (∀ d a b : Reg,
     (encode (.add d a b) = some (mkR 0x01 d.code a.code b.code 0x00) ∧ Computes2 (.add d a b) d a b fun x y => BitVec.ofNat 64 (x.toNat + y.toNat)) ∧
     (encode (.sub d a b) = some (mkR 0x01 d.code a.code b.code 0x01) ∧ Computes2 (.sub d a b) d a b fun x y => BitVec.ofInt 64 (x.toInt - y.toInt)) ∧
     (encode (.mul d a b) = some (mkR 0x01 d.code a.code b.code 0x02) ∧ Computes2 (.mul d a b) d a b fun x y => BitVec.ofNat 64 (x.toNat * y.toNat)) ∧
     (encode (.mulh d a b) = some (mkR 0x01 d.code a.code b.code 0x03) ∧
       Computes2 (.mulh d a b) d a b fun x y => (BitVec.ofInt 128 (x.toInt * y.toInt)).extractLsb' 64 64) ∧
     (encode (.mulhu d a b) = some (mkR 0x01 d.code a.code b.code 0x04) ∧
       Computes2 (.mulhu d a b) d a b fun x y => (BitVec.ofNat 128 (x.toNat * y.toNat)).extractLsb' 64 64) ∧
     (encode (.and d a b) = some (mkR 0x01 d.code a.code b.code 0x09) ∧ Computes2 (.and d a b) d a b fun x y => x &&& y) ∧
     (encode (.or d a b) = some (mkR 0x01 d.code a.code b.code 0x0A) ∧ Computes2 (.or d a b) d a b fun x y => x ||| y) ∧
     (encode (.xor d a b) = some (mkR 0x01 d.code a.code b.code 0x0B) ∧ Computes2 (.xor d a b) d a b fun x y => x ^^^ y) ∧
     (encode (.andn d a b) = some (mkR 0x01 d.code a.code b.code 0x0C) ∧ Computes2 (.andn d a b) d a b fun x y => x &&& ~~~y) ∧
     (encode (.shl d a b) = some (mkR 0x01 d.code a.code b.code 0x0D) ∧ Computes2 (.shl d a b) d a b fun x y => x <<< (y.extractLsb' 0 6)) ∧
     (encode (.shr d a b) = some (mkR 0x01 d.code a.code b.code 0x0E) ∧ Computes2 (.shr d a b) d a b fun x y => x >>> (y.extractLsb' 0 6)) ∧
     (encode (.sra d a b) = some (mkR 0x01 d.code a.code b.code 0x0F) ∧
       Computes2 (.sra d a b) d a b fun x y => BitVec.ofInt 64 (x.toInt / 2 ^ (y.toNat % 64))) ∧
     (encode (.rot d a b) = some (mkR 0x01 d.code a.code b.code 0x10) ∧
       Computes2 (.rot d a b) d a b fun x y => x <<< (y.toNat % 64) ||| x >>> (64 - y.toNat % 64))) ∧
  (∀ d a b : Reg,
     (encode (.min d a b) = some (mkR 0x01 d.code a.code b.code 0x11) ∧
       Computes2 (.min d a b) d a b fun x y => BitVec.ofInt 64 (Min.min x.toInt y.toInt)) ∧
     (encode (.max d a b) = some (mkR 0x01 d.code a.code b.code 0x12) ∧
       Computes2 (.max d a b) d a b fun x y => BitVec.ofInt 64 (Max.max x.toInt y.toInt)) ∧
     (encode (.minu d a b) = some (mkR 0x01 d.code a.code b.code 0x13) ∧
       Computes2 (.minu d a b) d a b fun x y => BitVec.ofNat 64 (Min.min x.toNat y.toNat)) ∧
     (encode (.maxu d a b) = some (mkR 0x01 d.code a.code b.code 0x14) ∧
       Computes2 (.maxu d a b) d a b fun x y => BitVec.ofNat 64 (Max.max x.toNat y.toNat)) ∧
     (encode (.cmpeq d a b) = some (mkR 0x01 d.code a.code b.code 0x15) ∧ Computes2 (.cmpeq d a b) d a b fun x y => if x = y then 1 else 0) ∧
     (encode (.cmpne d a b) = some (mkR 0x01 d.code a.code b.code 0x16) ∧ Computes2 (.cmpne d a b) d a b fun x y => if x = y then 0 else 1) ∧
     (encode (.cmplt d a b) = some (mkR 0x01 d.code a.code b.code 0x17) ∧
       Computes2 (.cmplt d a b) d a b fun x y => if x.toInt < y.toInt then 1 else 0) ∧
     (encode (.cmpltu d a b) = some (mkR 0x01 d.code a.code b.code 0x18) ∧
       Computes2 (.cmpltu d a b) d a b fun x y => if x.toNat < y.toNat then 1 else 0) ∧
     (encode (.cmple d a b) = some (mkR 0x01 d.code a.code b.code 0x19) ∧
       Computes2 (.cmple d a b) d a b fun x y => if x.toInt ≤ y.toInt then 1 else 0) ∧
     (encode (.cmpleu d a b) = some (mkR 0x01 d.code a.code b.code 0x1A) ∧
       Computes2 (.cmpleu d a b) d a b fun x y => if x.toNat ≤ y.toNat then 1 else 0))

/-- R119: a zero divisor raises INT_DIVIDE_ZERO, precisely: the state before any pop, d and the last-result file as they
were, EPC the first address of the group; every other division completes with the truncated quotient or the remainder
with the sign of A, −2^63 by −1 with −2^63 and 0. -/
def Obligations.DivisionResults : Prop :=
  ∀ (d a b : Reg) (s t : State) (x y : DWord), s.Ready ⟨[a, b], some d, false, false⟩ [x, y] t →
    (y = 0 →
      ∀ i ∈ [Instr.div d a b, .divu d a b, .rem d a b, .remu d a b],
        exec i s = .next (s.faultAt (flt 0x12) s.groupPc 0)) ∧
    (y ≠ 0 →
      (t.dstCheck d (BitVec.ofInt 64 (x.toInt.tdiv y.toInt)) = .ok →
        exec (.div d a b) s = .next ((t.writeReg d (BitVec.ofInt 64 (x.toInt.tdiv y.toInt))).advance)) ∧
      (t.dstCheck d (BitVec.ofNat 64 (x.toNat / y.toNat)) = .ok →
        exec (.divu d a b) s = .next ((t.writeReg d (BitVec.ofNat 64 (x.toNat / y.toNat))).advance)) ∧
      (t.dstCheck d (BitVec.ofInt 64 (x.toInt.tmod y.toInt)) = .ok →
        exec (.rem d a b) s = .next ((t.writeReg d (BitVec.ofInt 64 (x.toInt.tmod y.toInt))).advance)) ∧
      (t.dstCheck d (BitVec.ofNat 64 (x.toNat % y.toNat)) = .ok →
        exec (.remu d a b) s = .next ((t.writeReg d (BitVec.ofNat 64 (x.toNat % y.toNat))).advance)))

/-- R121: the one-operand operations of major 0x02, with their encodings. CLZ counts the zeros above the highest one bit, CTZ those below
the lowest; fn[3:0] of 10 and above is ILLEGAL_OP, and a word with b, fn[7:6], or a size outside EXTS and EXTZ that is not zero is
no instruction. -/
def Obligations.OneOperandResults : Prop :=
  (∀ d a : Reg,
    (encode (.clz d a) = some (mkR 0x02 d.code a.code 0 0x00) ∧ Computes1 (.clz d a) d a (fun _ x => if x = 0 then 64 else BitVec.ofNat 64 (63 - x.toNat.log2))) ∧
    (encode (.ctz d a) = some (mkR 0x02 d.code a.code 0 0x01) ∧
      Computes1 (.ctz d a) d a (fun _ x => BitVec.ofNat 64 ((List.range 64).takeWhile fun i => !x.getLsbD i).length)) ∧
    (encode (.popc d a) = some (mkR 0x02 d.code a.code 0 0x02) ∧
      Computes1 (.popc d a) d a (fun _ x => BitVec.ofNat 64 ((List.range 64).countP fun i => x.getLsbD i))) ∧
    (encode (.brev d a) = some (mkR 0x02 d.code a.code 0 0x03) ∧ Computes1 (.brev d a) d a (fun _ x => BitVec.ofFnLE fun i : Fin 64 => x.getLsbD (63 - i.val))) ∧
    (encode (.bswap d a) = some (mkR 0x02 d.code a.code 0 0x04) ∧
      Computes1 (.bswap d a) d a (fun _ x => BitVec.ofFnLE fun i : Fin 64 => x.getLsbD (8 * (7 - i.val / 8) + i.val % 8))) ∧
    (∀ sz : Size, encode (.exts sz d a) = some (mkR 0x02 d.code a.code 0 (0#2 ++ sz.code ++ 5#4)) ∧
      Computes1 (.exts sz d a) d a (fun _ x => (x.extractLsb' 0 (8 * sz.bytes)).signExtend 64)) ∧
    (∀ sz : Size, encode (.extz sz d a) = some (mkR 0x02 d.code a.code 0 (0#2 ++ sz.code ++ 6#4)) ∧
      Computes1 (.extz sz d a) d a (fun _ x => BitVec.ofNat 64 (x.toNat % 2 ^ (8 * sz.bytes)))) ∧
    (encode (.not d a) = some (mkR 0x02 d.code a.code 0 0x07) ∧ Computes1 (.not d a) d a (fun _ x => ~~~x)) ∧
    (encode (.neg d a) = some (mkR 0x02 d.code a.code 0 0x08) ∧ Computes1 (.neg d a) d a (fun _ x => 0 - x)) ∧
    (encode (.abs d a) = some (mkR 0x02 d.code a.code 0 0x09) ∧ Computes1 (.abs d a) d a (fun _ x => BitVec.ofInt 64 |x.toInt|))) ∧
  (∀ w : Word, bits w 26 6 = 0x02 →
    (bits w 6 2 = 0 → 10 ≤ bits w 0 4 → decode w = .error .illegalOp) ∧
    (bits w 6 2 ≠ 0 ∨ bits w 8 6 ≠ 0 ∨ (bits w 4 2 ≠ 0 ∧ bits w 0 4 ≠ 5 ∧ bits w 0 4 ≠ 6) → ∀ i, decode w ≠ .ok i))

/-- R123 to R126, R66: immediates are sign-extended, or widened by the payload of an HIMM; ADDPC adds the address of its
own word; BFX and BFI take and set the field of width wm1 + 1 at pos.
R120, R127, R128: CMOV reads a, b, d in that order and writes in both outcomes; WID writes a field of id by the widths
of the fibre's job, 0 without one; ADDX shifts b before the sum. -/
def Obligations.ImmediateAndAddressResults : Prop :=
  ((∀ (s : State) (imm : BitVec 14), (s.me.hints.himm = none → s.immI imm = imm.signExtend 64) ∧
     ∀ p : BitVec 22, s.me.hints.himm = some p → s.immI imm = (p ++ imm).signExtend 64) ∧
   (∀ (s : State) (imm : BitVec 20), (s.me.hints.himm = none → s.immU imm = imm.signExtend 64) ∧
     ∀ p : BitVec 22, s.me.hints.himm = some p → s.immU imm = (p ++ imm).signExtend 64) ∧
   (∀ (d a : Reg) (imm : BitVec 14),
     Computes1 (.addi d a imm) d a (fun s x => x + s.immI imm) ∧
     Computes1 (.andi d a imm) d a (fun s x => x &&& s.immI imm) ∧
     Computes1 (.ori d a imm) d a (fun s x => x ||| s.immI imm) ∧
     Computes1 (.xori d a imm) d a (fun s x => x ^^^ s.immI imm) ∧
     Computes1 (.cmpeqi d a imm) d a (fun s x => if x = s.immI imm then 1 else 0) ∧
     Computes1 (.cmplti d a imm) d a (fun s x => if x.toInt < (s.immI imm).toInt then 1 else 0) ∧
     Computes1 (.cmpltui d a imm) d a (fun s x => if x.toNat < (s.immI imm).toNat then 1 else 0)) ∧
   (∀ (d a : Reg) (n : BitVec 6),
     Computes1 (.shli d a n) d a (fun _ x => x <<< n) ∧
     Computes1 (.shri d a n) d a (fun _ x => x >>> n) ∧
     Computes1 (.srai d a n) d a (fun _ x => BitVec.ofInt 64 (x.toInt / 2 ^ n.toNat)) ∧
     Computes1 (.roti d a n) d a (fun _ x => x <<< n.toNat ||| x >>> (64 - n.toNat))) ∧
   (∀ (d : Reg) (imm : BitVec 20),
     Computes0 (.lui d imm) d (fun s => s.immU imm * 0x4000) ∧
     Computes0 (.addpc d imm) d (fun s => s.ctx.pc.setWidth 64 + 4 * s.immU imm)) ∧
   (∀ (d a : Reg) (pos wm1 : BitVec 6),
     Computes1 (.bfx d a pos wm1) d a (fun _ x => BitVec.ofNat 64 (x.toNat / 2 ^ pos.toNat % 2 ^ (wm1.toNat + 1))) ∧
     Computes2 (.bfi d a pos wm1) d a d (fun x y => BitVec.ofFnLE fun i : Fin 64 =>
       if pos.toNat ≤ i.val ∧ i.val ≤ pos.toNat + wm1.toNat then x.getLsbD (i.val - pos.toNat) else y.getLsbD i.val))) ∧
  ((∀ (d a b : Reg) (s t : State) (x y z : DWord), s.Ready ⟨[a, b, d], some d, false, false⟩ [x, y, z] t →
     (x ≠ 0 → t.dstCheck d y = .ok → exec (.cmov d a b) s = .next ((t.writeReg d y).advance)) ∧
     (x = 0 → t.dstCheck d z = .ok → exec (.cmov d a b) s = .next ((t.writeReg d z).advance))) ∧
   (∀ (d : Reg) (k : BitVec 3), Computes0 (.wid d k) d (fun s =>
     match s.fib.job.bind s.jobs.get? with
     | some j => BitVec.ofNat 64 (s.ctx.id.toNat / 2 ^ (j.widths.take k.toNat).sum % 2 ^ (j.widths.getD k.toNat 0))
     | none => 0)) ∧
   (∀ (d a b : Reg) (n : BitVec 3), Computes2 (.addx d a b n) d a b fun x y => x + y * BitVec.ofNat 64 (2 ^ n.toNat)))

/-- R135 to R137: branches on the signed value of a, jumps and calls; the link is the word after the instruction, written
after the target is read; a target that is not a multiple of 4 raises MISALIGN before any effect. -/
def Obligations.TransferResults : Prop :=
  (∀ (c : Cond) (a : Reg) (off : BitVec 16) (s t : State) (x : DWord), s.Ready ⟨[a], none, false, false⟩ [x] t →
    exec (.br c a off) s = .next (if (match c with
        | .eqz => decide (x.toInt = 0)
        | .nez => decide (x.toInt ≠ 0)
        | .ltz => decide (x.toInt < 0)
        | .gez => decide (0 ≤ x.toInt)
        | .gtz => decide (0 < x.toInt)
        | .lez => decide (x.toInt ≤ 0)) then t.jumpTo (s.ctx.pc + (s.immB off).setWidth 48 * 4) else t.advance)) ∧
  (∀ (off : BitVec 16) (s : State), s.Ready ⟨[], none, false, false⟩ [] s →
    exec (.bra off) s = .next (s.jumpTo (s.ctx.pc + (s.immB off).setWidth 48 * 4))) ∧
  (∀ (d : Reg) (imm : BitVec 20) (s : State), s.Ready ⟨[], some d, false, false⟩ [] s →
    exec (.call d imm) s =
      .next ((s.writeReg d ((s.ctx.pc + 4).setWidth 64)).jumpTo (s.ctx.pc + (s.immU imm).setWidth 48 * 4))) ∧
  (∀ (d a : Reg) (s t : State) (x : DWord), s.Ready ⟨[a], none, false, false⟩ [x] t →
    (x.toNat % 4 = 0 →
      exec (.jr a) s = .next (t.jumpTo (x.setWidth 48)) ∧ exec (.ret a) s = .next (t.jumpTo (x.setWidth 48))) ∧
    (x.toNat % 4 ≠ 0 →
      exec (.jr a) s = .next (s.raise (fltAt 0x04 x)) ∧ exec (.ret a) s = .next (s.raise (fltAt 0x04 x)))) ∧
  (∀ (d a : Reg) (s t : State) (x : DWord), s.Ready ⟨[a], some d, false, false⟩ [x] t →
    (x.toNat % 4 = 0 → exec (.callr d a) s = .next ((t.writeReg d ((s.ctx.pc + 4).setWidth 64)).jumpTo (x.setWidth 48))) ∧
    (x.toNat % 4 ≠ 0 → exec (.callr d a) s = .next (s.raise (fltAt 0x04 x))))

/-- R139, R140, R51: LOOP. An offset below 1 raises RESERVED_FIELD in every state, before an operand is read; its write of p7 does not
update the last-result file.
R141: the loop step at LEND, and PC + 4 everywhere else; a transfer takes no loop step. LEND is the LOOP word's address plus four
times its offset, widened where an HIMM stands immediately before it, as the words stand when the slot reads them (the model's choice, log
entries 119 and 120).
R63, R66, R29: a hint word keeps its payload for its target and moves the PC by 4, whatever pg holds; it changes nothing else but the
group's first address, the stall of its slot, and that its slot goes on in the next cycle. -/
def Obligations.LoopsAndHints : Prop :=
  (∀ (a : Reg) (off : BitVec 16) (s : State), (s.immB off).toInt < 1 → exec (.loop a off) s = .next (s.raise (flt 0x02))) ∧
  (∀ (a : Reg) (off : BitVec 16) (s t : State) (n : DWord), s.Ready ⟨[a], none, false, false⟩ [n] t →
     (1 ≤ (s.immB off).toInt → 131072 < n.toNat → exec (.loop a off) s = .next (s.raise (flt 0x02))) ∧
     (1 ≤ (s.immB off).toInt → n = 0 →
       exec (.loop a off) s = .next ((t.setP7 0).jumpTo (s.ctx.pc + (s.immB off).setWidth 48 * 4 + 4))) ∧
     (1 ≤ (s.immB off).toInt → n ≠ 0 → n.toNat ≤ 131072 →
       exec (.loop a off) s = .next ((t.setP7 (1#1 ++ (BitVec.ofNat 17 (n.toNat - 1)) ++ s.ctx.pc.extractLsb' 2 46)).jumpTo (s.ctx.pc + 4)))) ∧
  (∀ (s : State) (v : DWord), (s.setP7 v).ctx = { s.ctx with p := s.ctx.p.set 7 v } ∧ (s.setP7 v).me.l0 = s.me.l0 ∧
     (s.setP7 v).me.l1 = s.me.l1 ∧ (s.setP7 v).mem = s.mem ∧ ∀ k : Fin 8, k ≠ s.sid → (s.setP7 v).core.slots[k] = s.core.slots[k]) ∧
  (∀ (s : State) (a : Addr), (s.jumpTo a).ctx = { s.ctx with pc := a }) ∧
  (∀ (s : State) (l : Nat) (w x : Word) (a : Reg) (off : BitVec 16), s.me.lend = none → s.mayFetch l = true → inDram l = true →
     s.codeWord l = some w → decode w = .ok (.loop a off) → s.groupWord s.codeWord (l - 4) = some x → 4 ≤ l →
     (isHintWord x = false → s.loopEnd l = some (BitVec.ofNat 48 l + 4 * off.signExtend 48)) ∧
     (∀ p, decode x = .ok (.himm p) → s.loopEnd l = some (BitVec.ofNat 48 l + 4 * (p ++ off : BitVec 38).signExtend 48))) ∧
  (∀ (s : State) (c : Ctx) (a : Addr),
     (¬ (c.p[7].getLsbD 63 = true ∧ s.loopEnd ((c.p[7].extractLsb' 0 46).toNat * 4) = some a) →
       s.stepCtx c a = { c with pc := a + 4 }) ∧
     (c.p[7].getLsbD 63 = true → s.loopEnd ((c.p[7].extractLsb' 0 46).toNat * 4) = some a →
       c.p[7].extractLsb' 46 17 ≠ 0 →
         s.stepCtx c a = { c with p := c.p.set 7 (c.p[7] - 0x400000000000), pc := (c.p[7].extractLsb' 0 46 ++ 0#2) + 4 }) ∧
     (c.p[7].getLsbD 63 = true → s.loopEnd ((c.p[7].extractLsb' 0 46).toNat * 4) = some a →
       c.p[7].extractLsb' 46 17 = 0 → s.stepCtx c a = { c with p := c.p.set 7 0, pc := a + 4 })) ∧
  (∀ s : State,
     let hint (h : Hints) : State :=
       let m := { s.me with hints := h, group := some s.groupPc, stall := none, lat := 1, ready := s.coreCycles + 1 }
       (s.setMe m).setPc (s.ctx.pc + 4)
     (∀ p, exec (.himm p) s = .next (hint { s.me.hints with himm := some p })) ∧
     (∀ n, exec (.hsch n) s = .next (hint { s.me.hints with spin := some n })) ∧
     (∀ l m, exec (.hlive l m) s = .next (hint { s.me.hints with live := some ⟨l, m⟩ })) ∧
     (∀ rmv rm satv sat wide, exec (.hmod rmv rm satv sat wide) s = .next (hint { s.me.hints with hmod := some (rmv, rm, satv, sat, wide) })))

/-- R129 to R134: scalar floating point. Operands are read from the low bits of their registers; one rounding, in the mode
of FRM or HMOD; flags become sticky at completion. -/
def Obligations.FloatResults : Prop :=
  ∀ (t : Ty) (d a b c : Reg),
    Floats (.fadd t d a b) [a, b] d (fun s v => (fmtOr64 t).out s.rmode s.satOn (fpAdd s.rmode (operand t v 0) (operand t v 1))) ∧
    Floats (.fsub t d a b) [a, b] d (fun s v => (fmtOr64 t).out s.rmode s.satOn (fpAdd s.rmode (operand t v 0) (operand t v 1).negate)) ∧
    Floats (.fmul t d a b) [a, b] d (fun s v => (fmtOr64 t).out s.rmode s.satOn (fpMul (operand t v 0) (operand t v 1))) ∧
    Floats (.fdiv t d a b) [a, b] d (fun s v => (fmtOr64 t).divide s.rmode s.satOn (operand t v 0) (operand t v 1)) ∧
    Floats (.fsqrt t d a) [a] d (fun s v => (fmtOr64 t).squareRoot s.rmode s.satOn (operand t v 0)) ∧
    Floats (.fmin t d a b) [a, b] d (fun _ v => (fmtOr64 t).minMax false (lowBits t (arg v 0)) (lowBits t (arg v 1))) ∧
    Floats (.fmax t d a b) [a, b] d (fun _ v => (fmtOr64 t).minMax true (lowBits t (arg v 0)) (lowBits t (arg v 1))) ∧
    Floats (.fabs t d a) [a] d (fun _ v => (fmtOr64 t).signOp false (lowBits t (arg v 0))) ∧
    Floats (.fneg t d a) [a] d (fun _ v => (fmtOr64 t).signOp true (lowBits t (arg v 0))) ∧
    Floats (.fcmpeq t d a b) [a, b] d (fun _ v => testOut (FpFmt.test 0 (operand t v 0) (operand t v 1))) ∧
    Floats (.fcmplt t d a b) [a, b] d (fun _ v => testOut (FpFmt.test 1 (operand t v 0) (operand t v 1))) ∧
    Floats (.fcmple t d a b) [a, b] d (fun _ v => testOut (FpFmt.test 2 (operand t v 0) (operand t v 1))) ∧
    Floats (.fclass t d a) [a] d (fun _ v => ((fmtOr64 t).classMask (arg v 0).toNat, 0)) ∧
    Floats (.frcp t d a) [a] d (fun s v => (fmtOr64 t).divide s.rmode s.satOn (.fin false 1 0) (operand t v 0)) ∧
    Floats (.ffma t d a b c) [a, b, c] d (fun s v =>
      (fmtOr64 t).out s.rmode s.satOn (fpFma s.rmode (operand t v 0) (operand t v 1) (operand t v 2))) ∧
    (∀ dty sty : Ty, Floats (.fcvt dty sty d a) [a] d (fun s v => convert dty sty s.rmode s.satOn (arg v 0)))

/-! Registers, the gate, frames (01, 02). -/

/-- R18, R23: a source that is no queue register holds its value and the read changes nothing; l0 is the last result, l1 the
one before it; z reads zero.
R23, R24, R25: a queue register named as a source pops its head, and none of the sources is popped unless each holds a
word; the same queue named twice pops two words, the first for a.
R19, R20, R117: a result in a private or shared register or z moves the last-result file; a write to a queue register does
not; a private register reads back what was written, z discards it; a shared register keeps its value until the cycles of the
instruction have passed and shows the result from then on; of two slots whose results reach it in the same cycle, the higher-numbered
one's is kept.
The model's choices it rests on besides: log entry 146. -/
def Obligations.RegisterReads : Prop :=
  (∀ s : State,
     (∀ k : Fin 8, s.popReg (.p k) = some (s.ctx.p[k], s)) ∧ (∀ k : Fin 32, s.popReg (.s k) = some (s.core.s[k], s)) ∧
     s.popReg (.l 0) = some (s.me.l0, s) ∧ s.popReg (.l 1) = some (s.me.l1, s) ∧ s.popReg .z = some (0, s) ∧
     s.popReg .id = some (s.ctx.id, s)) ∧
  (∀ (s : State) (k : Fin 8),
     (s.core.qs[k] = [] → s.popReg (.qs k) = none) ∧
     (∀ x l, s.core.qs[k] = x :: l → s.popReg (.qs k) = some (x, { s with core := { s.core with qs := s.core.qs.set k l } })) ∧
     (∀ x y l, s.core.qs[k] = x :: y :: l →
       s.popAll [.qs k, .qs k] = some ([x, y], { s with core := { s.core with qs := s.core.qs.set k l } })) ∧
     (∀ x, s.core.qs[k] = [x] → s.popAll [.qs k, .qs k] = none) ∧
     (s.fib.qtm = [] → s.popReg .qtm = none) ∧
     (∀ x l, s.fib.qtm = x :: l → s.popReg .qtm = some (x, s.setFib { s.fib with qtm := l })) ∧
     (s.fib.qev = [] → s.popReg .qev = none) ∧
     (∀ x l, s.fib.qev = x :: l → s.popReg .qev = some (x, s.setFib { s.fib with qev := l })) ∧
     (s.core.qmx.res = [] → s.popReg .qmx = none) ∧
     (∀ x l, s.core.qmx.res = x :: l → s.popReg .qmx = some (x, { s with core := { s.core with qmx := { s.core.qmx with res := l } } })) ∧
     (s.core.qhs = [] → s.popReg .qhs = none) ∧
     (∀ x l, s.core.qhs = x :: l → s.popReg .qhs =
       some (x, { s with core := { s.core with qhs := l ++ s.core.qhsLate.take 1, qhsLate := s.core.qhsLate.drop 1 } }))) ∧
  (∀ (s : State) (v : DWord),
     (∀ k : Fin 8, (s.writeReg (.p k) v).ctx.p = s.ctx.p.set k v ∧ (s.writeReg (.p k) v).me.l0 = v ∧ (s.writeReg (.p k) v).me.l1 = s.me.l0) ∧
     (∀ k : Fin 32, (s.writeReg (.s k) v).core.s = s.core.s ∧ (s.writeReg (.s k) v).me.l0 = v ∧ (s.writeReg (.s k) v).me.l1 = s.me.l0 ∧
       (s.writeReg (.s k) v).core.late = s.core.late ++ [⟨s.coreCycles + s.me.lat, s.sid.val, .reg k v⟩]) ∧
     ((s.writeReg .z v).me.l0 = v ∧ (s.writeReg .z v).me.l1 = s.me.l0 ∧ (s.writeReg .z v).ctx = s.ctx ∧ (s.writeReg .z v).core.s = s.core.s) ∧
     (∀ d : Reg, isQueue d = true → (s.writeReg d v).me.l0 = s.me.l0 ∧ (s.writeReg d v).me.l1 = s.me.l1)) ∧
  (∀ (s : State) (k : Fin 32) (due i j : Nat) (v w : DWord),
     (s.core.late = [⟨due, i, .reg k v⟩] →
       (s.coreCycles < due → s.landCore.core = s.core) ∧
       (due ≤ s.coreCycles → s.landCore.core = { s.core with s := s.core.s.set k v, late := [] })) ∧
     (i < j → due ≤ s.coreCycles →
       (s.core.late = [⟨due, i, .reg k v⟩, ⟨due, j, .reg k w⟩] ∨ s.core.late = [⟨due, j, .reg k w⟩, ⟨due, i, .reg k v⟩]) →
       s.landCore.core.s = s.core.s.set k w))

/-- R23, R117, R26: a word pushed to qs, qvx, qmx, qcp or qac joins the tail of its queue when the cycles of the instruction have passed, and waits
there while the queue is full; an instruction whose word would find the queue full, with the words counted that enter it by the end of the
next cycle, stalls; a write to qtm arms one of four timers, due T nanoseconds later, or with 0 cancels them all; a time of 2^40 or more is
RESERVED_FIELD.
The frame of the register instructions (01 R19, R29; 04 R115, R138): with sources that are no queues and a destination
p, s or z, each completes; memory, the other registers, the identifier, the deadline, the status word but for the sticky
flags of floating point, the core's special registers and every other slot and core are as before; p7 moves only by the
loop step; a shared destination is under way and keeps its value for now. That the words which enter at the end of the present cycle
count as standing in the queue is the model's choice (log entry 147).
The model's choices it rests on besides: log entry 146. -/
def Obligations.RegisterWrites : Prop :=
  (∀ (s : State) (v : DWord),
     let p (r : Reg) : Nat := s.core.pushes r (s.coreCycles + 1)
     let takes (r : Reg) (len max : Nat) : Prop :=
       (len + p r < max → s.dstCheck r v = .ok ∧
         (s.writeReg r v).core = { s.core with late := s.core.late ++ [⟨s.coreCycles + s.me.lat, s.sid.val, .push r v⟩] }) ∧
       (max ≤ len + p r → s.dstCheck r v = .stall)
     (∀ k : Fin 8, takes (.qs k) s.core.qs[k].length 8) ∧ takes .qvx s.core.qvx.cmds.length 4 ∧ takes .qmx s.core.qmx.cmds.length 4 ∧
     takes .qcp s.core.qcp.cmds.length 4 ∧ takes .qac s.core.qac.cmds.length 4 ∧
     (∀ (due : Nat) (i : Fin 8),
       let enters (r : Reg) (len max : Nat) (c : Core) : Prop :=
         let x : Late := ⟨due, i.val, .push r v⟩
         (len < max → (s.landOne x).core = c) ∧ (max ≤ len → (s.landOne x).core = { s.core with late := s.core.late ++ [x] })
       (∀ k : Fin 8, enters (.qs k) s.core.qs[k].length 8 { s.core with qs := s.core.qs.set k (s.core.qs[k] ++ [v]) }) ∧
       enters .qvx s.core.qvx.cmds.length 4 { s.core with qvx := { s.core.qvx with cmds := s.core.qvx.cmds ++ [(v, i.val)] } } ∧
       enters .qmx s.core.qmx.cmds.length 4 { s.core with qmx := { s.core.qmx with cmds := s.core.qmx.cmds ++ [(v, i.val)] } } ∧
       enters .qcp s.core.qcp.cmds.length 4 { s.core with qcp := { s.core.qcp with cmds := s.core.qcp.cmds ++ [(v, i.val)] } } ∧
       enters .qac s.core.qac.cmds.length 4 { s.core with qac := { s.core.qac with cmds := s.core.qac.cmds ++ [(v, i.val)] } }) ∧
     (2 ^ 40 ≤ v.toNat → s.dstCheck .qtm v = .fault (flt 0x02)) ∧
     (s.dstCheck .qtm 0 = .ok ∧ (s.writeReg .qtm 0).fib.timers = [] ∧ (s.writeReg .qtm 0).fib.expired = [] ∧ (s.writeReg .qtm 0).fib.qtm = []) ∧
     (v ≠ 0 → v.toNat < 2 ^ 40 →
       (4 ≤ s.fib.timers.length + s.fib.expired.length + s.fib.qtm.length → s.dstCheck .qtm v = .stall) ∧
       (s.fib.timers.length + s.fib.expired.length + s.fib.qtm.length < 4 → s.dstCheck .qtm v = .ok ∧
         (s.writeReg .qtm v).fib.timers = s.fib.timers ++ [⟨s.now + v.toNat, s.fib.armCount % 65536⟩]))) ∧
  (∀ (i : Instr) (rs : List Reg) (d : Reg) (s : State), regOpOf i = some (rs, d) → (∀ r ∈ rs, isQueue r = false) → d.isPlain = true →
     s.gateFault ⟨rs, some d, false, false⟩ = none →
     ∃ t : State, exec i s = .next t ∧ t.mem = s.mem ∧
       (∀ k : Fin 8, k ≠ 7 → d ≠ .p k → t.ctx.p[k] = s.ctx.p[k]) ∧
       (d ≠ .p 7 → t.ctx.p[7] = (s.stepCtx s.ctx s.ctx.pc).p[7]) ∧
       ((∀ k, d ≠ .s k) → t.core.late = s.core.late) ∧
       (∀ k, d = .s k → ∃ v, t.core.late = s.core.late ++ [⟨s.coreCycles + s.me.lat, s.sid.val, .reg k v⟩]) ∧
       t.ctx.pg = s.ctx.pg ∧ t.ctx.id = s.ctx.id ∧ t.ctx.dl = s.ctx.dl ∧
       t.ctx.status &&& 0xFFF01FFF = s.ctx.status &&& 0xFFF01FFF ∧ (isFloat i = false → t.ctx.status = s.ctx.status) ∧
       { t.core with slots := s.core.slots, late := s.core.late } = s.core ∧
       (∀ k : Fin 8, k ≠ s.sid → t.core.slots[k] = s.core.slots[k]) ∧ { t with core := s.core } = s)

/-- R51 steps 3 and 4, R24, R29: what the instructions of gateOf do before their own operation, where no field of theirs is refused
earlier. A field that faults (privilege, id as destination, pg not zero, a queue's direction) raises that fault in the state before any
pop; a source word with bad parity is popped, its mark is removed and MEM_POISON is raised; an empty source queue stalls the slot.
R51 step 3, R19, R29: which fault the fields raise.
The model's choices it rests on besides: log entries 13, 14. -/
def Obligations.GatesAndFieldFaults : Prop :=
  (∀ (i : Instr) (o : Opnds) (s : State), gateOf i = some o → s.refusedEarly i = false →
     (∀ f, s.gateFault o = some f → f.code ≠ 0x0E → exec i s = .next (s.raise f)) ∧
     (∀ r t v f, s.gateFault o = some f → f.code = 0x0E → o.reads.find? s.badWord = some r → s.popReg r = some (v, t) →
       let q := t.core.queuePoison.filter fun p => !s.badKey r p
       f = { code := 0x0E, eaddr := r.code.setWidth 64, eidx := 0, arg := 10 } ∧
         exec i s = .next (({ t with core := { t.core with queuePoison := q } } : State).raise f)) ∧
     (s.gateFault o = none → s.popAll o.reads = none → exec i s = .next (s.stallRead o.reads))) ∧
  (∀ (s : State) (o : Opnds),
     (o.sup = true → s.sid ≠ 7 → s.gateFault o = some (flt 0x03)) ∧
     ((o.sup = true → s.sid = 7) → o.dst = some .id → s.gateFault o = some (flt 0x03)) ∧
     ((o.sup = true → s.sid = 7) → o.dst ≠ some .id → s.ctx.pg ≠ 0 → o.elems = false → s.gateFault o = some (flt 0x09)) ∧
     ((o.sup = true → s.sid = 7) → (s.ctx.pg = 0 ∨ o.elems = true) →
       ∀ d ∈ [Reg.qm 0, .qm 1, .qam, .qjn, .qev], o.dst = some d → s.gateFault o = some (fltAt 0x15 (d.code.setWidth 64))))

/-! Traps (13, 09). -/

/-- R366, Table 1-3: a precise fault in slots 0 to 5: the fibre is FAULTED, out of its slot, which is free after three cycles, its PC at the first
address of its group; pg is 0 but for PROGRESS_MISMATCH; its trap joins the core's queue; memory and the other slots are as before. The slot
is emptied even where its slot-scope queues hold words, which stay with the fibre (the model's choice, log entry 118).
R364, R291, R289, Table 9-3: the delivery of a trap writes the trap registers and starts slot 7 at BASE·4096 + 64·CODE
with pg 0, its private registers as they were; nothing else of the module changes but that the frame leaves as four 64-byte shipped writes
to FA and the three places behind it, which hold no tag (in one step: the model's choice, log entry 150).
The model's choices it rests on besides: log entry 69. -/
def Obligations.FaultsAndTrapEntry : Prop :=
  (∀ (s : State) (f : Flt) (e : Nat), s.sid.val < 6 → s.me.ent = some e →
     (s.raise f).core.slots = s.core.slots.set s.sid { Slot.reset with ready := s.coreCycles + 4 } ∧
     (s.raise f).core.runq = s.core.runq.set e
       { s.fib with ctx := ({ s.ctx with pc := s.groupPc, pg := if f.code = 0x09 then s.ctx.pg else 0 } : Ctx).inState 4 0, wait := none,
                    readyAt := s.coreCycles + 4 } ∧
     (∃ t : Trap, (s.raise f).core.traps = s.core.traps ++ [t] ∧ t.code = f.code ∧ t.async = false ∧ t.ent = some e ∧ t.slot = s.sid.val ∧
       t.epc = s.groupPc ∧ t.epg = (if f.code = 0x09 then s.ctx.pg else 0) ∧ t.eaddr = f.eaddr ∧ t.eidx = f.eidx ∧ t.arg = f.arg) ∧
     { (s.raise f).core with slots := s.core.slots, runq := s.core.runq, traps := s.core.traps } = s.core ∧
     { s.raise f with core := s.core } = s) ∧
  (∀ (s : State) (t : Trap), t.code < 64 → t.slot < 8 →
     let u := s.takeTrap t true
     u.core.cause = BitVec.ofNat 64 (t.code + t.async.toNat * 2 ^ 6 + t.arg.toNat * 2 ^ 8 +
       (match t.ent with
        | some e => (whoHandle ⟨s.cid, e⟩).toNat % 2 ^ 23
        | none => if t.code = 0x17 then (t.extra.headD 0).toNat % 2 ^ 23 else 0) * 2 ^ 32 + t.slot * 2 ^ 56) ∧
     u.core.epc = t.epc.setWidth 64 ∧ u.core.epg = t.epg ∧ u.core.eaddr = t.eaddr ∧ u.core.eidx = t.eidx ∧
     u.core.slots[(7 : Fin 8)].busy = true ∧
     u.core.slots[(7 : Fin 8)].fib.ctx.pc = BitVec.ofNat 48 ((s.core.trapbase.extractLsb' 12 36).toNat * 4096 + 64 * t.code) ∧
     u.core.slots[(7 : Fin 8)].fib.ctx.pg = 0 ∧ u.core.slots[(7 : Fin 8)].fib.ctx.p = s.core.slots[(7 : Fin 8)].fib.ctx.p ∧
     (∀ k : Fin 8, k ≠ 7 → u.core.slots[k] = s.core.slots[k]) ∧
     { u.core with slots := s.core.slots, cause := s.core.cause, epc := s.core.epc, epg := s.core.epg, eaddr := s.core.eaddr,
                   eidx := s.core.eidx, ejrn := s.core.ejrn, lost := s.core.lost, trapSeq := s.core.trapSeq, handling := s.core.handling } = s.core ∧
     { u with core := s.core } = s) ∧
  (∀ (s : State) (l : List Byte),
     let u := s.sendFrame l
     u.mem = s.mem ∧ u.jobs = s.jobs ∧ { u.core with homes := s.core.homes } = s.core ∧
     (∀ p ∈ s.net, p ∈ u.net) ∧
     ∀ i < 4, ∃ p ∈ u.net, ∃ q, p.ev = .wt64 q ∧ q.va = BitVec.ofNat 48 (s.frameAddr + 64 * i) ∧ q.payload = (l.drop (64 * i)).take 64 ∧
       q.who = ⟨s.cid, 257⟩ ∧ q.job = none ∧ p.order = [granulePlaces (s.frameAddr + 64 * i) 64] ∧ ∃ k, p.dst = serverDst k)

/-- R292, R369: ERET outside a trap handler ends the urgent task; for a trap without a fibre it ends the handler; with REMOVE
the trapped fibre ceases to exist; else, once every access of the core to the frame is performed, it takes the frame's context with PC from
EPC and pg from EPG. In other slots it raises PRIVILEGE.
R290: TRAP and BKPT complete and then raise their fault, with the code operand in CAUSE.ARG and EPC where the program
continues.
R296, R293, R373, R295, R294: PRGRD and PRGWR in and outside a trap handler; MTSR of UTASK, DLPROBE and EJRN; SYNCID; RFWIN.
The model's choices it rests on besides: log entries 26, 30, 31. -/
def Obligations.TrapAndSupervisorInstructions : Prop :=
  (∀ s : State,
     (s.sid ≠ 7 → exec .eret s = .next (s.raise (flt 0x03))) ∧
     (s.Ready ⟨[], none, true, false⟩ [] s →
       (s.core.handling = none → exec .eret s = .next (s.advance.endSlot7)) ∧
       (∀ t, s.core.handling = some t → t.ent = none → exec .eret s = .next s.endSlot7) ∧
       (∀ t e, s.core.handling = some t → t.ent = some e → s.core.cause.getLsbD 63 = true →
         exec .eret s = .next (s.removeFibre e).endSlot7) ∧
       (∀ t e, s.core.handling = some t → t.ent = some e → s.core.cause.getLsbD 63 = false → s.frameBusy = true →
         exec .eret s = .next s.stall) ∧
       (∀ t e l f c, s.core.handling = some t → t.ent = some e → s.core.cause.getLsbD 63 = false → s.frameBusy = false →
         let n := s.vNote s.frameAddr 256
         n.vBytes n.frameAddr 256 = some l → n.core.fibre? e = some f → ctxOfFrame l f.ctx n.core.epc n.core.epg = some c →
         c.pc = n.core.epc.setWidth 48 ∧ c.pg = n.core.epg ∧ c.id = f.ctx.id ∧
           exec .eret s = .next (n.endSlot7.restoreFibre e c)))) ∧
  (∀ (s : State) (a n : Nat), (s.vNote a n).core = s.core ∧ (s.vNote a n).mem = s.mem) ∧
  (∀ (s : State) (code : BitVec 8), s.Ready ⟨[], none, false, false⟩ [] s →
     exec (.trap code) s = .next (s.advance.faultAt ⟨0x19, 0, 0, code⟩ s.advance.ctx.pc s.advance.ctx.pg) ∧
     exec (.bkpt code) s = .next (s.advance.faultAt ⟨0x18, 0, 0, code⟩ s.advance.ctx.pc s.advance.ctx.pg)) ∧
  (∀ (s t : State) (d a : Reg) (x : DWord),
     (s.Ready ⟨[], some d, false, false⟩ [] s →
       (s.sid = 7 → s.core.handling.isSome = true → s.dstCheck d s.core.epg = .ok → exec (.prgrd d) s = .next ((s.writeReg d s.core.epg).advance)) ∧
       ((s.sid ≠ 7 ∨ s.core.handling = none) → s.dstCheck d s.ctx.pg = .ok → exec (.prgrd d) s = .next ((s.writeReg d s.ctx.pg).advance))) ∧
     (s.Ready ⟨[a], none, true, false⟩ [x] t →
       (s.core.handling.isSome = true → exec (.prgwr a) s = .next ({ t with core := { t.core with epg := x } } : State).advance) ∧
       (s.core.handling = none → exec (.prgwr a) s = .next ((t.setCtx { t.ctx with pg := x }).advance))) ∧
     (s.sid ≠ 7 → exec (.mtsrUtask a) s = .next (s.raise (fltAt 0x03 0x011)) ∧ exec (.mtsrDlprobe a) s = .next (s.raise (fltAt 0x03 0x013)) ∧
       exec (.mtsrEjrn a) s = .next (s.raise (fltAt 0x03 0x025))) ∧
     (s.Ready ⟨[a], none, false, false⟩ [x] t →
       (s.sid = 7 →
         (x.toNat < 2 ^ 48 → x.toNat % 4 = 0 → s.core.utasks.length < 8 →
           exec (.mtsrUtask a) s =
             .next ({ t with core := { t.core with utasks := t.core.utasks ++ [(x.setWidth 48, t.core.utarg, none)], utarg := 0 } } : State).advance) ∧
         (x.toNat < 2 ^ 32 → ∃ u, exec (.mtsrDlprobe a) s = .next u ∧ (u.dies[Fin.ofNat 8 (s.cid / 2304)]).dlprobe = x.setWidth 32) ∧
         (x.toNat < 32 → exec (.mtsrEjrn a) s = .next ((t.setCore { t.core with ejrn := x }).advance)) ∧
         (∀ j, j < 32 → x = BitVec.ofNat 64 (2 ^ 63 + j) →
           (s.core.kept j = false → exec (.mtsrEjrn a) s = .next (s.raise (flt 0x02))) ∧
           (s.core.kept j = true → exec (.mtsrEjrn a) s = .next ((t.setCore ({ t.core with ejrn := BitVec.ofNat 64 j }.freeJournal j)).advance))))) ∧
     (s.Ready ⟨[], none, false, false⟩ [] s →
       (s.fenced .core ≠ [] → exec .syncid s = .next s.stall) ∧
       (s.fenced .core = [] → ∃ u, exec .syncid s = .next u ∧ u.core.lines = [] ∧ u.core.fetching = [] ∧
         (∀ k : Fin 8, (u.core.slots[k]).line = none ∧ (u.core.slots[k]).lend = none) ∧ u.mem = s.mem ∧ u.ctx.pc = s.advance.ctx.pc)) ∧
     (s.Ready ⟨[a], none, true, false⟩ [x] t →
       (2 ^ 24 ≤ x.toNat → exec (.rfwin a) s = .next (s.raise (flt 0x02))) ∧
       (x.toNat < 2 ^ 24 → ∃ u, exec (.rfwin a) s = .next u ∧ u.mem = t.mem ∧ u.core = t.advance.core)))

/-! System registers (09). -/

/-- R286: what MFSR and MTSR may read and write in slots 0 to 6 and in slot 7, and the faults of what they may not, which an MTSR raises
before its operand is read. R287: what a permitted write does to the fibre's, the core and the trap registers, and that a write of another
register than TAGS and STAGECNT leaves memory, the fibre's private and the core's shared registers alone.
The model's choices it rests on besides: log entry 30. -/
def Obligations.SystemRegisters : Prop :=
  (∀ (s t : State) (sr : BitVec 12) (d a : Reg) (x : DWord),
     (s.Ready ⟨[], some d, false, false⟩ [] s →
       (SysReg.ofNum sr = none → exec (.mfsr d sr) s = .next (s.raise (flt 0x02))) ∧
       (∀ r, SysReg.ofNum sr = some r → s.sid ≠ 7 → userRead r = false → exec (.mfsr d sr) s = .next (s.raise (fltAt 0x03 (sr.setWidth 64)))) ∧
       (∀ r, SysReg.ofNum sr = some r → r ≠ .time → (s.sid = 7 ∨ userRead r = true) → s.dstCheck d (s.readSys r) = .ok →
         exec (.mfsr d sr) s = .next ((s.writeReg d (s.readSys r)).advance)) ∧
       (SysReg.ofNum sr = some .time → s.recStall = false → s.replayed s.self.ent = none → let v : DWord := BitVec.ofNat 64 s.now
         let u := s.record s.self.ent 5 0xFF v
         u.dstCheck d v = .ok → exec (.mfsr d sr) s = .next ((u.writeReg d v).advance))) ∧
     (SysReg.ofNum sr = none → exec (.mtsr sr a) s = .next (s.raise (flt 0x02))) ∧
     (∀ r, SysReg.ofNum sr = some r → s.sid ≠ 7 → userWrite r = false → exec (.mtsr sr a) s = .next (s.raise (fltAt 0x03 (sr.setWidth 64)))) ∧
     (∀ r, SysReg.ofNum sr = some r → s.sid = 7 → superWrite r = false → exec (.mtsr sr a) s = .next (s.raise (flt 0x02))) ∧
     (s.Ready ⟨[a], none, false, false⟩ [x] t →
       (∀ r, SysReg.ofNum sr = some r → (s.sid = 7 ∧ superWrite r = true ∨ s.sid ≠ 7 ∧ userWrite r = true) → sysReserved r x = true →
         exec (.mtsr sr a) s = .next (s.raise (flt 0x02))) ∧
       (∀ r, SysReg.ofNum sr = some r → s.sid = 7 → superWrite r = true → sysReserved r x = false →
         exec (.mtsr sr a) s = .next ((t.writeSys r x).advance)) ∧
       (∀ r, SysReg.ofNum sr = some r → s.sid ≠ 7 → userWrite r = true → sysReserved r x = false → (r = .pri → x.toNat % 8 ≤ s.launchPri) →
         exec (.mtsr sr a) s = .next ((t.writeSys r x).advance)) ∧
       (SysReg.ofNum sr = some .pri → s.sid ≠ 7 → x.toNat < 8 → s.launchPri < x.toNat →
         exec (.mtsr sr a) s = .next (s.raise (fltAt 0x03 (sr.setWidth 64)))))) ∧
  (∀ (s : State) (x : DWord),
     (∀ i < 32, ((s.writeSys .status x).ctx.status).getLsbD i =
       if (7 ≤ i ∧ i < 13) ∨ (20 ≤ i ∧ i < 30) then x.getLsbD i
       else if (13 ≤ i ∧ i < 20) ∨ i = 30 then s.ctx.status.getLsbD i && !x.getLsbD i
       else s.ctx.status.getLsbD i) ∧
     (s.writeSys .flags x).ctx.status = s.ctx.status &&& ~~~(x.setWidth 32 <<< 13) ∧
     (s.writeSys .dln x).ctx.dl = x.setWidth 48 ∧
     (s.writeSys .part0 x).core = { s.core with part0 := x } ∧ (s.writeSys .part1 x).core = { s.core with part1 := x } ∧
     (s.writeSys .trapbase x).core = { s.core with trapbase := x } ∧ (s.writeSys .livetab x).core = { s.core with livetab := x } ∧
     (s.writeSys .captok x).core = { s.core with captok := x } ∧ (s.writeSys .utarg x).core = { s.core with utarg := x } ∧
     (s.writeSys .cause x).core = { s.core with cause := x } ∧ (s.writeSys .epc x).core = { s.core with epc := x &&& ~~~3 } ∧
     (s.writeSys .epg x).core = { s.core with epg := x } ∧ (s.writeSys .eaddr x).core = { s.core with eaddr := x } ∧
     (s.writeSys .eidx x).core = { s.core with eidx := x } ∧ (s.writeSys .mxexc x).core = { s.core with mxexc := s.core.mxexc &&& ~~~x } ∧
     (∀ k, (s.writeSys (.bfmt k) x).core = { s.core with bfmt := s.core.bfmt.set k (x.setWidth 32) }) ∧
     (∀ r, r ≠ .tags → r ≠ .stagecnt → (s.writeSys r x).mem = s.mem ∧ (s.writeSys r x).ctx.p = s.ctx.p ∧ (s.writeSys r x).core.s = s.core.s))

/-! Memory instructions (05, 11). -/

/-- R145, R149: LD and LDS of the own scratchpad deliver the n bytes at the effective address, little-endian, zero- or sign-extended, to d,
or for d = qam to the entry of qam they take; where no full/empty wait of the word stands, memory is as before.
R149, R156: ST, and PST to the own scratchpad, store the n low bytes of d at the effective address; where no full/empty
wait of the word stands, every byte outside the n stored reads as before.
R146: the faults of these four, in their order: no region, then for the own scratchpad alignment, a bank's end, PART0, and for a peer's
alignment, PART1.
The model's choices it rests on besides: log entry 47. -/
def Obligations.LocalAccesses : Prop :=
  (∀ (sz : Size) (d a : Reg) (off : BitVec 12) (s t : State) (x : DWord) (o : Nat),
     s.Ready ⟨[a], splitDst d, false, false⟩ [x] t →
     let ea := x + s.immM off * BitVec.ofNat 64 sz.bytes
     s.LocalAt { noAccess with addr := ea, size := sz } sz.bytes o → t.core.poisoned o sz.bytes = false →
     let w := BitVec.ofNat 64 (leNat (memBytes t.mem (spHome s.cid o) sz.bytes))
     let v := ((w.setWidth (8 * sz.bytes)).signExtend 64 : DWord)
     let gives (i : Instr) (sx : Bool) (v : DWord) : Prop := t.takes d v →
       let u := State.retest 33 (t.endsIn d ea false (.load d sz sx) v) o
       exec i s = .next u ∧ (t.noWaiter o → u.mem = s.mem)
     gives (.ld sz d a off) false w ∧ gives (.lds sz d a off) true v) ∧
  (∀ (sz : Size) (d a : Reg) (off : BitVec 12) (s t : State) (x v : DWord) (o : Nat),
     s.Ready ⟨[a, d], none, false, false⟩ [x, v] t →
     s.LocalAt { noAccess with kind := .store, addr := x + s.immM off * BitVec.ofNat 64 sz.bytes, size := sz, a := v } sz.bytes o →
     let u := State.retest 33 ((t.spWrite s.cid o (leBytes v.toNat sz.bytes)).advance) o
     exec (.st sz d a off) s = .next u ∧ exec (.pst sz d a off) s = .next u ∧
     (t.noWaiter o →
       memBytes u.mem (spHome s.cid o) sz.bytes = leBytes v.toNat sz.bytes ∧
       (∀ b, (b < spHome s.cid o ∨ spHome s.cid o + sz.bytes ≤ b) → memGet u.mem b = memGet s.mem b) ∧ u.ctx.p[0] = t.ctx.p[0])) ∧
  (∀ (sz : Size) (d a : Reg) (off : BitVec 12) (s t : State) (x v : DWord),
     let ea := x + s.immM off * BitVec.ofNat 64 sz.bytes
     let bad (i : Instr) : Prop :=
       (regionOf s.cid ea = .none → exec i s = .next (s.raise (fltAt 0x13 ea))) ∧
       (∀ o, regionOf s.cid ea = .own o →
         (ea.toNat % sz.bytes ≠ 0 → exec i s = .next (s.raise (fltAt 0x04 ea))) ∧
         (ea.toNat % sz.bytes = 0 → 8192 < o % 8192 + sz.bytes → exec i s = .next (s.raise (fltAt 0x05 ea))) ∧
         (ea.toNat % sz.bytes = 0 → o % 8192 + sz.bytes ≤ 8192 → s.core.inPart0 o sz.bytes = false →
           exec i s = .next (s.raise (fltAt 0x06 ea)))) ∧
       (∀ c o, regionOf s.cid ea = .peer c o →
         (ea.toNat % sz.bytes ≠ 0 → exec i s = .next (s.raise (fltAt 0x04 ea))) ∧
         (ea.toNat % sz.bytes = 0 → s.core.inPart1 c = false → exec i s = .next (s.raise (fltAt 0x06 ea))))
     (s.Ready ⟨[a, d], none, false, false⟩ [x, v] t → bad (.st sz d a off) ∧ bad (.pst sz d a off)) ∧
     (s.Ready ⟨[a], splitDst d, false, false⟩ [x] t → bad (.ld sz d a off) ∧ bad (.lds sz d a off)))

/-- R154: the full/empty forms on the own scratchpad. LDFE waits for full, takes the word and leaves it empty; LDFF leaves
it full; STFE waits for empty and leaves it full; STFF does not wait. A wait is a block with reason FULLEMPTY, or for d = qam an
entry of qam without its word; the words that were popped stay with it.
R164, R165, R168, Table 5-4: the atomics on the own scratchpad: the word takes the new value of the table, d, or the entry of qam, the
old one; the operands of a posted atomic to the own scratchpad do the same; ACAS with WIDE compares and swaps sixteen bytes and writes
the old pair at d. -/
def Obligations.FullEmptyAndAtomics : Prop :=
  (∀ (d a : Reg) (off : BitVec 12) (s t : State) (x v : DWord) (o : Nat),
     let ea := x + off.signExtend 64 * 8
     (s.Ready ⟨[a], splitDst d, false, false⟩ [x] t → s.LocalAt { noAccess with kind := .ldfe, addr := ea } 8 o →
       let w := t.spWord s.cid o
       (t.core.full.contains o = true → t.core.poisoned o 8 = false → t.takes d w →
         exec (.ldfe d a off) s =
           .next (State.retest 33 ((t.modCore s.cid fun c => c.setFull o false).endsIn d ea true (.fe .ldfe d ea 0) w) o) ∧
         exec (.ldff d a off) s = .next (State.retest 33 (t.endsIn d ea true (.fe .ldff d ea 0) w) o)) ∧
       (t.core.full.contains o = false → d ≠ .qam →
         exec (.ldfe d a off) s = .next ((t.block ((t.newWait (.fe .ldfe d ea 0) 4 none 0 (some { noAccess with kind := .ldfe, addr := ea })).popped
           [a] [x])).recordWaiter ⟨t.self, t.nextId, .wait, t.myJob⟩ { noAccess with kind := .ldfe, addr := ea })) ∧
       (t.core.full.contains o = false → d = .qam → t.fib.qam.length < 4 →
         exec (.ldfe d a off) s = .next (((t.reserveQam ea true (.fe .ldfe d ea 0) none none).advance).recordWaiter
           ⟨t.self, t.nextId, .qam, t.myJob⟩ { noAccess with kind := .ldfe, addr := ea }))) ∧
     (s.Ready ⟨[a, d], none, false, false⟩ [x, v] t → s.LocalAt { noAccess with kind := .stfe, addr := ea, a := v } 8 o → s.outstanding = [] →
       (t.core.full.contains o = false →
         exec (.stfe d a off) s = .next (State.retest 33 (((t.spWrite s.cid o (leBytes v.toNat 8)).modCore s.cid fun c => c.setFull o true).advance) o)) ∧
       exec (.stff d a off) s = .next (State.retest 33 (((t.spWrite s.cid o (leBytes v.toNat 8)).modCore s.cid fun c => c.setFull o true).advance) o) ∧
       (t.core.full.contains o = true →
         exec (.stfe d a off) s = .next ((t.block ((t.newWait (.fe .stfe .z ea v) 4 none 0
           (some { noAccess with kind := .stfe, addr := ea, a := v })).popped [a, d] [x, v])).recordWaiter
           ⟨t.self, t.nextId, .wait, t.myJob⟩ { noAccess with kind := .stfe, addr := ea, a := v })))) ∧
  (∀ (o : Order) (sz : Size) (d a b : Reg) (s t : State) (x y z : DWord) (at_ : Nat), (isRel o = true → s.outstanding = []) →
     let old := leNat (memBytes t.mem (spHome s.cid at_) sz.bytes)
     let M := 2 ^ (8 * sz.bytes)
     let sg (w : Nat) : Int := if 2 * (w % M) < M then (w % M : Nat) else (w % M : Nat) - (M : Int)
     let goes (i : Instr) (op : AtomOp) (new : Nat) : Prop :=
       s.LocalAt { noAccess with kind := .atomic op, addr := x, size := sz, a := y, b := z } sz.bytes at_ → t.core.poisoned at_ sz.bytes = false →
       t.core.counterAt at_ = none → t.takes d (BitVec.ofNat 64 old) →
         exec i s = .next (State.retest 33 ((t.spWrite s.cid at_ (leBytes new sz.bytes)).endsIn d x (isAcq o) (.atomic d sz) (BitVec.ofNat 64 old)) at_)
     (s.Ready ⟨[a, b], splitDst d, false, false⟩ [x, y] t → z = 0 →
       goes (.aadd o sz d a b) .add ((old + y.toNat) % M) ∧ goes (.aswp o sz d a b) .swp (y.toNat % M) ∧
       goes (.aand o sz d a b) .and (old &&& y.toNat % M) ∧ goes (.aor o sz d a b) .or (old ||| y.toNat % M) ∧
       goes (.axor o sz d a b) .xor (old ^^^ y.toNat % M) ∧
       goes (.amin o sz d a b) .min (if sg y.toNat < sg old then y.toNat % M else old) ∧
       goes (.amax o sz d a b) .max (if sg old < sg y.toNat then y.toNat % M else old) ∧
       goes (.aminu o sz d a b) .minu (Min.min (y.toNat % M) old) ∧ goes (.amaxu o sz d a b) .maxu (Max.max (y.toNat % M) old)) ∧
     (s.Ready ⟨[a], splitDst d, false, false⟩ [x] t → y = 0 → z = 0 → goes (.ainc o sz d a) .inc ((old + 1) % M)) ∧
     (s.Ready ⟨[a, b, pairNext b], splitDst d, false, false⟩ [x, y, z] t → s.wideOn = false →
       goes (.acas o sz d a b) .cas (if old = y.toNat % M then z.toNat % M else old))) ∧
  (∀ (o : Order) (d a b : Reg) (s t : State) (x y0 y1 z0 z1 : DWord) (at_ : Nat), (isRel o = true → s.outstanding = []) → s.wideOn = true →
     d.isPair = true → d ≠ .qam → s.Ready ⟨[a, b, pairNext b, d, pairNext d], some d, false, false⟩ [x, y0, y1, z0, z1] t →
     s.LocalAt { noAccess with kind := .cas16, addr := x, a := y0, b := y1, c := z0, e := z1 } 16 at_ → t.core.poisoned at_ 16 = false →
     t.core.counterAt at_ = none → t.core.counterAt (at_ + 8) = none →
     let w0 := t.spWord s.cid at_
     let w1 := t.spWord s.cid (at_ + 8)
     let u := if w0 = y0 ∧ w1 = y1 then t.spWrite s.cid at_ (wordBytes [z0, z1]) else t
     exec (.acas o .b8 d a b) s = .next (State.retest 33 ((u.writePair d w0 w1).advance) at_))

/-- R145, R151 to R153, R156: LD, LDS, ST and PST to another place leave the core as one packet; a plain one blocks with reason REMOTE, one
to qam takes an entry of qam and completes, a posted one takes a journal entry and completes, or stalls where none is free; memory is as before.
Which free journal entry it takes is the model's choice (log entry 124).
R171 to R173, Table 10-2: a FENCE completes when its scope has nothing left to wait for, and stalls until then; for .pkg and .sys that is every
operation of the fibre that is not yet performed (the model's reading, log entry 26), and .sys issues one flush read behind writes to the host
window and waits for it.
FENCE.bank waits for the fibre's posted and split-phase accesses to the bank that a names.
R160, R384: SHIP takes the lowest free tag of its queue and sends the request to the stack of the address; with no free
tag it stalls; a queue register that is not qm0 or qm1 is refused before an operand is read; a bad scratch operand is answered with its status. -/
def Obligations.RemoteAccessesAndFences : Prop :=
  (∀ (sz : Size) (d a : Reg) (off : BitVec 12) (s t : State) (x v : DWord) (r : Region),
     let ea := x + s.immM off * BitVec.ofNat 64 sz.bytes
     let ld : Access := { noAccess with addr := ea, size := sz }
     let st : Access := { noAccess with kind := .store, addr := ea, size := sz, a := v }
     (∀ o, r ≠ .own o) → s.heldByAcquire = false → s.checkAccess ea sz.bytes sz.bytes plainRefuses = .ok r →
     let asks (i : Instr) (sx : Bool) : Prop :=
       (d ≠ .qam → exec i s = .next ((t.block ((t.newWait (.load d sz sx) 7 none 0 (some ld)).counted t.myJob)).launch r
         ⟨t.self, t.nextId, .wait, t.myJob⟩ ld [])) ∧
       (d = .qam → t.fib.qam.length < 4 → exec i s = .next (((t.reserveQam ea false (.load d sz sx) none t.myJob).advance).launch r
         ⟨t.self, t.nextId, .qam, t.myJob⟩ ld []))
     let t' : State := if r = .host then t.setFib { t.fib with unflushed := true } else t
     let keeps (i : Instr) : Prop := ∀ u, exec i s = .next u → u.mem = s.mem
     (s.Ready ⟨[a], splitDst d, false, false⟩ [x] t →
       asks (.ld sz d a off) false ∧ asks (.lds sz d a off) true ∧ keeps (.ld sz d a off) ∧ keeps (.lds sz d a off)) ∧
     (s.Ready ⟨[a, d], none, false, false⟩ [x, v] t →
       exec (.st sz d a off) s = .next ((t'.block ((t'.newWait .store 7 none 0 (some st)).counted t.myJob)).launch r
         ⟨t'.self, t'.nextId, .wait, t.myJob⟩ st []) ∧
       (∀ j, s.core.freeJournal? = some j →
         exec (.pst sz d a off) s = .next (((t'.addJournal j st).quick.advance).launch r ⟨t'.self, t'.nextId, .journal j, t.myJob⟩ st [])) ∧
       (s.core.freeJournal? = none → exec (.pst sz d a off) s = .next s.stall) ∧ keeps (.st sz d a off) ∧ keeps (.pst sz d a off))) ∧
  (∀ (s t : State) (a : Reg) (x : DWord) (c : Scope),
     (s.Ready ⟨[], none, false, false⟩ [] s →
       (s.fenced c ≠ [] → exec (.fence c) s = .next s.stall) ∧
       (s.fenced c = [] → c ≠ .sys → exec (.fence c) s = .next s.advance) ∧
       (s.fenced .sys = [] → s.fib.flush = none → s.fib.unflushed = false → exec (.fence .sys) s = .next s.advance) ∧
       (s.fib.flush.isSome = true → exec (.fence .sys) s = .next s.stall) ∧
       (s.fenced .sys = [] → s.fib.flush = none → s.fib.unflushed = true → exec (.fence .sys) s = .next (s.startFlush s.self).stall)) ∧
     s.fenced .pkg = s.outstanding ∧ s.fenced .sys = s.outstanding ∧
     (s.Ready ⟨[a], none, false, false⟩ [x] t →
       let bank (w : DWord) : Option (Nat × Nat) := match regionOf s.cid w with
         | .own o => some (s.cid, o / 8192)
         | .peer k o => some (k, o / 8192)
         | _ => none
       (bank x = none → exec (.fenceBank a) s = .next (s.raise (fltAt 0x13 x))) ∧
       (∀ b, bank x = some b → (∀ e ∈ s.core.journal, e.ent = s.self.ent → bank e.addr ≠ some b) →
         (∀ e ∈ s.fib.qam, e.val = none → bank e.addr ≠ some b) → exec (.fenceBank a) s = .next t.advance) ∧
       (∀ b, bank x = some b → ((∃ e ∈ s.core.journal, e.ent = s.self.ent ∧ bank e.addr = some b) ∨
         (∃ e ∈ s.fib.qam, e.val = none ∧ bank e.addr = some b)) → exec (.fenceBank a) s = .next s.stall))) ∧
  (∀ (q : Reg) (n : BitVec 6) (a b : Reg) (s : State), qmIndex q = none → s.gateFault ⟨[], none, false, false⟩ = none →
     exec (.ship q n a b) s = .next (s.raise (fltAt 0x15 (q.code.setWidth 64)))) ∧
  (∀ (k : Fin 2) (n : BitVec 6) (a b : Reg) (s t : State) (x y z : DWord), s.Ready ⟨[a, b, pairNext b], none, false, false⟩ [x, y, z] t →
     (regionOf s.cid x ≠ .dram → exec (.ship (.qm k) n a b) s = .next (s.raise (fltAt 0x13 x))) ∧
     (regionOf s.cid x = .dram → s.sid = 7 → s.heldByAcquire = false →
       (freeTag? t.fib.qm[k] = none → exec (.ship (.qm k) n a b) s = .next s.stall) ∧
       (∀ g, freeTag? t.fib.qm[k] = some g → s.scratchStatus (scratchRead n.toNat y) ≠ 0 → ∃ u : State, exec (.ship (.qm k) n a b) s = .next u ∧
         u.net = t.net ∧ u.mem = t.mem ∧ u.fib.qm[k].words = t.fib.qm[k].words ++
           [⟨headerWord g false (s.scratchStatus (scratchRead n.toNat y)) n.toNat (x.setWidth 48), none⟩, ⟨0, some g⟩])) ∧
     (let rd := scratchRead n.toNat y
      let data := match rd with
        | some (w, c) => s.spBytes s.cid (w.toNat % 65536) c
        | none => []
      regionOf s.cid x = .dram → s.sid = 7 ∨ (∀ p ∈ shipTouches n.toNat x.toNat y.toNat data, s.inTrapRegion p.1 p.2 = false) →
       s.heldByAcquire = false → ∀ g, freeTag? t.fib.qm[k] = some g → s.scratchStatus rd = 0 → s.scratchStatus (scratchWrite n.toNat y z) = 0 →
         (∀ w c, rd = some (w, c) → s.core.poisoned (w.toNat % 65536) c = false) → ∃ (u : State) (q : Req), exec (.ship (.qm k) n a b) s = .next u ∧ q.tag = g ∧ q.routine = n.toNat ∧ q.stack = (s.route x.toNat).1 ∧
           q.va = x.setWidth 48 ∧ q.a = y ∧ q.b = z ∧ q.who = t.self ∧ q.queue = k ∧ q.payload = data ∧
           u.fib.qm[k].tags = t.fib.qm[k].tags ++ [(g, t.nextId, false)] ∧
           (∃ p ∈ u.net, p.ev = routineEv q ∧ p.dst = serverDst q.stack) ∧ u.mem = t.mem))

/-! Copies, schedules, tile rings (05, 08, 11). -/

/-- R174, R175, R177 to R179: CPY and CPYM read a, n and d, then check, with the record that n names under .sh, then wait for a busy channel or a
pending acquire, then begin: the tag bits of the copy clear and the channel runs, or, with no bytes, the tags are set at once;
the instruction completes, memory as before.
R183, R185: the copy tags and watermarks. CPWA waits until every tag of the mask is set, CPWN until one is; CPFF gives
the lowest set tag of the mask or 64, CPTS the masked tags, WMRD the watermark of a channel. -/
def Obligations.CopyInstructions : Prop :=
  (∀ (d a n : Reg) (tag : BitVec 6) (sh rr : Bool) (s t : State) (src len dst : DWord) (r : Option Shape),
     s.Ready ⟨[a, n, d], none, false, false⟩ [src, len, dst] t → (sh = false → r = none) → (sh = true → ∃ x, r = some x ∧ s.resolve len = .ok x) →
     let m := if sh then 0 else len.toNat
     let bits : DWord := BitVec.ofNat 64 (2 ^ tag.toNat + rr.toNat * 2 ^ (tag.toNat + 1))
     let go (i : Instr) (p : CopyPlan) : Prop :=
       ((s.heldByAcquire = true ∨ s.channelHeld (tag.toNat % 8) = true) → exec i s = .next s.stall) ∧
       (s.heldByAcquire = false → s.channelHeld (tag.toNat % 8) = false → ∃ u, exec i s = .next u ∧ u.ctx.pc = t.advance.ctx.pc ∧ u.mem = t.mem ∧
         (p.layout.bytes = 0 → u.core.tags &&& bits = bits ∧ (u.core.channels[Fin.ofNat 8 (tag.toNat % 8)]).busy = false) ∧
         (p.layout.bytes ≠ 0 →
           u.core.tags = t.core.tags &&& ~~~bits ∧
           let x := u.core.channels[Fin.ofNat 8 (tag.toNat % 8)]
           x.busy = true ∧ x.tag = tag.toNat ∧ x.src = src.toNat ∧ x.layout = p.layout ∧ x.next = 0 ∧ x.receivers = p.receivers ∧ x.pc = s.ctx.pc))
     (∀ p, s.planCopy dst src m tag.toNat rr r = .ok p → go (.cpy d a n tag sh rr) p) ∧
     (∀ p, s.planMulticast dst src m tag.toNat rr r = .ok p → go (.cpym d a n tag sh rr) p) ∧
     (∀ f, s.planCopy dst src m tag.toNat rr r = .error f → exec (.cpy d a n tag sh rr) s = .next (s.raise f)) ∧
     (∀ f, s.planMulticast dst src m tag.toNat rr r = .error f → exec (.cpym d a n tag sh rr) s = .next (s.raise f))) ∧
  (∀ (d a : Reg) (ch : BitVec 6),
     (∀ (s t : State) (x : DWord), s.Ready ⟨[a], some d, false, false⟩ [x] t →
       (s.core.tags &&& x = x → t.dstCheck d x = .ok → exec (.cpwa d a) s = .next ((t.writeReg d x).advance)) ∧
       (s.core.tags &&& x ≠ x → exec (.cpwa d a) s = .next s.stall) ∧
       (s.core.tags &&& x ≠ 0 ∨ x = 0 → t.dstCheck d (s.core.tags &&& x) = .ok →
         exec (.cpwn d a) s = .next ((t.writeReg d (s.core.tags &&& x)).advance)) ∧
       (s.core.tags &&& x = 0 → x ≠ 0 → exec (.cpwn d a) s = .next s.stall)) ∧
     Computes1 (.cpff d a) d a (fun s x => BitVec.ofNat 64 (((List.range 64).takeWhile fun i => !(s.core.tags &&& x).getLsbD i).length)) ∧
     Computes1 (.cpts d a) d a (fun s x => s.core.tags &&& x) ∧
     Computes0 (.wmrd d ch) d (fun s => BitVec.ofNat 64 (s.core.channels[Fin.ofNat 8 ch.toNat]).wm))

/-- R184, R327, R328: STAGE issues the entry of its schedule that stands fetched, as a copy, and moves POS on by one; it stalls for a busy channel, a
pending acquire, and an entry that is not fetched yet; POS at the end of the schedule and a reserved bit of the entry raise RESERVED_FIELD.
That an entry which does not stand fetched is fetched while STAGE stalls is the model's choice (log entry 55).
R178 to R180, R182, R377: the steps of a copy. An element goes only when the channel may send it, one of a scheduled entry only in the entry's
order; where its data may pass into the own scratchpad unconverted, memory takes its bytes. The copy ends, with its tags set, when every element
is complete, one to the host window once its flush read has come back; an element that cannot be done halts the channel once every element
below it is complete; refused elements go again when the core that refused them is back. Which element a halt names in a descending copy,
and that an error found out of order is kept until the elements below it are complete, are the model's choices (log entries 51 and 52).
R329: a flit of a scheduled entry that meets one of another scheduled entry: a trap of the core of each, once for an entry, with the schedule
and the other core in EADDR and the entry in EIDX. -/
def Obligations.CopyProgress : Prop :=
  (∀ (n : BitVec 6) (s : State) (j : Job) (e : Nat) (l : List Byte) (p : CopyPlan), s.Ready ⟨[], none, false, false⟩ [] s →
     s.core.job = some e → s.jobs.get? e = some j →
     let k := n.toNat % 8
     let r := j.sched.getD k (0, 0, 0)
     let tag := (l.getD 20 0).toNat % 64
     (s.core.pos k ≥ r.2.2 → exec (.stage n) s = .next (s.raise (flt 0x02))) ∧
     (s.core.pos k < r.2.2 → s.core.exhausted.getLsbD k = false →
       (s.core.staged.get? k = none → exec (.stage n) s = .next (s.fetchEntry k).stall) ∧
       (s.core.staged.get? k = some l → l.length = 24 →
         (entryReserved l = true → exec (.stage n) s = .next (s.raise (flt 0x02))) ∧
         (entryReserved l = false → s.planCopy (leWord (l.take 8)) (leWord ((l.drop 8).take 8)) (leNat ((l.drop 16).take 4) % 2 ^ 25)
             tag false none = .ok p →
           ((s.heldByAcquire = true ∨ s.channelHeld (tag % 8) = true) → exec (.stage n) s = .next s.stall) ∧
           (s.heldByAcquire = false → s.channelHeld (tag % 8) = false →
             ∃ u, exec (.stage n) s = .next u ∧ u.ctx.pc = s.advance.ctx.pc ∧ u.mem = s.mem ∧
               (s.core.pos k < 255 → u.core.pos k = s.core.pos k + 1) ∧
               (p.layout.bytes ≠ 0 → let x := u.core.channels[Fin.ofNat 8 (tag % 8)]
                 x.busy = true ∧ x.tag = tag ∧ x.layout = p.layout ∧ x.src = (leWord ((l.drop 8).take 8)).toNat ∧ x.next = 0)))))) ∧
  (∀ (ch : Fin 8) (k : Nat) (s : State), let x := s.core.channels[ch]
     (x.sched = none →
       (x.mayGo k = false → exec (.copyElement ch k) s = .next s) ∧
       (∀ (l : List Byte) (u : State), x.mayGo k = true → x.enq = false → x.receivers = [] →
         s.copySource x (x.src + (x.layout.elem k).1) (x.layout.elem k).2.1 = .inl (.ok l u) →
         exec (.copyElement ch k) s = .next (u.copyPut s ch.val k l) ∧
         ∀ (v : State) (off : Nat), u.engPass (u.channel ch.val) ((u.channel ch.val).dst + ((u.channel ch.val).layout.elem k).2.2.1)
             ((u.channel ch.val).layout.elem k).2.2.2 true = some v → (u.channel ch.val).layout.conv = none →
           regionOf v.cid (BitVec.ofNat 64 ((v.channel ch.val).dst + ((v.channel ch.val).layout.elem k).2.2.1)) = .own off →
           (v.channel ch.val).layout.conv = none → (u.copyPut s ch.val k l).mem = memPut v.mem (spHome v.cid off) l)) ∧
     (∀ q, x.sched = some q → x.busy = true → x.halted = false → let due := if x.down then x.elems - 1 - x.next else x.next
       (k = due → exec (.scheduledFlitDelivery ch k none) s = .next (s.copyElem ch.val k)) ∧
       (k ≠ due → exec (.scheduledFlitDelivery ch k none) s = .next s) ∧
       (∀ p, k = due → p / 8 ≠ s.cid → (s.coreAt (p / 8)).scheduled (p % 8) = true →
         exec (.scheduledFlitDelivery ch k (some p)) s =
           .next (((s.collides ch.val (p / 8)).onCore (p / 8) fun t => t.collides (p % 8) s.cid).copyElem ch.val k))) ∧
     (∀ n pos other, x.sched = some (n, pos) → other < 2 ^ 15 →
       (x.collided = true → s.collides ch.val other = s) ∧
       (x.collided = false → s.core.trapsFull = false → (s.collides ch.val other).core.traps = s.core.traps ++
         [{ code := 0x10, async := true, arg := 0, ent := none, slot := 0, epc := 0, epg := 0, eaddr := BitVec.ofNat 64 (n % 8 + other * 2 ^ 16),
            eidx := BitVec.ofNat 64 pos, jent := none, chan := false, wdrawn := false, lost := false, extra := [] }])) ∧
     (x.busy = true → x.halted = false → x.next = x.elems → x.flight = [] → x.pend = [] → x.full = [] → x.back = [] →
       (s.toHost x = false ∨ (∃ op, x.flush = some (op, true)) →
         ∃ u, exec (.copyComplete ch) s = .next u ∧ u.mem = s.mem ∧ (u.core.channels[ch]).busy = false ∧
           let m : DWord := BitVec.ofNat 64 (2 ^ x.tag + (x.rr && !x.subscr).toNat * 2 ^ (x.tag + 1))
           u.core.tags &&& m = m) ∧
       (s.toHost x = true → x.flush = none → exec (.copyComplete ch) s = .next (s.flushChannel ch.val)) ∧
       (∀ op, s.toHost x = true → x.flush = some (op, false) → exec (.copyComplete ch) s = .next s)) ∧
     ((x.busy = false ∨ x.halted = true ∨ x.next ≠ x.elems) → exec (.copyComplete ch) s = .next s) ∧
     (∀ code addr, x.busy = true → x.halted = false → x.has k = false → k < x.elems →
       ((k = x.next ∨ x.down = true ∨ x.overlap = true) → exec (.copyHalt ch k code addr) s = .next (s.haltCopy ch.val k code addr)) ∧
       (k ≠ x.next → x.down = false → x.overlap = false → x.bad = none →
         exec (.copyHalt ch k code addr) s = .next (s.setChannel ch.val { x with bad := some (k, code, addr) })) ∧
       (let u := s.haltCopy ch.val k code addr
        (u.core.channels[ch]).halted = true ∧ (u.core.channels[ch]).haltAt = k ∧ (u.core.channels[ch]).code = code ∧ u.mem = s.mem)) ∧
     (x.busy = true → x.halted = false →
       (if x.receivers = [] then ∀ c o, regionOf s.cid (BitVec.ofNat 64 x.dst) = .peer c o → s.away c = false else ∀ c ∈ x.receivers, s.away c = false) →
       exec (.copyResend ch) s = .next (s.setChannel ch.val { x with pend := [] })))

/-- R181, Table 5-6: the commands of qcp. A query gives the channel's word; RESUME and CANCEL act on a halted channel for
slot 7 only; a reserved field, another slot and a channel that is not halted are answered with 0x02, 0x03 and 0x15; in that order, a word with bad
parity before them all with 0x0E (the order is the model's choice, log entry 160). -/
def Obligations.CopyCommands : Prop :=
  ∀ (s : State) (w : DWord) (slot : Nat) (rest : List (DWord × Nat)), s.core.qcp.cmds = (w, slot) :: rest → s.core.qcp.res.length < 4 →
    let c := w.toNat / 16 % 8
    let x := s.channel c
    let answer (u : State) (code : Nat) : State :=
      { u with core := { u.core with qcp := ⟨rest, u.core.qcp.res ++ [copyResult (u.channel c) c code]⟩ } }
    (3 ∈ s.core.fifoPoison → let u := { s with core := { s.core with fifoPoison := s.core.fifoPoison.filter fun k => k != 3 } }
      ((w.toNat % 16 = 0 ∨ 2 < w.toNat % 16) → exec .copyQuery s = .next (answer u 0x0E)) ∧
      (w.toNat % 16 = 1 → exec .copyResume s = .next (answer u 0x0E)) ∧ (w.toNat % 16 = 2 → exec .copyCancel s = .next (answer u 0x0E))) ∧
    (3 ∉ s.core.fifoPoison →
    (2 < w.toNat % 16 → exec .copyQuery s = .next (answer s 0x02)) ∧
    (128 ≤ w.toNat → (w.toNat % 16 = 0 → exec .copyQuery s = .next (answer s 0x02)) ∧ (w.toNat % 16 = 1 → exec .copyResume s = .next (answer s 0x02)) ∧
      (w.toNat % 16 = 2 → exec .copyCancel s = .next (answer s 0x02))) ∧
    (w.toNat < 128 →
      (w.toNat % 16 = 0 → exec .copyQuery s = .next (answer s 0)) ∧
      (w.toNat % 16 = 1 → slot ≠ 7 → exec .copyResume s = .next (answer s 0x03)) ∧
      (w.toNat % 16 = 1 → slot = 7 → x.halted = false → exec .copyResume s = .next (answer s 0x15)) ∧
      (w.toNat % 16 = 1 → slot = 7 → x.halted = true →
        exec .copyResume s =
          .next (answer (s.setChannel c { x with halted := false, code := 0, above := [], flight := [], pend := [], bad := none, flush := none }) 0)) ∧
      (w.toNat % 16 = 2 → slot ≠ 7 → exec .copyCancel s = .next (answer s 0x03)) ∧
      (w.toNat % 16 = 2 → slot = 7 → x.halted = false → exec .copyCancel s = .next (answer s 0x15)) ∧
      (w.toNat % 16 = 2 → slot = 7 → x.halted = true →
        ∃ u, exec .copyCancel s = .next u ∧ (u.core.channels[Fin.ofNat 8 c]).busy = false ∧ u.core.qcp.cmds = rest)))

/-- R186 to R188: TSUB with a well-formed descriptor, its ring in PART0 and its tiles in the DRAM window and outside the trap region, takes the channel
of its tag, or stalls for it or for a pending acquire; TREL and TREL.st release a full slot of a running subscription; a tile enters its
slot once that is free and its data may pass, and a released one goes back. Which tiles meet a range.
The model's choices it rests on besides: log entries 54, 127. -/
def Obligations.TileRings : Prop :=
  (∀ (d a b : Reg) (s t : State) (ea count : DWord), s.Ready ⟨[a, b], some d, false, false⟩ [ea, count] t →
    ((∀ o, regionOf s.cid ea ≠ .own o) → exec (.tsub d a b) s = .next (s.raise (fltAt 0x13 ea))) ∧
    (∀ (o ring size n tag va : Nat) (stride : DWord), regionOf s.cid ea = .own o → o % 8 = 0 → o % 8192 + 32 ≤ 8192 →
      s.core.inPart0 o 32 = true → s.core.poisoned o 32 = false →
      memBytes s.mem (spHome s.cid o) 32 = leBytes ring 2 ++ leBytes size 2 ++ leBytes n 1 ++ leBytes tag 1 ++ [0, 0] ++ leBytes va 8 ++
        leBytes stride.toNat 8 ++ List.replicate 8 0 →
      ring < 65536 → ring % 32 = 0 → 32 ≤ size → size ≤ 8192 → size % 32 = 0 → 1 ≤ n → n ≤ 16 → tag < 64 → va < 2 ^ 64 → va % 32 = 0 →
      stride.toNat % 32 = 0 → count ≠ 0 → count.toNat ≤ 2 ^ 32 →
      (∀ k < n, (ring + k * size) % 8192 + size ≤ 8192) → s.core.inPart0 ring (n * size) = true →
      let lo : Int := va
      let hi : Int := va + (count.toNat - 1 : Nat) * stride.toInt
      0x100000000000 ≤ lo → lo + size ≤ 0x200000000000 → 0x100000000000 ≤ hi → hi + size ≤ 0x200000000000 →
      (s.sid = 7 ∨ let b := (s.core.trapbase.extractLsb' 12 36).toNat * 4096
        tilesMeet va stride.toInt count.toNat size b (b + 4722688) = false) → isQueue d = false →
      ((s.heldByAcquire = true ∨ s.channelHeld (tag % 8) = true) → exec (.tsub d a b) s = .next s.stall) ∧
      (s.heldByAcquire = false → s.channelHeld (tag % 8) = false → ∃ u, exec (.tsub d a b) s = .next u ∧
        let x := u.core.channels[Fin.ofNat 8 (tag % 8)]
        x.busy = true ∧ x.subscr = true ∧ x.tag = tag ∧ x.dst = ring ∧ x.slotb = size ∧ x.nslot = n ∧ x.va = va ∧
          x.stride = stride.toInt ∧ x.elems = count.toNat ∧ x.next = 0))) ∧
  (∀ (va stride : Int) (count size lo hi : Nat), 0 < count →
    (tilesMeet va stride count size lo hi = true ↔ ∃ j : Nat, j < count ∧ va + j * stride < hi ∧ lo < va + j * stride + size)) ∧
  (∀ (a b : Reg) (s t : State) (c k : DWord), s.Ready ⟨[a, b], none, false, false⟩ [c, k] t →
    (8 ≤ c.toNat → exec (.trel a b) s = .next (s.raise (flt 0x02)) ∧ exec (.trelSt a b) s = .next (s.raise (flt 0x02))) ∧
    (c.toNat < 8 → let x := s.core.channels[Fin.ofNat 8 c.toNat]
      x.busy = true → x.subscr = true → ∀ f, k.toNat < x.nslot → (x.full.find? fun f => f.1 == k.toNat) = some f →
        exec (.trel a b) s = .next ((t.setChannel c.toNat { x with full := x.full.filter fun y => y.1 != k.toNat }).advance) ∧
        exec (.trelSt a b) s =
          .next ((t.setChannel c.toNat { x with full := x.full.filter (fun y => y.1 != k.toNat), back := x.back ++ [f] }).advance))) ∧
  (∀ (ch : Fin 8) (s : State), let x := s.core.channels[ch]
    x.busy = true → x.halted = false →
    (x.subscr = true → x.next < x.elems → x.nslot ≠ 0 → s.core.saved = false → (∀ f ∈ x.full ++ x.back, f.1 ≠ x.next % x.nslot) →
      ∀ v l t, s.engPass x (x.tileVa x.next).toNat x.slotb false = some v → v.engGet x.who x.job (x.tileVa x.next).toNat x.slotb = .ok l t →
        exec (.tilePush ch) s = .next ((t.spWrite s.cid (x.dst + x.next % x.nslot * x.slotb) l).setChannel ch.val
          { x with full := x.full ++ [(x.next % x.nslot, x.next)], next := x.next + 1, wm := x.next + 1 })) ∧
    (∀ (k : Nat) (f : Nat × Nat), (x.back.find? fun f => f.1 == k) = some f → s.core.poisoned (x.dst + k * x.slotb) x.slotb = false →
      ∀ v u t, s.engPass x (x.tileVa f.2).toNat x.slotb true = some v → v.engPut x.who x.job (x.tileVa f.2).toNat (memBytes s.mem (spHome s.cid (x.dst + k * x.slotb)) x.slotb) = .ok u t →
        exec (.tileWriteback ch k) s = .next (t.setChannel ch.val { x with back := x.back.filter fun y => y.1 != k })))

/-! Channels (06). -/

/-- R192: the checks of an entry come before any operand: an entry that is not valid, not the fibre's, of the wrong direction
or type, or closed, raises CHANNEL_STATE with its number, whatever the source queues hold; so does every send and receive in slot 6.
R203, R204, Table 6-5: UNBIND frees an idle entry, CHMODE writes the mode and the buffer of a valid idle one, BIND writes an image to
an idle one or points one that differs only in its peer elsewhere; an entry that is busy or in use, by a stalled instruction too, or that the
external tables refuse, raises CHANNEL_STATE, and a reserved field, a buffer or an image that fails its checks raises the fault of the check;
BIND waits for a pending acquire and for a copy that is to bring the bytes of its image.
The model's choices it rests on besides: log entry 32. -/
def Obligations.ChannelChecksAndBinding : Prop :=
  (∀ (e : BitVec 6) (d a : Reg) (s : State), let x := s.core.endpoint e.toNat
     let common := x.valid = false ∨ x.closed = true ∨ s.sid = 6 ∨ (s.sid ≠ 7 ∧ x.ownerIx ≠ s.self.ent)
     let bad := Host.Outcome.next (s.raise (fltAt 0x14 (BitVec.ofNat 64 e.toNat)))
     let badTile := Host.Outcome.next (s.raiseMacro (fltAt 0x14 (BitVec.ofNat 64 e.toNat)))
     (s.fieldFault ⟨s.sendReads e.toNat a, none, false, false⟩ = none → (common ∨ x.dir = true ∨ x.type = 1) → exec (.send e a) s = bad) ∧
     (s.fieldFault ⟨[], none, false, false⟩ = none → (common ∨ x.dir = true) → exec (.eos e) s = bad) ∧
     (s.fieldFault ⟨d :: s.sendReads e.toNat a, some d, false, false⟩ = none → (common ∨ x.dir = true ∨ x.type = 1) → exec (.sendx d e a) s = bad) ∧
     (s.fieldFault ⟨[], some d, false, false⟩ = none → (common ∨ x.dir = false ∨ x.type = 1) → exec (.recv d e) s = bad) ∧
     (s.fieldFault ⟨[a], some d, false, false⟩ = none → (common ∨ x.dir = false ∨ x.type = 1) → exec (.recvx d e a) s = bad) ∧
     (s.fieldFault ⟨[a], none, false, true⟩ = none → (common ∨ x.dir = true ∨ x.type ≠ 1) → exec (.sendt e a) s = badTile) ∧
     (s.fieldFault ⟨[a], some d, false, true⟩ = none → (common ∨ x.dir = false ∨ x.type ≠ 1) → exec (.recvt d e a) s = badTile)) ∧
  (∀ (e : BitVec 6) (a : Reg) (s t : State) (v : DWord), let x := s.core.endpoint e.toNat
     let busy := Host.Outcome.next (s.raise (fltAt 0x14 (BitVec.ofNat 64 e.toNat)))
     (s.Ready ⟨[], none, true, false⟩ [] s →
       (x.idle = false → exec (.unbind e) s = busy) ∧
       (x.idle = true → ∃ u, exec (.unbind e) s = .next u ∧ u.core.endpoint e.toNat = Endpoint.reset ∧
         (∀ k, k ≠ e.toNat → u.core.endpoint k = s.core.endpoint k) ∧ u.mem = s.mem)) ∧
     (s.Ready ⟨[a], none, true, false⟩ [v] t →
       let y : Endpoint := { x with mode := v.getLsbD 0, nslotm1 := v.extractLsb' 1 4, buf := v.extractLsb' 5 16, slotb := v.extractLsb' 21 14 }
       ((2 ^ 35 ≤ v.toNat ∨ badSlotb y = true) → exec (.chmode e a) s = .next (s.raise (flt 0x02))) ∧
       (v.toNat < 2 ^ 35 → badSlotb y = false →
         ((x.valid = false ∨ x.idle = false) → exec (.chmode e a) s = busy) ∧
         (x.valid = true → x.idle = true →
           (∀ f, s.bufferFault y = some f → exec (.chmode e a) s = .next (s.raise f)) ∧
           (s.bufferFault y = none →
             ∃ u z, exec (.chmode e a) s = .next u ∧ u.core.endpoint e.toNat = z ∧ z.mode = y.mode ∧ z.nslotm1 = y.nslotm1 ∧
               z.buf = y.buf ∧ z.slotb = y.slotb ∧ z.cnt = (if x.dir then 0 else y.nslotm1.toNat + 1) ∧ z.closed = false ∧
               z.valid = true ∧ z.dir = x.dir ∧ z.type = x.type ∧ z.pkind = x.pkind ∧ z.ext = x.ext ∧
               z.pep = x.pep ∧ z.pdie = x.pdie ∧ z.pcore = x.pcore ∧ z.owner = x.owner ∧ z.orphan = x.orphan ∧ u.mem = s.mem))) ∧
       (∀ f, s.checkOwn v 16 8 = .error f → exec (.bind e a) s = .next (s.raise f)) ∧
       (∀ off, s.checkOwn v 16 8 = .ok off → (s.heldByAcquire = true ∨ s.core.rangeStall s.cid off 16 = true) →
         exec (.bind e a) s = .next s.stall) ∧
       (∀ off, s.checkOwn v 16 8 = .ok off → s.heldByAcquire = false → s.core.rangeStall s.cid off 16 = false → let y := Endpoint.ofImage (memBytes s.mem (spHome s.cid off) 16)
         ((imageReserved (memBytes s.mem (spHome s.cid off) 16) = true ∨ badSlotb y = true) → exec (.bind e a) s = .next (s.raise (flt 0x02))) ∧
         (imageReserved (memBytes s.mem (spHome s.cid off) 16) = false → badSlotb y = false →
           ((s.extRefuses s.cid e.toNat y = true ∨ s.core.inUse e.toNat = true ∨ ∃ i : Fin 8, s.stallsOn i e.toNat = true) →
             exec (.bind e a) s = busy) ∧
           (s.extRefuses s.cid e.toNat y = false → s.core.inUse e.toNat = false → (∀ i : Fin 8, s.stallsOn i e.toNat = false) →
             (x.repoints y = true → ∃ u, exec (.bind e a) s = .next u ∧
               u.core.endpoint e.toNat = { x with pdie := y.pdie, pcore := y.pcore, pep := y.pep, ext := y.ext, orphan := false } ∧ u.mem = s.mem) ∧
             (x.repoints y = false → x.idle = false → exec (.bind e a) s = busy) ∧
             (x.repoints y = false → x.idle = true →
               (∀ f, s.bufferFault y = some f → exec (.bind e a) s = .next (s.raise f)) ∧
               (s.bufferFault y = none → ∃ u, exec (.bind e a) s = .next u ∧ u.core.endpoint e.toNat = y.fresh ∧ u.mem = s.mem)))))))

/-- R194 to R196, R199, R193: SEND, EOS and SENDX on a channel to an entry. In restante mode with a credit the message leaves, the
credit is used and the instruction completes; without a credit, and for an offer, the sender waits with reason 1, and keeps the words
it popped; to an entry of its own core with nothing of its own before it, the message arrives in this step, and an offer that a
waiting receiver takes completes both. SENDX that would wait when its time-out, counted from its first issue, has come ends with status 1 and
its words back in their queues. On a TOKEN channel a is not read and a token goes. A time-out of 2^40 or more is RESERVED_FIELD before any pop.
R206, R240, R410, R422, R441: SEND of a word to a port, a host mailbox, a link stream and the recorder; a full mailbox and a stream
without credit make it wait.
The model's choices it rests on besides: log entries 28, 33, 163, 165. -/
def Obligations.Sends : Prop :=
  (∀ (e : BitVec 6) (d a : Reg) (s t : State) (v w : DWord), let x := s.core.endpoint e.toNat
     let y := t.core.endpoint e.toNat
     let z := t.core.endpoint y.pep.toNat
     let j := t.jobOf t.fib
     let m (b : Body) : ChanMsg := { who := t.self, op := t.nextId, src := .core t.cid e.toNat, dst := y.pep.toNat, body := b, offer := !y.mode, job := j }
     let paid : State :=
       ({ t with core := t.core.modEndpoint e.toNat fun y => { y with cnt := y.cnt - 1 }, nextId := t.nextId + 1 } : State).countSend j s.die
     let waits (ws : List (Reg × DWord)) (k : WaitKind) (due : Option Nat) (b : Body) : State :=
       (t.block (((t.newWait k 1 due e.toNat (some (keepBody b))).keeps ws).counted j)).countSend j s.die
     let closes (u : State) : State := { u with core := u.core.modEndpoint e.toNat fun y => { y with closed := true } }
     let sends (i : Instr) (b : Body) (fin : State → State) (wait : State) (late : Bool) (gone : State) : Prop :=
       (y.mode = true → y.cnt ≠ 0 →
         (s.direct y.peerCore y.pep.toNat = false → exec i s = .next (fin (paid.sendMessage y.peerCore (m b)))) ∧
         (s.direct y.peerCore y.pep.toNat = true → exec i s = .next ((fin paid).arrive (m b)))) ∧
       (y.mode = true → y.cnt = 0 → exec i s = .next (if late then gone else wait)) ∧
       (y.mode = false → s.direct y.peerCore y.pep.toNat = false →
         exec i s = .next (if late && !y.notice then gone else wait.sendMessage y.peerCore (m b))) ∧
       (y.mode = false → s.direct y.peerCore y.pep.toNat = true →
         (z.refuses (m b) = true → exec i s = .next (s.raise (fltAt 0x14 (BitVec.ofNat 64 e.toNat)))) ∧
         (z.refuses (m b) = false → (t.core.userWait y.pep.toNat fun k => recvsOn k == some y.pep.toNat) = none →
           exec i s = .next (if late then gone else wait.arrive (m b))) ∧
         (∀ n k r, z.refuses (m b) = false → (t.core.userWait y.pep.toNat fun k => recvsOn k == some y.pep.toNat) = some (n, k) → z.offers = [] →
           (let u := fin (t.countSend j s.die)
            (u.consumed y.pep.toNat b (u.jobOf ((u.core.fibre? n).getD Fibre.reset))).giveTo n k y.pep.toNat b) = some r →
           exec i s = .next r))
     (x.pkind = 0 → x.type = 0 → s.OnEntry e.toNat .send ⟨[a], none, false, false⟩ [v] t →
       sends (.send e a) (.word v) State.advance (waits (queueWords [a] [v]) (.send e.toNat) none (.word v)) false s) ∧
     (x.pkind = 0 → x.type = 2 → s.OnEntry e.toNat .send ⟨[], none, false, false⟩ [] t →
       sends (.send e a) .token State.advance (waits [] (.send e.toNat) none .token) false s) ∧
     (x.pkind = 0 → s.OnEntry e.toNat .eos ⟨[], none, false, false⟩ [] t →
       sends (.eos e) .last (fun u => (closes u).advance) (waits [] (.send e.toNat) none .last) false s) ∧
     (let due := some (s.me.stall.getD s.now + w.toNat)
      let timed (ws : List (Reg × DWord)) (b : Body) : Prop :=
        sends (.sendx d e a) b (fun u => (u.writeReg d 0).advance) (waits ws (.sendx e.toNat d) due b) (s.expired due)
          ((((t.putBack ws).record s.self.ent 4 e.toNat (BitVec.ofNat 64 s.now)).writeReg d 1).advance)
      s.badTime d = false → s.recMode s.fib ≠ 2 → s.recStall = false → x.pkind = 0 →
        (x.type = 0 → s.OnEntry e.toNat .send ⟨[d, a], some d, false, false⟩ [w, v] t → timed (queueWords [d, a] [w, v]) (.word v)) ∧
        (x.type = 2 → s.OnEntry e.toNat .send ⟨[d], some d, false, false⟩ [w] t → timed (queueWords [d] [w]) .token)) ∧
     (s.fieldFault ⟨d :: s.sendReads e.toNat a, some d, false, false⟩ = none → s.entryBad x (some .send) = false → x.closed = false →
       s.badTime d = true → exec (.sendx d e a) s = .next (s.raise (flt 0x02)))) ∧
  (∀ (e : BitVec 6) (a : Reg) (s t : State) (v : DWord), let x := s.core.endpoint e.toNat
     let j := t.jobOf t.fib
     let u := (t.countSend j s.die).countConsume j s.die
     let ws := queueWords [a] [v]
     x.type = 0 → s.OnEntry e.toNat .send ⟨[a], none, false, false⟩ [v] t →
     (x.pkind = 1 → x.peerCore ≠ s.cid → exec (.send e a) s =
       .next (((t.block (((t.newWait (.send e.toNat) 7 none e.toNat none).keeps ws).counted j)).countSend j s.die).sendFrom s.cid x.peerCore
         (some s.self) s.outstanding (some (portPlace x.peerCore (x.pep.toNat % 32)))
         (.postArrival { who := t.self, op := t.nextId, port := x.pep.toNat % 32, word := v, wait := true, job := j, srcDie := s.die }))) ∧
     (s.outstanding = [] →
       (x.pkind = 1 → x.peerCore = s.cid → ∀ u, t.offerPost { who := t.self, op := t.nextId, port := x.pep.toNat % 32, word := v, wait := true, job := j, srcDie := s.die } =
         .accepted u → exec (.send e a) s = .next ((u.countSend j s.die).advance)) ∧
       (x.pkind = 2 → (s.box (x.ext.toNat % 256)).outq.length < 256 →
         exec (.send e a) s = .next (u.outPush (x.ext.toNat % 256) 0 [(v, .word v)]).advance) ∧
       (x.pkind = 2 → 256 ≤ (s.box (x.ext.toNat % 256)).outq.length →
         let w := (t.block (((t.newWait (.send e.toNat) 1 none e.toNat (some (keepBody (.word v)))).keeps ws).counted j)).countSend j s.die
         exec (.send e a) s = .next { w with host := { w.host with waiting := w.host.waiting ++ [(x.ext.toNat % 256, ⟨t.self, t.nextId, .wait, j⟩)] } }) ∧
       (x.pkind = 3 → x.cnt ≠ 0 → exec (.send e a) s =
         .next (((({ t with core := t.core.modEndpoint e.toNat fun y => { y with cnt := y.cnt - 1 } } : State).countSend j s.die).countConsume j
           s.die).outFrame (streamFrame x (.word v) [])).advance) ∧
       (x.pkind = 3 → x.cnt = 0 → exec (.send e a) s =
         .next ((t.block (((t.newWait (.send e.toNat) 1 none e.toNat (some (keepBody (.word v)))).keeps ws).counted j)).countSend j s.die)) ∧
       (x.pkind = 5 → s.recStall = false → exec (.send e a) s = .next ((u.record s.self.ent 7 e.toNat v).advance))) ∧
     (s.outstanding ≠ [] → (x.pkind = 2 ∨ x.pkind = 3 ∨ x.pkind = 5) → exec (.send e a) s = .next s.stall))

/-- R194, R196, R199: RECV and RECVX take the message at the head of their entry; with none they wait with reason 2, and a
waiting receiver of a rendezvous channel lets its sender know, but a RECVX whose time-out, counted from its first issue, has come ends with
status 1; a time-out of 2^40 or more is RESERVED_FIELD before any pop; a word of a restante slot with an uncorrectable error raises MEM_POISON.
R200: PROBE gives bits 12 to 0 of its entry.
R201, R202: a choice takes the lowest guard that is ready, reserves its entry and completes with its number; with none
ready an ALTT whose time-out has come ends with 64 and status 1, and else it waits with reason 3 and keeps the words it popped; a mask that names an entry the fibre may not receive from, or only closed
ones, raises CHANNEL_STATE. -/
def Obligations.ReceivesAndChoices : Prop :=
  (∀ (e : BitVec 6) (d a : Reg) (s t : State) (w : DWord), let x := s.core.endpoint e.toNat
     let value (b : Body) : DWord := match b with
       | .word v => v
       | .last => if x.type = 2 then 1 else 0
       | _ => 0
     let notice (u : State) : State :=
       if (u.core.endpoint e.toNat).pkind = 0 ∧ (u.core.endpoint e.toNat).mode = false then
         u.send (u.core.endpoint e.toNat).peerCore (.recvNoticeArrival (u.core.endpoint e.toNat).pep.toNat true)
       else u
     (s.OnEntry e.toNat .recv ⟨[], some d, false, false⟩ [] t →
       (∀ x, t.headBad e.toNat = some x → exec (.recv d e) s = .next (s.raise ⟨0x0E, x, 0, poisonArg 0x0E x⟩)) ∧
       (∀ b, t.headBad e.toNat = none → t.headMessage e.toNat = some b → t.dstCheck d (value b) = .ok →
         exec (.recv d e) s = .next ((((t.writeReg d (value b)).advance).takeMessage e.toNat).consumed e.toNat b (s.jobOf s.fib))) ∧
       (t.headBad e.toNat = none → t.headMessage e.toNat = none → exec (.recv d e) s = .next (notice (t.block (t.newWait (.recv e.toNat d) 2 none e.toNat none))))) ∧
     (s.OnEntry e.toNat .recv ⟨[a], some d, false, false⟩ [w] t → s.badTime a = false → s.recMode s.fib ≠ 2 →
       t.headBad e.toNat = none → let due := some (s.me.stall.getD s.now + w.toNat)
       (∀ b, t.headMessage e.toNat = some b → t.dstCheck d (value b) = .ok → exec (.recvx d e a) s =
         .next (((((t.writeReg d (value b)).writeReg a (if b = .last then 2 else 0)).advance).takeMessage e.toNat).consumed e.toNat b (s.jobOf s.fib))) ∧
       (t.headMessage e.toNat = none → s.expired due = false →
         exec (.recvx d e a) s = .next (notice (t.block (t.newWait (.recvx e.toNat d a) 2 due e.toNat none)))) ∧
       (t.headMessage e.toNat = none → s.expired due = true → s.recStall = false →
         exec (.recvx d e a) s = .next (((t.record s.self.ent 4 e.toNat (BitVec.ofNat 64 s.now)).writeReg a 1).advance))) ∧
     (s.fieldFault ⟨[a], some d, false, false⟩ = none → s.entryBad x (some .recv) = false → x.closed = false → s.badTime a = true →
       exec (.recvx d e a) s = .next (s.raise (flt 0x02))) ∧
     (s.Ready ⟨[], some d, false, false⟩ [] s → (s.clearRsv none).dstCheck d (BitVec.ofNat 64 x.low) = .ok →
       exec (.probe d e) s = .next (((s.clearRsv none).writeReg d (BitVec.ofNat 64 x.low)).advance)) ∧
     x.low = x.valid.toNat + x.dir.toNat * 2 + x.type.toNat * 4 + x.mode.toNat * 16 + x.nslotm1.toNat * 32 + x.pkind.toNat * 512 + x.closed.toNat * 4096) ∧
  (∀ (s : State) (mask : DWord), let fit (i : Nat) : Prop := s.entryBad (s.core.endpoint i) none = false
     (∀ i < 64, mask.getLsbD i = true → ¬ fit i → (∀ k < i, mask.getLsbD k = true → fit k) → s.maskFault mask = some (fltAt 0x14 (BitVec.ofNat 64 i))) ∧
     ((∀ i < 64, mask.getLsbD i = true → fit i) →
       (s.maskFault mask = none ↔ ∃ i < 64, mask.getLsbD i = true ∧ (s.core.endpoint i).closed = false))) ∧
  (∀ (d a b : Reg) (s t : State) (mask w : DWord),
     (∀ f, s.maskFault mask = some f →
       (s.Ready ⟨[a], some d, false, false⟩ [mask] t → exec (.alt d a) s = .next (s.raise f)) ∧
       (s.Ready ⟨[a, b], some d, false, false⟩ [mask, w] t → s.badTime b = false → exec (.altt d a b) s = .next (s.raise f))) ∧
     (s.fieldFault ⟨[a, b], some d, false, false⟩ = none → s.badTime b = true → exec (.altt d a b) s = .next (s.raise (flt 0x02)))) ∧
  (∀ (d a b : Reg) (s t : State) (mask w : DWord), s.recMode s.fib = 0 → s.replayed s.self.ent = none → s.recStall = false →
     let u := t.clearRsv none
     u.replayed s.self.ent = none → t.replayed s.self.ent = none →
     (s.Ready ⟨[a], some d, false, false⟩ [mask] t →
       (mask = 0 → exec (.alt d a) s = .next (s.raise (fltAt 0x14 0))) ∧
       (s.maskFault mask = none →
         (∀ i < 64, mask.getLsbD i = true → (u.core.endpoint i).ready = true → (∀ j < i, mask.getLsbD j = true → (u.core.endpoint j).ready = false) →
           u.dstCheck d (BitVec.ofNat 64 i) = .ok →
           exec (.alt d a) s = .next (((u.writeReg d (BitVec.ofNat 64 i)).decideAlt s.self.ent i).advance)) ∧
         ((∀ i < 64, mask.getLsbD i = true → (u.core.endpoint i).ready = false) →
           exec (.alt d a) s = .next (u.block ((u.newWait (.alt mask d none) 3 none 0 none).keeps (queueWords [a] [mask])))))) ∧
     (s.Ready ⟨[a, b], some d, false, false⟩ [mask, w] t → s.maskFault mask = none → s.badTime b = false →
       (∀ i < 64, mask.getLsbD i = true → (u.core.endpoint i).ready = true → (∀ j < i, mask.getLsbD j = true → (u.core.endpoint j).ready = false) →
         u.dstCheck d (BitVec.ofNat 64 i) = .ok →
         exec (.altt d a b) s = .next ((((u.writeReg d (BitVec.ofNat 64 i)).writeReg b 0).decideAlt s.self.ent i).advance)) ∧
       ((∀ i < 64, mask.getLsbD i = true → (u.core.endpoint i).ready = false) →
         let due := some (s.me.stall.getD s.now + w.toNat)
         (s.expired due = true → u.dstCheck d 64 = .ok →
           exec (.altt d a b) s = .next ((((u.record s.self.ent 4 0xFF (BitVec.ofNat 64 s.now)).writeReg d 64).writeReg b 1).advance)) ∧
         (s.expired due = false → exec (.altt d a b) s =
           .next (u.block ((u.newWait (.alt mask d (some b)) 3 due 0 none).keeps (queueWords [a, b] [mask, w])))))))

/-- R197, R198: SENDT and RECVT. A rendezvous SENDT offers the tile and waits with reason 1, its entry busy; RECVT with nothing offered
waits with reason 2, with a last post writes 0, and with a tile of another size raises CHANNEL_STATE; a restante SENDT without a credit
waits, and keeps its record; with one, and a RECVT with a tile, they start on the tile's elements; a SENDT to a link stream starts on
its row pieces.
R198: an element that may go stands at its destination with the watermark behind it, and the next one follows in the next cycle; the last sends
the message, which names the format that the rows were converted into, or completes both sides.
The model's choices it rests on besides: log entries 34, 35, 138. -/
def Obligations.TileTransfers : Prop :=
  (∀ (e : BitVec 6) (d a : Reg) (s t : State) (h : DWord) (r : Shape) (off : Nat),
    s.kept = none → s.resolve h = .ok r → (isBlock r.fmt = true → r.cols % 32 = 0) →
    s.tileSide r.base ((r.rows - 1) * r.stride + rowBytes r.fmt r.cols) = .ok off →
    (s.OnEntry e.toNat .sendTile ⟨[a], none, false, true⟩ [h] t → s.ctx.pg = 0 →
      reservedBank (bankWords s.core.bfmt.toList off ((r.rows - 1) * r.stride + rowBytes r.fmt r.cols)) = none →
      let x := s.core.endpoint e.toNat
      let j := t.jobOf t.fib
      let w := (t.newWait (.tile e.toNat) 1 none e.toNat none).counted j
      let run (n : Nat) (ends : List TileEnd) : ElemRun :=
        { ElemRun.start (.sendt e a) n 0 with shapes := [{ r with base := off }], bfmt := s.core.bfmt, ends := ends }
      (x.pkind = 0 → x.mode = false →
        let m := t.messageOn e.toNat (.tile (s.descOf r off) [])
        let u := ((t.setBusyTile e.toNat true).block w).countSend j s.die
        exec (.sendt e a) s = .next (if s.direct x.peerCore m.dst then u.arrive m else u.sendMessage x.peerCore m)) ∧
      ((x.pkind = 0 → x.mode = true) → x.cnt = 0 → exec (.sendt e a) s = .next (((t.keepTile e.toNat r).block w).countSend j s.die)) ∧
      (x.pkind = 3 → x.cnt ≠ 0 → (s.outstanding ≠ [] → exec (.sendt e a) s = .next s.stall) ∧
        (s.outstanding = [] → exec (.sendt e a) s = .next ((t.countSend j s.die).sendTile e.toNat (run (linkLayout r).elems [])))) ∧
      (x.pkind = 0 → x.mode = true → x.cnt ≠ 0 →
        let p := s.sendEnds r off e.toNat s.core.bfmt.toList (s.coreAt x.peerCore).bfmt.toList
        (∀ f, tileLayout r.rows r.cols p.1 p.2 = .error f → exec (.sendt e a) s = .next (s.raise f)) ∧
        (∀ l, tileLayout r.rows r.cols p.1 p.2 = .ok l →
          (((s.coreAt x.peerCore).endpoint x.pep.toNat).slotBytes < l.dstSpan →
            exec (.sendt e a) s = .next (s.raise (fltAt 0x14 (BitVec.ofNat 64 e.toNat)))) ∧
          (l.dstSpan ≤ ((s.coreAt x.peerCore).endpoint x.pep.toNat).slotBytes →
            exec (.sendt e a) s = .next ((t.countSend j s.die).sendTile e.toNat (run l.elems [p.1, p.2])))))) ∧
    (s.OnEntry e.toNat .recvTile ⟨[a], some d, false, true⟩ [h] t → s.ctx.pg = 0 →
      (t.headMessage e.toNat = none →
        exec (.recvt d e a) s = .next (((t.keepTile e.toNat r).block (t.newWait (.tile e.toNat) 2 none e.toNat none)).sendNotice e.toNat)) ∧
      (t.headMessage e.toNat = some .last → t.dstCheck d 0 = .ok →
        exec (.recvt d e a) s = .next ((((t.writeReg d 0).advance).takeMessage e.toNat).consumed e.toNat .last (s.jobOf s.fib))) ∧
      (∀ q data, t.headMessage e.toNat = some (.tile q data) →
        (q.rows ≠ r.rows ∨ q.cols ≠ r.cols → exec (.recvt d e a) s = .next (s.raise (fltAt 0x14 (BitVec.ofNat 64 e.toNat)))) ∧
        (q.rows = r.rows → q.cols = r.cols →
          let p := s.recvEnds e.toNat q r off s.core.bfmt.toList
          ∀ l, tileLayout r.rows r.cols p.1 p.2 = .ok l →
          (p.1.core = s.cid → rangesMeet p.1.off l.srcSpan p.2.off l.dstSpan = true → exec (.recvt d e a) s = .next (s.raise (flt 0x02))) ∧
          ((p.1.core = s.cid → rangesMeet p.1.off l.srcSpan p.2.off l.dstSpan = false) →
            exec (.recvt d e a) s =
              .next (((((t.markFrom p.1.core s.cid (s.recvChan e.toNat) off (off + l.dstSpan) (l.markAfter off 0)).getD t).setBusyTile e.toNat true).startRun l.elems
                { ElemRun.start (.recvt d e a) l.elems 0 with shapes := [{ r with base := off }], bfmt := s.core.bfmt, ends := [p.1, p.2] }
                State.advance))))))) ∧
  (∀ (e : BitVec 6) (s t u : State) (r : ElemRun) (sh : Shape) (a b : TileEnd) (l : Layout) (v : List Byte × Option Nat × Counts),
    r.shapes = [sh] → r.ends = [a, b] → tileLayout sh.rows sh.cols a b = .ok l → s.tileElem l a r.k = some v → let x := s.core.endpoint e.toNat
    let done (y : State) : State := (y.setMe { y.me with run := none, fib := { y.fib with snap := none } }).setCtx { y.ctx with pg := 0 }
    let fmt := (l.conv.map fun c => wordFmt c.2).getD sh.fmt
    let m := s.messageOn e.toNat (.tile { s.descOf sh sh.base with bf := a.bf, stride := b.stride, base := 0, fmt := fmt } [])
    (s.mayPass s.cid b.core (bankPlace b.core (b.off + (l.elem r.k).2.2.1)) = some u →
      u.markArrival b.core (tileChan e.toNat) b.off (b.off + l.dstSpan) (l.markAfter b.off (r.k + 1)) = some t →
      ((s.coreAt b.core).endpoint x.pep.toNat).refuses m = false → let y := t.putElem l b r.k v
      (r.k + 1 < r.n → s.sendtElem r e.toNat = y.setMe { y.me with run := some { r with k := r.k + 1 }, ready := y.coreCycles + 1 }) ∧
      (r.n ≤ r.k + 1 → let z := ((done y).modCore b.core fun c => c.dropArrival s.cid (tileChan e.toNat)).sentTile e.toNat
        s.sendtElem r e.toNat = ((({ z with nextId := z.nextId + 1 } : State).sendMessage b.core m).advance))) ∧
    (∀ (d : Reg) (q : TileDesc) (data : List Byte), s.headMessage e.toNat = some (.tile q data) →
      s.mayPass a.core s.cid (bankPlace s.cid (b.off + (l.elem r.k).2.2.1)) = some u →
      u.markFrom a.core s.cid (s.recvChan e.toNat) b.off (b.off + l.dstSpan) (l.markAfter b.off (r.k + 1)) = some t →
      let y := t.putElem l b r.k v
      let n : DWord := BitVec.ofNat 64 (sh.rows * l.dstRow)
      (r.k + 1 < r.n → s.recvtElem r d e.toNat = y.setMe { y.me with run := some { r with k := r.k + 1 }, ready := y.coreCycles + 1 }) ∧
      (r.k + 1 = r.n → s.dstCheck d n ≠ .stall → let z := ({ done y with core := (done y).core.dropArrival a.core (s.recvChan e.toNat) } : State).setBusyTile e.toNat false
        z.dstCheck d n = .ok →
        s.recvtElem r d e.toNat = ((((z.writeReg d n).advance).takeMessage e.toNat).consumed e.toNat (.tile q data) (s.jobOf s.fib)))))

/-- R193 to R196, R205, R199: what arrives at entries. A message that an entry refuses is answered or reported; an offer joins
the entry; a restante word stands in its slot and counts; a credit adds one slot, and the waiting send of its entry takes it; a reply
ends the send it names; a notice is kept; a time-out ends a RECVX, SENDX or ALTT at its instant with the status it writes, a SENDX to a port of
another core among them (the model's reading, log entry 153). -/
def Obligations.ChannelArrivals : Prop :=
  ∀ (s : State) (m : ChanMsg), let x := s.core.endpoint m.dst
    (s.liveDiscard m = true → exec (.messageArrival m) s = .next s) ∧
    (s.liveDiscard m = false → s.arrivalWaits s.cid m = true → exec (.messageArrival m) s = .next (s.send s.cid (.messageArrival m))) ∧
    (s.liveDiscard m = false → s.arrivalWaits s.cid m = false →
      (x.refuses m = true →
        (m.offer = true → exec (.messageArrival m) s = .next ((s.replySender m.who m.op 0x14).countConsume m.job s.die)) ∧
        (∀ c ep, m.offer = false → m.src = .core c ep →
          exec (.messageArrival m) s = .next ((s.countConsume m.job s.die).misdelivery m.job (some (m.who, ep)) m.dst))) ∧
      (x.refuses m = false →
        (m.offer = true → exec (.messageArrival m) s =
          .next (((({ s with core := s.core.modEndpoint m.dst fun _ => ({ x with offers := x.offers ++ [m] } : Endpoint).setLpq } : State).resolveEntry m.dst)).wakeOwner m.dst)) ∧
        (∀ c ep v, m.offer = false → m.src = .core c ep → m.body = .word v →
          let t := s.spWrite s.cid (x.slotAt (x.head + x.cnt)) ((leBytes v.toNat 8).take x.slotBytes)
          exec (.messageArrival m) s =
            .next ((({ t with core := t.core.modEndpoint m.dst fun _ => ({ x with kinds := x.kinds ++ [.word v], cnt := x.cnt + 1 } : Endpoint).setLpq } : State).resolveEntry
              m.dst).wakeOwner m.dst)))) ∧
    (∀ ep on, exec (.recvNoticeArrival ep on) s = .next { s with core := s.core.modEndpoint ep fun x => { x with notice := on } }) ∧
    (∀ e, e < 64 → let y := s.core.endpoint e
      let t : State := { s with core := s.core.modEndpoint e fun z => { z with cnt := Min.min y.nslot (z.cnt + 1) } }
      ((t.core.userWait e fun k => sendsOn k == some e) = none → (t.core.userWait e (isTileOn e)) = none → exec (.creditReturn e) s = .next t) ∧
      (∀ n w, (t.core.userWait e fun k => sendsOn k == some e) = some (n, w) → w.ep = e → y.pkind = 0 →
        exec (.creditReturn e) s = .next ((({ t with core := t.core.modEndpoint e fun z => { z with cnt := z.cnt - 1 } } : State).endSend n w.op 0).sendMessage
          y.peerCore { who := ⟨s.cid, n⟩, op := w.op, src := .core s.cid e, dst := y.pep.toNat, body := keptBody (w.acc.getD noAccess),
                       offer := false, job := s.jobOf ((t.core.fibre? n).getD Fibre.reset) }))) ∧
    (∀ k, 64 ≤ k → exec (.creditReturn k) s = .next ((s.setBox (k - 64) { s.box (k - 64) with credit := (s.box (k - 64)).credit + 1 }).pumpBox (k - 64))) ∧
    (∀ who op code, who.core = s.cid →
      (s.waitOf who.ent op = none → exec (.sendReply who op code) s = .next s) ∧
      (∀ f w, s.waitOf who.ent op = some (f, w) →
        (code ≠ 0 → exec (.sendReply who op code) s =
          .next (({ s with core := s.core.modEndpoint w.ep fun x => { x with busyTile := false } } : State).faultWait who.ent w (fltAt 0x14 (BitVec.ofNat 64 w.ep)))) ∧
        (∀ u, code = 0 → w.kind = .send w.ep → (w.acc.getD noAccess).b ≠ 2 → s.finishWait who.ent w none 0 = some u →
          exec (.sendReply who op code) s = .next u))) ∧
    (∀ (n : Nat) (f : Fibre) (w : Wait), s.core.fibre? n = some f → f.wait = some w →
      ((∀ t, w.due = some t → s.now < t) → exec (.timeoutExpiry n) s = .next s) ∧
      (∀ t, w.due = some t → t ≤ s.now → s.expires w = true → s.recFull ⟨s.cid, n⟩ = false → let z := s.core.endpoint w.ep
        (∀ ep r d u, w.kind = .recvx ep r d →
          ((s.eraseOp ⟨s.cid, n⟩ w).record n 4 w.ep (BitVec.ofNat 64 s.now)).finishWait n w (some d) 1 = some u → exec (.timeoutExpiry n) s = .next u) ∧
        (∀ ep d u, w.kind = .sendx ep d → (((s.coreAt z.peerCore).endpoint z.pep.toNat).rsv = false ∨ z.pkind ≠ 0 ∨ z.mode = true) →
          (((s.eraseOp ⟨s.cid, n⟩ w).record n 4 w.ep (BitVec.ofNat 64 s.now)).unpop n w).finishWait n w (some d) 1 = some u →
          exec (.timeoutExpiry n) s = .next u) ∧
        (∀ k d b u, w.kind = .alt k d (some b) →
          ((s.eraseOp ⟨s.cid, n⟩ w).record n 4 0xFF (BitVec.ofNat 64 s.now)).finishWait2 n w d 64 b 1 = some u → exec (.timeoutExpiry n) s = .next u)))

/-! Ports, scheduling, fork and join (07, 06, 01). -/

/-- R226 to R229, R240: POST checks the handle, then the partition, then delivers: to another core as a message with a wait of reason
REMOTE; on its own core in this step, to a queue port with room and nobody waiting, to a counter port, or into the wait list of a full
port, the slot waiting. An arriving message joins the queue of its port in order, sets the word of a counter port and arms it, waits
when the port is full, enters the free overflow latch of a full FAULT-mode port and raises PORT_OVERFLOW there while the core's trap
queue has room (13 R368), and is refused at a port that is not configured. -/
def Obligations.Posts : Prop :=
  (∀ (d a : Reg) (pt : BitVec 6) (s t : State) (w h : DWord), s.Ready ⟨[a, d], none, false, false⟩ [w, h] t →
    let core := h.toNat / 2 ^ 8 % 4096 + 2304 * (h.toNat / 2 ^ 20 % 8)
    let j := t.jobOf t.fib
    let m : PostMsg := { who := t.self, op := t.nextId, port := pt.toNat, word := w, wait := true, job := j, srcDie := s.die }
    let wait (reason : Nat) : Wait := ((t.newWait .post reason none 0 none).keeps (queueWords [a, d] [w, h])).counted j
    ((h.toNat % 256 ≠ 0 ∨ 2 ^ 23 ≤ h.toNat ∨ 2303 < h.toNat / 2 ^ 8 % 4096) → exec (.post d pt a) s = .next (s.raise (flt 0x02))) ∧
    (h.toNat % 256 = 0 → h.toNat < 2 ^ 23 → h.toNat / 2 ^ 8 % 4096 ≤ 2303 →
      (s.core.inPart1 core = false → exec (.post d pt a) s = .next (s.raise (fltAt 0x06 h))) ∧
      (s.core.inPart1 core = true →
        (core ≠ s.cid → exec (.post d pt a) s = .next (((t.block (wait 7)).countSend j s.die).sendFrom s.cid core
          (some s.self) s.outstanding (some (portPlace core pt.toNat)) (.postArrival m))) ∧
        (core = s.cid → s.outstanding ≠ [] → exec (.post d pt a) s = .next s.stall) ∧
        (core = s.cid → s.outstanding = [] →
          (t.core.ports.get? pt.toNat = none → exec (.post d pt a) s = .next (s.raise (fltAt 0x14 (BitVec.ofNat 64 pt.toNat)))) ∧
          (∀ p, t.core.ports.get? pt.toNat = some p → t.core.postsWait p = false →
            (p.counter = false → p.fifo.length + p.held < p.depth →
              exec (.post d pt a) s = .next ((({ t with core := t.core.setPort pt.toNat { p with fifo := p.fifo ++ [w] } } : State).countSend
                j s.die).advance)) ∧
            (p.counter = true → let u := t.spWrite t.cid p.woff (leBytes w.toNat 8)
              exec (.post d pt a) s = .next (((({ u with core := u.core.setPort pt.toNat { p with arm := true } } : State).countConsume j t.die).countSend
                j s.die).advance)) ∧
            (p.counter = false → p.depth ≤ p.fifo.length + p.held → p.ovf = false → exec (.post d pt a) s =
              .next ((({ t with core := t.core.setPort pt.toNat { p with waiting := p.waiting ++ [m] } } : State).countSend j s.die).holdSlot (wait 0)))))))) ∧
  (∀ (s : State) (m : PostMsg),
    (s.core.ports.get? m.port = none → exec (.postArrival m) s = .next ((s.tellSender m 0x14).countConsume m.job s.die)) ∧
    (∀ p, s.core.ports.get? m.port = some p →
      (s.core.postsWait p = true → exec (.postArrival m) s = .next { s with core := s.core.setPort m.port { p with waiting := p.waiting ++ [m] } }) ∧
      (s.core.postsWait p = false → p.counter = true → let u := s.spWrite s.cid p.woff (leBytes m.word.toNat 8)
        exec (.postArrival m) s =
          .next ((({ u with core := u.core.setPort m.port { p with arm := true } } : State).countConsume m.job s.die).tellSender m 0)) ∧
      (s.core.postsWait p = false → p.counter = false →
        (p.fifo.length + p.held < p.depth → exec (.postArrival m) s =
          .next (({ s with core := s.core.setPort m.port { p with fifo := p.fifo ++ [m.word] } } : State).tellSender m 0)) ∧
        (p.depth ≤ p.fifo.length + p.held →
          ((p.ovf = false ∨ s.core.latch ≠ none ∨ s.core.trapsFull = true) → exec (.postArrival m) s =
            .next { s with core := s.core.setPort m.port { p with waiting := p.waiting ++ [m] } }) ∧
          (p.ovf = true → s.core.latch = none → s.core.trapsFull = false → let h := whoHandle m.who
            exec (.postArrival m) s =
              .next ((({ s with core := { (s.core.setPort m.port p) with latch := some m } } : State).coreTrap 0x0B h (BitVec.ofNat 64 m.port)
                [BitVec.ofNat 64 (m.port + h.toNat % 2 ^ 23 * 2 ^ 32), m.word]).tellSender m 0))))))

/-- R222, R223, R230, R231: PCFG configures an idle port as a queue or a counter, or takes it away, from its descriptor, JPAT a disabled
row from its record (its checks in the order of log entry 167), both after a pending acquire and a copy's hold; JARM and JDIS enable and disable a row; JRD gives its status word.
R232 to R237, Table 7-5: an evaluation without a row to fire only renews SAT; a firing takes one word of each port of the row's
mask, makes the handler fibre READY with the row's entry, id and modes, adds one to SEQ and disables a row without REARM. -/
def Obligations.PortsAndPatterns : Prop :=
  ((∀ (pt : BitVec 6) (a : Reg) (s t : State) (ea : DWord) (off depth : Nat) (ovf : Bool), s.Ready ⟨[a], none, false, false⟩ [ea] t →
     s.checkScratch ea 8 = .ok off → ((s.heldByAcquire = true ∨ s.core.rangeStall s.cid off 8 = true) → exec (.pcfg pt a) s = .next s.stall) ∧
     (s.heldByAcquire = false → s.core.rangeStall s.cid off 8 = false → s.core.poisoned off 8 = false →
     (portReserved (leWord (memBytes s.mem (spHome s.cid off) 8)) = true → exec (.pcfg pt a) s = .next (s.raise (flt 0x02))) ∧
     (portReserved (leWord (memBytes s.mem (spHome s.cid off) 8)) = false → (s.core.namedByRow pt.toNat = true ∨ s.portIdle pt.toNat = false) →
       exec (.pcfg pt a) s = .next (s.raise (fltAt 0x14 (BitVec.ofNat 64 pt.toNat)))) ∧
     (memBytes s.mem (spHome s.cid off) 8 = leBytes (1 + ovf.toNat * 4 + depth * 8) 8 → depth < 64 → s.core.namedByRow pt.toNat = false →
       s.portIdle pt.toNat = true → s.core.slotsUsed pt.toNat + depth + 1 ≤ 256 →
       ∃ u, exec (.pcfg pt a) s = .next u ∧ u.mem = s.mem ∧ ∃ p, u.core.ports.get? pt.toNat = some p ∧ p.counter = false ∧ p.ovf = ovf ∧
         p.depth = depth + 1 ∧ p.fifo = [] ∧ p.held = 0 ∧ p.waiting = []) ∧
     (s.core.namedByRow pt.toNat = false → s.portIdle pt.toNat = true →
       (memBytes s.mem (spHome s.cid off) 8 = leBytes 0 8 →
         ∃ u, exec (.pcfg pt a) s = .next u ∧ u.mem = s.mem ∧ u.core.ports.get? pt.toNat = none) ∧
       (∀ (w o : Nat) (arm : Bool), memBytes s.mem (spHome s.cid off) 8 = leBytes (3 + arm.toNat * 2 ^ 9 + w * 2 ^ 16) 8 → w < 2 ^ 16 →
         s.checkScratch (BitVec.ofNat 64 w) 8 = .ok o → (∀ q ∈ s.core.ports, q.1 ≠ pt.toNat → q.2.counter = true → q.2.woff ≠ w) →
         ∃ u p, exec (.pcfg pt a) s = .next u ∧ u.mem = s.mem ∧ u.core.ports.get? pt.toNat = some p ∧ p.counter = true ∧ p.woff = w ∧
           p.arm = arm ∧ p.waiting = [])))) ∧
   (∀ (n : BitVec 6) (a : Reg) (s t : State) (ea : DWord) (off mask entry k : Nat), s.Ready ⟨[a], none, false, false⟩ [ea] t →
     s.checkScratch ea 8 = .ok off → ((s.heldByAcquire = true ∨ s.core.rangeStall s.cid off 16 = true) → exec (.jpat n a) s = .next s.stall) ∧
     (s.heldByAcquire = false → s.core.rangeStall s.cid off 16 = false → s.core.poisoned off 16 = false →
     memBytes s.mem (spHome s.cid off) 16 = leBytes mask 4 ++ leBytes entry 6 ++ leBytes k 1 ++ [0, 0, 0, 0, 0] →
     mask < 2 ^ 32 → entry < 2 ^ 48 → k < 256 →
     ((mask = 0 ∨ 32 ≤ k) → exec (.jpat n a) s = .next (s.raise (flt 0x02))) ∧
     (mask ≠ 0 → k < 32 → entry % 4 ≠ 0 → exec (.jpat n a) s = .next (s.raise (fltAt 0x04 (BitVec.ofNat 64 entry)))) ∧
     (mask ≠ 0 → k < 32 → entry % 4 = 0 → s.sid ≠ 7 → s.launchPri < k % 8 → exec (.jpat n a) s = .next (s.raise (flt 0x03))) ∧
     (mask ≠ 0 → k < 32 → entry % 4 = 0 → (s.sid = 7 ∨ k % 8 ≤ s.launchPri) → ∀ r, s.core.rows.get? n.toNat = some r → r.en = true →
       exec (.jpat n a) s = .next (s.raise (fltAt 0x14 (BitVec.ofNat 64 n.toNat)))) ∧
     (mask ≠ 0 → k < 32 → entry % 4 = 0 → (s.sid = 7 ∨ k % 8 ≤ s.launchPri) → (∀ r, s.core.rows.get? n.toNat = some r → r.en = false) →
       ∃ u r, exec (.jpat n a) s = .next u ∧ u.mem = s.mem ∧ u.core.rows.get? n.toNat = some r ∧ r.mask = BitVec.ofNat 32 mask ∧ r.entry = BitVec.ofNat 48 entry ∧
         r.pri = BitVec.ofNat 3 k ∧ r.rearm = (k / 8 % 2 == 1) ∧ r.rotate = (k / 16 % 2 == 1) ∧ r.en = false ∧ r.sat = false ∧ r.seq = 0 ∧
         r.id = s.ctx.id))) ∧
   (∀ (n : BitVec 6) (d : Reg) (s : State) (r : Row), s.core.rows.get? n.toNat = some r →
     (s.Ready ⟨[], none, false, false⟩ [] s →
       ((∃ i < 32, r.mask.getLsbD i = true ∧ s.core.ports.get? i = none) → exec (.jarm n) s = .next (s.raise (fltAt 0x14 (BitVec.ofNat 64 n.toNat)))) ∧
       ((∀ i < 32, r.mask.getLsbD i = true → (s.core.ports.get? i).isSome = true) → exec (.jarm n) s =
         .next ({ s with core := { s.core with rows := s.core.rows.set n.toNat { r with en := true } } } : State).advance) ∧
       exec (.jdis n) s = .next ({ s with core := { s.core with rows := s.core.rows.set n.toNat { r with en := false } } } : State).advance) ∧
     (s.Ready ⟨[], some d, false, false⟩ [] s → s.dstCheck d r.word = .ok → exec (.jrd d n) s = .next ((s.writeReg d r.word).advance))) ∧
   (∀ (n : BitVec 6) (d : Reg) (s : State), s.core.rows.get? n.toNat = none →
     (s.Ready ⟨[], none, false, false⟩ [] s →
       exec (.jarm n) s = .next (s.raise (fltAt 0x14 (BitVec.ofNat 64 n.toNat))) ∧ exec (.jdis n) s = .next s.advance) ∧
     (s.Ready ⟨[], some d, false, false⟩ [] s → s.dstCheck d 0 = .ok → exec (.jrd d n) s = .next ((s.writeReg d 0).advance)))) ∧
  (∀ s : State,
     let rows := s.core.rows.map fun r => (r.1, if r.2.en then { r.2 with sat := s.rowSat r.2 } else r.2)
     let s1 : State := { s with core := { s.core with rows := rows } }
     (s1.firing? = none → exec .patternFire s = .next s1) ∧
     (∀ n r e, s1.firing? = some (n, r) → s1.core.handlerEntry? n = some e → e < 256 → s1.core.slotOf? e = none →
       exec .patternFire s = .next (s1.fire n r) ∧
       ∃ f, (s1.fire n r).core.runq.get? e = some f ∧ f.ctx.pc = r.entry ∧ f.ctx.id = r.id ∧ f.ctx.pg = 0 ∧ f.ctx.p[0] = BitVec.ofNat 64 r.seq ∧
         f.ctx.p[1] = BitVec.ofNat 64 n ∧ f.ctx.state = 1 ∧ f.row = some n ∧ f.args = (s1.takeArgs (maskPorts r.mask)).2 ∧
         (s1.fire n r).core.rows.get? n = some { r with seq := r.seq + 1, en := r.rearm }))

/-- R214, R15, R25, R297: YIELD and PARK give the slot up; an unpopped word of a slot-scope queue raises QUEUE_MISUSE, with the
register of the first such queue (log entry 136); the SPIN of an HSCH in their group holds the slot first, a SPIN of 0 not at all; WAKE on its own core makes a PARKED fibre of the same job READY,
to another core it leaves as a message, and a pending split-phase acquire makes it wait; SETPRI, SETDL and SETWL write their fields of the fibre's context; RDTIME and GETST read.
The model's choices it rests on besides: log entry 166. -/
def Obligations.SchedulingInstructions : Prop :=
  (∀ s : State, s.Ready ⟨[], none, false, false⟩ [] s →
    let plain : Prop := s.frameHeld = none ∧ s.inlineReturn = none
    s.unpoppedReg = (([(Reg.qm 0, !s.fib.qm[0].words.isEmpty), (.qm 1, !s.fib.qm[1].words.isEmpty), (.qjn, !s.fib.qjn.isEmpty),
      (.qev, !s.fib.qev.isEmpty), (.qtm, !s.fib.qtm.isEmpty), (.qam, s.fib.qam.head?.any fun w => w.val.isSome)]).find? fun x => x.2).map Prod.fst ∧
    (∀ r, s.unpoppedReg = some r → exec .yield s = .next (s.raise (fltAt 0x15 (r.code.setWidth 64))) ∧
      (plain → exec .park s = .next (s.raise (fltAt 0x15 (r.code.setWidth 64))))) ∧
    (s.unpoppedReg = none →
      (∀ n : BitVec 4, s.sid.val < 6 → s.me.spin = none → s.me.hints.spin = some n → n ≠ 0 →
        let u := s.setMe { s.me with stall := some s.now, onQtm := false, spin := some (s.coreCycles + (8 * 2 ^ n.toNat - 8)) }
        exec .yield s = .next u ∧ (plain → exec .park s = .next u)) ∧
      (∀ c, s.sid.val < 6 → s.me.spin = some c → s.coreCycles < c → exec .yield s = .next s ∧ (plain → exec .park s = .next s)) ∧
      (∀ e, s.sid.val < 6 → s.me.ent = some e →
        ((s.me.spin = none ∧ (s.me.hints.spin = none ∨ s.me.hints.spin = some 0)) ∨ ∃ c, s.me.spin = some c ∧ c ≤ s.coreCycles) →
        exec .yield s = .next ((s.advance.swapOut 1 0).makeReady e) ∧ (plain → exec .park s = .next (s.advance.swapOut 3 0))) ∧
      (s.sid = 6 → let u := s.advance.setMe { s.advance.me with busy := false }
        exec .yield s = .next u ∧ (plain → exec .park s = .next u)) ∧
      (s.sid = 7 → exec .yield s = .next s.advance.endSlot7 ∧ (plain → exec .park s = .next s.advance.endSlot7))) ∧
    (∀ t, s.frameHeld = some t → exec .park s = .next t) ∧
    (∀ t, s.frameHeld = none → s.inlineReturn = some t → exec .park s = .next t)) ∧
  (∀ (a : Reg) (s t : State) (x : DWord), s.Ready ⟨[a], none, false, false⟩ [x] t →
    (2 ^ 23 ≤ x.toNat → exec (.wake a) s = .next (s.raise (flt 0x02))) ∧
    (x.toNat < 2 ^ 23 → let core := x.toNat / 2 ^ 8 % 4096 + 2304 * (x.toNat / 2 ^ 20)
      ((2303 < x.toNat / 2 ^ 8 % 4096 ∨ s.core.inPart1 core = false) → exec (.wake a) s = .next (s.raise (fltAt 0x06 x))) ∧
      (x.toNat / 2 ^ 8 % 4096 ≤ 2303 → s.core.inPart1 core = true →
        (s.heldByAcquire = true → exec (.wake a) s = .next s.stall) ∧
        (s.heldByAcquire = false → core = s.cid → exec (.wake a) s = .next (t.advance.wake (x.toNat % 256) (s.jobOf s.fib))) ∧
        (s.heldByAcquire = false → core ≠ s.cid → exec (.wake a) s =
          .next (t.advance.sendFrom s.cid core (some s.self) [] none (.wakeArrival (x.toNat % 256) (s.jobOf s.fib)))))) ∧
    (8 ≤ x.toNat → exec (.setpri a) s = .next (s.raise (flt 0x02))) ∧
    (x.toNat < 8 → s.sid ≠ 7 → s.launchPri < x.toNat → exec (.setpri a) s = .next (s.raise (flt 0x03))) ∧
    (x.toNat < 8 → (s.sid = 7 ∨ x.toNat ≤ s.launchPri) → exec (.setpri a) s =
      .next ((t.setCtx { t.ctx with status := (t.ctx.status &&& ~~~0x380) ||| BitVec.ofNat 32 (x.toNat * 128) }).advance)) ∧
    (2 ^ 48 ≤ x.toNat → exec (.setdl a) s = .next (s.raise (flt 0x02))) ∧
    (x.toNat < 2 ^ 48 → exec (.setdl a) s = .next ((t.setCtx { t.ctx with dl := x.setWidth 48 }).advance)) ∧
    (1024 ≤ x.toNat → exec (.setwl a) s = .next (s.raise (flt 0x02))) ∧
    (x.toNat < 1024 → exec (.setwl a) s = .next ((t.setCtx { t.ctx with
      status := (t.ctx.status &&& ~~~0x3FF00000) ||| BitVec.ofNat 32 (x.toNat * 2 ^ 20) }).advance))) ∧
  (∀ (d : Reg) (s : State), s.Ready ⟨[], some d, false, false⟩ [] s →
    (s.recStall = true → exec (.rdtime d) s = .next s.stall) ∧
    (s.recStall = false → s.replayed s.self.ent = none → (s.record s.self.ent 5 0xFF (BitVec.ofNat 64 s.now)).dstCheck d (BitVec.ofNat 64 s.now) = .ok →
      exec (.rdtime d) s = .next (((s.record s.self.ent 5 0xFF (BitVec.ofNat 64 s.now)).writeReg d (BitVec.ofNat 64 s.now)).advance)) ∧
    (∀ v : DWord, v.toNat = s.ctx.status.toNat + (whoHandle s.self).toNat % 2 ^ 32 * 2 ^ 32 → s.dstCheck d v = .ok →
      exec (.getst d) s = .next ((s.writeReg d v).advance)))

/-- R26, R23, R443: words written to the queues that act. A word other than 0 in qtm arms a timer at that distance, 0 cancels
every timer and drops its words; a word in qsc goes to every scale queue it is for; qhs takes words for the host; such a word goes to its queue when the cycles of its instruction have passed (04 R117), and a queue without
room, those on their way counted (log entry 147), stalls the slot.
R26, R36, R214, R297, R298: what comes to a fibre with time: an expired timer gives its word; a wait past its limit is withdrawn
with its words back in their queues and trapped, one of reason REMOTE is marked, a stall past it is trapped, and the trap says that it was
withdrawn (R367); the hold of a spin ends in
a swap-out, or lets a held PARK or YIELD go on; a wake finds its fibre PARKED or is discarded.
The model's choices it rests on besides: log entry 28. -/
def Obligations.QueuesAndTimers : Prop :=
  (∀ (s : State) (w : DWord),
     (2 ^ 40 ≤ w.toNat → exec (.timerArm w) s = .next (s.raise (flt 0x02))) ∧
     (w ≠ 0 → w.toNat < 2 ^ 40 →
       (s.fib.timers.length + s.fib.expired.length + s.fib.qtm.length < 4 → exec (.timerArm w) s =
         .next (s.setFib { s.fib with timers := s.fib.timers ++ [⟨s.now + w.toNat, s.fib.armCount % 65536⟩], armCount := s.fib.armCount + 1 })) ∧
       (4 ≤ s.fib.timers.length + s.fib.expired.length + s.fib.qtm.length → exec (.timerArm w) s = .next s.stall)) ∧
     exec .timerCancel s = .next (s.setFib { s.fib with timers := [], expired := [], qtm := [] }) ∧
     (let p (r : Reg) : Nat := s.core.pushes r (s.coreCycles + 1)
      let on (r : Reg) : State := { s with core := { s.core with late := s.core.late ++ [⟨s.coreCycles + s.me.lat, s.sid.val, .push r w⟩] } }
      let x (r : Reg) : Late := ⟨s.coreCycles, s.sid.val, .push r w⟩
      ((∀ c ∈ s.qscTargets, (s.coreAt c).qsc.length + p .qsc < 4) → exec (.qscPush w) s = .next (on .qsc)) ∧
      ((∃ c ∈ s.qscTargets, 4 ≤ (s.coreAt c).qsc.length + p .qsc) → exec (.qscPush w) s = .next s.stall) ∧
      ((∀ c ∈ s.qscTargets, (s.coreAt c).qsc.length < 4) → s.landOne (x .qsc) = s.pushScale w) ∧
      (w.toNat < 2 ^ 63 → (s.box s.qhsBox).outq.length + 2 * p .qhs + 2 ≤ 256 → exec (.qhsPush w) s = .next (on .qhs)) ∧
      (w.toNat < 2 ^ 63 → 256 < (s.box s.qhsBox).outq.length + 2 * p .qhs + 2 → exec (.qhsPush w) s = .next s.stall) ∧
      (2 ^ 63 ≤ w.toNat → s.sid ≠ 7 → exec (.qhsPush w) s = .next (s.raise (flt 0x03))) ∧
      (2 ^ 63 ≤ w.toNat → s.sid = 7 → exec (.qhsPush w) s = .next (on .qhs)) ∧
      ((2 ^ 63 ≤ w.toNat ∨ (s.box s.qhsBox).outq.length + 2 ≤ 256) → s.landOne (x .qhs) = s.pushHost w))) ∧
  ((∀ (s : State) (n : Nat) (f : Fibre), s.core.fibre? n = some f →
     (∀ x, f.timers = [x] → n < 256 → s.recMode f = 0 →
       (s.now < x.due → s.core.slotOf? n = none → ∃ u, exec (.timerExpiry n) s = .next u ∧ u.core.fibre? n = some f) ∧
       (x.due ≤ s.now → s.core.slotOf? n = none →
         ∃ u, exec (.timerExpiry n) s = .next u ∧ u.core.fibre? n = some { f with timers := [], expired := f.expired ++ [x] }) ∧
       (∀ i, x.due ≤ s.now → s.core.slotOf? n = some i → f.expired = [] → ∃ u, exec (.timerExpiry n) s = .next u ∧
         u.core.fibre? n = some { f with timers := [], qtm := f.qtm ++ [BitVec.ofNat 64 (x.due % 2 ^ 48 + x.num % 65536 * 2 ^ 48)] })) ∧
     (∀ job, f.ctx.state = 3 → f.job = job → exec (.wakeArrival n job) s = .next (s.makeReady n)) ∧
     (∀ job, (f.ctx.state ≠ 3 ∨ f.job ≠ job) → exec (.wakeArrival n job) s = .next s) ∧
     (∀ w, f.wait = some w → timed w.kind = false → n ≠ 257 → w.limitHit = false →
       (f.ctx.waitLimit = 0 ∨ s.now - w.since ≤ f.ctx.waitLimit → exec (.waitLimit n) s = .next s) ∧
       (f.ctx.waitLimit ≠ 0 → f.ctx.waitLimit < s.now - w.since →
         (w.reason = 7 → exec (.waitLimit n) s = .next (s.modFibre n fun x => { x with wait := some { w with limitHit := true } })) ∧
         (w.reason ≠ 7 → (s.completing w.op = true ∨ s.tileMoving w = true) → exec (.waitLimit n) s = .next s) ∧
         (w.reason ≠ 7 → s.completing w.op = false → s.tileMoving w = false → exec (.waitLimit n) s =
           .next ((((s.eraseOp ⟨s.cid, n⟩ w).unpop n w).faultWait n w
             (fltAt 0x0A (BitVec.ofNat 64 (if f.ctx.state = 2 then w.reason else 0)))).markWithdrawn n)))) ∧
     (∀ i c, f.wait = none → s.core.slotOf? n = some i → s.core.slots[i].stall = some c → n ≠ 257 → ({ s with sid := i } : State).uncountedStall = false →
       (f.ctx.waitLimit = 0 ∨ s.now - c ≤ f.ctx.waitLimit → exec (.waitLimit n) s = .next s) ∧
       (f.ctx.waitLimit ≠ 0 → f.ctx.waitLimit < s.now - c →
         exec (.waitLimit n) s = .next ((s.asFibre n fun u =>
           u.interruptPg.faultAt (fltAt 0x0A 0) u.interruptPg.ctx.pc u.interruptPg.ctx.pg).markWithdrawn n)))) ∧
   (∀ (s : State) (n : Nat), { s.markWithdrawn n with core := s.core } = s ∧ (s.markWithdrawn n).core =
      { s.core with traps := s.core.traps.map fun t => if t.ent = some n then { t with wdrawn := true } else t }) ∧
   (∀ (s : State) (sl : Fin 8) (c : Nat) (w : Wait), let u : State := { s with sid := sl }
     u.me.spin = some c →
     (s.coreCycles < c → exec (.hschSpinExpiry sl) s = .next s) ∧
     (c ≤ s.coreCycles → sl.val < 6 → u.fib.wait = some w → u.fib.unpopped = false → exec (.hschSpinExpiry sl) s =
       .next { (u.setPc u.groupPc).swapOut 2 w.reason with sid := s.sid }) ∧
     (c ≤ s.coreCycles → u.fib.wait = none → exec (.hschSpinExpiry sl) s = .next { u.setMe { u.me with stall := none } with sid := s.sid })))

/-- R351 to R353: the dispatcher takes a READY fibre of the highest class that is not empty, in the order of R351, into the lowest
free slot; a resident is displaced only when it qualifies.
R220: a dead-letter probe leaves only for a fibre blocked on a channel past its threshold, once; it ends at an owner that does
not wait, goes on from one that does, and files the cycle when it is back at its origin.
The model's choices it rests on besides: log entries 39, 69. -/
def Obligations.DispatchAndDeadLetters : Prop :=
  (∀ s : State,
     ((s.core.halted = true ∨ s.core.saved = true ∨ s.core.freeSlot? s.coreCycles = none ∨ s.selected? = none) → exec .dispatch s = .next s) ∧
     (∀ i e f, s.core.halted = false → s.core.saved = false → s.core.freeSlot? s.coreCycles = some i → s.selected? = some (e, f) →
       exec .dispatch s = .next (s.swapIn i e f) ∧ i.val < 6 ∧ s.core.slots[i].ent = none ∧ s.core.slots[i].ready ≤ s.coreCycles ∧
       (∀ j : Fin 8, j < i → s.core.slots[j].ent ≠ none ∨ s.coreCycles < s.core.slots[j].ready) ∧
       (e, f) ∈ s.core.runq ∧ f.ctx.state = 1 ∧ f.readyAt ≤ s.coreCycles ∧ (∀ g ∈ s.readyFibres, g.2.ctx.pri ≤ f.ctx.pri)) ∧
     ((∀ i : Fin 8, i.val < 6 → s.qualifies s.core.slots[i] = false) → exec .displacement s = .next s) ∧
     (∀ i, s.displaced? = some i → s.qualifies s.core.slots[i] = true ∧
       exec .displacement s = .next { ({ s with sid := i } : State).displace with sid := s.sid })) ∧
  ((∀ (s : State) (n : Nat) (x : Nat × Nat × Nat) (w : Wait), s.core.channelWait n = some x → ((s.core.fibre? n).bind fun f => f.wait) = some w →
     ((w.probed = true ∨ w.thr = 0 ∨ s.now ≤ w.since + w.thr ∨ (s.dies[Fin.ofNat 8 s.die]).dlprobe = 0) → exec (.deadLetterProbe n) s = .next s) ∧
     (w.probed = false → w.thr ≠ 0 → w.since + w.thr < s.now → (s.dies[Fin.ofNat 8 s.die]).dlprobe ≠ 0 → exec (.deadLetterProbe n) s =
       .next ((s.modFibre n fun f => { f with wait := some { w with probed := true } }).sendProbe
         { origin := ⟨s.cid, n⟩, op := w.op, path := [], target := 0, ep := 0 } n x))) ∧
   (∀ (s : State) (n : Nat), s.core.channelWait n = none → exec (.deadLetterProbe n) s = .next s) ∧
   (∀ (s : State) (p : Probe), let e := (s.core.endpoint p.ep).ownerIx
     (s.core.channelWait e = none → exec (.deadLetterProbeArrival p) s = .next s) ∧
     (∀ x, s.core.channelWait e = some x →
       ((⟨s.cid, e⟩ : Who) = p.origin → x.1 = p.op → exec (.deadLetterProbeArrival p) s = .next (s.fileCycle p)) ∧
       ((⟨s.cid, e⟩ : Who) = p.origin → x.1 ≠ p.op → exec (.deadLetterProbeArrival p) s = .next s) ∧
       ((⟨s.cid, e⟩ : Who) ≠ p.origin → (∃ y ∈ p.path, y.1 = ⟨s.cid, e⟩) → exec (.deadLetterProbeArrival p) s = .next s) ∧
       ((⟨s.cid, e⟩ : Who) ≠ p.origin → (∀ y ∈ p.path, y.1 ≠ ⟨s.cid, e⟩) → exec (.deadLetterProbeArrival p) s = .next (s.sendProbe p e x)))))

/-- R207 to R212: FORK and JOINC check the frame in p6; FORK in slot 7, without a job and with a full window raises CHANNEL_STATE, in slot
7 before any pop; a fork on its own core takes a free entry for the child and writes its id to d, or without one runs the child in its
own slot, with p6 as it was; to another core it leaves as a message with a wait of reason REMOTE. The core is that of the placement
hash for a deterministic job, else one of the job's cores with a free entry while there is one. JOINC takes the oldest child's full
slot, adds 1 to JOIN, and waits for it with reason 8; both first wait for a pending acquire and a copy over the frame. R349: a child from another core is created at its target if an entry is free,
and its parent told.
R213, R345, R347: LNCH wants a launch record in DRAM on a 64-byte boundary; it enters the die's pool, the index in bits 27:16 of d, or
d is 1 when the pool is full; in replay d is the recorded word, and a BUSY sets the flag of R360 either way.
The model's choices it rests on besides: log entry 11. -/
def Obligations.ForkAndLaunch : Prop :=
  ((∀ (d a b : Reg) (s : State), s.fieldFault ⟨[a, b], some d, false, false⟩ = none → s.sid = 7 → exec (.fork d a b) s = .next (s.raise (flt 0x14))) ∧
   (∀ (d a b : Reg) (s t : State) (entry x : DWord) (off : Nat),
     s.Ready ⟨[a, b], some d, false, false⟩ [entry, x] t → s.sid ≠ 7 →
     (s.frameWaits = true → exec (.fork d a b) s = .next s.stall) ∧
     (s.frameWaits = false → (∀ f, s.frameCheck s.ctx.p[6] = .error f → exec (.fork d a b) s = .next (s.raise f)) ∧
     (s.frameCheck s.ctx.p[6] = .ok off → s.job? = none → exec (.fork d a b) s = .next (s.raise (flt 0x14))) ∧
     (∀ j, s.frameCheck s.ctx.p[6] = .ok off → s.job? = some j → let h := s.spWord s.cid off
       (entry.toNat % 4 ≠ 0 → exec (.fork d a b) s = .next (s.raise (fltAt 0x04 entry))) ∧
       (entry.toNat % 4 = 0 → (h.getLsbD 24 = true ∨ (frSpawn h + 64 - frJoin h) % 64 = frNcw h ∨ frSpawn h = 63 ∨ pathDepth s.ctx.id j.w = 7 ∨
           64 < j.w + 6 * (pathDepth s.ctx.id j.w + 1)) → exec (.fork d a b) s = .next (s.raise (flt 0x14))) ∧
       (entry.toNat % 4 = 0 → h.getLsbD 24 = false → (frSpawn h + 64 - frJoin h) % 64 ≠ frNcw h → frSpawn h ≠ 63 → pathDepth s.ctx.id j.w ≠ 7 →
         j.w + 6 * (pathDepth s.ctx.id j.w + 1) ≤ 64 →
         let cid := s.ctx.id ||| BitVec.ofNat 64 ((frSpawn h + 1) * 2 ^ (j.w + 6 * pathDepth s.ctx.id j.w))
         let tgt := s.forkTarget j cid
         let slot := off + 96 + 8 * (frSpawn h % frNcw h)
         let w := (t.clearRsv none).spWrite s.cid off (leBytes (h + 1).toNat 8)
         let w := State.retest 33 { w with core := w.core.setFull slot false, free := w.free + 1 } slot
         let u := w.countSend w.fib.job s.die
         let c : Child := { who := w.self, op := w.nextId, job := w.fib.job, entry := entry.setWidth 48, arg := x,
                            slot := BitVec.ofNat 64 (if tgt = s.cid then slot else spHome s.cid slot), cid := cid, dl := w.ctx.dl,
                            status := childStatus w.ctx.status }
         (j.det = true → tgt = j.core (placeHash cid j.count)) ∧
         (j.det = false → (∃ k ∈ j.cores, (s.coreAt k).freeEntry? ≠ none) → tgt ∈ j.cores ∧ (s.coreAt tgt).freeEntry? ≠ none) ∧
         ((s.core.rangeStall s.cid slot 8 = true ∨ (tgt = s.cid ∧ s.outstanding ≠ [])) → exec (.fork d a b) s = .next s.stall) ∧
         (s.core.rangeStall s.cid slot 8 = false → tgt = s.cid → s.outstanding = [] → let v := u.countConsume w.fib.job s.die
           (∀ e, v.core.freeEntry? = some e → exec (.fork d a b) s = .next (((v.createChild e c).writeReg d cid).advance)) ∧
           (v.core.freeEntry? = none → exec (.fork d a b) s = .next (v.goInline off d c (s.ctx.pc + 4)).complete)) ∧
         (s.core.rangeStall s.cid slot 8 = false → tgt ≠ s.cid → exec (.fork d a b) s =
           .next ((u.block ((u.newWait (.fork d) 7 none off none).counted w.fib.job)).sendFrom s.cid tgt (some s.self) s.outstanding none (.forkChildCreate c))))))) ∧
   (∀ (s : State) (off : Nat) (d : Reg) (c : Child) (back : Addr), let g := s.goInline off d c back
     g.ctx.pc = c.entry ∧ g.ctx.id = c.cid ∧ g.ctx.p[0] = c.arg ∧ g.ctx.p[6] = s.ctx.p[6] ∧ g.ctx.p[2] = 0 ∧ g.ctx.status = s.ctx.status) ∧
   (∀ (d : Reg) (s : State), s.Ready ⟨[], some d, false, false⟩ [] s →
     (s.frameWaits = true → exec (.joinc d) s = .next s.stall) ∧
     (∀ f, s.frameWaits = false → s.frameCheck s.ctx.p[6] = .error f → exec (.joinc d) s = .next (s.raise f)) ∧
     (∀ off, s.frameWaits = false → s.frameCheck s.ctx.p[6] = .ok off → let h := s.spWord s.cid off
       (frJoin h = frSpawn h → exec (.joinc d) s = .next (s.raise (flt 0x14))) ∧
       (frJoin h ≠ frSpawn h → let slot := off + 96 + 8 * (frJoin h % frNcw h)
         let a : Access := { noAccess with kind := .ldfe, addr := BitVec.ofNat 64 slot }
         let u := s.clearRsv none
         (s.core.rangeStall s.cid slot 8 = true → exec (.joinc d) s = .next s.stall) ∧
         (s.core.rangeStall s.cid slot 8 = false →
           (∀ v z x b, u.atBank s.cid slot a = .done [x] v b → z = v.spWrite v.cid off (leBytes (v.spWord v.cid off + 0x100).toNat 8) → z.dstCheck d x = .ok →
             exec (.joinc d) s = .next (State.retest 33 (z.writeReg d x).advance slot)) ∧
           (u.atBank s.cid slot a = .wait → exec (.joinc d) s =
             .next ((u.block (u.newWait (.joinc d off) 8 none 0 (some a))).recordWaiter ⟨u.self, u.nextId, .wait, u.myJob⟩ a)))))) ∧
   (∀ (s : State) (c : Child),
     (∀ e, s.core.freeEntry? = some e → exec (.forkChildCreate c) s =
       .next ((s.createChild e c).send c.who.core (.remoteReply c.who c.op ⟨0, 0, false, [1, c.cid, c.entry.setWidth 64, c.arg]⟩))) ∧
     (s.core.freeEntry? = none → exec (.forkChildCreate c) s =
       .next (s.send c.who.core (.remoteReply c.who c.op ⟨0, 0, false, [0, c.cid, c.entry.setWidth 64, c.arg]⟩))))) ∧
  (∀ (d a : Reg) (s t : State) (r : DWord), s.Ready ⟨[a], some d, false, false⟩ [r] t →
     (r.toNat % 64 ≠ 0 → exec (.lnch d a) s = .next (s.raise (fltAt 0x04 r))) ∧
     (r.toNat % 64 = 0 → inDram r.toNat = false → exec (.lnch d a) s = .next (s.raise (fltAt 0x13 r))) ∧
     (r.toNat % 64 = 0 → inDram r.toNat = true → (s.recStall = true ∨ s.outstanding ≠ []) → exec (.lnch d a) s = .next s.stall) ∧
     (r.toNat % 64 = 0 → inDram r.toNat = true → s.recStall = false → s.outstanding = [] → s.replayed s.self.ent = none →
       let u := t.clearRsv none
       let depth := match s.job? with
         | some j => if s.sid = 7 then 0 else pathDepth s.ctx.id j.w
         | none => 0
       let ends (v : State) (w : DWord) : Prop := (v.record s.self.ent 6 0xFF w).dstCheck d w = .ok →
         exec (.lnch d a) s = .next (((v.record s.self.ent 6 0xFF w).writeReg d w).advance)
       (∀ i v, u.admitRecord s.die depth (r.setWidth 48) u.fib.job = some (i, v) → ends v (BitVec.ofNat 64 (i % 4096 * 2 ^ 16))) ∧
       (u.admitRecord s.die depth (r.setWidth 48) u.fib.job = none →
         ends (u.modJob u.fib.job fun j => if j.det then { j with orf := j.orf ||| 2 } else j) 1)) ∧
     (∀ ep x, r.toNat % 64 = 0 → inDram r.toNat = true → s.recStall = false → s.outstanding = [] → s.replayed s.self.ent = some (6, ep, x) →
       let u := t.clearRsv none
       let depth := match s.job? with
         | some j => if s.sid.val = 7 then 0 else pathDepth s.ctx.id j.w
         | none => 0
       let v := ((u.admitRecord s.die depth (r.setWidth 48) u.fib.job).map Prod.snd).getD u
       let y := if x.toNat % 4 = 1 then v.modJob u.fib.job fun j => if j.det then { j with orf := j.orf ||| 2 } else j else v
       (y.record s.self.ent 6 0xFF x).dstCheck d x = .ok → exec (.lnch d a) s = .next (((y.record s.self.ent 6 0xFF x).writeReg d x).advance)))

/-! Events and barriers (06 R215 to R219; 12 R356, R357). -/

/-- R215 to R217: the event instructions check the name, count the message and send it to the home; EVWAIT and EVTST wait for the
answer with reason 5 and keep the words they popped, their qev forms reserve an entry of qev and complete, EVSIG and EVCLR complete;
EVSIG comes after every earlier access of the fibre, the others wait for a pending split-phase acquire.
Table 6-11, R356, R357: an event at its home. A wait on a set event is answered, else recorded in a node of the pool, or of the overflow
list, or tried again when that is full; a signal sets it and answers every waiter, or is tried again where it finds no node (log entry 155); a clear clears it; a test is answered with its state. At the issuer the answer ends
the wait, or enters qev.
R218, R219: BAR of a gang the fibre belongs to sends its arrival and waits with reason 6, or first waits for its tag; the last
arrival completes every member with 0; BAR.brk, privileged, drops the arrivals and completes each waiting member with 1.
The model's choices it rests on besides: log entry 43. -/
def Obligations.EventsAndBarriers : Prop :=
  (∀ (d a : Reg) (s t : State) (x : DWord), s.Ready ⟨[a], none, false, false⟩ [x] t →
     (s.eventOf x = none → ∀ i ∈ [Instr.evwait a, .evwaitQev a, .evsig a, .evclr a, .evtst .qev a], exec i s = .next (s.raise (flt 0x02))) ∧
     (∀ j n, s.eventOf x = some (j, n) →
       let msg (o : Nat) (b : Bool) : EvMsg := { who := t.self, op := o, job := j.num, name := n, die := j.eventHome n, notify := b }
       let dst := dieDst (j.eventHome n)
       let wait (k : WaitKind) : Wait := ((t.newWait k 5 none 0 none).keeps (queueWords [a] [x])).counted (some j.num)
       let noted : State := { (t.setFib { t.fib with qevPend := t.fib.qevPend ++ [t.nextId] }) with nextId := t.nextId + 1 }
       let posted : State := { (t.advance.countSend (some j.num) s.die) with nextId := t.nextId + 1 }
       (s.heldByAcquire = true → ∀ i ∈ [Instr.evwait a, .evwaitQev a, .evclr a, .evtst .qev a], exec i s = .next s.stall) ∧
       (s.heldByAcquire = false →
         exec (.evwait a) s = .next (((t.block (wait .event)).countSend (some j.num) s.die).sendTo dst (some (2 ^ 46 + n)) (.eventWaitArrival (msg t.nextId false))) ∧
         (s.fib.qev.length + s.fib.qevPend.length < 4 →
           exec (.evwaitQev a) s = .next ((noted.advance.countSend (some j.num) s.die).sendTo dst (some (2 ^ 46 + n)) (.eventWaitArrival (msg t.nextId true))) ∧
           exec (.evtst .qev a) s = .next ((noted.advance.countSend (some j.num) s.die).sendTo dst (some (2 ^ 46 + n)) (.eventTestArrival (msg t.nextId true)))) ∧
         (4 ≤ s.fib.qev.length + s.fib.qevPend.length → exec (.evwaitQev a) s = .next s.stall ∧ exec (.evtst .qev a) s = .next s.stall) ∧
         exec (.evclr a) s = .next (posted.sendFrom s.cid dst (some s.self) [] (some (2 ^ 46 + n)) (.eventClearArrival (msg t.nextId false)))) ∧
       exec (.evsig a) s = .next (posted.sendFrom s.cid dst (some s.self) s.outstanding (some (2 ^ 46 + n)) (.eventSignalArrival (msg t.nextId false))))) ∧
  (∀ (d a : Reg) (s t : State) (x : DWord), d ≠ .qev → s.Ready ⟨[a], some d, false, false⟩ [x] t →
     (s.eventOf x = none → exec (.evtst d a) s = .next (s.raise (flt 0x02))) ∧
     (∀ j n, s.eventOf x = some (j, n) →
       (s.heldByAcquire = true → exec (.evtst d a) s = .next s.stall) ∧
       (s.heldByAcquire = false → exec (.evtst d a) s =
         .next (((t.block (((t.newWait (.evtst d) 5 none 0 none).keeps (queueWords [a] [x])).counted (some j.num))).countSend (some j.num) s.die).sendTo
           (dieDst (j.eventHome n)) (some (2 ^ 46 + n))
           (.eventTestArrival { who := t.self, op := t.nextId, job := j.num, name := n, die := j.eventHome n, notify := false }))))) ∧
  (∀ (s : State) (m : EvMsg), let d := s.dies[Fin.ofNat 8 m.die]
     let v := d.eventFor m
     let fresh := (d.event? m).isNone && v.far
     (∀ w, d.event? m = some w → v = w) ∧
     (d.event? m = none → v.job = m.job ∧ v.name = m.name ∧ v.set = false ∧ v.waiters = [] ∧ v.listed = 0 ∧
       (v.far = true ↔ 4 ≤ (d.events.filter fun x => !x.far && !(x.job == m.job && x.name == m.name) && eventSet x.job x.name == eventSet m.job m.name).length)) ∧
     (∀ i ∈ [Instr.eventWaitArrival m, .eventOverflowRetry m],
       (v.set = true → exec i s = .next (s.eventAnswer m false true)) ∧
       (v.set = false → v.far = false → v.listed = 0 → d.poolUsed < 16384 →
         exec i s = .next (s.setDie m.die (d.putEvent { v with waiters := v.waiters ++ [m] }))) ∧
       (v.set = false → (v.far = true ∨ v.listed ≠ 0 ∨ 16384 ≤ d.poolUsed) →
         (d.listUsed + fresh.toNat < 65536 →
           exec i s = .next (s.setDie m.die (d.putEvent { v with waiters := v.waiters ++ [m], listed := v.listed + 1 }))) ∧
         (65536 ≤ d.listUsed + fresh.toNat → exec i s =
           .next (s.sendFrom (dieDst m.die) (dieDst m.die) none [] none (.eventOverflowRetry m))))) ∧
     (fresh = true → 65536 ≤ d.listUsed → exec (.eventSignalArrival m) s =
       .next (s.sendFrom (dieDst m.die) (dieDst m.die) none [] (some (2 ^ 46 + m.name)) (.eventSignalArrival m))) ∧
     ((fresh = false ∨ d.listUsed < 65536) → exec (.eventSignalArrival m) s = .next (v.waiters.foldl (fun t w => t.eventAnswer w false true)
       ((s.setDie m.die (d.putEvent { v with set := true, waiters := [] })).countConsume (some m.job) m.die))) ∧
     (∀ w, d.event? m = some w → exec (.eventClearArrival m) s =
       .next ((s.setDie m.die (d.putEvent { w with set := false })).countConsume (some m.job) m.die)) ∧
     (d.event? m = none → exec (.eventClearArrival m) s = .next (s.countConsume (some m.job) m.die)) ∧
     exec (.eventTestArrival m) s = .next (s.eventAnswer m true v.set) ∧
     (∀ (test value : Bool), m.who.core = s.cid →
       (∀ f i, m.notify = true → s.core.fibre? m.who.ent = some f → s.core.slotOf? m.who.ent = some i → m.op ∈ f.qevPend →
         exec (.eventReply m test value) s = .next ((s.modFibre m.who.ent fun x =>
           { x with qev := x.qev ++ [BitVec.ofNat 64 (m.name % 65536 + value.toNat * 2 ^ 16 + test.toNat * 2 ^ 17)],
                    qevPend := x.qevPend.filter fun o => o != m.op }).countConsume (some m.job) s.die)) ∧
       (m.notify = false →
         (s.waitOf m.who.ent m.op = none → exec (.eventReply m test value) s = .next s) ∧
         (∀ f w t, s.waitOf m.who.ent m.op = some (f, w) → w.kind = .event → s.finishWait m.who.ent w none (if value then 1 else 0) = some t →
           exec (.eventReply m test value) s = .next (t.countConsume (some m.job) s.die)) ∧
         (∀ f w r t, s.waitOf m.who.ent m.op = some (f, w) → w.kind = .evtst r → s.finishWait m.who.ent w (some r) (if value then 1 else 0) = some t →
           exec (.eventReply m test value) s = .next (t.countConsume (some m.job) s.die))))) ∧
  ((∀ (d a : Reg) (s t : State) (x : DWord), s.Ready ⟨[a], some d, false, false⟩ [x] t →
     (2 ^ 15 ≤ x.toNat → exec (.bar d a) s = .next (s.raise (flt 0x02))) ∧
     (x.toNat < 2 ^ 15 →
       ((s.job? = none ∨ 6 ≤ s.sid.val ∨ x.toNat % 256 ∉ s.fib.gangs) → exec (.bar d a) s = .next (s.raise (flt 0x14))) ∧
       (∀ j, s.job? = some j → s.sid.val < 6 → x.toNat % 256 ∈ s.fib.gangs →
         let wait (ep : Nat) : Wait := (t.newWait (.bar d (x.toNat % 256)) 6 none ep none).popped [a] [x]
         (s.outstanding ≠ [] → exec (.bar d a) s = .next s.stall) ∧
         (s.outstanding = [] → (x.toNat < 2 ^ 14 ∨ s.core.tags.getLsbD (x.toNat / 256 % 64) = true) → exec (.bar d a) s =
           .next ((t.block (wait 0)).sendArrival t.self t.nextId j (x.toNat % 256))) ∧
         (s.outstanding = [] → 2 ^ 14 ≤ x.toNat → s.core.tags.getLsbD (x.toNat / 256 % 64) = false → exec (.bar d a) s =
           .next (t.block (wait (64 + x.toNat / 256 % 64))))))) ∧
   (∀ (a : Reg) (s t : State) (x : DWord), s.Ready ⟨[a], none, true, false⟩ [x] t →
     (256 ≤ x.toNat → exec (.barBrk a) s = .next (s.raise (flt 0x02))) ∧
     (x.toNat < 256 → (∀ j, t.core.job.bind t.jobs.get? = some j → (j.gangs.find? fun y => y.num = x.toNat) = none) → exec (.barBrk a) s = .next t.advance) ∧
     (∀ j g, x.toNat < 256 → t.core.job.bind t.jobs.get? = some j → (j.gangs.find? fun y => y.num = x.toNat) = some g →
       ∃ u, exec (.barBrk a) s = .next u ∧ ((∀ m ∈ g.members, s.barWait m x.toNat = none) → u.core = t.advance.core) ∧
         u.jobs.get? j.num = some { j with gangs := j.gangs.map fun y => if y.num = x.toNat then { y with arrived := [] } else y } ∧
         (∀ p ∈ u.net, ∀ w o, p.ev ≠ .barrierArrival w o j.num x.toNat) ∧
         (∀ m ∈ g.members, ∀ w, s.barWait m x.toNat = some w → ∃ p ∈ u.net, p.dst = m.core ∧ p.ev = .barrierCompletion m w.op true))) ∧
   (∀ (s : State) (who : Who) (op e gang : Nat) (j : Job) (g : Gang), s.jobs.get? e = some j → (j.gangs.find? fun g => g.num = gang) = some g →
     let put (l : List (Who × Nat)) : State :=
       { s with jobs := s.jobs.set e { j with gangs := j.gangs.map fun x => if x.num = gang then { x with arrived := l } else x } }
     let arr := g.arrived ++ [(who, op)]
     ((∃ m ∈ g.members, ∀ y ∈ arr, y.1 ≠ m) → exec (.barrierArrival who op e gang) s = .next (put arr)) ∧
     ((∀ m ∈ g.members, ∃ y ∈ arr, y.1 = m) → exec (.barrierArrival who op e gang) s =
       .next (arr.foldl (fun t y => t.sendFrom (j.gangHome gang) y.1.core none [] none (.barrierCompletion y.1 y.2 false)) (put [])))) ∧
   (∀ (s : State) (who : Who) (op : Nat) (broken : Bool), who.core = s.cid →
     (s.waitOf who.ent op = none → exec (.barrierCompletion who op broken) s = .next s) ∧
     (∀ f w d g t, s.waitOf who.ent op = some (f, w) → w.kind = .bar d g → s.finishWait who.ent w (some d) (if broken then 1 else 0) = some t →
       exec (.barrierCompletion who op broken) s = .next t)))

/-! Vector instructions (08). -/

/-- R247, R248, Table 8-1: lane-wise arithmetic, comparison and selection. Integer lanes wrap; floating lanes round once in the
mode of FRM or HMOD; a true comparison is all ones.
R253, R254: the movement of lanes and conversions. VSHF takes lane B mod the lane count, VBCAST the low bits of a scalar,
VEXT and VINS one 64-bit lane; VCVT converts as many elements as both types hold, the rest 0, and refuses a block format as
the destination of fewer than 32, whatever else holds. R245: the lanes are written when the cycles of the instruction have passed.
The model's choices it rests on besides: log entries 18, 19. -/
def Obligations.VectorLanesAndMoves : Prop :=
  (∀ (t : Ty) (d a b : VReg), let w := tyBits t
     let A (s : State) (k : Nat) : Nat := lane w s.core.v[a] k
     let B (s : State) (k : Nat) : Nat := lane w s.core.v[b] k
     let D (s : State) (k : Nat) : Nat := lane w s.core.v[d] k
     let sg (x : Nat) : Int := (BitVec.ofNat w x).toInt
     let ones (c : Bool) : Nat := if c then 2 ^ w - 1 else 0
     (tyFmt t = none →
       Lanewise (.vadd t d a b) t d (fun s k => (A s k + B s k, 0)) ∧
       Lanewise (.vsub t d a b) t d (fun s k => (A s k + 2 ^ w - B s k, 0)) ∧
       Lanewise (.vmul t d a b) t d (fun s k => (A s k * B s k, 0)) ∧
       Lanewise (.vfma t d a b) t d (fun s k => (A s k * B s k + D s k, 0)) ∧
       Lanewise (.vmin t d a b) t d (fun s k => (if sg (A s k) < sg (B s k) then A s k else B s k, 0)) ∧
       Lanewise (.vmax t d a b) t d (fun s k => (if sg (A s k) < sg (B s k) then B s k else A s k, 0)) ∧
       Lanewise (.vabs t d a) t d (fun s k => ((sg (A s k)).natAbs, 0)) ∧
       Lanewise (.vneg t d a) t d (fun s k => (2 ^ w - A s k, 0)) ∧
       Lanewise (.vcmpEq t d a b) t d (fun s k => (ones (decide (A s k = B s k)), 0)) ∧
       Lanewise (.vcmpLt t d a b) t d (fun s k => (ones (decide (sg (A s k) < sg (B s k))), 0)) ∧
       Lanewise (.vcmpLe t d a b) t d (fun s k => (ones (decide (sg (A s k) ≤ sg (B s k))), 0))) ∧
     (∀ f : FpFmt, tyFmt t = some f →
       Lanewise (.vadd t d a b) t d (fun s k => f.out s.rmode s.satOn (fpAdd s.rmode (f.decode (A s k)) (f.decode (B s k)))) ∧
       Lanewise (.vsub t d a b) t d (fun s k => f.out s.rmode s.satOn (fpAdd s.rmode (f.decode (A s k)) (f.decode (B s k)).negate)) ∧
       Lanewise (.vmul t d a b) t d (fun s k => f.out s.rmode s.satOn (fpMul (f.decode (A s k)) (f.decode (B s k)))) ∧
       Lanewise (.vfma t d a b) t d (fun s k =>
         f.out s.rmode s.satOn (fpFma s.rmode (f.decode (A s k)) (f.decode (B s k)) (f.decode (D s k)))) ∧
       Lanewise (.vmin t d a b) t d (fun s k => f.minMax false (A s k) (B s k)) ∧
       Lanewise (.vmax t d a b) t d (fun s k => f.minMax true (A s k) (B s k)) ∧
       Lanewise (.vabs t d a) t d (fun s k => f.signOp false (A s k)) ∧
       Lanewise (.vneg t d a) t d (fun s k => f.signOp true (A s k)) ∧
       Lanewise (.vcmpEq t d a b) t d (fun s k => let r := FpFmt.test 0 (f.decode (A s k)) (f.decode (B s k))
         (ones r.1, r.2)) ∧
       Lanewise (.vcmpLt t d a b) t d (fun s k => let r := FpFmt.test 1 (f.decode (A s k)) (f.decode (B s k))
         (ones r.1, r.2)) ∧
       Lanewise (.vcmpLe t d a b) t d (fun s k => let r := FpFmt.test 2 (f.decode (A s k)) (f.decode (B s k))
         (ones r.1, r.2)) ∧
       Lanewise (.vexp2 t d a) t d (fun s k => f.exp2 s.rmode s.satOn (f.decode (A s k))) ∧
       Lanewise (.vlog2 t d a) t d (fun s k => f.log2 s.rmode s.satOn (f.decode (A s k)))) ∧
     Lanewise (.vsel t d a b) t d (fun s k => (if D s k = 0 then B s k else A s k, 0)) ∧
     Lanewise (.vand t d a b) t d (fun s k => (A s k &&& B s k, 0)) ∧
     Lanewise (.vor t d a b) t d (fun s k => (A s k ||| B s k, 0)) ∧
     Lanewise (.vxor t d a b) t d (fun s k => (A s k ^^^ B s k, 0)) ∧
     Lanewise (.vshl t d a b) t d (fun s k => (A s k * 2 ^ (B s k % w), 0)) ∧
     Lanewise (.vshr t d a b) t d (fun s k => (A s k / 2 ^ (B s k % w), 0))) ∧
  ((∀ (t : Ty) (d a b : VReg), Lanewise (.vshf t d a b) t d (fun s k =>
     (lane (tyBits t) s.core.v[a] (lane (tyBits t) s.core.v[b] k % (512 / tyBits t)), 0))) ∧
   (∀ (t : Ty) (d : VReg) (a : Reg) (s u : State) (x : DWord), s.Ready ⟨[a], none, false, false⟩ [x] u → s.vecHeld = false →
     ∃ w v, exec (.vbcast t d a) s = .next w ∧ s.VecWrites w d (BitVec.allOnes 512) v ∧
       (∀ k < 512 / tyBits t, lane (tyBits t) v k = x.toNat % 2 ^ tyBits t)) ∧
   (∀ (d : Reg) (a : VReg) (n : BitVec 3) (s : State), s.Ready ⟨[], some d, false, false⟩ [] s → s.vecHeld = false →
     s.dstCheck d (s.core.v[a].extractLsb' (64 * n.toNat) 64) = .ok →
     exec (.vext d a n) s = .next ((s.takeVec.writeReg d (s.core.v[a].extractLsb' (64 * n.toNat) 64)).advance)) ∧
   (∀ (d : VReg) (a : Reg) (n : BitVec 3) (s u : State) (x : DWord), s.Ready ⟨[a], none, false, false⟩ [x] u → s.vecHeld = false →
     ∃ w m v, exec (.vins d a n) s = .next w ∧ s.VecWrites w d m v ∧
       (∀ k < 8, lane 64 m k = if k = n.toNat then 2 ^ 64 - 1 else 0) ∧ lane 64 v n.toNat = x.toNat) ∧
   (∀ (dty sty : Ty) (d a : VReg) (s : State), let m := Min.min (elemCount sty) (elemCount dty)
     (blockTy dty = true → m < 32 → exec (.vcvt dty sty d a) s = .next (s.raise (flt 0x02))) ∧
     (s.VecFree → blockTy dty = false → ∃ u v, exec (.vcvt dty sty d a) s = .next u ∧ s.VecWrites u d (BitVec.allOnes 512) v ∧
       (∀ k < m, lane (tyBits dty) v k = (toTy dty sty s.rmode s.satOn (elemValue sty s.core.v[a] k)).1 % 2 ^ tyBits dty) ∧
       (∀ k, m ≤ k → lane (tyBits dty) v k = 0)) ∧
     (s.VecFree → blockTy dty = true → 32 ≤ m → ∃ u, exec (.vcvt dty sty d a) s = .next u ∧ s.VecWrites u d (BitVec.allOnes 512)
       (BitVec.ofNat 512 (toBlocks dty s.rmode ((List.range m).map fun k => elemValue sty s.core.v[a] k)).1)))) ∧
  (∀ (s : State) (due rank : Nat) (d : VReg) (m v : VWord), let u := s.landOne ⟨due, rank, .vec d m v⟩
     u.core.v[d] = (s.core.v[d] &&& ~~~m) ||| (v &&& m) ∧ (∀ r : VReg, r ≠ d → u.core.v[r] = s.core.v[r]) ∧
     { u with core := { u.core with v := s.core.v } } = s)

/-- R246, R249 to R251: vector accesses of the own scratchpad. VLD and VST move 64 bytes; the strided and indexed forms read
their registers at issue and move one element after another, lane k at a + k·b, or at a plus offset lane k.
R252: reductions. Integer lanes are sign-extended and summed, compared or multiplied modulo 2^64; floating lanes combine in a
tree of adjacent pairs, each node rounded. R244, R245: an instruction that the unit takes marks its cycle, and its lanes are written when its
cycles have passed. -/
def Obligations.VectorMemoryAndReductions : Prop :=
  ((∀ (d : VReg) (a : Reg) (off : BitVec 12) (s t : State) (x : DWord) (o : Nat), s.Ready ⟨[a], none, false, false⟩ [x] t →
     s.vecHeld = false → let ea := x + off.signExtend 64 * 64
     (s.vecAccess ea 64 true = .at o → ∃ u, exec (.vld d a off) s = .next u ∧
       s.VecWrites u d (BitVec.allOnes 512) (BitVec.ofNat 512 (leNat (memBytes s.mem (spHome s.cid o) 64)))) ∧
     (s.vecAccess ea 64 false = .at o → ∃ u, exec (.vst d a off) s = .next u ∧ u.core.v = s.core.v ∧
       memBytes u.mem (spHome s.cid o) 64 = leBytes s.core.v[d].toNat 64 ∧
       (∀ b, (b < spHome s.cid o ∨ spHome s.cid o + 64 ≤ b) → memGet u.mem b = memGet s.mem b)) ∧
     (∀ f, s.vecAccess ea 64 true = .fault f → exec (.vld d a off) s = .next (s.raise f)) ∧
     (∀ f, s.vecAccess ea 64 false = .fault f → exec (.vst d a off) s = .next (s.raise f)) ∧
     (s.vecAccess ea 64 true = .stall → exec (.vld d a off) s = .next s.stall) ∧ (s.vecAccess ea 64 false = .stall → exec (.vst d a off) s = .next s.stall)) ∧
   (∀ (t : Ty) (d : VReg) (a b : Reg) (s u : State) (x y : DWord), s.Ready ⟨[a, b], none, false, true⟩ [x, y] u → s.vecHeld = false →
     exec (.vlds t d a b) s = .next (u.takeVec.startRun (512 / tyBits t)
       { ElemRun.start (.vlds t d a b) (512 / tyBits t) 0 with vals := [x, y], vec := 0, off := 0 } State.advance) ∧
     exec (.vsts t d a b) s = .next (u.takeVec.startRun (512 / tyBits t)
       { ElemRun.start (.vsts t d a b) (512 / tyBits t) 0 with vals := [x, y], vec := s.core.v[d], off := 0 } State.advance)) ∧
   (∀ (t : Ty) (d b : VReg) (a : Reg) (s u : State) (x : DWord), s.Ready ⟨[a], none, false, true⟩ [x] u → s.vecHeld = false →
     let n := 512 / Max.max 16 (tyBits t)
     exec (.vgath t d a b) s =
       .next (u.takeVec.startRun n { ElemRun.start (.vgath t d a b) n 0 with vals := [x], vec := 0, off := s.core.v[b] } State.advance) ∧
     exec (.vscat t d a b) s =
       .next (u.takeVec.startRun n { ElemRun.start (.vscat t d a b) n 0 with vals := [x], vec := s.core.v[d], off := s.core.v[b] } State.advance)) ∧
   (∀ (s : State) (r : ElemRun) (t : Ty) (d : VReg) (a b : Reg) (x y : DWord) (o : Nat), r.vals = [x, y] →
     let go (u : State) : State := (u.setMe { u.me with stall := none }).stepRun r State.advance
     (r.ins = .vlds t d a b → s.vecAccess (x + BitVec.ofNat 64 r.k * y) (tyBits t / 8) true = .at o → s.vecElem r =
       go (s.setVLane d (tyBits t) r.k (leNat (memBytes s.mem (spHome s.cid o) (tyBits t / 8))))) ∧
     (r.ins = .vsts t d a b → s.vecAccess (x + BitVec.ofNat 64 r.k * y) (tyBits t / 8) false = .at o → s.vecElem r =
       go (s.spWrite s.cid o (leBytes (lane (tyBits t) r.vec r.k) (tyBits t / 8)))) ∧
     (r.ins = .vlds t d a b → s.vecAccess (x + BitVec.ofNat 64 r.k * y) (tyBits t / 8) true = .stall → s.vecElem r = s.stall)) ∧
   (∀ (s : State) (r : ElemRun) (t : Ty) (d b : VReg) (a : Reg) (x : DWord) (o : Nat), r.vals = [x] →
     let ea := x + BitVec.ofNat 64 (lane (Max.max 16 (tyBits t)) r.off r.k)
     let go (u : State) : State := (u.setMe { u.me with stall := none }).stepRun r State.advance
     (r.ins = .vgath t d a b → s.vecAccess ea (tyBits t / 8) true = .at o →
       let u := s.setVLane d (tyBits t) r.k (leNat (memBytes s.mem (spHome s.cid o) (tyBits t / 8)))
       ((tyBits t ≠ 8 ∨ r.k ≠ 0) → s.vecElem r = go u) ∧
       (tyBits t = 8 → r.k = 0 → ∃ m : VWord, (∀ k < 64, lane 8 m k = if k < 32 then 0 else 0xFF) ∧ s.vecElem r = go (u.later (.vec d m 0)))) ∧
     (r.ins = .vscat t d a b → s.vecAccess ea (tyBits t / 8) false = .at o → s.vecElem r =
       go (s.spWrite s.cid o (leBytes (lane (tyBits t) r.vec r.k) (tyBits t / 8))))) ∧
   (∀ (s : State) (t : Ty) (d : VReg) (i x : Nat), i < 512 / tyBits t → x < 2 ^ tyBits t → ∃ m v, s.VecWrites (s.setVLane d (tyBits t) i x) d m v ∧
     (∀ k < 512 / tyBits t, lane (tyBits t) m k = if k = i then 2 ^ tyBits t - 1 else 0) ∧ lane (tyBits t) v i = x) ∧
   (∀ (s : State) (r : ElemRun) (f : Flt) (t : Ty) (d : VReg) (a b : Reg) (x y : DWord), r.vals = [x, y] → r.ins = .vlds t d a b →
     s.vecAccess (x + BitVec.ofNat 64 r.k * y) (tyBits t / 8) true = .fault f → s.vecElem r = s.raiseElem f r.k)) ∧
  (∀ (t : Ty) (d : Reg) (a b : VReg) (s : State), s.Ready ⟨[], some d, false, false⟩ [] s → s.vecHeld = false → isQueue d = false →
     let n := 512 / tyBits t
     let A (k : Nat) : Int := (BitVec.ofNat (tyBits t) (lane (tyBits t) s.core.v[a] k)).toInt
     let B (k : Nat) : Int := (BitVec.ofNat (tyBits t) (lane (tyBits t) s.core.v[b] k)).toInt
     let u := s.takeVec
     (t = .q ∨ t = .w ∨ t = .c →
       exec (.vredAdd t d a) s = .next ((u.writeReg d (BitVec.ofInt 64 ((List.range n).map A).sum)).advance) ∧
       exec (.vdot t d a b) s = .next ((u.writeReg d (BitVec.ofInt 64 ((List.range n).map fun k => A k * B k).sum)).advance) ∧
       (∀ m : Int, ((List.range n).map A).min? = some m → exec (.vredMin t d a) s = .next ((u.writeReg d (BitVec.ofInt 64 m)).advance)) ∧
       (∀ m : Int, ((List.range n).map A).max? = some m → exec (.vredMax t d a) s = .next ((u.writeReg d (BitVec.ofInt 64 m)).advance))) ∧
     (∀ f : FpFmt, tyFmt t = some f →
       let L (r : VReg) : List Nat := (List.range n).map fun k => lane (tyBits t) s.core.v[r] k
       let fin (r : Nat × BitVec 7) : State := (((u.setCtx (s.ctx.orFlags r.2)).writeReg d (BitVec.ofNat 64 r.1)).advance)
       let add (x y : Nat) : Nat × BitVec 7 := f.out s.rmode s.satOn (fpAdd s.rmode (f.decode x) (f.decode y))
       exec (.vredAdd t d a) s = .next (fin (tree add 7 (L a) 0)) ∧
       exec (.vredMin t d a) s = .next (fin (tree (f.minMax false) 7 (L a) 0)) ∧
       exec (.vredMax t d a) s = .next (fin (tree (f.minMax true) 7 (L a) 0)) ∧
       exec (.vdot t d a b) s = .next (fin (let l := treeLevel (s.dotNode t) ((L a).zip (L b))
         tree add 7 l.1 l.2))))

/-! Matrix unit, accumulators, sequencers (08, 03). -/

/-- R257 to R264: the matrix instructions check their records, raise the fault those checks give, and then move element by element;
a held unit or a pending split-phase acquire stalls them; MSWAP exchanges the planes, a lost one reloaded first, and is
refused in slot 7; MZERO clears the working plane.
R259 to R264, R106 to R108: the elements. MWLD loads a column of the shadow plane from a row, into zeros at the first, and names its
source at the last; a row of MSTRM is the sums of R106 of the streamed row with each column; MMUL adds to a row of C, the plane loaded
at a chunk's first row; MRD in the plane's own format writes a column's codes; a fault of a row names its element, and a paused unit does none.
R106 to R108: one accumulation step. INT32 sums wrap modulo 2^32 and count an overflow when they leave its range; a block of
finite products is summed exactly and delivered with one rounding, then added with one.
The model's choices it rests on besides: log entry 23. -/
def Obligations.MatrixInstructions : Prop :=
  ((∀ (a b d : Reg) (s t : State) (x y z : DWord) (shs : List Shape) (n : Nat), s.matHeld = false → s.heldByAcquire = false → s.ctx.pg = 0 →
     let run (i : Instr) (op : MatOp) (vals : List DWord) : State :=
       let r := { ElemRun.start i n 0 with vals := vals, shapes := shs, bfmt := s.formats }
       let w := (t.takeUnit (op == .mwld)).startRun n r State.advance
       let u := if w.core.pauses then w else { w with core := { w.core with matAt := w.coreCycles + s.matFirst (decide (s.sid.val ≠ 7)) r } }
       if u.me.run.isSome then u.setMe { u.me with stall := some (s.me.stall.getD s.now) } else u
     let found (hs : List DWord) : Prop :=
       (∀ h ∈ hs, h.toNat < 2 ^ 32) ∧ s.resolveAll s.shapeJob (hs.map fun h => h.toNat) = .ok shs
     let p : Plane := if s.sid = 7 then s.core.shadow else s.core.active
     (s.Ready ⟨[a], none, false, true⟩ [x] t →
       (mwldReserved x = true → exec (.mwld a) s = .next (s.raise (flt 0x02))) ∧
       (mwldReserved x = false → found [BitVec.ofNat 64 (x.toNat % 2 ^ 32)] →
         (s.matPlan .mwld p shs = .ok n → exec (.mwld a) s = .next (run (.mwld a) .mwld [x])) ∧
         (∀ f, s.matPlan .mwld p shs = .error f → exec (.mwld a) s = .next (s.raise f)))) ∧
     (s.Ready ⟨[a, b], none, false, true⟩ [x, y] t → found [x, y] →
       (s.matPlan .mstrm p shs = .ok n → exec (.mstrm a b) s = .next (run (.mstrm a b) .mstrm [])) ∧
       (∀ f, s.matPlan .mstrm p shs = .error f → exec (.mstrm a b) s = .next (s.raise f))) ∧
     (s.Ready ⟨[a, b, d], none, false, true⟩ [x, y, z] t → found [x, y, z] →
       (s.matPlan .mmul p shs = .ok n → exec (.mmul d a b) s = .next (run (.mmul d a b) .mmul [])) ∧
       (∀ f, s.matPlan .mmul p shs = .error f → exec (.mmul d a b) s = .next (s.raise f))) ∧
     (s.Ready ⟨[a], some d, false, true⟩ [x] t → found [x] →
       (s.matPlan .mrd p shs = .ok n → exec (.mrd d a) s = .next (run (.mrd d a) .mrd [])) ∧
       (∀ f, s.matPlan .mrd p shs = .error f → exec (.mrd d a) s = .next (s.raise f)))) ∧
   (∀ (a b d : Reg) (s t : State) (vs : List DWord), (s.matHeld = true ∨ s.heldByAcquire = true) →
     (s.Ready ⟨[a], none, false, true⟩ vs t → exec (.mwld a) s = .next s.stall) ∧
     (s.Ready ⟨[a, b], none, false, true⟩ vs t → exec (.mstrm a b) s = .next s.stall) ∧
     (s.Ready ⟨[a, b, d], none, false, true⟩ vs t → exec (.mmul d a b) s = .next s.stall) ∧
     (s.Ready ⟨[a], some d, false, true⟩ vs t → exec (.mrd d a) s = .next s.stall) ∧
     (s.Ready ⟨[], none, false, false⟩ vs t → exec .mswap s = .next s.stall ∧ exec .mzero s = .next s.stall)) ∧
   (∀ s : State, s.Ready ⟨[], none, false, false⟩ [] s → s.matHeld = false → s.heldByAcquire = false →
     (s.sid = 7 → exec .mswap s = .next (s.raise (flt 0x14))) ∧
     (s.sid ≠ 7 → s.core.shadow.lost = false →
       exec .mswap s = .next ({ s with core := { s.core with active := s.core.shadow, shadow := s.core.active } } : State).advance) ∧
     (∀ (r : Shape) (ks : Bool) (tb : Nat), s.sid ≠ 7 → s.core.shadow.lost = true → s.core.shadow.src = some (r, ks, tb) →
       (∀ j < r.rows, s.rowBar s.core.bfmt r j 0 r.cols (!ks) true = none) →
       exec .mswap s = .next ({ s with core := { s.core with
         active := { s.loadAll s.core.bfmt r ks tb 0 r.cols with src := some (r, ks, tb) }, shadow := s.core.active } } : State).advance) ∧
     (s.sid ≠ 7 → exec .mzero s = .next ({ s with core := { s.core with active := s.core.active.cleared } } : State).advance) ∧
     (s.sid = 7 → exec .mzero s = .next (((s.takeUnit false).setPlane true s.core.shadow.cleared).advance))) ∧
   (∀ (s : State) (lost : Bool), let u := s.takeUnit lost
     (s.sid ≠ 7 → u = s) ∧
     (s.sid = 7 → u.mem = s.mem ∧ u.core.active = s.core.active ∧ (s.core.matWork = false → u.me = s.me ∧ u.core.pausing = s.core.pausing) ∧
       (s.core.matWork = true → u.me = { s.me with paused := true } ∧ (s.me.paused = false → u.core.pausing = true) ∧ (lost = true → u.core.loaded7 = true)) ∧
       u.core.shadow = if lost then { s.core.shadow with lost := true } else s.core.shadow))) ∧
  (∀ (s : State) (r : ElemRun) (a b c : Shape) (x y z : Reg), s.sid ≠ 7 →
     (∀ op, s.core.held7 = true → s.matElem r op = s) ∧
     (r.ins = .mwld x → r.shapes = [a] → s.core.held7 = false → s.rowBar r.bfmt a r.k 0 a.cols (!r.ks) true = none →
       let q : Plane := if r.k = 0 then
           { s.core.shadow with fmt := typeCode a.fmt, k := a.cols, n := a.rows, w := List.replicate a.rows (List.replicate a.cols 0),
                                scale := List.replicate a.rows (List.replicate (if isBlock a.fmt then a.cols / 32 else 0) 0), lost := false }
         else s.core.shadow
       let l := s.loadColumn r.bfmt a r.ks r.tbase r.k 0 a.cols
       let p : Plane := { q with w := q.w.set r.k l.1, scale := q.scale.set r.k l.2 }
       (r.k + 1 < r.n → s.matElem r .mwld = ({ s with core := { s.core with shadow := p } } : State).setMe
         { s.me with run := some { r with vec := 1, k := r.k + 1 }, ready := s.coreCycles + 1 }) ∧
       (r.k + 1 = r.n → s.matElem r .mwld =
         (({ s with core := { s.core with shadow := { p with src := some (a, r.ks, r.tbase) } } } : State).setMe
           { s.me with run := none, fib := { s.fib with snap := none, ctx := { s.ctx with pg := 0 } } }).advance)) ∧
     (r.ins = .mstrm x y → r.shapes = [a, b] → s.core.held7 = false → s.wholeRow r.bfmt a r.k true = none →
       s.wholeRow r.bfmt b r.k false = none → ∃ t, s.matStep .mstrm true r = .ok t ∧
         t.mem = (s.spWrite s.cid (rowOff b r.k) ((s.streamRow r.bfmt s.core.active a r.k 0 a.cols fun _ => 0).flatMap
           fun v => leBytes v.1 (bankBits b.fmt / 8))).mem) ∧
     (r.ins = .mmul x y z → r.shapes = [a, b, c] → s.core.held7 = false →
       let i := r.k % a.rows
       let k0 := r.k / a.rows * planeDepth b.fmt
       let n := min (planeDepth b.fmt) (b.cols - k0)
       let add (u : State) : State := u.putRow c i (u.streamRow r.bfmt u.core.active a i k0 n fun j => (s.rowCodes c i).getD j 0)
       s.rowBar r.bfmt a i k0 n true true = none → s.wholeRow r.bfmt c i true = none →
       (i ≠ 0 → r.vec ≠ 0 → s.matStep .mmul true r = .ok (add s)) ∧
       (i = 0 → (∀ j < b.rows, s.rowBar r.bfmt b j k0 n true true = none) → s.matStep .mmul true r = .ok (add { s with core := { s.core with
         active := { s.loadAll r.bfmt b false 0 k0 n with src := s.core.active.src, lost := s.core.active.lost } } }))) ∧
     (r.ins = .mrd x y → r.shapes = [a] → s.core.held7 = false → a.fmt = bankCode s.core.active.fmt → a.fmt ≠ 0 → isBlock a.fmt = false →
       s.wholeRow r.bfmt a r.k false = none → s.matStep .mrd true r =
         .ok (s.spWrite s.cid (rowOff a r.k) (leBytes (pack (bankBits a.fmt) ((s.core.active.column r.k).map fun v => v.1)) (rowBytes a.fmt a.cols)))) ∧
     (∀ f, r.ins = .mstrm x y → r.shapes = [a, b] → s.core.held7 = false → s.wholeRow r.bfmt a r.k true = some (.fault f) →
       s.matElem r .mstrm = s.raiseElem f r.k)) ∧
  ((∀ (acc : Nat) (ps : List Fp), let t := (BitVec.ofNat 32 acc).toInt + (ps.map Fp.int).sum
     (intStep acc ps).1 = (t % 2 ^ 32).toNat ∧ ((intStep acc ps).2 = ⟨if t < -2 ^ 31 ∨ 2 ^ 31 ≤ t then 1 else 0, 0, 0⟩)) ∧
   (∀ (f : FpFmt) (acc : Nat) (ps : List Fp), let b := (f.deliver 0 false (plusZero (exactSum ps))).1
     (floatStep f acc ps).1 = (f.deliver 0 false (fpAdd 0 (f.decode acc) (f.decode b)).1).1) ∧
   (∀ (out fa fb : Nat) (acc : Nat), matElement out fa fb [] acc = (acc, Counts.zero)))

/-- R265 to R267, R271, R272: remote matrix commands and the unit's release. MCMD with four commands out gives 1, else it clears
its tag, counts the command and sends it; a command with the core's token joins its queue and one with another is denied;
its result sets the tag, or raises the command's fault with the address and the element. R269: the scale keeper answers with the old entry. -/
def Obligations.MatrixCommands : Prop :=
  (∀ (d a b : Reg) (s t : State) (h ea : DWord) (off : Nat), s.Ready ⟨[a, b], some d, false, false⟩ [h, ea] t →
    ((∀ o, regionOf s.cid ea ≠ .own o) → exec (.mcmd d a b) s = .next (s.raise (fltAt 0x13 ea))) ∧
    (regionOf s.cid ea = .own off →
      (off % 8 ≠ 0 → exec (.mcmd d a b) s = .next (s.raise (fltAt 0x04 ea))) ∧
      (off % 8 = 0 → off % 8192 + 32 ≤ 8192 → s.core.inPart0 off 32 = true → (s.heldByAcquire = true ∨ s.core.rangeStall s.cid off 32 = true) →
        exec (.mcmd d a b) s = .next s.stall) ∧
      (off % 8 = 0 → off % 8192 + 32 ≤ 8192 → s.core.inPart0 off 32 = true → s.heldByAcquire = false → s.core.rangeStall s.cid off 32 = false →
        s.core.poisoned off 32 = false → ∀ (code tag : Nat) (opa opb opd token : DWord), memBytes s.mem (spHome s.cid off) 32 = leBytes code 1 ++ leBytes tag 1 ++ List.replicate 6 0 ++
          leBytes opa.toNat 8 ++ leBytes opb.toNat 4 ++ leBytes opd.toNat 4 ++ leBytes token.toNat 8 →
        code < 256 → tag < 256 → opb.toNat < 2 ^ 32 → opd.toNat < 2 ^ 32 →
        ((h.toNat % 256 ≠ 0 ∨ 2 ^ 23 ≤ h.toNat ∨ 5 < code ∨ 63 < tag) → exec (.mcmd d a b) s = .next (s.raise (flt 0x02))) ∧
        (h.toNat % 256 = 0 → h.toNat < 2 ^ 23 → code ≤ 5 → tag ≤ 63 → h.toNat / 2 ^ 8 % 4096 ≤ 2303 → s.core.inPart1 (handleCore h) = true →
          (4 ≤ s.core.mcmdOut → t.dstCheck d 1 = .ok → exec (.mcmd d a b) s = .next ((t.writeReg d 1).advance)) ∧
          (s.core.mcmdOut < 4 → t.dstCheck d 0 = .ok → let u := (t.writeReg d 0).advance
            exec (.mcmd d a b) s = .next ((({ u with core := { u.core with tags := u.core.tags &&& ~~~BitVec.ofNat 64 (2 ^ tag), mcmdOut := u.core.mcmdOut + 1 } } :
                State).countSend s.myJob s.die).sendFrom s.cid (handleCore h) (some s.self) s.outstanding (some (2 ^ 48 + handleCore h))
              (.mcmdArrival { who := s.self, slot := s.sid.val, code := code, tag := tag, opa := opa, opb := opb, opd := opd, token := token, job := s.myJob }))) ∧
        (h.toNat % 256 = 0 → h.toNat < 2 ^ 23 → code ≤ 5 → tag ≤ 63 → (2303 < h.toNat / 2 ^ 8 % 4096 ∨ s.core.inPart1 (handleCore h) = false) →
          exec (.mcmd d a b) s = .next (s.raise (fltAt 0x06 h))))))) ∧
  (∀ (s : State) (m : MatCmd),
    ((m.token ≠ s.core.captok ∨ s.core.captok = 0) →
      exec (.mcmdArrival m) s = .next (s.mcmdAnswer m 0x0F 0 (BitVec.ofNat 64 s.cid))) ∧
    (m.token = s.core.captok → s.core.captok ≠ 0 → (s.core.matWork = true ∨ s.core.held7 = true ∨ s.core.seqs[(0 : Fin 3)].running = true) →
      exec (.mcmdArrival m) s = .next { s with core := { s.core with mcmds := s.core.mcmds ++ [m] } })) ∧
  (∀ (s : State) (who : Who) (slot tag code i : Nat) (f : Fibre), who.core = s.cid → s.core.fibre? who.ent = some f →
    let t := ({ s with core := { s.core with mcmdOut := s.core.mcmdOut - 1 } } : State).countConsume (s.jobOf f) s.die
    exec (.mcmdResult who slot tag 0 i) s = .next (t.setTags (BitVec.ofNat 64 (2 ^ tag))) ∧
    (code ≠ 0 → who.ent < 256 → exec (.mcmdResult who slot tag code i) s =
      .next (t.raiseAsync who.ent (asyncOf code 0 (BitVec.ofNat 64 (i / 2 ^ 48)) (BitVec.ofNat 64 (i % 2 ^ 48)) 0 none false)))) ∧
  (∀ s : State, ((s.core.slots[(7 : Fin 8)].busy = true ∨ s.core.slots[(7 : Fin 8)].paused = false) → exec .matrixResume s = .next s) ∧
    (s.core.slots[(7 : Fin 8)].busy = false → s.core.slots[(7 : Fin 8)].paused = true →
      ∃ u, exec .matrixResume s = .next u ∧ u.core.slots[(7 : Fin 8)].paused = false ∧ u.mem = s.mem ∧ u.core.active = s.core.active ∧
        u.core.loaded7 = false ∧ u.core.pausing = false ∧ (∀ i : Fin 8, i.val < 7 → u.core.slots[i].run = s.core.slots[i].run.map fun r =>
          if s.core.loaded7 = true ∧ matOp? r.ins = some .mwld then { r with k := 0 } else r))) ∧
  (∀ (d a : Reg) (s t : State) (w : DWord), s.Ready ⟨[a], some d, false, false⟩ [w] t →
    (2 ^ 17 ≤ w.toNat → exec (.mscl d a) s = .next (s.raise (flt 0x02))) ∧
    (w.toNat < 2 ^ 17 → s.core.inPart1 (keeperOf s.cid) = true → exec (.mscl d a) s =
      .next ((t.holdSlot ((t.newWait (.mscl d) 7 none 0 none).popped [a] [w])).sendTo (keeperOf s.cid) (some (2 ^ 47 + keeperOf s.cid))
        (.scaleKeeperOp t.self t.nextId (w.extractLsb' 0 8) (w.extractLsb' 8 8) (w.getLsbD 16))))) ∧
  (∀ (s : State) (who : Who) (op : Nat) (i v : BitVec 8),
    exec (.scaleKeeperOp who op i v false) s = .next (s.send who.core (.msclReply who op ((s.core.keeper[Fin.ofNat 256 i.toNat]).setWidth 64))) ∧
    exec (.scaleKeeperOp who op i v true) s =
      .next (({ s with core := { s.core with keeper := s.core.keeper.set (Fin.ofNat 256 i.toNat) v } } : State).send who.core
        (.msclReply who op ((s.core.keeper[Fin.ofNat 256 i.toNat]).setWidth 64))) ∧
    (∀ f w d t, who.core = s.cid → s.waitOf who.ent op = some (f, w) → w.kind = .mscl d → s.finishWait who.ent w (some d) (v.setWidth 64) = some t →
      exec (.msclReply who op (v.setWidth 64)) s = .next t))

/-- R273 to R276: the accumulator group on an own cell. ACCZ and ACCSET complete, ACCRD writes the rounded cell, ACCW and ACCMV run
over the words and wait for a pending split-phase acquire, ACCMV of overlapping cells is refused; an element of ACCW adds one word with
its carry, and without one, where only zero words remain, touches nothing; an element of ACCMV adds a word of the second cell and clears it.
The model's choices it rests on besides: log entries 15, 22. -/
def Obligations.Accumulators : Prop :=
  (∀ (a : Reg) (s t : State) (x : DWord) (o : Nat), s.Ready ⟨[a], none, false, false⟩ [x] t →
    s.LocalAt { noAccess with kind := .accz, addr := x } 8 o →
    exec (.accz a) s = .next (State.retest 33 ((t.spWrite s.cid o (List.replicate 72 0)).advance) o)) ∧
  (∀ (a b : Reg) (s t : State) (x y : DWord) (o : Nat), s.Ready ⟨[a, b], none, false, false⟩ [x, y] t →
    s.LocalAt { noAccess with kind := .accset, addr := x, a := y } 8 o →
    exec (.accset a b) s = .next (State.retest 33 ((t.spWrite s.cid o (leBytes ((y.toInt * 2 ^ 320) % 2 ^ 576).toNat 72)).advance) o)) ∧
  (∀ (ty : Ty) (d a : Reg) (s t : State) (x : DWord) (o : Nat), s.Ready ⟨[a], some d, false, false⟩ [x] t → isQueue d = false →
    s.LocalAt { noAccess with kind := .accrd, addr := x } 8 o → t.core.poisoned o 72 = false →
    let r := accRead ty (BitVec.ofNat 3 s.rmode).toNat s.satOn (t.cellWords s.cid o)
    exec (.accrd ty d a) s = .next (State.retest 33 (((t.setCtx (t.ctx.orFlags r.2)).writeReg d (BitVec.ofNat 64 r.1)).advance) o)) ∧
  (∀ (a b : Reg) (s t : State) (x y : DWord) (i j : Nat), s.Ready ⟨[a, b], none, false, true⟩ [x, y] t → s.cellCheck x = .ok i → s.cellCheck y = .ok j →
    (i < j + 72 → j < i + 72 → exec (.accmv a b) s = .next (s.raise (flt 0x02))) ∧
    ((j + 72 ≤ i ∨ i + 72 ≤ j) → (s.heldByAcquire = true → exec (.accmv a b) s = .next s.stall) ∧
      (s.heldByAcquire = false → exec (.accmv a b) s = .next (t.startRun 9
        { ElemRun.start (.accmv a b) 9 0 with vals := [BitVec.ofNat 64 i, BitVec.ofNat 64 j] } State.advance)))) ∧
  (∀ (ty : Ty) (a b : Reg) (s t : State) (x y : DWord) (off : Nat), s.Ready ⟨[a, b], none, false, true⟩ [x, y] t →
    (∃ o, regionOf s.cid x = .own o) → s.cellCheck x = .ok off → let r := addendOf ty y
    let w0 := firstWord r.1
    (s.heldByAcquire = true → exec (.accw ty a b) s = .next s.stall) ∧
    (s.heldByAcquire = false → exec (.accw ty a b) s = .next (t.startRun (9 - w0)
      { ElemRun.start (.accw ty a b) (9 - w0) 0 with vals := BitVec.ofNat 64 (off + 8 * w0) :: r.1.drop w0, flags := r.2 }
      fun u => (u.setCtx (u.ctx.orFlags r.2)).advance))) ∧
  (∀ (s : State) (r : ElemRun) (off : Nat) (x : DWord), r.vals.getD 0 0 = BitVec.ofNat 64 off → off < 2 ^ 16 → r.vals.getD (r.k + 1) 0 = x →
    (r.carry = false → (∀ w ∈ r.vals.drop (r.k + 1), w = 0) → s.accwElem r = s.stepRun { r with k := r.n - 1 } State.advance) ∧
    ((r.carry = true ∨ x ≠ 0) → (s.core.rangeStall s.cid (off + 8 * r.k) 8 = true → s.accwElem r = s.stall) ∧
      (s.core.rangeStall s.cid (off + 8 * r.k) 8 = false → s.core.poisoned (off + 8 * r.k) 8 = false →
        let n := (s.spWord s.cid (off + 8 * r.k)).toNat + x.toNat + r.carry.toNat
        let u := s.spWrite s.cid (off + 8 * r.k) (leBytes (n % 2 ^ 64) 8)
        let z := if r.k = 0 then u.setCtx (u.ctx.orFlags r.flags) else u
        s.accwElem r = (z.setMe { z.me with stall := none }).stepRun { r with carry := decide (2 ^ 64 ≤ n) } State.advance))) ∧
  (∀ (s : State) (r : ElemRun) (i j : Nat), r.vals = [BitVec.ofNat 64 i, BitVec.ofNat 64 j] → i < 2 ^ 16 → j < 2 ^ 16 →
    let x := i + 8 * r.k
    let y := j + 8 * r.k
    s.core.rangeStall s.cid x 8 = false → s.core.rangeStall s.cid y 8 = false → s.core.poisoned x 8 = false → s.core.poisoned y 8 = false →
    let n := (s.spWord s.cid x).toNat + (s.spWord s.cid y).toNat + r.carry.toNat
    let u := (s.spWrite s.cid x (leBytes (n % 2 ^ 64) 8)).spWrite s.cid y (List.replicate 8 0)
    s.accmvElem r = (u.setMe { u.me with stall := none }).stepRun { r with carry := decide (2 ^ 64 ≤ n) } State.advance)

/-- R280 to R284: XFORK starts the sequencers its descriptor names, waits while one of them runs or an earlier access of the fibre to its
own scratchpad is pending, and gives up the sequencers of an earlier XFORK that it does not name; XJOIN waits for the sequencers of the
last XFORK and for the copies they issued, writes 0 or the word of the first halted one, and frees them; commands stop and go on with a sequencer
for slot 7 only (of several refusals the first of log entry 160). Which fault a descriptor raises is the choice of log entry 169. -/
def Obligations.Sequencers : Prop :=
  (∀ (a : Reg) (s t : State) (ea : DWord) (off : Nat), s.Ready ⟨[a], none, false, false⟩ [ea] t → regionOf s.cid ea = .own off →
    (off % 8 ≠ 0 → exec (.xfork a) s = .next (s.raise (fltAt 0x04 ea))) ∧
    (off % 8 = 0 → off % 8192 + 48 ≤ 8192 → s.core.inPart0 off 48 = true → (s.heldByAcquire = true ∨ s.core.rangeStall s.cid off 48 = true) →
      exec (.xfork a) s = .next s.stall) ∧
    (off % 8 = 0 → off % 8192 + 48 ≤ 8192 → s.core.inPart0 off 48 = true → s.heldByAcquire = false → s.core.rangeStall s.cid off 48 = false →
      s.core.poisoned off 48 = false → let l := memBytes s.mem (spHome s.cid off) 48
      (∀ f, s.xforkFault l = some f → exec (.xfork a) s = .next (s.raise f)) ∧
      (s.xforkFault l = none →
        ((∃ e : Fin 3, (seqEntry l e.val).2.2 ≠ 0 ∧ s.core.seqs[e].running = true) → exec (.xfork a) s = .next s.stall) ∧
        (s.ownPending = true → exec (.xfork a) s = .next s.stall) ∧
        (s.ownPending = false → (∀ e : Fin 3, (seqEntry l e.val).2.2 = 0 ∨ s.core.seqs[e].running = false) → ∃ u, exec (.xfork a) s = .next u ∧ u.mem = s.mem ∧
          ∀ e : Fin 3, u.core.seqs[e] = if (seqEntry l e.val).2.2 = 0 then
              (if s.core.seqs[e].owner = some s.self then { s.core.seqs[e] with joined := true } else s.core.seqs[e]) else
            { Seq.reset with running := true, paddr := (seqEntry l e.val).1, nword := (seqEntry l e.val).2.1, rep := (seqEntry l e.val).2.2,
                             owner := some s.self, joined := false, ready := s.coreCycles + 1 })))) ∧
  (∀ (d : Reg) (s : State), s.Ready ⟨[], some d, false, false⟩ [] s → isQueue d = false →
    let mine (e : Fin 3) : Prop := s.core.seqs[e].owner = some s.self ∧ s.core.seqs[e].joined = false
    ((∃ e : Fin 3, mine e ∧ s.core.seqs[e].running = true) → exec (.xjoin d) s = .next s.stall) ∧
    ((∃ e : Fin 3, mine e) → s.core.seqCopies s.self = true → exec (.xjoin d) s = .next s.stall) ∧
    ((∀ e : Fin 3, mine e → s.core.seqs[e].running = false ∧ s.core.seqCopies s.self = false) →
      (∀ e : Fin 3, mine e → s.core.seqs[e].halted = true → (∀ e' < e, mine e' → s.core.seqs[e'].halted = false) →
        ∃ u : State, exec (.xjoin d) s = .next ((u.writeReg d (joinWord s.core.seqs[e] e.val)).advance) ∧ u.mem = s.mem ∧
          (∀ e : Fin 3, mine e → u.core.seqs[e] = Seq.reset) ∧ (∀ e : Fin 3, ¬ mine e → u.core.seqs[e] = s.core.seqs[e])) ∧
      ((∀ e : Fin 3, mine e → s.core.seqs[e].halted = false) → ∃ u : State, exec (.xjoin d) s = .next ((u.writeReg d 0).advance) ∧ u.mem = s.mem ∧ u.fib.xfork = false ∧
        (∀ e : Fin 3, mine e → u.core.seqs[e] = Seq.reset) ∧ (∀ e : Fin 3, ¬ mine e → u.core.seqs[e] = s.core.seqs[e])))) ∧
  (∀ (s : State) (q : EngQ) (w : DWord) (slot : Nat) (rest : List (DWord × Nat)), (s.core.engQueue q).cmds = (w, slot) :: rest →
    (s.core.engQueue q).res.length < 4 → let n := w.toNat / 16 % 4
    let op := w.toNat % 16
    let i : Instr := if op = 1 then .engineStop q else if op = 2 then .engineGo q else .engineQuery q
    let runs : Bool := (engOf n).any fun e => (s.seq e).running
    let z := (s.readFifo (queueNum q)).2
    let answer (u : State) (code : Nat) : State := { u with core := u.core.setEngQueue q ⟨rest, (s.core.engQueue q).res ++ [u.engResult n code]⟩ }
    ((s.readFifo (queueNum q)).1 = true → exec i s = .next (answer z 0x0E)) ∧
    ((s.readFifo (queueNum q)).1 = false →
      ((2 < op ∨ 64 ≤ w.toNat) → exec i s = .next (answer z 0x02)) ∧
      (op ≤ 2 → w.toNat < 64 →
        (op = 0 → exec i s = .next (answer z 0)) ∧
        (op ≠ 0 → slot ≠ 7 → exec i s = .next (answer z 0x03)) ∧
        (op ≠ 0 → slot = 7 → runs = false → exec i s = .next (answer z 0x15)) ∧
        (∀ e, op ≠ 0 → slot = 7 → engOf n = some e → (s.seq e).running = true →
          exec i s = .next (answer (z.setSeq e { s.seq e with stopped := decide (op = 1) }) 0))))) ∧
  (∀ (s : State) (e : Eng), ((s.seq e).running = false ∨ (s.seq e).stopped = true ∨ s.coreCycles < (s.seq e).ready → exec (.sequencerWord e) s = .next s) ∧
    ((s.seq e).running = true → (s.seq e).stopped = false → (s.seq e).ready ≤ s.coreCycles → (s.seq e).run = none → s.core.poisoned ((s.seq e).paddr + 4 * (s.seq e).word) 4 = false →
      let w : Word := BitVec.ofNat 32 (leNat (memBytes s.mem (spHome s.cid ((s.seq e).paddr + 4 * (s.seq e).word)) 4))
      (decode w = .error .illegalOp → exec (.sequencerWord e) s = .next (s.haltSeq e 0x01)) ∧
      (decode w = .error .reservedField → exec (.sequencerWord e) s = .next (s.haltSeq e 0x02)) ∧
      (∀ i, decode w = .ok i → seqExec e i = none → exec (.sequencerWord e) s = .next (s.haltSeq e 0x01)) ∧
      (∀ i rs f, decode w = .ok i → seqExec e i = some (rs, f) → (∃ r ∈ rs, seqReg r = false) → exec (.sequencerWord e) s = .next (s.haltSeq e 0x02)) ∧
      (∀ i rs f, decode w = .ok i → seqExec e i = some (rs, f) → (∀ r ∈ rs, seqReg r = true) → exec (.sequencerWord e) s = .next (s.seqWord e i f)))) ∧
  (∀ (s : State) (sl : Fin 8) (r : ElemRun), (s.core.slots[sl]).run = some r →
    (s.core.occupied sl s.coreCycles = true → exec (.elementCommit sl) s = .next s) ∧
    (s.core.occupied sl s.coreCycles = false → exec (.elementCommit sl) s = .next { ({ s with sid := sl } : State).commitElem r with sid := s.sid }))

/-! What reaches a core and the agents (05, 10, 11, 13). -/

/-- R148 to R151, R155 to R158, R167, R316: replies and acknowledgements. A reply ends the wait it answers, ends a flush read of its
fibre, and is ignored where neither is left; a notice turns the reason into FULLEMPTY; an acknowledgement frees its journal entry, a refusal keeps it with
its cause and traps; a refused counter update frees it; a split-phase refusal pushes 0 and traps.
R160, R384, R387, R391: a shipped request's reply enters the message queue with its header, writes its scratchpad operand, traps where
it is poisoned, and is held while the fibre is not resident; a reply to a plain access ends its wait. -/
def Obligations.Replies : Prop :=
  (∀ (s : State) (who : Who) (op : Nat) (r : Result), who.core = s.cid → who.core < 20000 →
     (∀ f w t, s.waitOf who.ent op = some (f, w) → (∀ d, w.kind ≠ .fork d) → isPost w.kind = false → s.finishAccess who.ent w r = some t →
       exec (.remoteReply who op r) s = .next (t.countConsume w.sent s.die)) ∧
     (∀ f w d sz, s.waitOf who.ent op = some (f, w) → w.kind = .load d sz false → r.code ≠ 0 →
       exec (.remoteReply who op r) s = .next ((s.faultWait who.ent w (accessFlt r.code r.addr)).countConsume w.sent s.die)) ∧
     (s.waitOf who.ent op = none → (∀ c : Fin 8, (∀ x ∈ (s.core.channels[c]).flight, x.2 ≠ op) ∧ (s.core.channels[c]).flush ≠ some (op, false)) →
       ((∀ f, s.core.fibre? who.ent = some f → f.flush ≠ some op) → exec (.remoteReply who op r) s = .next s) ∧
       (∀ f, s.core.fibre? who.ent = some f → f.flush = some op →
         exec (.remoteReply who op r) s = .next (s.modFibre who.ent fun x => { x with flush := none }))) ∧
     (s.waitOf who.ent op = none → exec (.fullemptyNotice who op) s = .next s) ∧
     (∀ f w, s.waitOf who.ent op = some (f, w) → f.ctx.state = 2 → exec (.fullemptyNotice who op) s =
       .next (s.modFibre who.ent fun x => { x with ctx := f.ctx.inState 2 4, wait := some { w with reason := 4 } })) ∧
     (∀ j, s.core.journalEntry j op = none → exec (.journalAck j op) s = .next s ∧ exec (.postedStoreRefused j op r) s = .next s) ∧
     (∀ j e, s.core.journalEntry j op = some e → let u := s.countConsume e.job s.die
       exec (.journalAck j op) s = .next { s with core := { s.core with journal := s.core.journal.filter fun x => x.idx != j } } ∧
       (r.code = 0x0C → exec (.postedStoreRefused j op r) s =
         .next (({ u with core := { s.core with journal := s.core.journal.filter fun x => x.idx != j } } : State).raiseAsync e.ent
           (asyncOf 0x0C 0 r.addr 0 0 none false))) ∧
       (r.code ≠ 0x0C → let jn := s.core.journal.map fun x => if x.idx = j then { x with cause := some r.code } else x
         exec (.postedStoreRefused j op r) s = .next (({ u with core := { s.core with journal := jn } } : State).raiseAsync e.ent
           (asyncOf 0x0D 0 e.addr 0 0 (some j) false)))) ∧
     (∀ f i, s.core.fibre? who.ent = some f → s.core.slotOf? who.ent = some i →
       let job := (f.qam.find? fun q => decide (q.op = op)).bind fun q => q.sent
       (r.code = 0 → exec (.splitPhaseReply who op r) s = .next ((s.fillQam who.ent op (some r.words)).countConsume job s.die)) ∧
       (r.code ≠ 0 → exec (.splitPhaseReply who op r) s = .next (((s.fillQam who.ent op none).countConsume job s.die).raiseAsync who.ent
         (asyncOf r.code (if r.code = 0x0E then 8 else 0) r.addr 0 0 none false)))) ∧
     (∀ f, s.core.fibre? who.ent = some f → s.core.slotOf? who.ent = none →
       exec (.splitPhaseReply who op r) s = .next (s.send s.cid (.splitPhaseReply who op r)))) ∧
  (∀ (s : State) (q : Req) (r : Rep) (f : Fibre), q.who.core = s.cid → q.who.core < 20000 → q.origin = 0 → s.core.fibre? q.who.ent = some f →
     let pushed (u : State) (header value : DWord) : State :=
       let m := pushReply f.qm[q.queue] q.tag header value
       (u.modFibre q.who.ent fun x => { x with qm := x.qm.set q.queue m }).countConsume q.job s.die
     let v := s.learnHome q.va.toNat r.home
     (s.core.slotOf? q.who.ent = none → exec (.shipReply q r) s = .next (s.send s.cid (.shipReply q r))) ∧
     (∀ i, s.core.slotOf? q.who.ent = some i → r.status ≠ 0 → let u := pushed v (headerWord q.tag r.sub r.status q.routine q.va) 0
       exec (.shipReply q r) s = .next (if r.status = 0x0E then
         u.raiseAsync q.who.ent (asyncOf 0x0E (BitVec.ofNat 8 q.tag) (q.va.setWidth 64) 0 0 none false) else u)) ∧
     (∀ i x n, s.core.slotOf? q.who.ent = some i → r.status = 0 → scratchWrite q.routine q.a q.b = some (x, n) → exec (.shipReply q r) s =
       .next (pushed (v.spWrite v.cid (x.toNat % 65536) r.data) (headerWord q.tag r.sub 0 q.routine q.va) r.result)) ∧
     (∀ i, s.core.slotOf? q.who.ent = some i → r.status = 0 → scratchWrite q.routine q.a q.b = none → exec (.shipReply q r) s =
       .next (pushed v (headerWord q.tag r.sub 0 q.routine q.va) r.result))) ∧
  (∀ (s : State) (q : Req) (r : Rep) (f : Fibre) (w : Wait), q.who.core = s.cid → q.who.core < 20000 → q.origin ≠ 0 → q.via = .wait →
     s.core.fibre? q.who.ent = some f → f.wait = some w → w.op = q.op → let ea := (w.acc.getD noAccess).addr
     exec (.shipReply q r) s = .next ((s.learnHome q.va.toNat r.home).remoteReply q.who q.op ⟨r.status, ea, r.sub, replyWords ea w.kind r⟩))

/-- R333, R334, R155, R407, R424: an access at its owner. Slot 6 takes one at a time in arrival order, performs it at the bank and
answers, the refusal of a counter with its word's address (05 R167); an offset outside the owner's PART0 or an owner outside its own PART1 is refused; a full/empty access that must wait is recorded and its issuer told;
a write of an unexposed notify page is discarded.
The model's choices it rests on besides: log entry 123. -/
def Obligations.OwnerAccesses : Prop :=
  (∀ (s : State) (i : Issuer) (a : Access) (off : Nat), regionOf 30000 a.addr = .peer s.cid off → a.addr.toNat % 65536 = off → s.core.amq = [] →
    s.core.slot6Busy = false → s.core.accessStall s.cid off a = false → s.core.saved = false → s.core.halted = false →
    let u : State := { s with core := { s.core with recent6 := (s.coreCycles :: s.core.recent6).take 2 } }
    (∀ c, s.core.ownerFault s.cid off (accSpan a) = some c → exec (.activeMessage i a) s = .next (u.answer i ⟨c, a.addr, false, []⟩)) ∧
    (off % 8192 + accSpan a ≤ 8192 → (s.core.inPart1 s.cid = false ∨ off < s.core.part0.toNat % 2 ^ 16 ∨
      s.core.part0.toNat / 2 ^ 16 % 2 ^ 17 < off + accSpan a) → s.core.ownerFault s.cid off (accSpan a) = some 0x06) ∧
    (s.core.ownerFault s.cid off (accSpan a) = none →
      (∀ ws t flip, u.atBank s.cid off a = .done ws t flip →
        let v := (if isPosted i then t.countConsume i.job s.die else t).answer i ⟨0, a.addr, false, ws⟩
        exec (.activeMessage i a) s = .next (if flip then State.retest 33 v off else v)) ∧
      (∀ c, u.atBank s.cid off a = .refuse c → exec (.activeMessage i a) s = .next (u.answer i ⟨c, u.refusedAt s.cid off a c, false, []⟩)) ∧
      (∀ c, (a.kind = .accw ∨ c ≠ 0x0C) → u.refusedAt s.cid off a c = a.addr) ∧
      (∀ op, a.kind = .atomic op → u.refusedAt s.cid off a 0x0C = a.addr &&& ~~~(7 : DWord)) ∧
      (u.atBank s.cid off a = .wait → i.who.core < 20000 →
        exec (.activeMessage i a) s = .next ((u.recordWaiter i a).send i.who.core (.fullemptyNotice i.who i.op))))) ∧
  (∀ (s : State) (i : Issuer) (a : Access) (off : Nat), regionOf 30000 a.addr = .peer s.cid off → s.core.amq = [] → s.core.slot6Busy = true →
    exec (.activeMessage i a) s = .next { s with core := { s.core with amq := [(i, a)] } }) ∧
  (∀ (s : State) (i : Issuer) (a : Access), regionOf 30000 a.addr = .none →
    exec (.activeMessage i a) s = .next (s.refuseFrom 30000 i a.addr 0x13)) ∧
  (∀ (s : State) (f : Issuer) (a : Access),
    (s.core.accessStall s.cid (a.addr.toNat % 65536) a = true → exec (.fullemptyRetry f a) s = .next (s.recordWaiter f a)) ∧
    (s.core.accessStall s.cid (a.addr.toNat % 65536) a = false →
    (∀ c, s.atBank s.cid (a.addr.toNat % 65536) a = .refuse c → exec (.fullemptyRetry f a) s = .next (s.refuseTo f a.addr c)) ∧
    (s.atBank s.cid (a.addr.toNat % 65536) a = .wait → exec (.fullemptyRetry f a) s = .next (s.recordWaiter f a)) ∧
    (∀ ws t u, s.atBank s.cid (a.addr.toNat % 65536) a = .done ws t false → t.satisfy f a ws = some u → exec (.fullemptyRetry f a) s = .next u))) ∧
  (∀ (s : State) (page reg : Nat) (w : DWord) (host : Bool),
    (s.exposed page host = false → exec (.notifyWrite page reg w host) s = .next s) ∧
    (∀ c e, page < 32768 → reg < 512 → s.exposed page host = true → (s.pageWord page).getLsbD 2 = false →
      s.host.bound.get? (256 + (page * 512 + reg)) = some (c, e) → exec (.notifyWrite page reg w host) s =
        .next (({ s with host := { s.host with notifyRegs := s.host.notifyRegs.set (page * 512 + reg) w } } : State).sendFrom 30001 c none []
          (some (entryPlace c e)) (.messageArrival { who := ⟨0, 0⟩, op := 0, src := .ext 4 (page * 512 + reg), dst := e, body := .word w, offer := false, job := none }))))

/-- R320, R337, R338, R364, R368, R373: lines and records fill their caches and let stalled slots go on; a failed line is the fault of
the slots that wait for it; a trap is delivered to a free slot 7, SECURITY first, and an urgent task only when no trap
waits.
R312 to R315: an envelope is admitted only with the next number of its sender, the counts it carries reached and its clock update
arrived; its acceptance advances both counts, takes in the rows that its sender last sent, and is acknowledged; the rows of a clock update wait
for that; an acknowledgement lowers the count of
envelopes in flight.
The model's choices it rests on besides: log entry 117. -/
def Obligations.CoreArrivals : Prop :=
  ((∀ (s : State) (line : Nat) (l : List Byte), s.stalledOn line = [] → exec (.fetchLineFill line l 0) s =
     .next { s with core := { s.core with fetching := s.core.fetching.filter fun x => x != line,
                                          lines := ((line, l) :: s.core.lines.filter fun x => x.1 != line).take 32 } }) ∧
   (∀ (s : State) (line code : Nat) (l : List Byte), code ≠ 0 → s.stalledOn line = [] → exec (.fetchLineFill line l code) s =
     .next { s with core := { s.core with fetching := s.core.fetching.filter fun x => x != line } }) ∧
   (∀ (s : State) (line code a : Nat) (l : List Byte) (i : Fin 8) (lend : Option Nat), s.stalledOn line = [(i, a, lend)] →
     let c : Core := { s.core with fetching := s.core.fetching.filter fun x => x != line }
     (code = 0 → let u : State := { s with core := { c with lines := ((line, l) :: s.core.lines.filter fun x => x.1 != line).take 32 }, sid := i }
       exec (.fetchLineFill line l code) s = .next { u.setMe { s.core.slots[i] with stall := none } with sid := s.sid }) ∧
     (code ≠ 0 → lend = none → let u : State := { s with core := c, sid := i }
       exec (.fetchLineFill line l code) s =
         .next { u.faultAt (accessFlt code (BitVec.ofNat 64 a)) u.groupPc s.core.slots[i].fib.ctx.pg with sid := s.sid })) ∧
   (∀ (s : State) (slot op code : Nat) (l : List Byte), (∃ u, exec (.shapeCacheFill slot l code) s = .next u ∧
       u.core.shapes = ((slot, if code = 0 then l else [BitVec.ofNat 8 code]) :: s.core.shapes.filter fun x => x.1 != slot).take 32 ∧ u.mem = s.mem) ∧
     exec (.shapeCacheInvalidate slot op) s = .next (s.setCore { s.core with shapes := s.core.shapes.filter fun x => x.1 != slot })) ∧
   (∀ s : State,
     ((s.core.slot7Free = false ∨ s.core.traps = []) → exec .trapDelivery s = .next s) ∧
     (∀ t, s.core.slot7Free = true → s.core.nextTrap? = some t → exec .trapDelivery s =
       .next (let u : State := { s with core := { s.core with traps := s.core.traps.erase t } }
         (u.takeTrap t (!(t.code == 0x18 && s.mgmt.dbg != .none && s.core.dbgbk))).sendFrame (u.trapFrame t)) ∧
       t ∈ s.core.traps ∧ (∀ x ∈ s.core.traps, x.code = 0x1A → t.code = 0x1A)) ∧
     ((s.core.slot7Free = false ∨ s.core.traps ≠ [] ∨ s.core.utasks = []) → exec .urgentTaskStart s = .next s) ∧
     (∀ pc x k rest, s.core.slot7Free = true → s.core.traps = [] → s.core.utasks = (pc, x, k) :: rest → ∃ u, exec .urgentTaskStart s = .next u ∧
       u.core.utasks = rest ∧ u.core.slots[(7 : Fin 8)].busy = true ∧ u.core.slots[(7 : Fin 8)].fib.ctx.pc = pc ∧
       u.core.slots[(7 : Fin 8)].fib.ctx.p[0] = x ∧ u.core.slots[(7 : Fin 8)].fib.ctx.pg = 0 ∧ u.mem = s.mem ∧
       (∀ i : Fin 8, i ≠ 7 → u.core.slots[i] = s.core.slots[i])))) ∧
  ((∀ (s : State) (n : Nat), (∀ p ∈ s.net, p.num ≠ n) → exec (.envelopeAdmit n) s = .next s) ∧
   (∀ (s : State) (n : Nat) (p : Packet) (e : Envelope), (s.net.find? fun p => p.num == n) = some p → p.env = some e →
     let a := s.agents[e.dst]
     (s.admissible p = false → exec (.envelopeAdmit n) s = .next s) ∧
     (s.admissible p = true → e.kind ≠ 5 ∧ e.seq = cnt a.adm e.src.val + 1 ∧ (∀ k < 18, k ≠ e.src.val → geSerial (cnt a.adm k) (cnt e.vc k) = true) ∧
       (∀ m, e.upd = some m → ∀ x ∈ s.net, x.num ≠ m) ∧
       ∃ u : State, exec (.envelopeAdmit n) s =
         .next (u.sendFrom (agentDst e.dst) (agentDst e.src) none [] none (.envelopeAcknowledgement e.src e.dst 1)) ∧
         (u.agents[e.dst]).adm = a.adm.set e.src.val e.seq ∧
         (let know := ((a.heard.filter fun h => h.1 == e.src).map fun h => h.2).foldl mergeRow a.know
          (u.agents[e.dst]).know = know.set e.dst.val
            ((rowOf know e.dst.val).set e.src.val (maxSerial (cnt (rowOf know e.dst.val) e.src.val) e.seq))) ∧ (u.agents[e.dst]).heard = a.heard ∧
         u.net = s.net.map (fun x => if x.num = n then { x with admitted := some s.nextId } else x) ∧
         (∀ k : Fin 18, k ≠ e.dst → u.agents[k] = s.agents[k]) ∧ u.mem = s.mem)) ∧
   (∀ (s : State) (k j : Fin 18) (rows : List (Fin 18 × List (BitVec 16))), exec (.clockUpdate k ⟨j, rows⟩) s =
     .next { s with agents := s.agents.set k { s.agents[k] with heard :=
       ((s.agents[k]).heard.filter fun h => !(h.1 == j && rows.any fun r => r.1 == h.2.1)) ++ rows.map fun r => (j, r) } }) ∧
   (∀ (s : State) (i j : Fin 18), (∀ p ∈ s.net, p.held = false) → ∃ u, exec (.envelopeAcknowledgement i j 1) s = .next u ∧ u.net = s.net ∧
     (u.agents[i]).unacked = (s.agents[i]).unacked.set j.val ((s.agents[i]).unacked.getD j.val 0 - 1)))

/-! Memory servers (14). -/

/-- R386 to R388, R391, R394, R395: the fixed routines at the home of their page, where no granule is uncorrectable and no replay substitutes one: reads give
the bytes and change none; writes and updates put theirs at the physical address, and the reply leaves; the bank is marked as used (R398). -/
def Obligations.ServerRoutines : Prop :=
  ∀ (s : State) (q : Req) (p : Page), let pa := p.pa q.va.toNat
    let home := dramHome q.stack pa
    let rd (n : Nat) : List Byte := memBytes s.mem home n
    let answers (i : Instr) (k : Nat) (r : Rep) (l : List Byte) : Prop :=
      ∃ u : State, exec i s = .next (u.reply { q with routine := k } r) ∧ u.mem = memPut s.mem home l
    (∀ n, (s.stack q.stack).bad pa n = []) → (p.tol = false ∨ (s.focus q.who.core 0).replayed q.who.ent = none) →
    let z := s.useBank q.stack pa
    (s.Serves q 8 p → exec (.rd8 q) s = .next (z.reply { q with routine := 0 } (okRep (leWord (rd 8))))) ∧
    (s.Serves q 32 p → exec (.rd32 q) s = .next (z.reply { q with routine := 1 } { okRep 0 with data := rd 32 })) ∧
    (s.Serves q 64 p → exec (.rd64 q) s = .next (z.reply { q with routine := 2 } { okRep 0 with data := rd 64 })) ∧
    (p.ro = false →
      (s.Serves q 8 p → answers (.wt8 q) 3 (okRep 0) (leBytes q.a.toNat 8)) ∧
      (s.Serves q 32 p → answers (.wt32 q) 4 (okRep 0) q.payload) ∧
      (s.Serves q 64 p → answers (.wt64 q) 5 (okRep 0) q.payload) ∧
      (s.Serves q 8 p → answers (.wtm q) 6 (okRep 0) (mergeMask (q.b.toNat % 256) 0 (rd 8) (leBytes q.a.toNat 8))) ∧
      (s.Serves q 64 p → answers (.fill64 q) 21 (okRep 0) ((List.replicate 8 (leBytes q.a.toNat 8)).flatten)) ∧
      (s.Serves q 4 p → answers (.fadd32 q) 17 (okRep (leWord (rd 4)))
        (leBytes (fp32.out 0 false (fpAdd 0 (fp32.decode (leNat (rd 4))) (fp32.decode (q.a.toNat % 2 ^ 32)))).1 4)) ∧
      (q.w128 = false → let n := if q.w32 then 4 else 8
        let old := leNat (rd n)
        let M := 2 ^ (8 * n)
        let sg (w : Nat) : Int := if 2 * (w % M) < M then (w % M : Nat) else (w % M : Nat) - (M : Int)
        s.Serves q n p →
        answers (.routineAadd q) 7 (okRep (leWord (rd n))) (leBytes ((old + q.a.toNat) % M) n) ∧
        answers (.routineAswp q) 8 (okRep (leWord (rd n))) (leBytes (q.a.toNat % M) n) ∧
        answers (.routineAcas q) 9 (okRep (leWord (rd n))) (leBytes (if old = q.a.toNat % M then q.b.toNat % M else old) n) ∧
        answers (.routineAand q) 10 (okRep (leWord (rd n))) (leBytes (old &&& q.a.toNat % M) n) ∧
        answers (.routineAor q) 11 (okRep (leWord (rd n))) (leBytes (old ||| q.a.toNat % M) n) ∧
        answers (.routineAxor q) 12 (okRep (leWord (rd n))) (leBytes (old ^^^ q.a.toNat % M) n) ∧
        answers (.routineAmin q) 13 (okRep (leWord (rd n))) (leBytes (if sg q.a.toNat < sg old then q.a.toNat % M else old) n) ∧
        answers (.routineAmax q) 14 (okRep (leWord (rd n))) (leBytes (if sg old < sg q.a.toNat then q.a.toNat % M else old) n) ∧
        answers (.routineAminu q) 15 (okRep (leWord (rd n))) (leBytes (Min.min (q.a.toNat % M) old) n) ∧
        answers (.routineAmaxu q) 16 (okRep (leWord (rd n))) (leBytes (Max.max (q.a.toNat % M) old) n)) ∧
      (q.w128 = true → s.Serves q 16 p →
        answers (.routineAcas q) 9 { okRep 0 with data := rd 16 } (if rd 16 = q.payload.take 16 then q.payload.drop 16 else rd 16)) ∧
      (s.Serves q 8 p → pa % 256 + 72 ≤ 256 → ∀ t n f, xaccType (q.b.toNat % 16) = some t → accAddend (accValue t q.a) = (some n, f) →
        answers (.xacc q) 18 (okRep (xaccFlags f)) (leBytes ((leNat (rd 72) + (n % 2 ^ 576).toNat) % 2 ^ 576) 72)))

/-- R387, R388, R391, R396, R401: what a server refuses, forwards or looks up: a misaligned address has STATUS 0x04, a store of a
read-only page 0x13, an SVC without privilege and a TSVC of a fibre 0x16, a routine that is not loaded 0x16; a page not cached is
walked for; a request at another home than its page's goes there, at most twice; an uncorrectable granule gives 0x0E and is counted.
R398, R399, R402, R294: migration's end and refresh. The copied page's directory entry names the new home and the queued requests
follow with the end marker, which comes after them, has the held requests performed in their order and ends the migration with its reply;
refreshes change allowances and windows only: in a window bank after bank of a pseudo-channel, else an idle bank that owes one, and at -8 at once.
The model's choices it rests on besides: log entries 84, 85, 143. -/
def Obligations.ServerRefusals : Prop :=
  (∀ (s : State) (q : Req) (p : Page),
     (q.va.toNat % 8 ≠ 0 → exec (.rd8 q) s = .next (s.reply { q with routine := 0 } (badRep 0x04))) ∧
     (q.va.toNat % 8 = 0 → s.walking q = false → s.cached q.stack q.va.toNat = none → exec (.rd8 q) s = .next (s.sendWalk { q with routine := 0 })) ∧
     (s.Serves q 8 p → p.ro = true → exec (.wt8 q) s = .next (s.reply { q with routine := 3 } (badRep 0x13))) ∧
     (s.Serves q 8 p → p.tol = false → (s.stack q.stack).bad (p.pa q.va.toNat) 8 ≠ [] →
       ∃ u : State, exec (.rd8 q) s = .next (u.reply { q with routine := 0 } (badRep 0x0E)) ∧ u.mem = s.mem ∧
         (u.stack q.stack).uecnt.toNat = Min.min (2 ^ 32 - 1) ((s.stack q.stack).uecnt.toNat + ((s.stack q.stack).bad (p.pa q.va.toNat) 8).length)) ∧
     (q.va.toNat % 8 = 0 → s.walking q = false → s.cached q.stack q.va.toNat = some p → s.migHold q = .free → p.home ≠ q.stack →
       (q.hops < 2 → exec (.rd8 q) s = .next (s.sendRange (serverDst q.stack) (serverDst p.home) none [] (reqPlaces { q with routine := 0 })
         (.rd8 { q with routine := 0, stack := p.home, hops := q.hops + 1 }))) ∧
       (2 ≤ q.hops → exec (.rd8 q) s = .next (s.reply { q with routine := 0 } (badRep 0x13)))) ∧
     (q.priv = false →
       exec (.svcInval q) s = .next (s.reply { q with routine := 22, b := putBits q.b 0 8 1 } (badRep 0x16)) ∧
       exec (.svcLoad q) s = .next (s.reply { q with routine := 22, b := putBits q.b 0 8 2 } (badRep 0x16)) ∧
       exec (.svcMigrate q) s = .next (s.reply { q with routine := 22, b := putBits q.b 0 8 0 } (badRep 0x16)) ∧
       exec (.svcUnload q) s = .next (s.reply { q with routine := 22 } (badRep 0x16))) ∧
     (q.origin = 0 → exec (.tsvc q) s = .next (s.reply { q with routine := 23 } (badRep 0x16))) ∧
     (q.origin ≠ 0 → q.va.toNat % 32 ≠ 0 → exec (.tsvc q) s = .next (s.reply { q with routine := 23 } (badRep 0x04))) ∧
     (s.Serves q 1 p → s.routines.get? q.routine = none → q.routine ≠ 22 →
       exec (.loadableRoutine q) s = .next ((s.useBank q.stack (p.pa q.va.toNat)).reply q (badRep 0x16))) ∧
     (s.walk q.va.toNat = none → exec (.tableWalk q) s = .next (s.reply q (badRep 0x13)))) ∧
  ((∀ (s : State) (n : Nat), (∀ m ∈ s.migrations, m.num ≠ n) → exec (.pageCopyComplete n) s = .next s ∧ exec (.endMarker n) s = .next s) ∧
   (∀ (s : State) (m : Migration), (s.migrations.find? fun x => x.num == m.num && x.copied) = some m →
     (s.ahead m = true → exec (.endMarker m.num) s = .next (s.sendFrom (serverDst m.newHome) (serverDst m.newHome) none [] none (.endMarker m.num))) ∧
     (s.ahead m = false → exec (.endMarker m.num) s =
       .next ((m.held.foldl (fun (t : State) (q : Req) => t.serve q { m.page with home := m.newHome }) ({ s with migrations := s.migrations.filter fun x => x.num != m.num } : State)).reply
         { m.req with stack := m.newHome } (okRep 0)))) ∧
   (∀ (s : State) (m : Migration), (s.migrations.find? fun x => x.num == m.num && !x.copied) = some m → m.queued = [] → ∃ u : State,
     exec (.pageCopyComplete m.num) s = .next (u.sendFrom (serverDst m.page.home) (serverDst m.newHome) none [] (some (2 ^ 51 + m.num)) (.endMarker m.num)) ∧
       (∀ x ∈ u.migrations, x.num = m.num → x.copied = true) ∧
       (∀ k : Fin 8, ∀ c ∈ (u.hbm[k]).cache, c.2.covers m.req.va.toNat = false)) ∧
   (∀ (s : State) (k : Fin 8) (b : Nat) (len : BitVec 16),
     (∃ u, exec (.refreshInterval k) s = .next u ∧ u.mem = s.mem ∧ (∀ j : Fin 8, j ≠ k → u.hbm[j] = s.hbm[j]) ∧
       (u.hbm[k]).allowance b = if (s.hbm[k]).allowance b - 1 ≤ -8 then -7 else (s.hbm[k]).allowance b - 1) ∧
     (let x := s.hbm[k]
      let n := Config.lastBank + 1
      let y := { x with allow := x.allow.set b (x.allowance b + 1) }
      let window : Prop := ∃ t, x.window = some t ∧ s.now < t
      let idle : Prop := ∀ t, x.used.get? b = some t → t + 64 ≤ s.cycle
      (160 * n ≤ b → exec (.refresh k b) s = .next s) ∧
      (b < 160 * n → window → x.nextBank (b / n) = some b →
        exec (.refresh k b) s = .next { s with hbm := s.hbm.set k { y with turn := x.turn.set (b / n) (b % n) } }) ∧
      (window → x.nextBank (b / n) ≠ some b → exec (.refresh k b) s = .next s) ∧
      (∀ c, x.nextBank (b / n) = some c → x.allowance c < 8) ∧
      (b < 160 * n → ¬ window → x.allowance b < 0 → idle → exec (.refresh k b) s = .next { s with hbm := s.hbm.set k y }) ∧
      (¬ window → (0 ≤ x.allowance b ∨ ¬ idle) → exec (.refresh k b) s = .next s)) ∧
     exec (.rfwinNotice k len) s = .next { s with hbm := s.hbm.set k { s.hbm[k] with window := if len = 0 then none else some (s.now + len.toNat) } } ∧
     (∀ t, (s.hbm[k]).window = some t →
       (s.now < t → exec (.rfwinWindowExpiry k) s = .next s) ∧
       (t ≤ s.now → exec (.rfwinWindowExpiry k) s = .next { s with hbm := s.hbm.set k { s.hbm[k] with window := none } }))))

/-- R388 to R390, R400 to R402: the other routines. GATH8 gathers eight words of its page; PUBLISH of an address that is no record of the
job's table has STATUS 0x16; INVAL drops the page's cached translations; LOAD keeps a valid image and UNLOAD erases it; a loaded
routine runs from its start; a walk caches the page and the request goes on; MIGRATE marks the page and queues.
The model's choices it rests on besides: log entries 24, 25, 59, 145. -/
def Obligations.ServerServices : Prop :=
  ∀ (s : State) (q : Req) (p : Page), s.Serves q 1 p → (p.tol = false ∨ (s.focus q.who.core 0).replayed q.who.ent = none) →
    let z := s.useBank q.stack (p.pa q.va.toNat)
    (∀ (offs : List (BitVec 32)), q.payload = offs.flatMap (fun o => leBytes o.toNat 4) → offs.length = 8 → q.va.toNat % 8 = 0 → (∀ n pa, (s.stack q.stack).bad pa n = []) →
      (∀ o ∈ offs, (q.va.toNat + o.toNat) % 8 = 0 ∧ p.covers (q.va.toNat + o.toNat) = true) →
      let l := offs.flatMap fun o => memBytes s.mem (dramHome q.stack (p.pa (q.va.toNat + o.toNat))) 8
      exec (.gath8 q) s = .next (z.reply { q with routine := 19 } { okRep 0 with data := l })) ∧
    (q.va.toNat % 32 = 0 → p.ro = false → q.job = none → exec (.publish q) s = .next (z.reply { q with routine := 20 } (badRep 0x16))) ∧
    (q.va.toNat % 32 = 0 → p.ro = false → ∀ n j img old, q.job = some n → s.jobs.get? n = some j → j.shapebase ≤ q.va.toNat →
      q.va.toNat < j.shapebase + 32 * j.shapecnt → (q.va.toNat - j.shapebase) % 32 = 0 → q.a.toNat % 32 = 0 → inDram q.a.toNat = true →
      s.vBytes q.a.toNat 32 = some img → (s.stack q.stack).bad (p.pa q.va.toNat) 32 = [] → memBytes s.mem (dramHome q.stack (p.pa q.va.toNat)) 32 = old →
      let slot := (q.va.toNat - j.shapebase) / 32
      let gen := leNat ((old.drop 8).take 2) % 4096
      (q.b ≠ 0 → q.b ≠ BitVec.ofNat 64 (slot * 4096 + gen) →
        exec (.publish q) s = .next ((z.vNote q.a.toNat 32 (some n)).reply { q with routine := 20 } (badRep 0x16))) ∧
      (q.b = 0 ∨ q.b = BitVec.ofNat 64 (slot * 4096 + gen) → ∃ u : State,
        exec (.publish q) s = .next (u.reply { q with routine := 20 } (okRep (BitVec.ofNat 64 (slot * 4096 + (gen + 1) % 4096)))) ∧
        u.mem = memPut s.mem (dramHome q.stack (p.pa q.va.toNat)) (publishedRecord img (gen + 1)))) ∧
    (q.priv = true →
      exec (.svcInval q) s = .next ((z.dropTranslations q.va.toNat).reply { q with routine := 22, b := putBits q.b 0 8 1 } (okRep 0)) ∧
      (∀ r, s.loadImage q.a.toNat = some r → (((s.routines.erase r.num).map fun x => 4 * x.2.code.length).sum + 4 * r.code.length) ≤ 327680 →
        let y := z.vNote q.a.toNat (s.imageSpan q.a.toNat)
        exec (.svcLoad q) s = .next (({ y with routines := (s.routines.erase r.num).set r.num r } : State).reply { q with routine := 22, b := putBits q.b 0 8 2 } (okRep 0))) ∧
      (s.loadImage q.a.toNat = none → exec (.svcLoad q) s =
        .next ((z.vNote q.a.toNat (s.imageSpan q.a.toNat)).reply { q with routine := 22, b := putBits q.b 0 8 2 } (badRep 0x16))) ∧
      (q.b.toNat % 256 = 3 → 24 ≤ q.a.toNat % 64 → exec (.svcUnload q) s =
        .next (({ z with routines := s.routines.erase (q.a.toNat % 64) } : State).reply { q with routine := 22 } (okRep 0))) ∧
      (q.b.toNat % 256 = 3 → q.a.toNat % 64 < 24 → exec (.svcUnload q) s = .next (z.reply { q with routine := 22 } (badRep 0x16))) ∧
      (∃ u : State, exec (.svcMigrate q) s = .next u ∧ u.migrations.length = s.migrations.length + 1 ∧
        u.migrations.getLast?.map (fun m => (m.newHome, m.newPfn)) = some (q.a.toNat % 8, q.a.toNat / 2 ^ 16 % 2 ^ 15))) ∧
    (∀ r, s.routines.get? q.routine = some r → q.routine ≠ 22 → let x := routineRun q p 257 z (routineStart z q r.code) [] false 0
      exec (.loadableRoutine q) s = .next (x.1.reply q x.2)) ∧
    (∀ a, s.walk q.va.toNat = some (a, p) → let t := s.setStack q.stack ((s.stack q.stack).keepEntry q.va.toNat p)
      (p.covers q.va.toNat = true → t.cached q.stack q.va.toNat = some p) ∧
      (q.routine < 24 → exec (.tableWalk q) s = .next (t.servePage q p (fixedBody q).2.1 (fixedBody q).2.2)) ∧
      (24 ≤ q.routine → exec (.tableWalk q) s = .next (t.servePage q p false bodyLoadable))) ∧
    (q.origin ≠ 0 → q.va.toNat % 32 = 0 → q.who.core = s.cid →
      (q.b.toNat % 256 = 0 → exec (.tsvc q) s = .next (s.pushTile (q.a.toNat % 8))) ∧
      (q.b.toNat % 256 ≠ 0 → exec (.tsvc q) s = .next (s.writeTile (q.a.toNat % 8) (q.b.toNat / 256 % 256))))

/-! Management commands (13 R373 to R380; 16). -/

/-- R443, R444: commands execute one at a time, in order of arrival: only the head of the queue begins. A block that is misaligned, outside the DRAM window or unreadable ends with STATUS 0x13
(the model's choice, log entry 90), one with an uncorrectable granule with 0x0E; one that sets a field its command does not name, or a reserved
one, ends with STATUS 0x02. The end writes
STATUS at offset 1 and returns the block's address to MGMTDONE, or to the qhs of the core that submitted the command, where it waits
for room among the four words.
R373, R436, R339, R441, R440, R444: URGENT queues a task at a core, or has STATUS 0x14 on a full queue; SETCAP takes 1,500 to 5,600 W;
SETCLOCK is refused a second time and after the first admission; RECCFG sets a die's ring or reads its head and tail; COUNTERS writes its buffer
and clears on request; SETTABLE writes an entry, module identity and ganging only before READY.
The model's choices it rests on besides: log entry 108. -/
def Obligations.ManagementCommands : Prop :=
  ((∀ (s : State) (c : Cmd) (i : Instr) (op : Nat) (n : Names), IsCommand c i op n →
     let t : State := { s with mgmt := { s.mgmt with cmds := s.mgmt.cmds.tail } }
     let u : State := t.vNote c.block.toNat 64
     (s.mgmt.waiting ≠ [] → s.mgmt.waiting ≠ [c] → exec i s = .next s) ∧
     (s.mgmt.waiting = [] → (s.mgmt.power = .off ∨ s.mgmt.cmds.head? ≠ some c) → exec i s = .next s) ∧
     (s.mgmt.waiting = [] → s.mgmt.power ≠ .off → s.mgmt.cmds.head? = some c →
       (c.block.toNat % 64 ≠ 0 ∨ inDram c.block.toNat = false → exec i s = .next (t.finishCmd c 0x13)) ∧
       (c.block.toNat % 64 = 0 → inDram c.block.toNat = true → t.vBytes c.block.toNat 64 = none →
         exec i s = .next (u.finishCmd c (if t.vPoison c.block.toNat 64 = true then 0x0E else 0x13))) ∧
       (∀ l, c.block.toNat % 64 = 0 → inDram c.block.toNat = true → t.vBytes c.block.toNat 64 = some l →
         (fieldOf l 0 1 ≠ op ∨ unnamed n l (argsOf c.block.toNat l) = true) → exec i s = .next (u.finishCmd c 0x02)))) ∧
   (∀ (s : State) (c : Cmd) (v : Nat),
     let w := (s.vPut (c.block.toNat + 1) [BitVec.ofNat 8 v]).getD s
     (s.finishCmd c v).mem = w.mem ∧ (s.finishCmd c v).mgmt.waiting = s.mgmt.waiting.erase c ∧ (s.finishCmd c v).jobs = s.jobs ∧
     (c.sub = .host → (s.finishCmd c v).host.mgmtdone = c.block.setWidth 64) ∧
     (∀ k, c.sub = .core k →
       ((s.coreAt k).qhs.length < 4 → ((s.finishCmd c v).coreAt k).qhs = (s.coreAt k).qhs ++ [c.block.setWidth 64]) ∧
       (4 ≤ (s.coreAt k).qhs.length → ((s.finishCmd c v).coreAt k).qhs = (s.coreAt k).qhs ∧
         ((s.finishCmd c v).coreAt k).qhsLate = (s.coreAt k).qhsLate ++ [c.block.setWidth 64])))) ∧
  (∀ (s t : State) (c : Cmd) (a : CmdArgs),
     (s.Commanded c 0x05 ⟨true, true, true, 1, false⟩ a t →
       (∀ k, coreArg a.a0 = some k → a.a1 < 2 ^ 48 → a.a1 % 4 = 0 → (t.coreAt k).utasks.length < 8 →
         (leNat (a.nonce.take 1) = 0 → exec (.urgent c) s = .next ((t.modCore k fun x => { x with
           utasks := x.utasks ++ [(BitVec.ofNat 48 a.a1, BitVec.ofNat 64 a.a2, none)] }).finishCmd c 0)) ∧
         (leNat (a.nonce.take 1) = 1 → exec (.urgent c) s = .next ((t.modCore k fun x => { x with
           utasks := x.utasks ++ [(BitVec.ofNat 48 a.a1, BitVec.ofNat 64 a.a2, some c)] }).holdCmd c))) ∧
       (∀ k, coreArg a.a0 = some k → a.a1 < 2 ^ 48 → a.a1 % 4 = 0 → leNat (a.nonce.take 1) ≤ 1 → 8 ≤ (t.coreAt k).utasks.length →
         exec (.urgent c) s = .next (t.finishCmd c 0x14)) ∧
       (coreArg a.a0 = none → exec (.urgent c) s = .next (t.finishCmd c 0x02))) ∧
     (s.Commanded c 0x11 ⟨true, false, false, 0, false⟩ a t →
       (a.a0 < 1500 ∨ 5600 < a.a0 → exec (.setcap c) s = .next (t.finishCmd c 0x02)) ∧
       (1500 ≤ a.a0 → a.a0 ≤ 5600 → exec (.setcap c) s = .next (({ t with mgmt := { t.mgmt with pcap := a.a0 } } : State).finishCmd c 0))) ∧
     (s.Commanded c 0x30 ⟨true, false, false, 0, false⟩ a t →
       (s.mgmt.admitted = true ∨ s.mgmt.clockSet = true → exec (.setclock c) s = .next (t.finishCmd c 0x1A)) ∧
       (s.mgmt.admitted = false → s.mgmt.clockSet = false → ∃ u : State, exec (.setclock c) s = .next (u.finishCmd c 0) ∧ u.now = a.a0 ∧
         u.mgmt.clockSet = true)) ∧
     (s.Commanded c 0x31 ⟨true, true, true, 16, false⟩ a t →
       (7 < a.a0 → exec (.reccfg c) s = .next (t.finishCmd c 0x02)) ∧
       (a.a0 ≤ 7 → a.a2 = 256 → exec (.reccfg c) s =
         .next (((t.vPut (a.block + 32) (leBytes (t.dieOf a.a0).recorder.head 8 ++ leBytes (t.dieOf a.a0).recorder.tail 8)).getD t).finishCmd c 0)) ∧
       (a.a0 ≤ 7 → 16 ≤ a.a2 → a.a2 ≤ 30 → a.a1 % 64 = 0 → inDram a.a1 = true → ∃ u : State, exec (.reccfg c) s = .next (u.finishCmd c 0) ∧
         (u.dieOf a.a0).recorder = ⟨a.a1, a.a2, leNat (a.nonce.take 8), leNat ((a.nonce.drop 8).take 8)⟩) ∧
       (a.a0 ≤ 7 → (a.a2 < 16 ∨ a.a2 = 31) → exec (.reccfg c) s = .next (t.finishCmd c 0x02))) ∧
     (s.Commanded c 0x32 ⟨true, true, false, 0, false⟩ a t → a.a1 % 64 = 0 → inDram a.a1 = true →
       (∀ v, a.a0 ≤ 2 → a.a0 ≠ 1 → t.vPut a.a1 (t.counterBytes a.a0 0) = some v → exec (.counters c) s = .next (v.finishCmd c 0)) ∧
       (∀ v d, d < 8 → a.a0 = 1 + 256 * d → t.vPut a.a1 (t.counterBytes 1 d) = some v → exec (.counters c) s = .next (v.finishCmd c 0)) ∧
       (∀ v, a.a0 = 2 ^ 16 → t.vPut a.a1 (t.counterBytes 0 0) = some v → ∃ u : State, exec (.counters c) s = .next (u.finishCmd c 0) ∧
         ∀ k : Fin 8, (u.hbm[k]).cecnt = 0 ∧ (u.hbm[k]).uecnt = 0 ∧ (u.hbm[k]).subcnt = 0 ∧ (u.hbm[k]).rmwcnt = 0) ∧
       (2 < a.a0 % 256 → exec (.counters c) s = .next (t.finishCmd c 0x02)) ∧
       (a.a0 = 0 → t.vPut a.a1 (t.counterBytes 0 0) = none → exec (.counters c) s = .next (t.finishCmd c 0x13))) ∧
     (s.Commanded c 0x33 ⟨true, true, true, 16, false⟩ a t →
       (7 ≤ a.a0 → exec (.settable c) s = .next (t.finishCmd c 0x02)) ∧
       (badTable a = false → (a.a0 = 5 ∨ a.a0 = 6) → (∀ b ∈ a.nonce, b = 0) → s.mgmt.ready = true → exec (.settable c) s = .next (t.finishCmd c 0x1A)) ∧
       (badTable a = false → (a.a0 = 2 ∨ ∀ b ∈ a.nonce, b = 0) → ((a.a0 ≠ 5 ∧ a.a0 ≠ 6) ∨ s.mgmt.ready = false) → ∃ u : State,
         exec (.settable c) s = .next (u.finishCmd c 0) ∧
         (a.a0 = 0 → u.host.windows.get? a.a1 = some (BitVec.ofNat 64 a.a2)) ∧
         (a.a0 = 1 → u.office.peers.get? a.a1 = some (BitVec.ofNat 64 a.a2)) ∧
         (a.a0 = 2 → u.office.imports.get? a.a1 =
           some (BitVec.ofNat 64 a.a2, leWord (a.nonce.take 8), leWord ((a.nonce.drop 8).take 8))) ∧
         (a.a0 = 3 → u.host.notify.get? a.a1 = some (BitVec.ofNat 64 a.a2)) ∧
         (a.a0 = 4 → u.host.apbase = a.a2) ∧ (a.a0 = 5 → u.office.modid = BitVec.ofNat 16 a.a2) ∧
         (a.a0 = 6 → u.office.links.get? a.a1 = some a.a2))))

/-- R426, R427, R429, R433, R443: the security state changes only as Table 16-1 gives, by a host command with a valid signature, and any
change of it ends the debug mode; any other change has STATUS 0x1A and leaves the state as it was; TAMPCFG is written in BLANK and
PROVISIONED only.
The model's choices it rests on besides: log entry 162. -/
def Obligations.SecurityStates : Prop :=
  ∀ (s t : State) (c : Cmd) (a : CmdArgs),
    (s.Commanded c 0x20 ⟨false, true, false, 32, true⟩ a t →
      (c.sub = .host → s.mgmt.sec = .blank → t.signedBy a Config.vendorKey = true → ∃ u : State, exec (.provision c) s = .next (u.finishCmd c 0) ∧
        u.mgmt.sec = .provisioned ∧ u.mgmt.dbg = .none ∧ u.mgmt.ownerh = BitVec.ofNat 256 (leNat (a.nonce.take 32)) ∧ u.mgmt.floor = a.a1) ∧
      (c.sub ≠ .host ∨ s.mgmt.sec ≠ .blank ∨ t.signedBy a Config.vendorKey = false → exec (.provision c) s = .next (t.finishCmd c 0x1A))) ∧
    (s.Commanded c 0x21 ⟨false, false, false, 0, true⟩ a t →
      (c.sub = .host → s.mgmt.sec = .provisioned → t.signedBy a s.mgmt.ownerh = true → ∃ u : State, exec (.lock c) s = .next (u.finishCmd c 0) ∧
        u.mgmt.sec = .locked ∧ u.mgmt.dbg = .none ∧ u.mgmt.ownerh = s.mgmt.ownerh ∧ u.mgmt.tampcfg = s.mgmt.tampcfg) ∧
      (c.sub ≠ .host ∨ s.mgmt.sec ≠ .provisioned ∨ t.signedBy a s.mgmt.ownerh = false → exec (.lock c) s = .next (t.finishCmd c 0x1A))) ∧
    (s.Commanded c 0x22 ⟨false, false, false, 0, true⟩ a t →
      (c.sub = .host → s.mgmt.sec ≠ .retired → t.signedBy a (if s.mgmt.sec = .blank then Config.vendorKey else s.mgmt.ownerh) = true →
        ∃ u : State, exec (.retire c) s = .next (u.finishCmd c 0) ∧ u.mgmt.sec = .retired ∧ u.mgmt.dbg = .none ∧
          u.mgmt.keyStore = List.replicate 4096 0 ∧ u.mgmt.ownerh = s.mgmt.ownerh) ∧
      (c.sub ≠ .host ∨ s.mgmt.sec = .retired ∨ t.signedBy a (if s.mgmt.sec = .blank then Config.vendorKey else s.mgmt.ownerh) = false →
        exec (.retire c) s = .next (t.finishCmd c 0x1A))) ∧
    (s.Commanded c 0x23 ⟨false, false, false, 0, true⟩ a t →
      (c.sub = .host → s.mgmt.sec = .provisioned → t.signedBy a s.mgmt.ownerh = true → ∃ u : State, exec (.release c) s = .next (u.finishCmd c 0) ∧
        u.mgmt.sec = .blank ∧ u.mgmt.dbg = .none ∧ u.mgmt.ownerh = 0) ∧
      (c.sub ≠ .host ∨ s.mgmt.sec ≠ .provisioned ∨ t.signedBy a s.mgmt.ownerh = false → exec (.release c) s = .next (t.finishCmd c 0x1A))) ∧
    (s.Commanded c 0x12 ⟨true, false, false, 0, false⟩ a t →
      (a.a0 < 256 → (∀ k, k < 4 → a.a0 / 4 ^ k % 4 ≠ 3) →
        ((s.mgmt.sec = .blank ∨ s.mgmt.sec = .provisioned) → exec (.settamper c) s =
          .next (({ t with mgmt := { t.mgmt with tampcfg := BitVec.ofNat 8 a.a0 } } : State).finishCmd c 0)) ∧
        ((s.mgmt.sec = .locked ∨ s.mgmt.sec = .retired) → exec (.settamper c) s = .next (t.finishCmd c 0x1A))) ∧
      (256 ≤ a.a0 ∨ (∃ k, k < 4 ∧ a.a0 / 4 ^ k % 4 = 3) → exec (.settamper c) s = .next (t.finishCmd c 0x02)))

/-- R425, R427, R432, R443, R444: DEBUGCHAL gives a challenge, valid for one DEBUGOPEN; a debug mode opens with its signatures, by the host alone,
and not in S3;
DEBUGEND returns to NONE and clears DBGCTL; DBGSET and DBGGO are refused in mode NONE; DBGGO takes the frame of the fibre's last
trap as ERET does, behind the accesses to the frame that are under way; with CAUSE.LOST it only removes the fibre.
The model's choices it rests on besides: log entries 31, 100, 101. -/
def Obligations.DebugCommands : Prop :=
  ∀ (s t : State) (c : Cmd) (a : CmdArgs),
    (s.Commanded c 0x24 ⟨false, false, false, 32, false⟩ a t → let v := Config.challenge s.mgmt.challenges
      let u : State := { t with mgmt := { t.mgmt with challenge := some v, challenges := s.mgmt.challenges + 1 } }
      exec (.debugchal c) s = .next (((u.vPut (a.block + 32) (leBytes v.toNat 32)).getD u).finishCmd c 0)) ∧
    (s.Commanded c 0x25 ⟨true, false, false, 32, true⟩ a t → let u : State := { t with mgmt := { t.mgmt with challenge := none } }
      (a.a0 ≠ 1 → a.a0 ≠ 2 → exec (.debugopen c) s = .next (t.finishCmd c 0x02)) ∧
      ((a.a0 = 1 ∨ a.a0 = 2) → (c.sub ≠ .host ∨ s.mgmt.power = .s3) → exec (.debugopen c) s = .next (t.finishCmd c 0x1A)) ∧
      ((a.a0 = 1 ∨ a.a0 = 2) → c.sub = .host → s.mgmt.power ≠ .s3 → s.mgmt.challenge = none → exec (.debugopen c) s = .next (u.finishCmd c 0x1A)) ∧
      (∀ ch, (a.a0 = 1 ∨ a.a0 = 2) → c.sub = .host → s.mgmt.power ≠ .s3 → s.mgmt.challenge = some ch →
        (leNat (a.nonce.take 32) ≠ ch.toNat ∨ u.debugSigned a ch = false → exec (.debugopen c) s = .next (u.finishCmd c 0x1A)) ∧
        (leNat (a.nonce.take 32) = ch.toNat → u.debugSigned a ch = true → ∃ v : State, exec (.debugopen c) s = .next (v.finishCmd c 0) ∧
          v.mgmt.dbg = (if a.a0 = 1 then .owner else .vendor) ∧ v.mgmt.challenge = none ∧ v.mgmt.sec = s.mgmt.sec)) ∧
      (∀ ch, a.a0 = 1 → s.mgmt.sec ≠ .provisioned → s.mgmt.sec ≠ .locked → u.debugSigned a ch = false)) ∧
    (s.Commanded c 0x26 named0 a t →
      (c.sub = .host → ∃ u : State, exec (.debugend c) s = .next (u.finishCmd c 0) ∧ u.mgmt.dbg = .none ∧ u.core.dbgbk = false ∧
        ∀ x ∈ u.others, x.2.dbgbk = false) ∧
      (c.sub ≠ .host → exec (.debugend c) s = .next (t.finishCmd c 0x1A))) ∧
    (s.Commanded c 0x2A ⟨true, true, false, 0, false⟩ a t →
      (coreArg a.a0 = none ∨ 1 < a.a1 → exec (.dbgset c) s = .next (t.finishCmd c 0x02)) ∧
      (∀ k, coreArg a.a0 = some k → a.a1 ≤ 1 →
        (s.mgmt.dbg = .none → exec (.dbgset c) s = .next (t.finishCmd c 0x1A)) ∧
        (s.mgmt.dbg ≠ .none → exec (.dbgset c) s = .next ((t.modCore k fun x => { x with dbgbk := a.a1 == 1 }).finishCmd c 0)))) ∧
    (s.Commanded c 0x27 ⟨true, false, false, 0, false⟩ a t →
      (fibreArg a.a0 = none → exec (.dbggo c) s = .next (t.finishCmd c 0x02)) ∧
      (∀ w, fibreArg a.a0 = some w → w.core ≠ s.cid → s.mgmt.dbg ≠ .none → let r := (t.focus w.core 0).debugGo w.ent
        ((t.focus w.core 0).frameBusy = true → exec (.dbggo c) s = .next (t.retryCmd c)) ∧
        ((t.focus w.core 0).frameBusy = false → exec (.dbggo c) s = .next ((r.1.focus s.cid s.sid).finishCmd c r.2))) ∧
      (∀ e, fibreArg a.a0 = some ⟨s.cid, e⟩ →
        (s.mgmt.dbg = .none → exec (.dbggo c) s = .next (t.finishCmd c 0x1A)) ∧
        (s.mgmt.dbg ≠ .none → t.frameBusy = true → exec (.dbggo c) s = .next (t.retryCmd c) ∧ (t.retryCmd c).mgmt.cmds = c :: t.mgmt.cmds) ∧
        (s.mgmt.dbg ≠ .none → t.frameBusy = false → (s.core.fibre? e = none → exec (.dbggo c) s = .next (t.finishCmd c 0x02)) ∧
          (∀ f, s.core.fibre? e = some f →
            ((f.ctx.state ≠ 4 ∨ bits s.core.cause 32 23 ≠ (whoHandle ⟨s.cid, e⟩).toNat) → exec (.dbggo c) s = .next (t.finishCmd c 0x1A)) ∧
            (f.ctx.state = 4 → bits s.core.cause 32 23 = (whoHandle ⟨s.cid, e⟩).toNat → s.core.cause.getLsbD 63 = true →
              exec (.dbggo c) s = .next ((t.removeFibre e).finishCmd c 0)) ∧
            (∀ l, f.ctx.state = 4 → bits s.core.cause 32 23 = (whoHandle ⟨s.cid, e⟩).toNat → s.core.cause.getLsbD 63 = false →
              t.vBytes t.frameAddr 256 = some l → let u := t.vNote t.frameAddr 256
              (∀ x, ctxOfFrame l f.ctx s.core.epc s.core.epg = some x → exec (.dbggo c) s = .next ((u.restoreFibre e x).finishCmd c 0)) ∧
              (ctxOfFrame l f.ctx s.core.epc s.core.epg = none → exec (.dbggo c) s = .next (u.finishCmd c 0x02)))))))

/-- R430, R431, R444: ATTEST signs the firmware hash, the states and the nonce into its block; FWUPDATE stages an image, and raises the
floor, which never falls, only under the owner's signature.
R425, R427, R437, R445: power states. A value already reached ends at once; S1 goes on until the mesh is drained; S3 is refused while a job
is not switched out, and clears the SRAM but the key store; OFF and a fresh bring-up leave what is fused. Bring-up with an image that
fails admits no job and waits for another; with one that passes, the module is in A0 with every core at reset, the key store restored from its
fused copy, and READY once the commands submitted before are done (O60); from OFF the postmark clock starts at 0; it ends a HALT too.
The model's choices it rests on besides: log entries 9, 90, 102, 103, 162. -/
def Obligations.AttestationAndPower : Prop :=
  (∀ (s t : State) (c : Cmd) (a : CmdArgs),
     (s.Commanded c 0x28 ⟨false, true, false, 32, false⟩ a t →
       (a.a1 % 64 ≠ 0 ∨ inDram a.a1 = false → exec (.attest c) s = .next (t.finishCmd c 0x02)) ∧
       (a.a1 % 64 = 0 → inDram a.a1 = true → s.mgmt.sec = .retired → exec (.attest c) s = .next (t.finishCmd c 0x1A)) ∧
       (a.a1 % 64 = 0 → inDram a.a1 = true → s.mgmt.sec ≠ .retired →
         let sig := Config.shake256 (leBytes s.mgmt.fwh.toNat 32 ++ [BitVec.ofNat 8 (secCode s.mgmt.sec), BitVec.ofNat 8 (dbgCode s.mgmt.dbg)] ++
           a.nonce.take 32)
         (∀ u, t.vPut a.a1 (t.completionBlock sig 0 (dbgCode s.mgmt.dbg) 0 0) = some u → exec (.attest c) s = .next (u.finishCmd c 0)) ∧
         (t.vPut a.a1 (t.completionBlock sig 0 (dbgCode s.mgmt.dbg) 0 0) = none → exec (.attest c) s = .next (t.finishCmd c 0x13)))) ∧
     (∀ sig orf dbg rec_ subs, let b := t.completionBlock sig orf dbg rec_ subs
       b.length = 1408 ∧ b.take 32 = leBytes sig.toNat 32 ∧ (b.drop 40).take 8 = leBytes rec_.toNat 8 ∧
         (b.drop 48).take 32 = leBytes Config.mid.toNat 32 ∧ (b.drop 80).take 8 = leBytes subs 8) ∧
     (s.Commanded c 0x29 ⟨true, true, true, 0, true⟩ a t →
       (1 < a.a2 ∨ a.a1 = 0 ∨ inDram a.a0 = false → exec (.fwupdate c) s = .next (t.finishCmd c 0x02)) ∧
       (a.a2 ≤ 1 → a.a1 ≠ 0 → inDram a.a0 = true →
         let w := t.vNote a.a0 a.a1
         (t.vBytes a.a0 a.a1 = none → exec (.fwupdate c) s = .next (w.finishCmd c (if t.vPoison a.a0 a.a1 = true then 0x0E else 0x13))) ∧
         (∀ l, t.vBytes a.a0 a.a1 = some l →
           (a.a2 = 1 → w.signedBy a s.mgmt.ownerh = false → exec (.fwupdate c) s = .next (w.finishCmd c 0x1A)) ∧
           (a.a2 = 0 → exec (.fwupdate c) s = .next (({ w with mgmt := { w.mgmt with staged := some l } } : State).finishCmd c 0)) ∧
           (a.a2 = 1 → w.signedBy a s.mgmt.ownerh = true → ∃ u : State, exec (.fwupdate c) s = .next (u.finishCmd c 0) ∧ u.mgmt.staged = some l ∧
             u.mgmt.floor = Max.max s.mgmt.floor (Config.imageVersion l) ∧ s.mgmt.floor ≤ u.mgmt.floor))))) ∧
  ((∀ (s t : State) (c : Cmd) (a : CmdArgs), s.Commanded c 0x10 ⟨true, false, false, 0, false⟩ a t →
     (3 < a.a0 → exec (.setpstate c) s = .next (t.finishCmd c 0x02)) ∧
     (a.a0 = 0 → s.mgmt.power = .active → exec (.setpstate c) s = .next (t.finishCmd c 0)) ∧
     (a.a0 = 0 → s.mgmt.power = .s1 → ∃ u : State, exec (.setpstate c) s = .next (u.finishCmd c 0) ∧ u.mgmt.power = .active ∧ u.mem = s.mem) ∧
     (a.a0 = 0 → s.mgmt.power = .s3 → ∃ u : State, exec (.setpstate c) s = .next (u.finishCmd c 0) ∧ u.mgmt.power = .active ∧ u.mgmt.ready = false ∧
       u.mgmt.verified = s.mgmt.verified) ∧
     (a.a0 = 1 → s.mgmt.power = .active → ∃ u, exec (.setpstate c) s = .next u ∧ u.mgmt.goal = some .s1 ∧ u.mgmt.waiting = [c] ∧ u.mgmt.power = .active) ∧
     (a.a0 = 2 → (s.mgmt.power = .active ∨ s.mgmt.power = .s1) →
       ((∃ j ∈ s.jobs, j.2.switched = none) → exec (.setpstate c) s = .next (t.finishCmd c 0x14)) ∧
       ((∀ j ∈ s.jobs, j.2.switched ≠ none) → ∃ u : State, exec (.setpstate c) s = .next (u.finishCmd c 0) ∧ u.mgmt.power = .s3 ∧ u.mgmt.dbg = .none ∧
         u.mgmt.keyStore = s.mgmt.keyStore ∧ u.office = Office.reset ∧ u.core = Core.reset ∧ u.others = [] ∧ ∀ x ∈ u.mem, 2 ^ 48 ≤ x.1)) ∧
     (a.a0 = 3 → ∃ u, exec (.setpstate c) s = .next u ∧ u.mgmt.power = .off ∧ u.mgmt.dbg = .none ∧ u.mgmt.sec = s.mgmt.sec ∧ u.mgmt.ownerh = s.mgmt.ownerh ∧ u.mem = [])) ∧
   (∀ (s : State) (c : Cmd), s.mgmt.waiting = [c] → s.mgmt.goal = some .s1 →
     (s.drained = false ∨ s.vacant = false → exec (.setpstate c) s = .next s) ∧
     (s.vacant = true → s.drained = true → exec (.setpstate c) s =
       .next (({ s with mgmt := { s.mgmt with power := .s1, goal := none, sleepAt := s.cycle } } : State).finishCmd c 0))) ∧
   (∀ (s : State) (img : List Byte),
     let kept := if s.mgmt.sec = .retired then List.replicate 4096 0 else s.mgmt.fused
     (s.mgmt.halted = false → (s.mgmt.ready = true ∨ s.mgmt.verified = true ∨ s.mgmt.power = .s1 ∨ s.mgmt.power = .s3) →
       exec (.bringUp img) s = .next s) ∧
     (s.mgmt.halted = true → exec (.bringUp img) s = exec (.bringUp img) s.powerOff ∧ s.powerOff.mgmt.halted = false ∧ s.powerOff.mgmt.sec = s.mgmt.sec) ∧
     (s.mgmt.halted = false → s.mgmt.ready = false → s.mgmt.verified = false → s.mgmt.power = .off →
       ∃ u, exec (.bringUp img) s = .next u ∧ u.now = 0) ∧
     (s.mgmt.halted = false → s.mgmt.ready = false → s.mgmt.verified = false → (s.mgmt.power = .off ∨ s.mgmt.power = .active) →
       (s.imageGood (s.mgmt.staged.getD img) = false → ∃ u, exec (.bringUp img) s = .next u ∧ u.mgmt.power = .active ∧ u.mgmt.verified = false ∧
         u.mgmt.ready = false ∧ u.mgmt.dbg = .none ∧ u.mgmt.staged = none ∧ u.mgmt.keyStore = kept) ∧
       (s.imageGood (s.mgmt.staged.getD img) = true → ∃ u, exec (.bringUp img) s = .next u ∧ u.mgmt.power = .active ∧ u.mgmt.verified = true ∧
         u.mgmt.ready = false ∧ u.mgmt.dbg = .none ∧ u.mgmt.keyStore = kept ∧ u.mgmt.fwh = Config.shake256 (s.mgmt.staged.getD img) ∧ u.mgmt.staged = none ∧
         u.core = { Core.reset with trapbase := BitVec.ofNat 64 Config.trapBase } ∧ u.net = [] ∧ u.routines = []))))

/-- R433 to R436, R438, R439: a tamper event is logged, then has its source's response: LOG tells slot 7 of core 0 of each compute die, HALT stops
the module, after which LOG only logs, ERASE retires it and erases the keys. A thermal reduction raises its group one step above its slowest island, at most 11, and the module is in A1;
the power manager raises the hungriest group over the cap and, 3 % below it, lowers the step of an island that no gang spans; an event
of no island of the 298 does nothing; an uncorrectable word is told to slot 7 once the scrubber meets it.
The model's choices it rests on besides: log entries 104, 105, 106, 107. -/
def Obligations.TamperAndPower : Prop :=
  (∀ (s : State) (cause island : Nat),
    (cause = 0 ∨ 4 < cause ∨ 298 ≤ island → exec (.tamperEvent cause island) s = .next s) ∧
    (island < 298 → 1 ≤ cause → cause ≤ 3 ∨ (cause = 4 ∧ s.mgmt.sec = .locked ∧ s.mgmt.dbg = .none) →
      let r := bits s.mgmt.tampcfg (2 * (cause - 1)) 2
      let l := s.mgmt.tlog ++ [(cause, s.now, island)]
      let kept := if l.length > 64 then l.drop 1 else l
      (r = 0 → s.mgmt.halted = false → exec (.tamperEvent cause island) s = .next (({ s with mgmt := { s.mgmt with tlog := kept } } : State).tellTamper cause)) ∧
      (r = 0 → s.mgmt.halted = true → exec (.tamperEvent cause island) s = .next { s with mgmt := { s.mgmt with tlog := kept } }) ∧
      (r = 1 → exec (.tamperEvent cause island) s = .next { s with mgmt := { s.mgmt with tlog := kept, halted := true } }) ∧
      (r = 2 → ∃ u, exec (.tamperEvent cause island) s = .next u ∧ u.mgmt.sec = .retired ∧
        u.mgmt.keyStore = List.replicate 4096 0 ∧ u.mgmt.fused = List.replicate 4096 0 ∧ u.mgmt.ownerh = 0 ∧
        u.mgmt.dbg = .none ∧ u.mgmt.halted = true ∧ u.mgmt.tlog = kept)) ∧
    (cause = 4 → (s.mgmt.sec ≠ .locked ∨ s.mgmt.dbg ≠ .none) → exec (.tamperEvent cause island) s = .next s)) ∧
  (∀ (s : State) (island : Nat), 298 ≤ island → exec (.thermalReduction island) s = .next s) ∧
  (∀ (s : State) (island : Nat), island < 298 → (∀ i ∈ s.groupOf island, i < 298) → ∃ u, exec (.thermalReduction island) s = .next u ∧ island ∈ u.mgmt.thermal ∧ u.mgmt.capped = true ∧ u.mem = s.mem ∧ u.core = s.core ∧
    let slow := (s.groupOf island).foldl (fun m i => Max.max m (s.stepOf i)) 0
    (∀ i ∈ s.groupOf island, u.stepOf i = Min.min 11 (slow + 1)) ∧ (∀ i, i ∉ s.groupOf island → u.stepOf i = s.stepOf i)) ∧
  (∀ (s : State) (w : Nat) (d : List (Nat × Nat)),
    exec (.powerSample w d) s = .next { s with mgmt := { s.mgmt with samples := (w :: s.mgmt.samples).take 10, draws := d.filter fun x => decide (x.1 < 298) } } ∧
    (s.mgmt.samples = [] → exec .powerStep s = .next s) ∧
    (let n := s.mgmt.samples.length
     n ≠ 0 →
      (∀ g, s.mgmt.pcap * n < s.mgmt.samples.sum → s.hungriest = some g → exec .powerStep s = .next (s.moveGroup g true)) ∧
      (s.mgmt.pcap * n < s.mgmt.samples.sum → s.hungriest = none → exec .powerStep s = .next s) ∧
      (s.mgmt.pcap * 97 * n < s.mgmt.samples.sum * 100 → s.mgmt.samples.sum ≤ s.mgmt.pcap * n → exec .powerStep s = .next s) ∧
      (s.mgmt.samples.sum * 100 ≤ s.mgmt.pcap * 97 * n → (s.mgmt.steps.map fun x => x.1).Nodup → ∃ u, exec .powerStep s = .next u ∧
        u.mem = s.mem ∧ u.core = s.core ∧
        ∀ i < 298, (∀ g ∈ s.gangIslands, i ∉ g) → u.stepOf i = s.stepOf i - 1))) ∧
  (∀ (s : State) (off : Nat), s.cid < 18432 →
    (off < 2 ^ 17 → (94208 ≤ off ∨ off % 8 ≠ 0) → ∀ b, exec (.scrub s.cid off b) s = .next s) ∧
    (65536 ≤ off → off < 94208 → off % 8 = 0 → exec (.scrub s.cid off none) s = .next s ∧
      ∃ u, exec (.scrub s.cid off (some true)) s = .next u ∧ (∃ x ∈ u.core.traps, x.code = 0x0E ∧ x.ent = none) ∧
        ∀ n j, s.core.job = some n → s.jobs.get? n = some j → ∃ k, u.jobs.get? n = some k ∧ k.faulted = true) ∧
    (off < 65536 → off % 8 = 0 →
      exec (.scrub s.cid off (some false)) s = .next { s with core := { s.core with ce := capAdd s.core.ce 1 } } ∧
      (off ∉ s.core.poison → exec (.scrub s.cid off none) s = .next s) ∧
      (off ∈ s.core.poison → exec (.scrub s.cid off none) s = .next (s.scrubTrap off)) ∧
      (∃ u, exec (.scrub s.cid off (some true)) s = .next u ∧ u.core.ue = capAdd s.core.ue 1 ∧ off ∈ u.core.poison ∧ u.mem = s.mem ∧
        u.core.traps = s.core.traps) ∧
      (off ∈ s.core.poison →
        ∃ u, exec (.scrub s.cid off none) s = .next u ∧ ∃ x ∈ u.core.traps, x.code = 0x0E ∧ x.arg = 9 ∧ x.ent = none ∧ x.eaddr = BitVec.ofNat 64 off)))

/-! Jobs and their moves (12 R340 to R348, R354, R355; 13 R374 to R380). -/

/-- R342 to R346, R353, R354, R431: a pool entry starts only in a state that admits jobs; an unreadable record is rejected with code 9 at
mailbox 0, one that fails validation with its code; a rectangle in use waits. A job is complete when every sink has closed and
consumed equals sent with no FAULTED fibre: it is reclaimed, its block written (none in RETIRED), its status filed. A status record enters its
mailbox whole. The entries of a die start in the order of their acceptance: one that could start or will be rejected goes before a later one.
R343, R344: a DOORBELL value that is not beyond ADMITTED, or too far beyond it, is refused with kind 5; otherwise the slots up to it
are admitted in ascending order while the pool has an entry, and the admission goes on later from where it paused; a slot word with bits
above an address is rejected with code 9 (the model's choice, log entry 134).
The model's choices it rests on besides: log entries 74, 75. -/
def Obligations.JobLifecycle : Prop :=
  ((∀ (s : State) (die pool : Nat),
     ((∀ p ∈ (s.dieOf die).pool, p.idx ≠ pool) → exec (.jobStart die pool) s = .next s) ∧
     (∀ q, ((s.dieOf die).pool.find? fun p => p.idx == pool) = some q →
       (s.admits = false ∨ s.behind die q.order = true → exec (.jobStart die pool) s = .next s) ∧
       (s.behind die q.order = true ↔ ∃ p ∈ (s.dieOf die).pool, p.order < q.order ∧ ∀ x, s.record? p.record = some x → s.heldBack x p.order = false) ∧
       (s.admits = true → s.behind die q.order = false → s.record? q.record = none → exec (.jobStart die pool) s = .next (s.rejectJob die pool q.record 9 0)) ∧
       (∀ r, s.admits = true → s.behind die q.order = false → s.record? q.record = some r →
         (∀ code, s.validate r die pool q.record = .error code → exec (.jobStart die pool) s = .next (s.rejectJob die pool q.record code r.ownerq)) ∧
         (∀ t, s.validate r die pool q.record = .ok t →
           ((s.heldBack r q.order = true ∨ s.now < (s.dieOf die).lastStart) → exec (.jobStart die pool) s = .next s) ∧
           (s.heldBack r q.order = false → (s.dieOf die).lastStart ≤ s.now → exec (.jobStart die pool) s =
             .next (s.startJob r t die pool q.record)))))) ∧
   (∀ (s : State) (r : Record) (die pool : Nat) (at_ : Addr),
     (r.at 0 1 ≠ 1 ∨ r.at 2 2 ≠ 0 ∨ r.at 78 2 ≠ 0 → s.validate r die pool at_ = .error 1) ∧
     (r.badFields = false → (∃ w ∈ r.widths, 64 < w) ∨ 64 < r.widths.sum → s.validate r die pool at_ = .error 2) ∧
     (r.badFields = false → r.badCounts = false → 192 ≤ r.at 64 1 + r.at 66 1 ∨ 96 ≤ r.at 65 1 + r.at 67 1 →
       s.validate r die pool at_ = .error 3) ∧
     (r.badFields = false → r.badCounts = false → r.badPart = false →
       (256 * r.p < r.fibres → s.validate r die pool at_ = .error 7) ∧
       (r.fibres ≤ 256 * r.p → 0 < r.at 148 4 → inDram (r.at 136 8) = false → s.validate r die pool at_ = .error 8))) ∧
   (∀ (r : Record) (id entry start : Nat), let c := launchCtx r id entry start
     (∀ k : Fin 8, c.p[k] = 0) ∧ c.pg = 0 ∧ c.id = BitVec.ofNat 64 id ∧ c.pc = BitVec.ofNat 48 entry ∧ c.state = 1) ∧
   (∀ (s : State) (n : Nat),
     (s.jobs.get? n = none → exec (.jobCompletionCheck n) s = .next s) ∧
     (∀ j, s.jobs.get? n = some j →
       ((∃ k ∈ j.sinks, k.2.2 = false) ∨ j.consumed.toList.sum ≠ j.sent.toList.sum ∨ s.hasFaulted j = true ∨ j.switching ≠ none ∨
         j.switched ≠ none → exec (.jobCompletionCheck n) s = .next s) ∧
       ((∀ k ∈ j.sinks, k.2.2 = true) → j.consumed.toList.sum = j.sent.toList.sum → s.hasFaulted j = false → j.switching = none →
         j.switched = none →
         let u := s.reclaim j
         let ws := statusWords 4 0 j.pool j.die 0 s.now (j.record.setWidth 64) false
         let b := s.completionBlock (s.sigOf j) j.orf j.maxDbg (j.record.setWidth 64) j.subs
         u.jobs.get? j.num = none ∧
         (j.cpladdr = 0 ∨ s.mgmt.sec = .retired → exec (.jobCompletionCheck n) s = .next (u.fileStatus j.die j.ownerq ws)) ∧
         (∀ v, j.cpladdr ≠ 0 → s.mgmt.sec ≠ .retired → u.vPut j.cpladdr.toNat b = some v → exec (.jobCompletionCheck n) s = .next (v.fileStatus j.die j.ownerq ws))))) ∧
   (∀ (s : State) (d : Nat),
     ((s.dieOf d).status = [] → exec (.statusRecordForward d) s = .next s) ∧
     (∀ box w ws rest, (s.dieOf d).status = (box, w :: ws) :: rest →
       (256 < (s.box box).outq.length + ws.length + 1 → exec (.statusRecordForward d) s = .next s) ∧
       ((s.box box).outq.length + ws.length + 1 ≤ 256 → exec (.statusRecordForward d) s =
         .next ((s.setDie d { s.dieOf d with status := rest, statusLost := false }).outPush box 2
           ((putBit w 28 (s.dieOf d).statusLost :: ws).map fun x => (x, Body.word x))))))) ∧
  (∀ (s : State) (page : Nat), let x := s.launchPage page
     (∀ n : DWord,
       (n.toNat ≤ x.admitted.toNat ∨ x.ringsize.toNat < n.toNat - x.admitted.toNat → exec (.doorbell page n) s =
         .next (s.fileStatus (s.pageHome page) 0 (statusWords 5 0 0 (s.pageHome page) 0 s.now n false))) ∧
       (x.admitted.toNat < n.toNat → n.toNat - x.admitted.toNat ≤ x.ringsize.toNat →
         exec (.doorbell page n) s = exec (.admissionResume page) (s.setLaunchPage page { x with target := some n }))) ∧
     (x.target = none → exec (.admissionResume page) s = .next s) ∧
     (∀ t, x.target = some t →
       (t.toNat ≤ x.admitted.toNat → exec (.admissionResume page) s = .next (s.setLaunchPage page { x with target := none })) ∧
       (x.admitted.toNat < t.toNat → s.admits = false → exec (.admissionResume page) s = .next s) ∧
       (∀ l, x.admitted.toNat < t.toNat → s.admits = true →
         s.vBytes (x.ringbase.toNat + 8 * (x.admitted.toNat % x.ringsize.toNat)) 8 = some l →
         (bits (leWord l) 48 16 ≠ 0 → t.toNat = x.admitted.toNat + 1 → ∃ u, exec (.admissionResume page) s = .next u ∧
           u.launchPage page = { x with admitted := x.admitted + 1, target := none } ∧
           u.dies = (s.fileStatus (s.pageHome page) 0 (statusWords 1 9 0 (s.pageHome page) 0 s.now (leWord l) false)).dies) ∧
         (bits (leWord l) 48 16 = 0 →
         (s.admitRecord (s.pageHome page) 0 ((leWord l).setWidth 48) none = none → exec (.admissionResume page) s = .next s) ∧
         (∀ i v, s.admitRecord (s.pageHome page) 0 ((leWord l).setWidth 48) none = some (i, v) → t.toNat = x.admitted.toNat + 1 →
           ∃ u, exec (.admissionResume page) s = .next u ∧ u.launchPage page = { x with admitted := x.admitted + 1, target := none } ∧
             u.dies = v.dies ∧ u.mgmt.admitted = true ∧
             (v.dieOf (s.pageHome page)).pool.length = (s.dieOf (s.pageHome page)).pool.length + 1)))))

/-- R355, R374, R379, R380, R444: the commands that move jobs. A number of no live job has STATUS 0x02; SWITCH marks the job and waits; RESTORE
needs a switched-out job, a free rectangle of its shape, and QUIET images to move; MIGRATE stays within the partition; ABANDON
reclaims at once.
The model's choices it rests on besides: log entry 83. -/
def Obligations.JobCommands : Prop :=
  ∀ (s t : State) (c : Cmd) (a : CmdArgs),
    (s.Commanded c 0x01 ⟨true, true, true, 0, false⟩ a t →
      (s.jobs.get? a.a0 = none → exec (.switch c) s = .next (t.finishCmd c 0x02)) ∧
      (∀ j, s.jobs.get? a.a0 = some j →
        (a.a1 % 64 ≠ 0 ∨ inDram a.a1 = false ∨ a.a2 % 131072 ≠ 0 → exec (.switch c) s = .next (t.finishCmd c 0x02)) ∧
        (a.a1 % 64 = 0 → inDram a.a1 = true → a.a2 % 131072 = 0 → inDram (a.a1 + (j.count * a.a2 - 1)) = true →
          (j.switching ≠ none ∨ j.switched ≠ none → exec (.switch c) s = .next (t.finishCmd c 0x1A)) ∧
          (j.switching = none → j.switched = none → exec (.switch c) s =
            .next (({ t with jobs := t.jobs.set j.num { j with switching := some (a.a1, a.a2, c) } } : State).holdCmd c))))) ∧
    (s.Commanded c 0x02 ⟨true, true, true, 8, false⟩ a t →
      (s.jobs.get? a.a0 = none → exec (.restore c) s = .next (t.finishCmd c 0x02)) ∧
      (∀ j x y w h, s.jobs.get? a.a0 = some j → leNat (a.nonce.take 8) = x + y * 2 ^ 8 + w * 2 ^ 16 + h * 2 ^ 24 → x < 256 → y < 256 → w < 256 → h < 256 →
        a.a1 % 64 = 0 → inDram a.a1 = true → a.a2 % 131072 = 0 → x + w < 192 → y + h < 96 →
        let k : Job := { j with x0 := x, y0 := y, wm1 := w, hm1 := h }
        (j.switched = none ∨ w ≠ j.wm1 ∨ h ≠ j.hm1 ∨ (∃ i ∈ k.cores, (s.coreAt i).job ≠ none) → exec (.restore c) s = .next (t.finishCmd c 0x14)) ∧
        (j.switched ≠ none → w = j.wm1 → h = j.hm1 → (∀ i ∈ k.cores, (s.coreAt i).job = none) →
          (t.images j a.a1 a.a2 = none → exec (.restore c) s = .next (t.finishCmd c 0x13)) ∧
          (∀ ls, t.images j a.a1 a.a2 = some ls →
            ((x ≠ j.x0 ∨ y ≠ j.y0) → (∃ l ∈ ls, fieldOf l 8 1 / 2 % 2 = 0) → exec (.restore c) s = .next (t.finishCmd c 0x14)) ∧
            ((x = j.x0 ∧ y = j.y0) ∨ (∀ l ∈ ls, fieldOf l 8 1 / 2 % 2 = 1) → ∃ u : State, exec (.restore c) s = .next (u.finishCmd c 0) ∧
              ∃ n, u.jobs.get? j.num = some n ∧ n.switched = none ∧ n.saved = [] ∧ n.x0 = x ∧ n.y0 = y ∧ n.wm1 = w ∧ n.hm1 = h))))) ∧
    (s.Commanded c 0x03 ⟨true, true, false, 0, false⟩ a t →
      (fibreArg a.a0 = none ∨ coreArg a.a1 = none → exec (.migrate c) s = .next (t.finishCmd c 0x02)) ∧
      (∀ w k, fibreArg a.a0 = some w → coreArg a.a1 = some k →
        ((((s.coreAt w.core).fibre? w.ent).bind fun f => f.job.bind s.jobs.get?) = none → exec (.migrate c) s = .next (t.finishCmd c 0x02)) ∧
        (∀ j, (((s.coreAt w.core).fibre? w.ent).bind fun f => f.job.bind s.jobs.get?) = some j →
          (j.holds k = false → exec (.migrate c) s = .next (t.finishCmd c 0x02)) ∧
          (j.holds k = true → k = w.core → exec (.migrate c) s = .next (t.finishCmd c 0)) ∧
          (j.holds k = true → k ≠ w.core → exec (.migrate c) s =
            .next { t with mgmt := { t.mgmt with waiting := [c], migrating := some (c, w, k) } })))) ∧
    (s.Commanded c 0x04 ⟨true, false, false, 0, false⟩ a t →
      (s.jobs.get? a.a0 = none → exec (.abandon c) s = .next (t.finishCmd c 0x02)) ∧
      (∀ j, s.jobs.get? a.a0 = some j → exec (.abandon c) s = .next ((t.abandonJob j).finishCmd c 0)))

/-- R375 to R378, R380: a core writes its image once nothing of the job is resident or pending, keeps only what is its own, and ends the
switch as the last core; a fibre late by LIVETAB.LIMIT, which at 0 forces nothing, is taken at a boundary, and every KiB is then saved. A migration takes the fibre at a
boundary first, waits for its journal entries, and is refused when the target has no room. The image has the layout of Table 13-4.
The model's choices it rests on besides: log entries 79, 82. -/
def Obligations.ImagesAndPlacement : Prop :=
  (∀ s : State,
    (s.core.job = none ∨ s.maySave = false → exec .coreSwitchOut s = .next s) ∧
    (∀ n j, s.core.job = some n → s.jobs.get? n = some j →
      (j.switching = none → exec .coreSwitchOut s = .next s) ∧
      (∀ region stride c v, j.switching = some (region, stride, c) → s.maySave = true → s.core.saving = none →
        s.vPut (region + j.index s.cid * stride) (s.coreImage j) = some v →
        let k : Job := { j with saved := j.saved ++ [(s.cid, s.core)] }
        let u : State := { v with core := emptiedCore s.core, jobs := v.jobs.set j.num k }
        ((∃ i ∈ k.cores, ∀ x ∈ k.saved, x.1 ≠ i) → exec .coreSwitchOut s = .next u) ∧
        ((∀ i ∈ k.cores, ∃ x ∈ k.saved, x.1 = i) → exec .coreSwitchOut s = .next (u.endSwitch k region stride c)) ∧
        u.core.saved = true ∧ u.core.runq = [] ∧ u.core.job = none))) ∧
  (∀ (s : State) (j : Job), (s.coreImage j).length = 48448 + 1024 * (kibs s.saveMap).length ∧
    (s.coreImage j).take 8 = leBytes s.saveMap.toNat 8 ∧
    (∀ k : Fin 32, ((s.coreImage j).drop (64 + 8 * k.val)).take 8 = leBytes (s.core.s[k]).toNat 8) ∧
    (∀ k : Fin 16, ((s.coreImage j).drop (320 + 64 * k.val)).take 64 = leBytes (s.core.v[k]).toNat 64) ∧
    (s.core.saving ≠ none → s.saveMap = BitVec.allOnes 64)) ∧
  (∀ (s : State) (sl : Fin 8), let u : State := { s with sid := sl }
    (bits s.core.livetab 0 32 = 0 ∨ s.coreCycles - u.fib.liveSince ≤ bits s.core.livetab 0 32 ∨ u.me.atBoundary u.coreCycles = false ∨ 6 ≤ sl.val → exec (.forcedSave sl) s = .next s) ∧
    (∀ j, bits s.core.livetab 0 32 ≠ 0 → bits s.core.livetab 0 32 < s.coreCycles - u.fib.liveSince → u.me.atBoundary u.coreCycles = true → sl.val < 6 → u.job? = some j → j.switching ≠ none →
      ∃ t, exec (.forcedSave sl) s = .next t ∧ t.core.saving = some (whoHandle u.self) ∧ t.sid = s.sid)) ∧
  (∀ s : State, s.mgmt.migrating = none → exec .migrationPlace s = .next s) ∧
  (∀ (s : State) (c : Cmd) (e target : Nat), s.mgmt.migrating = some (c, ⟨s.cid, e⟩, target) →
    let ends (u : State) (v : Nat) : State := ({ u with mgmt := { u.mgmt with migrating := none } } : State).finishCmd c v
    (s.core.fibre? e = none → exec .migrationPlace s = .next (ends s 0x14)) ∧
    (∀ f, s.core.fibre? e = some f →
      (s.mayTake e f = false ∨ f.calm = false → exec .migrationPlace s = .next s) ∧
      (∀ i, f.wait = none → f.calm = true → s.core.slotOf? e = some i → (s.core.slots[i]).atBoundary s.coreCycles = true →
        let t : State := ({ s with sid := i } : State).displace
        t.settled e = false → exec .migrationPlace s = .next { t with sid := s.sid }) ∧
      ((f.ctx.state = 1 ∨ f.ctx.state = 3) → f.wait = none → f.calm = true → s.core.slotOf? e = none →
        (s.settled e = false → exec .migrationPlace s = .next s) ∧
        (s.settled e = true → s.refusesMove e target = true → exec .migrationPlace s = .next (ends s 0x14)) ∧
        (∀ n, s.settled e = true → s.refusesMove e target = false → (s.coreAt target).freeEntry? = some n →
          exec .migrationPlace s = .next (ends (s.moveFibre e f target n).equalise 0)))))

/-! The host die and the Sorting Office (15). -/

/-- R8, R421 to R423, R317: before bring-up the BARs are off; the host's requests act in their order, one behind those that wait; a word, an end or a token enters a mailbox's inbound FIFO while INFREE is not 0, else it is discarded with DROP; a read of
OUT pops the head, 0 when empty; the other registers of Table 15-5 read as their fields, write-only and reserved ones as zero; a qhs word of the host goes to the core QHSDST names, four at most; MGMTCMD queues a command; BAR4
accesses and AtomicOps reach DRAM behind APBASE, and what fails receives Completer Abort.
The model's choices it rests on besides: log entries 91, 98, 122, 140, 161. -/
def Obligations.HostInterface : Prop :=
  (∀ (s : State) (i : Instr) (e : Ev), IsHostRequest i e →
    (s.mgmt.verified = false → exec i s = .next (s.barsOff e)) ∧
    (s.mgmt.verified = true → s.mgmt.power = .active → s.host.kept ≠ [] → exec i s = .next (s.keepRequest e)) ∧
    (s.HostOpen → s.hostDo e = none → exec i s = .next (s.keepRequest e))) ∧
  (∀ s : State, (∀ off len data, s.barsOff (.hostBar4Access off len data false) = s.completeHost [] true ∧ s.barsOff (.hostBar4Access off len data true) = s) ∧
    (∀ off op size a b, s.barsOff (.hostAtomicop off op size a b) = s.completeHost [] true) ∧ (∀ m w, s.barsOff (.mailboxIn m w) = s) ∧
    (∀ off w, s.barsOff (.registerWrite off w) = s)) ∧
  (∀ (s : State) (m : Nat) (w : DWord) (i : Instr) (b : Body), s.HostOpen →
    (i = .mailboxIn m w ∧ b = .word w) ∨ (i = .mailboxLp m ∧ b = .last) ∨ (i = .mailboxToken m ∧ b = .token) →
    (256 ≤ m → exec i s = .next s) ∧
    (m < 256 → 64 ≤ (s.box m).inq.length → exec i s = .next (s.setBox m { s.box m with drop := true })) ∧
    (m < 256 → (s.box m).inq.length < 64 →
      ((s.host.bound.get? m = none ∨ (s.box m).credit = 0) → exec i s = .next (s.setBox m { s.box m with inq := (s.box m).inq ++ [b] })) ∧
      (∀ c e, s.host.bound.get? m = some (c, e) → (s.box m).inq = [] → (s.box m).credit ≠ 0 → 256 + m ∉ s.host.fifoPoison → ∃ u : State,
        exec i s = .next (u.sendFrom 30001 c none [] (some (entryPlace c e))
          (.messageArrival { who := ⟨0, 0⟩, op := 0, src := .ext 2 m, dst := e, body := b, offer := false, job := none })) ∧
        u.box m = { s.box m with inq := [], credit := (s.box m).credit - 1 } ∧ u.mem = s.mem ∧ u.core = s.core))) ∧
  (∀ (s : State) (m : Nat), s.HostOpen →
    ((s.box m).outq = [] → exec (.mailboxOut m) s = .next { s with outside := s.outside ++ [Outside.popped m 0] }) ∧
    (∀ x rest, m < 256 → (s.box m).outq = x :: rest → (∀ w ∈ s.host.waiting, w.1 ≠ m) → (∀ l ∈ s.host.letters, l.1 ≠ m) →
      (m ∉ s.host.fifoPoison → exec (.mailboxOut m) s =
        .next { (s.setBox m { s.box m with outq := rest }) with outside := s.outside ++ [Outside.popped m x.1] }) ∧
      (m ∈ s.host.fifoPoison → ∃ u : State, exec (.mailboxOut m) s = .next u ∧ (u.box m).outq = rest ∧ u.outside = s.outside ++ [Outside.popped m 0] ∧
        u.mgmt.reports = s.mgmt.reports ++ [(30001, m)]))) ∧
  (∀ (s : State) (m k : Nat), m < 256 → k < 64 → let x := s.box m
    (k ≠ 0x10 → k ≠ 0x18 → k ≠ 0x20 → k ≠ 0x28 → s.barRead (64 * m + k) = 0) ∧
    s.barRead (64 * m + 0x10) = x.head ∧
    (x.inq.length ≤ 64 → x.outq.length ≤ 256 → bits (s.barRead (64 * m + 0x18)) 0 9 = x.outq.length ∧
      bits (s.barRead (64 * m + 0x18)) 16 7 = 64 - x.inq.length) ∧
    (s.barRead (64 * m + 0x20) = BitVec.ofNat 64 (x.irqen.toNat + 2 * x.drop.toNat)) ∧
    s.barRead (64 * m + 0x28) = x.qhsdst.setWidth 64) ∧
  (∀ (s : State) (m : Nat) (w : DWord), s.HostOpen → let c := handleCore ((s.box m).qhsdst.setWidth 64)
    (256 ≤ m → exec (.qhsin m w) s = .next s) ∧
    (m < 256 → 4 ≤ (s.coreAt c).qhs.length → exec (.qhsin m w) s = .next (s.setBox m { s.box m with drop := true })) ∧
    (m < 256 → (s.coreAt c).qhs.length < 4 → exec (.qhsin m w) s = .next (s.modCore c fun y => { y with qhs := y.qhs ++ [w] }))) ∧
  (∀ (s : State) (w : DWord), s.HostOpen →
    (let g : Mgmt := { s.mgmt with cmds := s.mgmt.cmds ++ [⟨w.setWidth 48, .host⟩] }
     exec (.registerWrite 0x01000000 w) s = .next { s with host := { s.host with mgmtcmd := w }, mgmt := g }) ∧
    (∀ m, m < 256 →
      exec (.registerWrite (64 * m) w) s = exec (.mailboxIn m w) s ∧
      (w.getLsbD 0 = true → exec (.registerWrite (64 * m + 8) w) s = exec (.mailboxLp m) s) ∧
      (w.getLsbD 0 = false → w.getLsbD 1 = true → exec (.registerWrite (64 * m + 8) w) s = exec (.mailboxToken m) s) ∧
      exec (.registerWrite (64 * m + 0x20) w) s =
        .next (s.setBox m { s.box m with irqen := w.getLsbD 0, drop := (s.box m).drop && !w.getLsbD 1 }) ∧
      exec (.registerWrite (64 * m + 0x28) w) s = .next (s.setBox m { s.box m with qhsdst := w.setWidth 23 }) ∧
      exec (.registerWrite (64 * m + 0x30) w) s = exec (.qhsin m w) s)) ∧
  (∀ (s : State) (off len : Nat) (data : List Byte), s.HostOpen → let va := 0x100000000000 + s.host.apbase + off
    (∀ l t, s.edgeGet 30001 ⟨30001, 0⟩ none va len = .ok l t → exec (.hostBar4Access off len data false) s = .next (t.completeHost l false)) ∧
    (∀ l t, s.edgePut 30001 ⟨30001, 0⟩ none va data = .ok l t → exec (.hostBar4Access off len data true) s = .next t) ∧
    (∀ code a t, s.edgeGet 30001 ⟨30001, 0⟩ none va len = .fault code a t → exec (.hostBar4Access off len data false) s = .next (t.completeHost [] true)) ∧
    (∀ code a t, s.edgePut 30001 ⟨30001, 0⟩ none va data = .fault code a t → exec (.hostBar4Access off len data true) s = .next (t.completeHost [] true)) ∧
    (∀ op size a b,
      ((op ≠ .add ∧ op ≠ .swp ∧ op ≠ .cas) ∨ (size ≠ 4 ∧ size ≠ 8) ∨ va % size ≠ 0 → exec (.hostAtomicop off op size a b) s = .next (s.completeHost [] true)) ∧
      (s.pageOf va = none → exec (.hostAtomicop off op size a b) s = .next (s.completeHost [] true)) ∧
      (∀ p, s.pageOf va = some p → p.ro = true → exec (.hostAtomicop off op size a b) s = .next (s.completeHost [] true)) ∧
      (∀ p, (op = .add ∨ op = .swp ∨ op = .cas) → (size = 4 ∨ size = 8) → va % size = 0 → s.pageOf va = some p → p.ro = false →
        (s.migrating va = true → exec (.hostAtomicop off op size a b) s = .next (s.keepRequest (.hostAtomicop off op size a b))) ∧
        (s.migrating va = false → (s.stack p.home).bad (p.pa va) size = [] →
        let home := dramHome p.home (p.pa va)
        let old := memBytes s.mem home size
        let q := s.cross 30001 (serverDst p.home) [granulePlaces va size] 1
        (q = none → exec (.hostAtomicop off op size a b) s = .next (s.keepRequest (.hostAtomicop off op size a b))) ∧
        (∀ x y, q = some x → x.cross (serverDst p.home) 30001 [] 1 = some y → ∃ u : State,
          exec (.hostAtomicop off op size a b) s = .next (u.completeHost old false) ∧ u.agents = y.agents ∧
          u.mem = memPut s.mem home (leBytes (newValue op (8 * size) (leNat old) a.toNat b.toNat) size))))))

/-- R406, R408, R410 to R412: frames of Symen Link, those of a link in their order: one that must wait is kept, and what comes after it behind it. A
stream's message goes to the entry it is bound to, else to mailbox 0; a tile's header frame opens it and its payload frames fill it; a credit
returns to the sending entry; a remote access that the import table does not admit, or that lies outside its target's PART0, is answered
with TRANSLATION; a copy's element is read or written and answered; an enqueued write sends its word after its bytes; a link that
goes down refuses what waits on it. A payload frame without a header frame is dropped (the model's choice, log entry 154).
The model's choices it rests on besides: log entries 86, 87, 88, 122. -/
def Obligations.OfficeFrames : Prop :=
  ∀ (s : State) (f : Frame),
    let keeps (e : Ev) : State := { s with office := { s.office with kept := s.office.kept ++ [(f.link, e)] } }
    let tiles (t : Tbl (TileDesc × List Byte)) : State := { s with office := { s.office with tilesIn := t } }
    let a := f.arg.toNat
    let n := reqSpan f
    (∀ (i : Instr) (e : Ev), (i = .streamMessage f ∧ e = .streamMessage f) ∨ (i = .accessRequest f ∧ e = .accessRequest f) ∨
        (i = .writeWithEnqueue f ∧ e = .writeWithEnqueue f) →
      ((∃ k ∈ s.office.kept, k.1 = f.link) → exec i s = .next (keeps e)) ∧
      ((∀ k ∈ s.office.kept, k.1 ≠ f.link) → s.frameGo e = none → exec i s = .next (keeps e))) ∧
    ((∀ k ∈ s.office.kept, k.1 ≠ f.link) →
      ((∀ d l, f.body ≠ .tile d l) →
        (∀ c e, s.streamIn f.link f.stream = some (c, e) → exec (.streamMessage f) s = .next (s.sendFrom 30000 c none [] (some (entryPlace c e))
          (.messageArrival { who := ⟨0, 0⟩, op := 0, src := .ext 3 (f.link + 256 * f.stream), dst := e, body := f.body, offer := false, job := none }))) ∧
        (s.streamIn f.link f.stream = none → ∃ ws, exec (.streamMessage f) s = .next (s.fileDeadLetter 0 ws))) ∧
      (∀ d l, f.body = .tile d l → let k := f.link + 256 * f.stream
        (f.data = [] → exec (.streamMessage f) s = .next (tiles (s.office.tilesIn.set k (d, [])))) ∧
        (f.data ≠ [] → s.office.tilesIn.get? k = none → exec (.streamMessage f) s = .next s) ∧
        (∀ h got, f.data ≠ [] → s.office.tilesIn.get? k = some (h, got) → let m := got ++ f.data
          (m.length < tileSize h → exec (.streamMessage f) s = .next (tiles (s.office.tilesIn.set k (h, m)))) ∧
          (tileSize h ≤ m.length → exec (.streamMessage f) s =
            .next ((tiles (s.office.tilesIn.erase k)).streamDeliver f.link f.stream (.tile h (m.take (tileSize h))))))) ∧
      (s.imports f.srcMod a n f.write = false → exec (.accessRequest f) s = .next (s.replyTo f a 0x13 [])) ∧
      (s.imports f.srcMod a f.data.length true = false → exec (.writeWithEnqueue f) s =
        .next (s.replyTo f (firstBad a f.data.length fun x => s.imports f.srcMod x 1 true) 0x13 [])) ∧
      (s.imports f.srcMod a n f.write = true → f.access = none →
        (∀ c off t, regionOf 30000 f.arg = .peer c off → s.toPad c off n (if f.write = true then (n + 31) / 32 else 1) = some t →
          ((s.coreAt c).inPart0 off n = false → exec (.accessRequest f) s = .next (t.replyTo f a 0x13 [])) ∧
          ((s.coreAt c).inPart0 off n = true →
            (f.write = true → exec (.accessRequest f) s = .next ((t.spWrite c off f.data).replyTo f a 0 [])) ∧
            (f.write = false → (s.coreAt c).poisoned off n = true → exec (.accessRequest f) s = .next (t.replyTo f a 0x0E [])) ∧
            (∀ u, f.write = false → (s.coreAt c).poisoned off n = false → t.cross c 30000 [] ((n + 31) / 32) = some u →
              exec (.accessRequest f) s = .next (u.replyTo f a 0 (s.spBytes c off n))))) ∧
        (regionOf 30000 f.arg = .dram →
          (∀ l t, f.write = false → s.edgeGet 30000 (farWho f) none a n = .ok l t → exec (.accessRequest f) s = .next (t.replyTo f a 0 l)) ∧
          (∀ l t, f.write = true → s.edgePut 30000 (farWho f) none a f.data = .ok l t → exec (.accessRequest f) s = .next (t.replyTo f a 0 l))) ∧
        (∀ t, regionOf 30000 f.arg = .host → s.farWindow f = some t → s.hostAddr a = none → ∃ u : State, t = u.replyTo f a 0x13 [] ∧
          exec (.accessRequest f) s = .next t) ∧
        (regionOf 30000 f.arg = .pkg → exec (.accessRequest f) s = .next (s.farOnward f))) ∧
      (∀ x, s.imports f.srcMod a n f.write = true → f.access = some x → let t : State := { s with nextId := s.nextId + 1 }
        (a % accSpan x ≠ 0 → accSpan x ≤ 16 → exec (.accessRequest f) s = .next (t.replyTo f a misalign [])) ∧
        (∀ c off, a % accSpan x = 0 → regionOf 30000 f.arg = .peer c off → exec (.accessRequest f) s = .next (t.sendFrom 30000 c none []
          (some (c * 8 + off / 8192)) (.activeMessage ⟨farWho f, s.nextId, .wait, none⟩ { x with addr := f.arg })))) ∧
      (s.imports f.srcMod a f.data.length true = true →
        let word : DWord := BitVec.ofNat 64 (a % 2 ^ 48 + (f.data.length - 1) % 4096 * 2 ^ 48)
        (∀ l t, regionOf 30000 f.arg = .dram → s.edgePut 30000 (farWho f) none a f.data = .ok l t → exec (.writeWithEnqueue f) s =
          .next ((t.streamDeliver f.link f.stream (.word word)).replyTo f a 0 [])) ∧
        (∀ c off, regionOf 30000 f.arg = .peer c off → s.away c = false → (s.coreAt c).inPart0 off f.data.length = false →
          exec (.writeWithEnqueue f) s =
            .next (s.replyTo f (firstBad a f.data.length fun x => (s.coreAt c).inPart0 (off + (x - a)) 1) 0x13 [])) ∧
        (∀ c off t, regionOf 30000 f.arg = .peer c off → (s.coreAt c).inPart0 off f.data.length = true →
          s.toPad c off f.data.length ((f.data.length + 31) / 32) = some t →
          exec (.writeWithEnqueue f) s = .next (((t.spWrite c off f.data).streamDeliver f.link f.stream (.word word)).replyTo f a 0 [])))) ∧
    (∀ c e, s.streamOut f.link f.stream = some (c, e) → exec (.creditOrAcknowledgement f) s = .next (s.sendFrom 30000 c none [] none (.creditReturn e))) ∧
    (s.streamOut f.link f.stream = none → exec (.creditOrAcknowledgement f) s = .next s) ∧
    (∀ w, (s.office.waiting.find? fun w => w.1 == f.arg2.toNat && w.2.1 == f.link) = some w → exec (.accessReply f) s =
      .next (({ s with office := { s.office with waiting := s.office.waiting.erase w } } : State).answerFrom 30000 w.2.2
        ⟨if f.ok then 0 else f.code, if w.2.2.who.core < 20000 then s.addrOf w.2.2 else s.windowOf f.link f.srcMod a, false,
         wordsOfBytes (padWord f.data)⟩)) ∧
    ((∀ w ∈ s.office.waiting, w.1 ≠ f.arg2.toNat ∨ w.2.1 ≠ f.link) → s.flightOf f.arg2.toNat = none → exec (.accessReply f) s = .next s) ∧
    (∀ link, (link ∈ s.office.down → exec (.linkDown link) s = .next s) ∧
      (link ∉ s.office.down → (∀ w ∈ s.office.waiting, w.2.1 ≠ link) →
        (∀ c, ∀ x ∈ (s.coreAt c).channels.toList, s.flightsOn x link = []) → ∃ u, exec (.linkDown link) s = .next u ∧
        u.office = { s.office with down := link :: s.office.down, tilesIn := s.office.tilesIn.filter fun t => t.1 % 256 != link } ∧
        u.mgmt.reports = s.mgmt.reports ++ [(30000, link)] ∧ u.mem = s.mem ∧ u.core = s.core ∧ u.net = s.net))

/-- R413 to R420: collectives at this module's rank. A submission whose submitter has host writes that no flush read has covered waits for
one; else, after the submissions before it, one that fails its checks has STATE 3 and its code; an accepted one has its record,
its TREEHASH at offset 96 and goes on, with the frames that came before it; data of a rank is used when all of it has come; a result from the
parent goes on down; a decision is commit or abort; the commit writes DST, then STATUS, an abort STATUS 2 and the trap; an abort from the parent
stands before this rank's submission too, and a child that has sent hears of it (the model's choice, log entry 159); the limit asks the parent for
an abort, or aborts at the root; a decided record is released after twice its limit.
The model's choices it rests on besides: log entries 93, 94, 95. -/
def Obligations.Collectives : Prop :=
  (∀ (s : State) (a : Addr) (who : Who) (job : Option Nat), s.submitFlush who = none →
    let e : Ev := .collectiveSubmit a who job
    let keeps : State := { s with office := { s.office with kept := s.office.kept ++ [(256, e)] } }
    ((∃ k ∈ s.office.kept, k.1 = 256) → exec (.collectiveSubmit a who job) s = .next keeps) ∧
    ((∀ k ∈ s.office.kept, k.1 ≠ 256) →
      (s.vBytes a.toNat 128 = none → exec (.collectiveSubmit a who job) s = .next s) ∧
      (∀ l, s.vBytes a.toNat 128 = some l → let b : Block := ⟨l⟩
        let u := s.vNote a.toNat 128 job
        (∀ code, (a.toNat % 64 = 0 ∧ u.checkColl b = .error code) ∨ (a.toNat % 64 ≠ 0 ∧ code = 1) →
          (∀ v, u.rejectColl b a.toNat code job = some v → exec (.collectiveSubmit a who job) s = .next v) ∧
          (u.rejectColl b a.toNat code job = none → exec (.collectiveSubmit a who job) s = .next keeps)) ∧
        (b.bad = true → u.checkColl b = .error 1) ∧
        (∀ t m own, a.toNat % 64 = 0 → u.checkColl b = .ok (t, m, own) →
          let c := newColl b a who job (t.getD b.rank Node.reset) m own s.now
          (u.officeWrite job (a.toNat + 96) (leBytes (treeHash t).toNat 32) = none → exec (.collectiveSubmit a who job) s = .next keeps) ∧
          (∀ v, u.officeWrite job (a.toNat + 96) (leBytes (treeHash t).toNat 32) = some v → let w := v.modJob job fun j => { j with coll := j.coll + treeHash t }
            (s.coll? b.comm b.seq = none → exec (.collectiveSubmit a who job) s =
              .next (((w.putColl c).advanceColl c).replayEarly b.comm b.seq)) ∧
            (∀ x, s.coll? b.comm b.seq = some x → x.decided = some false → exec (.collectiveSubmit a who job) s = .next (w.abortColl c))))))) ∧
  (∀ (s : State) (comm seq : Nat), (∀ x ∈ s.office.early, ofColl comm seq x = false) → s.replayEarly comm seq = s) ∧
  (∀ (s : State) (a : Addr) (who : Who) (job : Option Nat) (n : Nat) (t : State), s.submitFlush who = some (n, t) → exec (.collectiveSubmit a who job) s =
    .next (t.sendFrom 30000 30000 (some who) [n] (some (2 ^ 53)) (.collectiveSubmit a who job))) ∧
  (∀ (s : State) (f : Frame) (flags : BitVec 4) (down commit : Bool),
    let early (e : Ev) : State := { s with office := { s.office with early := s.office.early ++ [e] } }
    (s.coll? (bits f.arg 0 24) (bits f.arg 32 32) = none →
      let x := Collective.early (bits f.arg 0 24) (bits f.arg 32 32) f.arg2.toNat s.now
      exec (.collectiveData f down flags) s = .next (early (.collectiveData f down flags)) ∧
      (down = false ∨ commit = true → exec (.collectiveControl f commit down) s = .next (early (.collectiveControl f commit down))) ∧
      x.state = 2 ∧ x.decided = some false ∧
      ((∀ y ∈ s.office.early, ofColl (bits f.arg 0 24) (bits f.arg 32 32) y = false) → exec (.collectiveControl f false true) s = .next (s.putColl x)) ∧
      (∀ g fl, s.office.early = [.collectiveData g false fl] → bits g.arg 0 24 = bits f.arg 0 24 → bits g.arg 32 32 = bits f.arg 32 32 →
        exec (.collectiveControl f false true) s =
          .next ((({ s with office := { s.office with early := [] } } : State).putColl x).tellAbort x g))) ∧
    (∀ c, s.coll? (bits f.arg 0 24) (bits f.arg 32 32) = some c →
      (c.who = none → c.decided = some false →
        exec (.collectiveData f true flags) s = .next s ∧ exec (.collectiveControl f commit true) s = .next s ∧
        exec (.collectiveData f false flags) s = .next (s.tellAbort c f) ∧ exec (.collectiveControl f commit false) s = .next (s.tellAbort c f)) ∧
      (c.state ≠ 0 ∨ c.decided ≠ none → (c.who ≠ none ∨ c.decided ≠ some false) →
        exec (.collectiveData f down flags) s = .next s ∧ exec (.collectiveControl f commit down) s = .next s) ∧
      (c.state = 0 → c.decided = none →
        (c.fromRank f = none → exec (.collectiveData f down flags) s = .next s) ∧
        (∀ r, c.fromRank f = some r → let d := c.takes r f.data flags
          ((∀ x ∈ c.inputs, x.1 ≠ r) → d = { c with inputs := c.inputs ++ [(r, f.data.take c.total, flags)] }) ∧
          (c.parent = some r → c.result = none →
            (∀ x, d.whole r = some x → exec (.collectiveData f true flags) s = .next (s.resultColl d x)) ∧
            (d.whole r = none → exec (.collectiveData f true flags) s = .next (s.putColl d))) ∧
          (r ∈ c.children → c.whole r = none → exec (.collectiveData f false flags) s = .next ((s.putColl d).advanceColl d))) ∧
        exec (.collectiveControl f true true) s = .next (s.commitColl c (BitVec.ofNat 4 f.code)) ∧
        exec (.collectiveControl f false true) s = .next (s.abortColl c) ∧
        (∀ p, c.parent = some p → exec (.collectiveControl f commit false) s = .next (s.collFrame c 6 p [] 0 false false)) ∧
        (c.parent = none → exec (.collectiveControl f commit false) s = .next (s.abortColl c))))) ∧
  (∀ (s : State) (comm seq : Nat),
    (s.coll? comm seq = none → exec (.collectiveComplete comm seq) s = .next s ∧ exec (.collectiveLimitExpiry comm seq) s = .next s ∧
      exec (.collectiveRecordExpiry comm seq) s = .next s) ∧
    (∀ c, s.coll? comm seq = some c →
      (c.state ≠ 0 ∨ c.decided = none → exec (.collectiveComplete comm seq) s = .next s) ∧
      (∀ r, c.result = some r →
        (c.written r.1 = [] → s.putResult c = some s) ∧
        (∀ l t, c.written r.1 ≠ [] → s.edgePut 30000 ⟨30000, 0⟩ c.job c.dst (c.written r.1) = .ok l t → s.putResult c = some t) ∧
        (c.written r.1 ≠ [] → s.edgePut 30000 ⟨30000, 0⟩ c.job c.dst (c.written r.1) = .wait → s.putResult c = none)) ∧
      (∀ r, c.state = 0 → c.decided = some true → c.result = some r →
        (s.putResult c = none → exec (.collectiveComplete comm seq) s = .next (s.completeLater c)) ∧
        (∀ t, s.putResult c = some t →
          (t.putStatus c.block.toNat 1 0 r.2 = none → exec (.collectiveComplete comm seq) s = .next (s.completeLater c)) ∧
          (∀ v, t.putStatus c.block.toNat 1 0 r.2 = some v → exec (.collectiveComplete comm seq) s =
            .next ((v.putColl { c with state := 1 }).notice c.job c.notify c.seq 1 0 r.2)))) ∧
      (∀ v, c.state = 0 → c.decided = some false → s.putStatus c.block.toNat 2 0 0 = some v → exec (.collectiveComplete comm seq) s =
        .next (((v.putColl { c with state := 2 }).notice c.job c.notify c.seq 2 0 0).timeoutTrap c)) ∧
      (c.state = 0 → c.decided = none → c.result = none → c.asked = false →
        (s.now < c.start + c.limit * 1000 → exec (.collectiveLimitExpiry comm seq) s = .next s) ∧
        (c.start + c.limit * 1000 ≤ s.now →
          (∀ p, c.parent = some p → exec (.collectiveLimitExpiry comm seq) s =
            .next ((s.putColl { c with asked := true }).collFrame c 6 p [] 0 false false)) ∧
          (c.parent = none → exec (.collectiveLimitExpiry comm seq) s = .next (s.abortColl c)))) ∧
      (c.state ≠ 0 → c.start + 2 * c.limit * 1000 ≤ s.now → ∃ u, exec (.collectiveRecordExpiry comm seq) s = .next u ∧ u.coll? comm seq = none) ∧
      (c.state = 0 ∨ s.now < c.start + 2 * c.limit * 1000 → exec (.collectiveRecordExpiry comm seq) s = .next s))) ∧
  (∀ (n r : Nat), r < n → let c := canonNode n r
    (r = 0 → c.parent = none) ∧ (r ≠ 0 → c.parent = some ((r - 1) / 2)) ∧
    (∀ k, k ∈ c.children ↔ k < n ∧ (k = 2 * r + 1 ∨ k = 2 * r + 2)))

/-! The machine as a whole. -/

/-- R8, R20, R21, R81, R113, R153, R185, R190, R234, R256, R268, R398, R427, R433, R436 and the Reset column of Table 9-2: what reset leaves,
where the spec gives a value. -/
def Obligations.ResetValues : Prop :=
  let c := State.reset.core
  (∀ k : Fin 32, c.s[k] = 0) ∧ (∀ k : Fin 16, c.v[k] = 0) ∧ (∀ k : Fin 8, c.bfmt[k] = 0) ∧ c.mxexc = 0 ∧ c.stagecnt = 0 ∧
    c.part0 = 0x100000000 ∧ c.part1 = 0x5FBF0000 ∧ c.trapbase = 0 ∧ c.livetab = 20000 ∧ c.utarg = 0 ∧ c.dbgbk = false ∧
    c.cause = 0 ∧ c.ejrn = 0 ∧ (∀ e, c.endpoint e = Endpoint.reset) ∧ Endpoint.reset.valid = false ∧ (∀ i, c.port? i = none) ∧
    (∀ k : Fin 8, c.lastfire[k] = 15) ∧ (∀ k : Fin 256, c.keeper[k] = 127) ∧ c.active.fmt = 15 ∧ c.shadow.fmt = 15 ∧ c.full = [] ∧
    (∀ k : Fin 8, (c.channels[k]).wm = 0) ∧ (∀ n, State.reset.coreAt n = c) ∧
    (∀ k : Fin 8, (State.reset.dies[k]).dlprobe = 100 ∧ ∀ b, (State.reset.hbm[k]).allowance b = 0) ∧
    State.reset.mgmt.dbg = .none ∧ State.reset.mgmt.tampcfg = 0 ∧ State.reset.mgmt.pcap = 5600 ∧ State.reset.memOk

/-- Table 2-16 and the encodings of 04 to 09: words written out from them, and what they decode to. -/
def Obligations.DecodedWords : Prop :=
  decode 0x0410A500#32 = .ok (.add (.p 1) (.p 2) (.s 5)) ∧
  decode 0x6030B002#32 = .ok (.ld .b8 (.p 3) (.p 2) 2) ∧
  decode 0x4044FFFD#32 = .ok (.br .nez (.p 4) 0xFFFD) ∧
  decode 0xA0004500#32 = .ok (.send 5 (.p 1)) ∧
  decode 0x54108381#32 = .ok (.ffma .s (.p 1) (.p 2) (.p 3) (.s 0)) ∧
  decode 0x7810830B#32 = .ok (.aadd .rel .b8 (.p 1) (.p 2) (.p 3)) ∧
  decode 0xFC000048#32 = .ok (.himm 0x48) ∧
  decode 0x0C12B456#32 = .ok (.addi (.p 1) .z 0x3456) ∧
  decode 0x0CA28000#32 = .ok (.addi .z .z 0) ∧
  decode 0xF0003000#32 = .error .illegalOp ∧
  decode (0x3C#6 ++ 0#6 ++ 0#6 ++ 0#2 ++ 0#4 ++ 0x05#8) = .ok (.trap 0x05) ∧
  decode (0x3C#6 ++ 0#6 ++ 0#6 ++ 0x100#14) = .ok .eret ∧
  decode (0x3A#6 ++ 3#6 ++ 0#6 ++ 0#6 ++ 0#8) = .ok (.prgrd (.p 3))

/-- R43, R51: a step takes the next turn of the module: time passes, an event is performed whole, and it is one of the instructions, or a slot issues
the word at its PC: where that word, and a hint group it starts, decode without a fault, the step is exec of the instruction, at the state with
its cycles given to the slot, the line's use noted and the next line requested where the word stands in the second half of its own; the words are
those of the fetch buffer and of the line the slot holds, and LEND is read first where the loop record asks for it.
R16: the stalled slots of a core re-evaluate in each of its cycles before anything else. A turn of the agenda that names a slot goes to the slot that
01 R16 chooses (log entry 5) and waits while its core has issued in its present cycle; one that names an event is that event, a packet's
arrival only where that packet may be delivered; while the clocks are stopped only what needs none takes place.
R117, R20: an instruction of more than one cycle occupies its slot, which issues nothing; what it writes in a shared register shows when its
cycles have passed, and of two writes that end in one cycle the higher slot's is kept.
Every instruction answers a next state, in every state: where the spec gives it an exception, that is the next state. -/
def Obligations.StepRunsTheDecodedInstruction : Prop :=
  ((∀ s u : State, (s.mgmt.halted = false ∨ s.tamperDue = true) →
     (s.nextTurn = .idle u → step s = .next u) ∧
     (∀ e, s.nextTurn = .event u e → step s = execEv e u) ∧
     (s.nextTurn = .issue u → (∀ i t, u.fetch = .run i t → step s = exec i (t.occupying i)) ∧ (∀ t, u.fetch = .whole t → step s = .next t))) ∧
   (∀ s : State, s.mgmt.halted = true → s.tamperDue = false → step s = .fault .moduleHalted) ∧
   (∀ (e : Ev) (s : State), ∃ i, execEv e s = exec i s) ∧
   (∀ (u v : State) (i : Instr) (w : Word), u.core.halted = false → u.mgmt.goal = none → u.core.occupied u.sid u.coreCycles = false →
     (u.sid.val < 6 → u.me.ent ≠ none) → (6 ≤ u.sid.val → u.me.busy = true) →
     (u.sid.val < 6 → (u.canTake = false ∨ u.me.group ≠ none ∧ u.me.stall = none) ∧ u.atSwitchPoint = false) →
     u.fib.wait = none → u.me.run = none → u.mayFetch u.ctx.pc.toNat = true →
     (u.lendDue = none → v = u) → (∀ l, u.lendDue = some l → u.readLend l = .ok v) →
     lineWord v.heldLines u.ctx.pc.toNat = some w → decode w = .ok i →
     (v.me.group = none → v.groupOutside 5 u.ctx.pc.toNat = none ∧
       ∃ hs t, groupWords v.heldLines 5 u.ctx.pc.toNat = .ok (hs, t) ∧ groupFault hs t (v.sid.val = 7) = none) →
     u.fetch = .run i ((v.useLine (u.ctx.pc.toNat / 64)).prefetch u.ctx.pc.toNat)) ∧
   (∀ (s : State) (i : Instr), let t := s.occupying i
     t.me.lat = occupancy i ∧ t.core.s = s.core.s ∧ t.core.v = s.core.v ∧ t.ctx = s.ctx ∧ t.mem = s.mem ∧ t.sid = s.sid ∧ t.cycle = s.cycle)) ∧
  ((∀ (s : State) (r : NextTurn), s.agenda ≠ [] → s.firstAct (s.acts.filter Todo.isRetry) = some r → s.nextTurn = r) ∧
   (∀ (s : State), s.agenda = [] → (∀ r, s.firstAct s.acts = some r → s.nextTurn = r) ∧ (s.firstAct s.acts = none → s.nextTurn = .idle s.newCycle)) ∧
   (∀ (s : State) (a : Todo) (i : Fin 8), a.kind = .retry i → let t := s.focus a.core 0
     s.act a = if t.retries i = true then some (.issue { t with sid := i }) else none) ∧
   (∀ (s : State) (t : Turn) (rest : List Turn), s.agenda = t :: rest → s.firstAct (s.acts.filter Todo.isRetry) = none →
     let b : State := { s with acts := [] }
     let x : State := { b with agenda := rest }
     let u := x.focus t.core t.slot
     (t.pass ≠ 0 → s.nextTurn = .idle ({ b with agenda := { t with pass := t.pass - 1 } :: rest } : State).newCycle) ∧
     (t.pass = 0 → t.ev = none → (s.mgmt.power ≠ .active → s.nextTurn = .idle x) ∧
       (s.mgmt.power = .active →
         let waits : Prop := (u.core.readySlot t.slot u.coreCycles = true ∧ u.hasIssued = true) ∨ (u.core.idleIssue t.slot = true ∧ u.coreCycles < u.me.ready)
         (waits → s.nextTurn = .idle b.newCycle) ∧
         (¬ waits → s.nextTurn = .issue ({ u with sid := u.chosen t.slot } : State).noteIssue))) ∧
     (∀ e, t.pass = 0 → t.ev = some e → (s.mgmt.power ≠ .active → anyPower e = false → s.nextTurn = .idle x) ∧
       (s.mgmt.power = .active ∨ anyPower e = true →
         (packetOnly e = true →
           (∀ p, (x.net.find? fun p => p.ev == e && x.deliverable p) = some p → s.nextTurn = .event (u.dropPacket p.num) e) ∧
           ((∀ p ∈ x.net, p.ev = e → x.deliverable p = false) → x.completes e = none → s.nextTurn = .idle x)) ∧
         (packetOnly e = false → (u.elementWaits e = true → s.nextTurn = .idle b.newCycle) ∧
           (u.elementWaits e = false → s.nextTurn = .event u e)))) ∧
     u.cid = t.core ∧ u.sid = t.slot ∧ u.cycle = s.cycle)) ∧
  (∀ (i : Instr) (s : State), ∃ t, exec i s = .next t) ∧
  ((∀ s : State, s.core.occupied s.sid s.coreCycles = true → s.fetch = .whole s) ∧
   (∀ s : State, (∀ x ∈ s.core.late, s.coreCycles < x.due) → s.landCore = s) ∧
   (∀ (s : State) (x : Late) (n : Fin 32) (v : DWord), s.core.late = [x] → x.due ≤ s.coreCycles → x.what = .reg n v →
     s.landCore = { s with core := { s.core with s := s.core.s.set n v, late := [] } }) ∧
   (∀ (s : State) (x y : Late) (n : Fin 32) (v w : DWord), (s.core.late = [x, y] ∨ s.core.late = [y, x]) → x.due ≤ s.coreCycles → x.due = y.due →
     x.rank < y.rank → x.what = .reg n v → y.what = .reg n w → s.landCore = { s with core := { s.core with s := s.core.s.set n w, late := [] } }) ∧
   (∀ (s : State) (x : Late) (r : Reg) (v : DWord), s.core.late = [x] → x.due ≤ s.coreCycles → x.what = .push r v →
     let t : State := { s with sid := Fin.ofNat 8 x.rank, core := { s.core with late := [] } }
     (t.room r 0 = true → s.landCore = { (t.pushQueue r v) with sid := s.sid }) ∧
     (t.room r 0 = false → isCommand r v = false → s.landCore = s)) ∧
   (∀ d a b, occupancy (.add d a b) = 1 ∧ occupancy (.mul d a b) = 3 ∧ occupancy (.div d a b) = 34 ∧
     occupancy (.fadd .s d a b) = 4 ∧ occupancy (.fdiv .d d a b) = 28 ∧ occupancy (.fdiv .s d a b) = 14 ∧ occupancy (.fdiv .b d a b) = 8))

/-- R45 to R50: what the encoder writes for a well-formed instruction, the decoder reads as that instruction. -/
def Obligations.DecodeEncode : Prop :=
  ∀ (i : Instr) (w : Word), i.wf = true → encode i = some w → decode w = .ok i

/-- The memory of State keeps its canonical form (addresses rising, no byte listed that reads as an unlisted one does) in every step from
every state that has it. -/
def Obligations.StepKeepsMemory : Prop := ∀ s t : State, s.memOk → step s = .next t → t.memOk
end

