-- ==== Sys2Proof/Laws/Memory.lean ====
section
/-! SUPPORT. Tables and memory: reading after writing, and the canonical form kept by every operation. -/

namespace Sys2Proof.Machine

/-! Reading a table. -/

theorem lookup_filter_ne {α : Type} (t : List (Nat × α)) (k j : Nat) :
    List.lookup j (t.filter fun c => c.1 != k) = if j = k then none else List.lookup j t := by
  induction t with
  | nil => simp
  | cons c t ih =>
    obtain ⟨a, v⟩ := c
    by_cases ha : a = k
    · subst ha
      by_cases hj : j = a
      · subst hj; simpa using ih
      · have : (j == a) = false := by simpa using hj
        simp [ih, hj, List.lookup_cons, this]
    · have hk : (a != k) = true := by simpa using ha
      rw [List.filter_cons_of_pos (by simpa using hk), List.lookup_cons, List.lookup_cons, ih]
      by_cases hj : j = a
      · subst hj; simp [ha]
      · have : (j == a) = false := by simpa using hj
        simp [this]

theorem lookup_ins {α : Type} (k : Nat) (v : α) (t : List (Nat × α)) (j : Nat) (h : List.lookup k t = none) :
    List.lookup j (Tbl.ins k v t) = if j = k then some v else List.lookup j t := by
  induction t with
  | nil =>
    by_cases hj : j = k
    · simp [Tbl.ins, hj]
    · have : (j == k) = false := by simpa using hj
      simp [Tbl.ins, List.lookup_cons, hj, this]
  | cons c t ih =>
    obtain ⟨a, w⟩ := c
    rw [List.lookup_cons] at h
    have ha : (k == a) = false := by
      by_contra hc
      simp at hc
      simp [hc] at h
    rw [ha] at h
    simp only [Tbl.ins]
    split
    · by_cases hj : j = k
      · simp [hj]
      · have : (j == k) = false := by simpa using hj
        simp [List.lookup_cons, hj, this]
    · rw [List.lookup_cons, List.lookup_cons, ih (by simpa using h)]
      by_cases hj : j = k
      · subst hj; simp [ha]
      · simp [hj]

/-- A table after a key is set. -/
theorem Tbl.get?_set {α : Type} (t : Tbl α) (k j : Nat) (v : α) :
    (t.set k v).get? j = if j = k then some v else t.get? j := by
  have h : List.lookup k (Tbl.erase t k) = none := by simp [Tbl.erase, lookup_filter_ne]
  simp only [Tbl.get?, Tbl.set, lookup_ins k v _ j h]
  simp only [Tbl.erase, lookup_filter_ne]
  split <;> simp_all

/-- A table after a key is erased. -/
theorem Tbl.get?_erase {α : Type} (t : Tbl α) (k j : Nat) :
    (t.erase k).get? j = if j = k then none else t.get? j := lookup_filter_ne t k j

/-! Reading memory. -/

/-- A byte of a memory with a first cell. -/
theorem memGet_cons (c : Host.Cell) (l : List Host.Cell) (a : Nat) : memGet (c :: l) a = if a = c.1 then c.2 else memGet l a := by
  unfold memGet
  rw [List.lookup_cons]
  by_cases h : a = c.1
  · simp [h]
  · have : (a == c.1) = false := by simpa using h
    simp [h, this]

/-- A byte after a byte is written. -/
theorem memGet_memSet (m : List Host.Cell) (a b : Nat) (v : Byte) :
    memGet (memSet m a v) b = if b = a then v else memGet m b := by
  unfold memSet memGet
  split
  · rename_i hv
    simp only [Tbl.erase, lookup_filter_ne]
    split <;> simp [hv]
  · have := Tbl.get?_set m a b v
    simp only [Tbl.get?] at this
    rw [this]
    split <;> simp

/-- A byte below or above the bytes written. -/
theorem memGet_memPut_out (l : List Byte) (m : List Host.Cell) (a b : Nat) (h : b < a ∨ a + l.length ≤ b) :
    memGet (memPut m a l) b = memGet m b := by
  induction l generalizing m a with
  | nil => rfl
  | cons x t ih =>
    simp only [List.length_cons] at h
    rw [memPut, ih _ _ (by omega), memGet_memSet, if_neg (by omega)]

/-- A byte among the bytes written. -/
theorem memGet_memPut_in (l : List Byte) (m : List Host.Cell) (a i : Nat) (h : i < l.length) :
    memGet (memPut m a l) (a + i) = l[i] := by
  induction l generalizing m a i with
  | nil => simp at h
  | cons x t ih =>
    cases i with
    | zero => rw [memPut, memGet_memPut_out _ _ _ _ (by omega), memGet_memSet]; simp
    | succ i =>
      have := ih (memSet m a x) (a + 1) i (by simpa using h)
      rw [memPut, show a + (i + 1) = a + 1 + i by omega, this]
      simp

/-- The bytes written are the bytes read. -/
theorem memBytes_memPut (l : List Byte) (m : List Host.Cell) (a : Nat) : memBytes (memPut m a l) a l.length = l := by
  induction l generalizing m a with
  | nil => rfl
  | cons x t ih =>
    rw [memPut, List.length_cons, memBytes, ih, memGet_memPut_out _ _ _ _ (by omega), memGet_memSet]
    simp

/-- n bytes after a write elsewhere. -/
theorem memBytes_memPut_out (n : Nat) (m : List Host.Cell) (a b : Nat) (l : List Byte) (h : b + n ≤ a ∨ a + l.length ≤ b) :
    memBytes (memPut m a l) b n = memBytes m b n := by
  induction n generalizing b with
  | zero => rfl
  | succ n ih => rw [memBytes, memBytes, ih _ (by omega), memGet_memPut_out _ _ _ _ (by omega)]

/-! The canonical form. -/

/-- The canonical form as one property: every listed byte is not zero and the addresses rise. -/
theorem memWf_iff (m : List Host.Cell) :
    memWf m = true ↔ (∀ c ∈ m, c.2 ≠ 0) ∧ m.Pairwise fun c d => c.1 < d.1 := by
  induction m with
  | nil => simp [memWf]
  | cons c t ih =>
    cases t with
    | nil => simp [memWf]
    | cons d t =>
      simp only [memWf, Bool.and_eq_true, bne_iff_ne, decide_eq_true_eq, ih, List.mem_cons, forall_eq_or_imp, List.pairwise_cons]
      constructor
      · rintro ⟨⟨h1, h2⟩, ⟨h3, h4⟩, h5, h6⟩
        exact ⟨⟨h1, h3, h4⟩, ⟨h2, fun e he => Nat.lt_trans h2 (h5 e he)⟩, h5, h6⟩
      · rintro ⟨⟨h1, h3, h4⟩, ⟨h2, _⟩, h5, h6⟩
        exact ⟨⟨h1, h2⟩, ⟨h3, h4⟩, h5, h6⟩

/-- Listed bytes that stay listed keep the canonical form. -/
theorem memWf_filter (m : List Host.Cell) (p : Host.Cell → Bool) (h : memWf m = true) : memWf (m.filter p) = true := by
  rw [memWf_iff] at h ⊢
  exact ⟨fun c hc => h.1 c (List.mem_of_mem_filter hc), h.2.filter _⟩

theorem mem_ins {α : Type} (k : Nat) (v : α) (t : List (Nat × α)) (c : Nat × α) : c ∈ Tbl.ins k v t ↔ c = (k, v) ∨ c ∈ t := by
  induction t with
  | nil => simp [Tbl.ins]
  | cons d t ih =>
    simp only [Tbl.ins]
    split
    · simp
    · simp only [List.mem_cons, ih]
      constructor
      · rintro (h | h | h) <;> simp [h]
      · rintro (h | h | h) <;> simp [h]

theorem pairwise_ins {α : Type} (k : Nat) (v : α) (t : List (Nat × α)) (h : t.Pairwise fun c d => c.1 < d.1) (hk : ∀ c ∈ t, c.1 ≠ k) :
    (Tbl.ins k v t).Pairwise fun c d => c.1 < d.1 := by
  induction t with
  | nil => simp [Tbl.ins]
  | cons c t ih =>
    rw [List.pairwise_cons] at h
    simp only [Tbl.ins]
    split
    · rename_i hc
      rw [List.pairwise_cons, List.pairwise_cons]
      refine ⟨?_, h⟩
      intro d hd
      rcases List.mem_cons.1 hd with rfl | hd
      · exact hc
      · exact Nat.lt_trans hc (h.1 d hd)
    · rename_i hc
      rw [List.pairwise_cons]
      refine ⟨?_, ih h.2 fun d hd => hk d (List.mem_cons_of_mem _ hd)⟩
      intro d hd
      rcases (mem_ins k v t d).1 hd with rfl | hd
      · have := hk c (List.mem_cons_self ..)
        show c.1 < k
        omega
      · exact h.1 d hd

/-- Writing a byte keeps the canonical form. -/
theorem memWf_memSet (m : List Host.Cell) (a : Nat) (v : Byte) (h : memWf m = true) : memWf (memSet m a v) = true := by
  unfold memSet
  split
  · exact memWf_filter m _ h
  · rename_i hv
    have he : memWf (Tbl.erase m a) = true := memWf_filter m _ h
    rw [memWf_iff] at he ⊢
    refine ⟨?_, pairwise_ins a v _ he.2 ?_⟩
    · intro c hc
      rcases (mem_ins a v _ c).1 hc with rfl | hc
      · exact hv
      · exact he.1 c hc
    · intro c hc
      have := (List.mem_filter.1 hc).2
      simpa using this

/-- Writing bytes keeps the canonical form. -/
theorem memWf_memPut (l : List Byte) (m : List Host.Cell) (a : Nat) (h : memWf m = true) : memWf (memPut m a l) = true := by
  induction l generalizing m a with
  | nil => exact h
  | cons x t ih => exact ih _ _ (memWf_memSet m a x h)

/-- Below the first listed address nothing is listed. -/
theorem memGet_below (l : List Host.Cell) (a : Nat) (h : ∀ d ∈ l, a < d.1) : memGet l a = 0 := by
  induction l with
  | nil => rfl
  | cons d l ih =>
    have := h d (List.mem_cons_self ..)
    rw [memGet_cons, if_neg (by omega), ih fun e he => h e (List.mem_cons_of_mem _ he)]

/-- Two memories in the canonical form that read alike at every address are equal. -/
theorem memWf_ext (m n : List Host.Cell) (hm : memWf m = true) (hn : memWf n = true) (h : ∀ a, memGet m a = memGet n a) : m = n := by
  induction m generalizing n with
  | nil =>
    cases n with
    | nil => rfl
    | cons c t =>
      have h1 := h c.1
      rw [memGet_cons, if_pos rfl] at h1
      exact absurd h1.symm (((memWf_iff _).1 hn).1 c (List.mem_cons_self ..))
  | cons c t ih =>
    have hc := (memWf_iff _).1 hm
    cases n with
    | nil =>
      have h1 := h c.1
      rw [memGet_cons, if_pos rfl] at h1
      exact absurd h1 (hc.1 c (List.mem_cons_self ..))
    | cons d u =>
      have hd := (memWf_iff _).1 hn
      have pc := (List.pairwise_cons.1 hc.2).1
      have pd := (List.pairwise_cons.1 hd.2).1
      have below : ∀ {e f : Host.Cell} {l : List Host.Cell}, e.1 < f.1 → (∀ x ∈ l, f.1 < x.1) → memGet (f :: l) e.1 = 0 := by
        intro e f l hlt hl
        refine memGet_below _ _ fun x hx => ?_
        rcases List.mem_cons.1 hx with rfl | hx
        · exact hlt
        · exact Nat.lt_trans hlt (hl x hx)
      have heq : c.1 = d.1 := by
        rcases Nat.lt_trichotomy c.1 d.1 with hlt | heq | hgt
        · have h1 := h c.1
          rw [memGet_cons, if_pos rfl, below hlt pd] at h1
          exact absurd h1 (hc.1 c (List.mem_cons_self ..))
        · exact heq
        · have h1 := h d.1
          rw [memGet_cons d, if_pos rfl, below hgt pc] at h1
          exact absurd h1.symm (hd.1 d (List.mem_cons_self ..))
      have hval : c.2 = d.2 := by
        have h1 := h c.1
        rwa [memGet_cons, if_pos rfl, memGet_cons, if_pos heq] at h1
      have hcd : c = d := Prod.ext heq hval
      subst hcd
      rw [ih u ((memWf_iff _).2 ⟨fun e he => hc.1 e (List.mem_cons_of_mem _ he), (List.pairwise_cons.1 hc.2).2⟩)
        ((memWf_iff _).2 ⟨fun e he => hd.1 e (List.mem_cons_of_mem _ he), (List.pairwise_cons.1 hd.2).2⟩) fun a => ?_]
      by_cases ha : a = c.1
      · subst ha
        rw [memGet_below t c.1 pc, memGet_below u c.1 pd]
      · have h1 := h a
        rwa [memGet_cons, if_neg ha, memGet_cons, if_neg ha] at h1

/-! Little-endian numbers. -/

theorem leBytes_length (n v : Nat) : (leBytes v n).length = n := by
  induction n generalizing v with
  | zero => rfl
  | succ n ih => simp [leBytes, ih]

theorem memBytes_length (m : List Host.Cell) (a n : Nat) : (memBytes m a n).length = n := by
  induction n generalizing a with
  | zero => rfl
  | succ n ih => simp [memBytes, ih]

/-- The n low bytes of a number are its value modulo 256^n. -/
theorem leNat_leBytes (n v : Nat) : leNat (leBytes v n) = v % 256 ^ n := by
  induction n generalizing v with
  | zero => simp [leBytes, leNat, Nat.mod_one]
  | succ n ih =>
    have h1 : (BitVec.ofNat 8 v).toNat = v % 256 := rfl
    rw [leBytes, leNat, ih, h1, Nat.pow_succ, Nat.mul_comm _ 256, Nat.mod_mul]

end Sys2Proof.Machine
end

