-- ==== Sys2Proof/Laws/State.lean ====
section
/-! SUPPORT. What each update of the slot in turn leaves: one lemma per field and update. -/

namespace Sys2Proof.Machine

/-! setMe -/

@[simp] theorem State.setMe_cid (s : State) (m : Slot) : (s.setMe m).cid = s.cid := rfl
@[simp] theorem State.setMe_others (s : State) (m : Slot) : (s.setMe m).others = s.others := rfl
@[simp] theorem State.setMe_sid (s : State) (m : Slot) : (s.setMe m).sid = s.sid := rfl
@[simp] theorem State.setMe_mem (s : State) (m : Slot) : (s.setMe m).mem = s.mem := rfl
@[simp] theorem State.setMe_cycle (s : State) (m : Slot) : (s.setMe m).cycle = s.cycle := rfl
@[simp] theorem State.setMe_postmark (s : State) (m : Slot) : (s.setMe m).postmark = s.postmark := rfl
@[simp] theorem State.setMe_clockAt (s : State) (m : Slot) : (s.setMe m).clockAt = s.clockAt := rfl
@[simp] theorem State.setMe_hbm (s : State) (m : Slot) : (s.setMe m).hbm = s.hbm := rfl
@[simp] theorem State.setMe_dies (s : State) (m : Slot) : (s.setMe m).dies = s.dies := rfl
@[simp] theorem State.setMe_jobs (s : State) (m : Slot) : (s.setMe m).jobs = s.jobs := rfl
@[simp] theorem State.setMe_net (s : State) (m : Slot) : (s.setMe m).net = s.net := rfl
@[simp] theorem State.setMe_nextId (s : State) (m : Slot) : (s.setMe m).nextId = s.nextId := rfl
@[simp] theorem State.setMe_agents (s : State) (m : Slot) : (s.setMe m).agents = s.agents := rfl
@[simp] theorem State.setMe_routines (s : State) (m : Slot) : (s.setMe m).routines = s.routines := rfl
@[simp] theorem State.setMe_migrations (s : State) (m : Slot) : (s.setMe m).migrations = s.migrations := rfl
@[simp] theorem State.setMe_office (s : State) (m : Slot) : (s.setMe m).office = s.office := rfl
@[simp] theorem State.setMe_host (s : State) (m : Slot) : (s.setMe m).host = s.host := rfl
@[simp] theorem State.setMe_mgmt (s : State) (m : Slot) : (s.setMe m).mgmt = s.mgmt := rfl
@[simp] theorem State.setMe_outside (s : State) (m : Slot) : (s.setMe m).outside = s.outside := rfl
@[simp] theorem State.setMe_agenda (s : State) (m : Slot) : (s.setMe m).agenda = s.agenda := rfl
@[simp] theorem State.setMe_acts (s : State) (m : Slot) : (s.setMe m).acts = s.acts := rfl
@[simp] theorem State.setMe_free (s : State) (m : Slot) : (s.setMe m).free = s.free := rfl
/-! setFib -/

@[simp] theorem State.setFib_cid (s : State) (f : Fibre) : (s.setFib f).cid = s.cid := rfl
@[simp] theorem State.setFib_others (s : State) (f : Fibre) : (s.setFib f).others = s.others := rfl
@[simp] theorem State.setFib_sid (s : State) (f : Fibre) : (s.setFib f).sid = s.sid := rfl
@[simp] theorem State.setFib_mem (s : State) (f : Fibre) : (s.setFib f).mem = s.mem := rfl
@[simp] theorem State.setFib_cycle (s : State) (f : Fibre) : (s.setFib f).cycle = s.cycle := rfl
@[simp] theorem State.setFib_postmark (s : State) (f : Fibre) : (s.setFib f).postmark = s.postmark := rfl
@[simp] theorem State.setFib_clockAt (s : State) (f : Fibre) : (s.setFib f).clockAt = s.clockAt := rfl
@[simp] theorem State.setFib_hbm (s : State) (f : Fibre) : (s.setFib f).hbm = s.hbm := rfl
@[simp] theorem State.setFib_dies (s : State) (f : Fibre) : (s.setFib f).dies = s.dies := rfl
@[simp] theorem State.setFib_jobs (s : State) (f : Fibre) : (s.setFib f).jobs = s.jobs := rfl
@[simp] theorem State.setFib_net (s : State) (f : Fibre) : (s.setFib f).net = s.net := rfl
@[simp] theorem State.setFib_nextId (s : State) (f : Fibre) : (s.setFib f).nextId = s.nextId := rfl
@[simp] theorem State.setFib_agents (s : State) (f : Fibre) : (s.setFib f).agents = s.agents := rfl
@[simp] theorem State.setFib_routines (s : State) (f : Fibre) : (s.setFib f).routines = s.routines := rfl
@[simp] theorem State.setFib_migrations (s : State) (f : Fibre) : (s.setFib f).migrations = s.migrations := rfl
@[simp] theorem State.setFib_office (s : State) (f : Fibre) : (s.setFib f).office = s.office := rfl
@[simp] theorem State.setFib_host (s : State) (f : Fibre) : (s.setFib f).host = s.host := rfl
@[simp] theorem State.setFib_mgmt (s : State) (f : Fibre) : (s.setFib f).mgmt = s.mgmt := rfl
@[simp] theorem State.setFib_outside (s : State) (f : Fibre) : (s.setFib f).outside = s.outside := rfl
@[simp] theorem State.setFib_agenda (s : State) (f : Fibre) : (s.setFib f).agenda = s.agenda := rfl
@[simp] theorem State.setFib_acts (s : State) (f : Fibre) : (s.setFib f).acts = s.acts := rfl
@[simp] theorem State.setFib_free (s : State) (f : Fibre) : (s.setFib f).free = s.free := rfl
/-! setCtx -/

@[simp] theorem State.setCtx_cid (s : State) (c : Ctx) : (s.setCtx c).cid = s.cid := rfl
@[simp] theorem State.setCtx_others (s : State) (c : Ctx) : (s.setCtx c).others = s.others := rfl
@[simp] theorem State.setCtx_sid (s : State) (c : Ctx) : (s.setCtx c).sid = s.sid := rfl
@[simp] theorem State.setCtx_mem (s : State) (c : Ctx) : (s.setCtx c).mem = s.mem := rfl
@[simp] theorem State.setCtx_cycle (s : State) (c : Ctx) : (s.setCtx c).cycle = s.cycle := rfl
@[simp] theorem State.setCtx_postmark (s : State) (c : Ctx) : (s.setCtx c).postmark = s.postmark := rfl
@[simp] theorem State.setCtx_clockAt (s : State) (c : Ctx) : (s.setCtx c).clockAt = s.clockAt := rfl
@[simp] theorem State.setCtx_hbm (s : State) (c : Ctx) : (s.setCtx c).hbm = s.hbm := rfl
@[simp] theorem State.setCtx_dies (s : State) (c : Ctx) : (s.setCtx c).dies = s.dies := rfl
@[simp] theorem State.setCtx_jobs (s : State) (c : Ctx) : (s.setCtx c).jobs = s.jobs := rfl
@[simp] theorem State.setCtx_net (s : State) (c : Ctx) : (s.setCtx c).net = s.net := rfl
@[simp] theorem State.setCtx_nextId (s : State) (c : Ctx) : (s.setCtx c).nextId = s.nextId := rfl
@[simp] theorem State.setCtx_agents (s : State) (c : Ctx) : (s.setCtx c).agents = s.agents := rfl
@[simp] theorem State.setCtx_routines (s : State) (c : Ctx) : (s.setCtx c).routines = s.routines := rfl
@[simp] theorem State.setCtx_migrations (s : State) (c : Ctx) : (s.setCtx c).migrations = s.migrations := rfl
@[simp] theorem State.setCtx_office (s : State) (c : Ctx) : (s.setCtx c).office = s.office := rfl
@[simp] theorem State.setCtx_host (s : State) (c : Ctx) : (s.setCtx c).host = s.host := rfl
@[simp] theorem State.setCtx_mgmt (s : State) (c : Ctx) : (s.setCtx c).mgmt = s.mgmt := rfl
@[simp] theorem State.setCtx_outside (s : State) (c : Ctx) : (s.setCtx c).outside = s.outside := rfl
@[simp] theorem State.setCtx_agenda (s : State) (c : Ctx) : (s.setCtx c).agenda = s.agenda := rfl
@[simp] theorem State.setCtx_acts (s : State) (c : Ctx) : (s.setCtx c).acts = s.acts := rfl
@[simp] theorem State.setCtx_free (s : State) (c : Ctx) : (s.setCtx c).free = s.free := rfl
/-! setPc -/

@[simp] theorem State.setPc_cid (s : State) (a : Addr) : (s.setPc a).cid = s.cid := rfl
@[simp] theorem State.setPc_others (s : State) (a : Addr) : (s.setPc a).others = s.others := rfl
@[simp] theorem State.setPc_sid (s : State) (a : Addr) : (s.setPc a).sid = s.sid := rfl
@[simp] theorem State.setPc_mem (s : State) (a : Addr) : (s.setPc a).mem = s.mem := rfl
@[simp] theorem State.setPc_cycle (s : State) (a : Addr) : (s.setPc a).cycle = s.cycle := rfl
@[simp] theorem State.setPc_postmark (s : State) (a : Addr) : (s.setPc a).postmark = s.postmark := rfl
@[simp] theorem State.setPc_clockAt (s : State) (a : Addr) : (s.setPc a).clockAt = s.clockAt := rfl
@[simp] theorem State.setPc_hbm (s : State) (a : Addr) : (s.setPc a).hbm = s.hbm := rfl
@[simp] theorem State.setPc_dies (s : State) (a : Addr) : (s.setPc a).dies = s.dies := rfl
@[simp] theorem State.setPc_jobs (s : State) (a : Addr) : (s.setPc a).jobs = s.jobs := rfl
@[simp] theorem State.setPc_net (s : State) (a : Addr) : (s.setPc a).net = s.net := rfl
@[simp] theorem State.setPc_nextId (s : State) (a : Addr) : (s.setPc a).nextId = s.nextId := rfl
@[simp] theorem State.setPc_agents (s : State) (a : Addr) : (s.setPc a).agents = s.agents := rfl
@[simp] theorem State.setPc_routines (s : State) (a : Addr) : (s.setPc a).routines = s.routines := rfl
@[simp] theorem State.setPc_migrations (s : State) (a : Addr) : (s.setPc a).migrations = s.migrations := rfl
@[simp] theorem State.setPc_office (s : State) (a : Addr) : (s.setPc a).office = s.office := rfl
@[simp] theorem State.setPc_host (s : State) (a : Addr) : (s.setPc a).host = s.host := rfl
@[simp] theorem State.setPc_mgmt (s : State) (a : Addr) : (s.setPc a).mgmt = s.mgmt := rfl
@[simp] theorem State.setPc_outside (s : State) (a : Addr) : (s.setPc a).outside = s.outside := rfl
@[simp] theorem State.setPc_agenda (s : State) (a : Addr) : (s.setPc a).agenda = s.agenda := rfl
@[simp] theorem State.setPc_acts (s : State) (a : Addr) : (s.setPc a).acts = s.acts := rfl
@[simp] theorem State.setPc_free (s : State) (a : Addr) : (s.setPc a).free = s.free := rfl
/-! setLast -/

@[simp] theorem State.setLast_cid (s : State) (v : DWord) : (s.setLast v).cid = s.cid := rfl
@[simp] theorem State.setLast_others (s : State) (v : DWord) : (s.setLast v).others = s.others := rfl
@[simp] theorem State.setLast_sid (s : State) (v : DWord) : (s.setLast v).sid = s.sid := rfl
@[simp] theorem State.setLast_mem (s : State) (v : DWord) : (s.setLast v).mem = s.mem := rfl
@[simp] theorem State.setLast_cycle (s : State) (v : DWord) : (s.setLast v).cycle = s.cycle := rfl
@[simp] theorem State.setLast_postmark (s : State) (v : DWord) : (s.setLast v).postmark = s.postmark := rfl
@[simp] theorem State.setLast_clockAt (s : State) (v : DWord) : (s.setLast v).clockAt = s.clockAt := rfl
@[simp] theorem State.setLast_hbm (s : State) (v : DWord) : (s.setLast v).hbm = s.hbm := rfl
@[simp] theorem State.setLast_dies (s : State) (v : DWord) : (s.setLast v).dies = s.dies := rfl
@[simp] theorem State.setLast_jobs (s : State) (v : DWord) : (s.setLast v).jobs = s.jobs := rfl
@[simp] theorem State.setLast_net (s : State) (v : DWord) : (s.setLast v).net = s.net := rfl
@[simp] theorem State.setLast_nextId (s : State) (v : DWord) : (s.setLast v).nextId = s.nextId := rfl
@[simp] theorem State.setLast_agents (s : State) (v : DWord) : (s.setLast v).agents = s.agents := rfl
@[simp] theorem State.setLast_routines (s : State) (v : DWord) : (s.setLast v).routines = s.routines := rfl
@[simp] theorem State.setLast_migrations (s : State) (v : DWord) : (s.setLast v).migrations = s.migrations := rfl
@[simp] theorem State.setLast_office (s : State) (v : DWord) : (s.setLast v).office = s.office := rfl
@[simp] theorem State.setLast_host (s : State) (v : DWord) : (s.setLast v).host = s.host := rfl
@[simp] theorem State.setLast_mgmt (s : State) (v : DWord) : (s.setLast v).mgmt = s.mgmt := rfl
@[simp] theorem State.setLast_outside (s : State) (v : DWord) : (s.setLast v).outside = s.outside := rfl
@[simp] theorem State.setLast_agenda (s : State) (v : DWord) : (s.setLast v).agenda = s.agenda := rfl
@[simp] theorem State.setLast_acts (s : State) (v : DWord) : (s.setLast v).acts = s.acts := rfl
@[simp] theorem State.setLast_free (s : State) (v : DWord) : (s.setLast v).free = s.free := rfl

@[simp] theorem State.setMe_core (s : State) (m : Slot) :
    (s.setMe m).core = { s.core with slots := s.core.slots.set s.sid m } := rfl
@[simp] theorem State.setFib_core (s : State) (f : Fibre) :
    (s.setFib f).core = { s.core with slots := s.core.slots.set s.sid { s.me with fib := f } } := rfl
@[simp] theorem State.setCtx_core (s : State) (c : Ctx) :
    (s.setCtx c).core = { s.core with slots := s.core.slots.set s.sid { s.me with fib := { s.fib with ctx := c } } } := rfl
@[simp] theorem State.setPc_core (s : State) (a : Addr) :
    (s.setPc a).core = { s.core with slots := s.core.slots.set s.sid { s.me with fib := { s.fib with ctx := { s.ctx with pc := a } } } } := rfl
@[simp] theorem State.setLast_core (s : State) (v : DWord) :
    (s.setLast v).core = { s.core with slots := s.core.slots.set s.sid { s.me with l1 := s.me.l0, l0 := v } } := rfl
@[simp] theorem State.setCore_core (s : State) (c : Core) : (s.setCore c).core = c := rfl
@[simp] theorem State.setCore_mem (s : State) (c : Core) : (s.setCore c).mem = s.mem := rfl

/-- The slot in turn after it is set. -/
@[simp] theorem State.setMe_me (s : State) (m : Slot) : (s.setMe m).me = m := by simp [State.me, State.setMe]

@[simp] theorem State.setFib_me (s : State) (f : Fibre) : (s.setFib f).me = { s.me with fib := f } := State.setMe_me _ _
@[simp] theorem State.setFib_fib (s : State) (f : Fibre) : (s.setFib f).fib = f := by simp [State.fib]
@[simp] theorem State.setFib_ctx (s : State) (f : Fibre) : (s.setFib f).ctx = f.ctx := by simp [State.ctx]
@[simp] theorem State.setMe_fib (s : State) (m : Slot) : (s.setMe m).fib = m.fib := by simp [State.fib]
@[simp] theorem State.setMe_ctx (s : State) (m : Slot) : (s.setMe m).ctx = m.fib.ctx := by simp [State.ctx]
@[simp] theorem State.setCtx_me (s : State) (c : Ctx) : (s.setCtx c).me = { s.me with fib := { s.fib with ctx := c } } := State.setMe_me _ _
@[simp] theorem State.setCtx_ctx (s : State) (c : Ctx) : (s.setCtx c).ctx = c := by simp [State.ctx]
@[simp] theorem State.setCtx_fib (s : State) (c : Ctx) : (s.setCtx c).fib = { s.fib with ctx := c } := by simp [State.fib]
@[simp] theorem State.setPc_me (s : State) (a : Addr) : (s.setPc a).me = { s.me with fib := { s.fib with ctx := { s.ctx with pc := a } } } :=
  State.setMe_me _ _
@[simp] theorem State.setPc_ctx (s : State) (a : Addr) : (s.setPc a).ctx = { s.ctx with pc := a } := by simp [State.ctx]
@[simp] theorem State.setLast_me (s : State) (v : DWord) : (s.setLast v).me = { s.me with l1 := s.me.l0, l0 := v } := State.setMe_me _ _
@[simp] theorem State.setLast_ctx (s : State) (v : DWord) : (s.setLast v).ctx = s.ctx := by simp [State.ctx]
@[simp] theorem State.setLast_fib (s : State) (v : DWord) : (s.setLast v).fib = s.fib := by simp [State.fib]

/-- The fibre and the context of a slot. -/
theorem State.fib_def (s : State) : s.fib = s.me.fib := rfl
theorem State.ctx_def (s : State) : s.ctx = s.me.fib.ctx := rfl
theorem State.me_def (s : State) : s.me = s.core.slots[s.sid] := rfl

/-- Two updates of the slot in turn: the last one stands. -/
@[simp] theorem State.setMe_setMe (s : State) (m n : Slot) : (s.setMe m).setMe n = s.setMe n := by simp [State.setMe]

/-- Another slot than the one in turn is as before. -/
theorem State.setMe_other (s : State) (m : Slot) (k : Fin 8) (h : k ≠ s.sid) : (s.setMe m).core.slots[k] = s.core.slots[k] := by
  have : (s.sid : Nat) ≠ k := fun e => h (Fin.ext e.symm)
  simp [Vector.getElem_set, this]

/-! What a read of memory by the machine depends on. -/

theorem State.walk_congr {s t : State} (hm : t.mem = s.mem) (va : Nat) : t.walk va = s.walk va := by
  simp only [State.walk, hm]

theorem State.cached_congr {s t : State} (hh : t.hbm = s.hbm) (k va : Nat) : t.cached k va = s.cached k va := by
  simp only [State.cached, State.stack, hh]

theorem State.pageOf_congr {s t : State} (hm : t.mem = s.mem) (hh : t.hbm = s.hbm) (va : Nat) : t.pageOf va = s.pageOf va := by
  simp only [State.pageOf, State.walk_congr hm, State.cached_congr hh]

theorem State.pieceRead_congr {s t : State} (hm : t.mem = s.mem) (hh : t.hbm = s.hbm) (p : Page) (pa n : Nat) :
    t.pieceRead p pa n = s.pieceRead p pa n := by
  simp [State.pieceRead, State.stack, hm, hh]

theorem State.vBytesAux_congr {s t : State} (hm : t.mem = s.mem) (hh : t.hbm = s.hbm) (f va n : Nat) :
    t.vBytesAux f va n = s.vBytesAux f va n := by
  induction f generalizing va n with
  | zero => rfl
  | succ f ih => simp only [State.vBytesAux, ih, State.pageOf_congr hm hh, State.pieceRead_congr hm hh]

theorem State.vBytes_congr {s t : State} (hm : t.mem = s.mem) (hh : t.hbm = s.hbm) (va n : Nat) : t.vBytes va n = s.vBytes va n :=
  State.vBytesAux_congr hm hh _ _ _

theorem State.mayFetch_congr {s t : State} (hi : t.sid = s.sid) (hj : t.job? = s.job?) (a : Nat) : t.mayFetch a = s.mayFetch a := by
  simp only [State.mayFetch, hi, hj]

/-- What LEND is read from: memory, the translations, the fetch buffer, what the slot holds, the job. -/
structure State.SameCode (s t : State) : Prop where
  mem : t.mem = s.mem
  hbm : t.hbm = s.hbm
  lines : t.core.lines = s.core.lines
  line : t.me.line = s.me.line
  lend : t.me.lend = s.me.lend
  sid : t.sid = s.sid
  job : t.job? = s.job?

theorem State.codeWord_congr {s t : State} (h : s.SameCode t) : t.codeWord = s.codeWord := by
  funext a
  simp only [State.codeWord, State.heldLines, h.lines, h.line, State.vBytes_congr h.mem h.hbm]

theorem State.loopEnd_congr {s t : State} (h : s.SameCode t) (a : Nat) : t.loopEnd a = s.loopEnd a := by
  have hg : t.groupWord t.codeWord = s.groupWord s.codeWord := by
    funext x
    simp only [State.groupWord, State.codeWord_congr h, State.mayFetch_congr h.sid h.job]
  simp only [State.loopEnd, h.lend, hg, State.mayFetch_congr h.sid h.job]

/-- The loop step depends on what LEND is read from only. -/
theorem State.stepCtx_congr {s t : State} (h : s.SameCode t) (c : Ctx) (a : Addr) : t.stepCtx c a = s.stepCtx c a := by
  simp only [State.stepCtx, State.loopEnd_congr h]

/-- The loop step changes p7 and the PC and nothing else of the context. -/
theorem State.stepCtx_frame (s : State) (c : Ctx) (a : Addr) :
    (∀ k : Fin 8, k ≠ 7 → (s.stepCtx c a).p[k] = c.p[k]) ∧ (s.stepCtx c a).pg = c.pg ∧ (s.stepCtx c a).id = c.id ∧
      (s.stepCtx c a).dl = c.dl ∧ (s.stepCtx c a).status = c.status := by
  unfold State.stepCtx
  simp only []
  split
  · split
    all_goals
      refine ⟨fun k hk => ?_, rfl, rfl, rfl, rfl⟩
      have : (7 : Nat) ≠ k := by omega
      simp [this]
  · exact ⟨fun k _ => rfl, rfl, rfl, rfl, rfl⟩

/-- A liveness point leaves the context. -/
@[simp] theorem Fibre.reach_ctx (f : Fibre) (l : Option LivePoint) (n : Nat) : (f.reach l n).ctx = f.ctx := by
  cases l <;> rfl
@[simp] theorem Fibre.reach_job (f : Fibre) (l : Option LivePoint) (n : Nat) : (f.reach l n).job = f.job := by
  cases l <;> rfl

/-- Completion in sequence, as one update of the slot in turn. -/
theorem State.advance_eq (s : State) :
    s.advance = s.setMe { s.me with fib := { s.fib.reach s.me.hints.live s.coreCycles with ctx := s.stepCtx s.ctx s.ctx.pc },
                                    hints := Hints.reset, group := none, run := none, stall := none, spin := none, lat := 1,
                                    ready := s.coreCycles + s.me.lat } := by
  have hc : s.complete.ctx = s.ctx := by simp [State.complete, State.ctx_def]
  have hs : s.complete.stepCtx s.ctx s.ctx.pc = s.stepCtx s.ctx s.ctx.pc := by
    apply State.stepCtx_congr
    constructor <;> simp [State.complete, State.job?, State.fib_def]
  simp only [State.advance, hc, hs]
  simp only [State.setCtx, State.setFib, State.complete, State.setMe_setMe, State.setMe_me, State.setMe_fib]
  rfl

/-- Completion with a transfer, as one update of the slot in turn. -/
theorem State.jumpTo_eq (s : State) (a : Addr) :
    s.jumpTo a = s.setMe { s.me with fib := { s.fib.reach s.me.hints.live s.coreCycles with ctx := { s.ctx with pc := a } },
                                     hints := Hints.reset, group := none, run := none, stall := none, spin := none, lat := 1,
                                     ready := s.coreCycles + s.me.lat } := by
  have hc : s.complete.ctx = s.ctx := by simp [State.complete, State.ctx_def]
  simp only [State.jumpTo, State.setPc, hc]
  simp only [State.setCtx, State.setFib, State.complete, State.setMe_setMe, State.setMe_me, State.setMe_fib]
  rfl

@[simp] theorem State.advance_ctx (s : State) : s.advance.ctx = s.stepCtx s.ctx s.ctx.pc := by simp [State.advance_eq]
@[simp] theorem State.advance_mem (s : State) : s.advance.mem = s.mem := by simp [State.advance_eq]
@[simp] theorem State.jumpTo_ctx (s : State) (a : Addr) : (s.jumpTo a).ctx = { s.ctx with pc := a } := by simp [State.jumpTo_eq]
@[simp] theorem State.jumpTo_mem (s : State) (a : Addr) : (s.jumpTo a).mem = s.mem := by simp [State.jumpTo_eq]

end Sys2Proof.Machine
end

