-- ==== Sys2Proof/Laws/Occupancy.lean ====
section
/-! SUPPORT. What the writing of results under way changes (04 R117): the registers and queues of the cores and what a pushed word
reaches, and nothing else of the state. -/

namespace Sys2Proof.Machine

/-- What every step of a fold keeps, the fold keeps. -/
theorem foldl_keeps {α β γ : Type} (g : β → γ) (f : β → α → β) (h : ∀ b a, g (f b a) = g b) (l : List α) (b : β) :
    g (l.foldl f b) = g b := by
  induction l generalizing b with
  | nil => rfl
  | cons a l ih => rw [List.foldl_cons, ih, h]

/-! Putting a core and slot in turn. -/

@[simp] theorem State.focus_cid (s : State) (c : Nat) (i : Fin 8) : (s.focus c i).cid = c := by
  unfold State.focus; split <;> simp_all
@[simp] theorem State.focus_sid (s : State) (c : Nat) (i : Fin 8) : (s.focus c i).sid = i := by
  unfold State.focus; split <;> rfl
@[simp] theorem State.focus_mem (s : State) (c : Nat) (i : Fin 8) : (s.focus c i).mem = s.mem := by
  unfold State.focus; split <;> rfl
@[simp] theorem State.focus_cycle (s : State) (c : Nat) (i : Fin 8) : (s.focus c i).cycle = s.cycle := by
  unfold State.focus; split <;> rfl
@[simp] theorem State.focus_agenda (s : State) (c : Nat) (i : Fin 8) : (s.focus c i).agenda = s.agenda := by
  unfold State.focus; split <;> rfl
@[simp] theorem State.focus_jobs (s : State) (c : Nat) (i : Fin 8) : (s.focus c i).jobs = s.jobs := by
  unfold State.focus; split <;> rfl
@[simp] theorem State.focus_net (s : State) (c : Nat) (i : Fin 8) : (s.focus c i).net = s.net := by
  unfold State.focus; split <;> rfl
@[simp] theorem State.focus_hbm (s : State) (c : Nat) (i : Fin 8) : (s.focus c i).hbm = s.hbm := by
  unfold State.focus; split <;> rfl

/-! A word that enters a queue. -/

/-- A change of one core leaves what is no core. -/
theorem State.modCore_mem (s : State) (c : Nat) (f : Core → Core) : (s.modCore c f).mem = s.mem := by
  unfold State.modCore; split <;> rfl
theorem State.modCore_cid (s : State) (c : Nat) (f : Core → Core) : (s.modCore c f).cid = s.cid := by
  unfold State.modCore; split <;> rfl
theorem State.modCore_cycle (s : State) (c : Nat) (f : Core → Core) : (s.modCore c f).cycle = s.cycle := by
  unfold State.modCore; split <;> rfl
theorem State.modCore_agenda (s : State) (c : Nat) (f : Core → Core) : (s.modCore c f).agenda = s.agenda := by
  unfold State.modCore; split <;> rfl

theorem State.pushHost_keeps {γ : Type} (g : State → γ) (s : State) (w : DWord)
    (h : ∀ (t : State) (x : HostDie) (y : Mgmt) (z : List Outside), g { t with host := x, mgmt := y, outside := z } = g t) :
    g (s.pushHost w) = g s := by
  have hx (t : State) (x : HostDie) : g { t with host := x } = g t := h t x t.mgmt t.outside
  have hy (t : State) (y : Mgmt) : g { t with mgmt := y } = g t := h t t.host y t.outside
  unfold State.pushHost
  split
  · exact hy _ _
  · unfold State.outPush
    dsimp only
    split
    · exact (h _ _ _ _).trans (hx _ _)
    · exact hx _ _

@[simp] theorem State.pushQueue_mem (s : State) (d : Reg) (v : DWord) : (s.pushQueue d v).mem = s.mem := by
  unfold State.pushQueue
  split <;> first
    | rfl
    | exact foldl_keeps State.mem _ (fun t c => State.modCore_mem t c _) _ s
    | exact State.pushHost_keeps State.mem s v fun _ _ _ _ => rfl
@[simp] theorem State.pushQueue_cid (s : State) (d : Reg) (v : DWord) : (s.pushQueue d v).cid = s.cid := by
  unfold State.pushQueue
  split <;> first
    | rfl
    | exact foldl_keeps State.cid _ (fun t c => State.modCore_cid t c _) _ s
    | exact State.pushHost_keeps State.cid s v fun _ _ _ _ => rfl
@[simp] theorem State.pushQueue_cycle (s : State) (d : Reg) (v : DWord) : (s.pushQueue d v).cycle = s.cycle := by
  unfold State.pushQueue
  split <;> first
    | rfl
    | exact foldl_keeps State.cycle _ (fun t c => State.modCore_cycle t c _) _ s
    | exact State.pushHost_keeps State.cycle s v fun _ _ _ _ => rfl
@[simp] theorem State.pushQueue_agenda (s : State) (d : Reg) (v : DWord) : (s.pushQueue d v).agenda = s.agenda := by
  unfold State.pushQueue
  split <;> first
    | rfl
    | exact foldl_keeps State.agenda _ (fun t c => State.modCore_agenda t c _) _ s
    | exact State.pushHost_keeps State.agenda s v fun _ _ _ _ => rfl

/-! Landing. -/

@[simp] theorem State.landOne_mem (s : State) (x : Late) : (s.landOne x).mem = s.mem := by
  unfold State.landOne
  split
  · rfl
  · rfl
  · dsimp only; split <;> simp
@[simp] theorem State.landOne_cid (s : State) (x : Late) : (s.landOne x).cid = s.cid := by
  unfold State.landOne
  split
  · rfl
  · rfl
  · dsimp only; split <;> simp
@[simp] theorem State.landOne_sid (s : State) (x : Late) : (s.landOne x).sid = s.sid := by
  unfold State.landOne
  split
  · rfl
  · rfl
  · dsimp only; split <;> rfl
@[simp] theorem State.landOne_cycle (s : State) (x : Late) : (s.landOne x).cycle = s.cycle := by
  unfold State.landOne
  split
  · rfl
  · rfl
  · dsimp only; split <;> simp
@[simp] theorem State.landOne_agenda (s : State) (x : Late) : (s.landOne x).agenda = s.agenda := by
  unfold State.landOne
  split
  · rfl
  · rfl
  · dsimp only; split <;> simp

@[simp] theorem State.landCore_mem (s : State) : s.landCore.mem = s.mem := by
  unfold State.landCore; split
  · rfl
  · exact foldl_keeps State.mem _ State.landOne_mem _ _
@[simp] theorem State.landCore_cid (s : State) : s.landCore.cid = s.cid := by
  unfold State.landCore; split
  · rfl
  · exact foldl_keeps State.cid _ State.landOne_cid _ _
@[simp] theorem State.landCore_sid (s : State) : s.landCore.sid = s.sid := by
  unfold State.landCore; split
  · rfl
  · exact foldl_keeps State.sid _ State.landOne_sid _ _
@[simp] theorem State.landCore_cycle (s : State) : s.landCore.cycle = s.cycle := by
  unfold State.landCore; split
  · rfl
  · exact foldl_keeps State.cycle _ State.landOne_cycle _ _
@[simp] theorem State.landCore_agenda (s : State) : s.landCore.agenda = s.agenda := by
  unfold State.landCore; split
  · rfl
  · exact foldl_keeps State.agenda _ State.landOne_agenda _ _

@[simp] theorem State.landAt_mem (s : State) (c : Nat) : (s.landAt c).mem = s.mem := by simp [State.landAt]
@[simp] theorem State.landAt_cid (s : State) (c : Nat) : (s.landAt c).cid = s.cid := by simp [State.landAt]
@[simp] theorem State.landAt_sid (s : State) (c : Nat) : (s.landAt c).sid = s.sid := by simp [State.landAt]
@[simp] theorem State.landAt_cycle (s : State) (c : Nat) : (s.landAt c).cycle = s.cycle := by simp [State.landAt]
@[simp] theorem State.landAt_agenda (s : State) (c : Nat) : (s.landAt c).agenda = s.agenda := by simp [State.landAt]

@[simp] theorem State.land_mem (s : State) : s.land.mem = s.mem :=
  (foldl_keeps State.mem _ State.landAt_mem _ _).trans s.landCore_mem
@[simp] theorem State.land_cid (s : State) : s.land.cid = s.cid :=
  (foldl_keeps State.cid _ State.landAt_cid _ _).trans s.landCore_cid
@[simp] theorem State.land_sid (s : State) : s.land.sid = s.sid :=
  (foldl_keeps State.sid _ State.landAt_sid _ _).trans s.landCore_sid
@[simp] theorem State.land_cycle (s : State) : s.land.cycle = s.cycle :=
  (foldl_keeps State.cycle _ State.landAt_cycle _ _).trans s.landCore_cycle
@[simp] theorem State.land_agenda (s : State) : s.land.agenda = s.agenda :=
  (foldl_keeps State.agenda _ State.landAt_agenda _ _).trans s.landCore_agenda

@[simp] theorem State.tick_mem (s : State) (n : Nat) : (s.tick n).mem = s.mem := by simp [State.tick]
@[simp] theorem State.tick_cid (s : State) (n : Nat) : (s.tick n).cid = s.cid := by simp [State.tick]
@[simp] theorem State.tick_sid (s : State) (n : Nat) : (s.tick n).sid = s.sid := by simp [State.tick]
@[simp] theorem State.tick_cycle (s : State) (n : Nat) : (s.tick n).cycle = s.cycle + n := by simp [State.tick]
@[simp] theorem State.tick_agenda (s : State) (n : Nat) : (s.tick n).agenda = s.agenda := by simp [State.tick]

/-- A core with nothing under way is as it was. -/
theorem State.landCore_none (s : State) (h : s.core.late = []) : s.landCore = s := by simp [State.landCore, h]

/-! What an instruction's cycles change. -/

@[simp] theorem State.occupying_ctx (s : State) (i : Instr) : (s.occupying i).ctx = s.ctx := by
  simp [State.occupying, State.ctx_def]
@[simp] theorem State.occupying_mem (s : State) (i : Instr) : (s.occupying i).mem = s.mem := rfl
@[simp] theorem State.occupying_cid (s : State) (i : Instr) : (s.occupying i).cid = s.cid := rfl
@[simp] theorem State.occupying_sid (s : State) (i : Instr) : (s.occupying i).sid = s.sid := rfl

end Sys2Proof.Machine
end

