-- ==== Sys2Proof/Laws/Operands.lean ====
section
/-! SUPPORT. What the gate, the end of an instruction and the operand reads can do. -/

namespace Sys2Proof.Machine

/-- Behind a gate that passes, the instruction's own operation runs. -/
theorem issue_go {s t : State} {o : Opnds} {vs : List DWord} {k : List DWord → State → State} (h : s.Ready o vs t) :
    s.issue o k = .next (k vs t) := by
  simp [State.issue, State.gate, h.1, h.2]

/-- Behind the checks of its entry, a channel instruction's own operation runs. -/
theorem chanIssue_go {s t : State} {e : Nat} {op : ChanOp} {o : Opnds} {vs : List DWord} {k : List DWord → State → State}
    {time : Option Reg} (h : s.OnEntry e op o vs t) (ht : time.any s.badTime = false) :
    s.chanIssue o e op time k = .next (k vs t) := by
  obtain ⟨h1, h2, h3, h4, u, h5, h6⟩ := h
  have : State.replayArrivals 64 s s.self.ent = s := by simp [State.replayArrivals, h4]
  simp [State.chanIssue, State.fieldFault, State.gate, h1, h2, h3, ht, this, h5, h6]

/-- A fault of the fields is raised in the state before any pop. -/
theorem issue_fault {s : State} {o : Opnds} {f : Flt} {k : List DWord → State → State} (h : s.gateFault o = some f) :
    s.issue o k = .next (s.gateRaise o f) := by
  simp [State.issue, State.gate, h]

/-- An empty source queue stalls the slot for that register. -/
theorem issue_stall {s : State} {o : Opnds} {k : List DWord → State → State} (h : s.gateFault o = none)
    (hp : s.popAll o.reads = none) : s.issue o k = .next (s.stallRead o.reads) := by
  simp [State.issue, State.gate, h, hp]

/-- Every gated instruction answers a next state. -/
theorem issue_next (s : State) (o : Opnds) (k : List DWord → State → State) : ∃ t, s.issue o k = .next t := ⟨_, rfl⟩

theorem done_ok {s t : State} {d : Reg} {v : DWord} (h : t.dstCheck d v = .ok) : s.done t d v = (t.writeReg d v).advance := by
  simp [State.done, h]

theorem done_stall {s t : State} {d : Reg} {v : DWord} (h : t.dstCheck d v = .stall) : s.done t d v = s.stall := by
  simp [State.done, h]

theorem done_fault {s t : State} {d : Reg} {v : DWord} {f : Flt} (h : t.dstCheck d v = .fault f) : s.done t d v = s.raise f := by
  simp [State.done, h]

/-- A computing instruction whose gate passes and whose destination takes the result. -/
theorem compute_next {s t : State} {reads : List Reg} {d : Reg} {f : List DWord → DWord} {vs : List DWord}
    (h : s.Ready ⟨reads, some d, false, false⟩ vs t) (hd : t.dstCheck d (f vs) = .ok) :
    s.compute reads d f = .next ((t.writeReg d (f vs)).advance) := by
  rw [State.compute, issue_go h, done_ok hd]

/-- The same of a floating-point instruction. -/
theorem floating_next {s t : State} {reads : List Reg} {d : Reg} {f : List DWord → Nat × BitVec 7} {vs : List DWord}
    (h : s.Ready ⟨reads, some d, false, false⟩ vs t) (hd : t.dstCheck d (BitVec.ofNat 64 (f vs).1) = .ok) :
    s.floating reads d f = .next (((t.setCtx (t.ctx.orFlags (f vs).2)).writeReg d (BitVec.ofNat 64 (f vs).1)).advance) := by
  rw [State.floating, issue_go h]
  simp [hd]

theorem arg_zero (x : DWord) (l : List DWord) : arg (x :: l) 0 = x := rfl
theorem arg_one (x y : DWord) (l : List DWord) : arg (x :: y :: l) 1 = y := rfl
theorem arg_two (x y z : DWord) (l : List DWord) : arg (x :: y :: z :: l) 2 = z := rfl

/-- The read of a register that is no queue changes nothing. -/
theorem popReg_plain (s : State) (r : Reg) (h : isQueue r = false) : ∃ v, s.popReg r = some (v, s) := by
  cases r <;> simp [isQueue] at h <;> exact ⟨_, rfl⟩

theorem popAll_plain (s : State) (rs : List Reg) (h : ∀ r ∈ rs, isQueue r = false) : ∃ vs, s.popAll rs = some (vs, s) := by
  induction rs with
  | nil => exact ⟨[], rfl⟩
  | cons r l ih =>
    obtain ⟨vs, hv⟩ := ih fun x hx => h x (List.mem_cons_of_mem _ hx)
    obtain ⟨v, hr⟩ := popReg_plain s r (h r (List.mem_cons_self ..))
    exact ⟨v :: vs, by simp [State.popAll, hv, hr]⟩

/-- As many values as registers are read. -/
theorem popAll_length {s t : State} {rs : List Reg} {vs : List DWord} (h : s.popAll rs = some (vs, t)) : vs.length = rs.length := by
  induction rs generalizing s t vs with
  | nil => simp [State.popAll] at h; simp [h.1]
  | cons r l ih =>
    simp only [State.popAll] at h
    split at h
    · simp at h
    · split at h
      · simp at h
      · rename_i h2
        simp at h
        rw [← h.1, List.length_cons, ih h2, List.length_cons]

/-- A destination that is a plain register takes any value. -/
theorem dstCheck_plain (s : State) (d : Reg) (v : DWord) (h : isQueue d = false) : s.dstCheck d v = .ok := by
  cases d <;> simp [isQueue] at h <;> rfl

/-- A write of a plain register as one update of the slot in turn and the shared registers. -/
theorem writeReg_p (s : State) (k : Fin 8) (v : DWord) :
    s.writeReg (.p k) v = s.setMe { s.me with fib := { s.fib with ctx := { s.ctx with p := s.ctx.p.set k v } }, l1 := s.me.l0, l0 := v } := by
  simp [State.writeReg, State.setLast, State.setCtx, State.setFib]

theorem writeReg_z (s : State) (v : DWord) : s.writeReg .z v = s.setMe { s.me with l1 := s.me.l0, l0 := v } := rfl

/-- A shared register is written when the cycles of its instruction have passed; the last-result file at once. -/
theorem writeReg_s (s : State) (k : Fin 32) (v : DWord) :
    s.writeReg (.s k) v =
      ({ s with core := { s.core with late := s.core.late ++ [(⟨s.coreCycles + s.me.lat, s.sid.val, .reg k v⟩ : Late)] } }).setMe
        { s.me with l1 := s.me.l0, l0 := v } := rfl

/-- A command that the controller takes is carried out with its arguments. -/
theorem command_go {s t : State} {c : Cmd} {op : Nat} {n : Names} {a : CmdArgs} (h : s.Commanded c op n a t)
    (k : CmdArgs → State → State) : s.command c op n k = .next (k a t) := by
  obtain ⟨rfl, hc, hw, hp, h64, hd, l, hl, rfl, ho, hu⟩ := h
  simp_all [State.command]

end Sys2Proof.Machine
end

