-- ==== Sys2Proof/Tests/Slice0.lean ====
section
/-! SUPPORT. Tests: words written out from the encodings of the spec and what they decode to, the refusals of each check
on the fields, results that the spec's own examples give, and for every statement states that meet its hypotheses. -/

namespace Sys2Proof.Tests

open Sys2Proof Sys2Proof.Machine

/-! Small states. -/

/-- A fibre RUNNING in slot 0 of core 0, the word w at its PC, p0 to p7 holding 0 to 7. -/
def user (w : Nat := 0) : State :=
  let s := State.reset.withFetchWord 32 w
  s.setCtx { s.ctx with p := Vector.ofFn fun i => BitVec.ofNat 64 i.val }

/-- The same with its job, the whole of core 0's package partition, at the core. -/
def onCore (f : Core → Core) (s : State) : State := { s with core := f s.core }

/-- p k holds v. -/
def holds (k : Fin 8) (v : DWord) (s : State) : State := s.setCtx { s.ctx with p := s.ctx.p.set k v }

/-- Bytes in the scratchpad of the core in turn. -/
def bytesAt (off : Nat) (l : List Byte) (s : State) : State := s.spWrite s.cid off l

/-- Slot 7 of core 0 runs an urgent task. -/
def super : State := onCore (fun c => { c with slots := c.slots.set 7 { c.slots[(7 : Fin 8)] with busy := true } }) { user with sid := 7 }

/-- The first two giga-pages of the DRAM window mapped to stack 0, as its servers hold them. -/
def mapped (s : State) : State :=
  { s with hbm := s.hbm.set 0 { s.hbm[(0 : Fin 8)] with cache := (List.range 16).flatMap fun k => [(k, ⟨true, false, false, false, 0, 0, 0, 8388608⟩), (k, ⟨true, false, false, false, 0, 0, 512, 8389120⟩)] } }

/-- Whether a check passes, and with what. -/
def okAnd (x : Except ε α) (f : α → Bool) : Bool :=
  match x with
  | .ok y => f y
  | .error _ => false

/-- What a next state holds. -/
def next (o : Host.Outcome State Fault Refusal) (f : State → α) (d : α) : α :=
  match o with
  | .next t => f t
  | _ => d

/-! Words written out from the encodings of the opcode table (02; 04 to 09), and what they decode to. -/

/-- Every word of a list decodes to the instruction beside it. -/
def reads (l : List (Word × Instr)) : Bool := l.all fun x => decode x.1 == .ok x.2

theorem test_decode_integer_1 : reads [
    (0x04196600, .add (.p 1) (.s 5) (.s 6)), (0x04196601, .sub (.p 1) (.s 5) (.s 6)), (0x04196602, .mul (.p 1) (.s 5) (.s 6)),
    (0x04196603, .mulh (.p 1) (.s 5) (.s 6)), (0x04196604, .mulhu (.p 1) (.s 5) (.s 6)), (0x04196605, .div (.p 1) (.s 5) (.s 6)),
    (0x04196606, .divu (.p 1) (.s 5) (.s 6)), (0x04196607, .rem (.p 1) (.s 5) (.s 6)), (0x04196608, .remu (.p 1) (.s 5) (.s 6)),
    (0x04196609, .and (.p 1) (.s 5) (.s 6)), (0x0419660A, .or (.p 1) (.s 5) (.s 6)), (0x0419660B, .xor (.p 1) (.s 5) (.s 6)),
    (0x0419660C, .andn (.p 1) (.s 5) (.s 6)), (0x0419660D, .shl (.p 1) (.s 5) (.s 6)), (0x0419660E, .shr (.p 1) (.s 5) (.s 6)),
    (0x0419660F, .sra (.p 1) (.s 5) (.s 6)), (0x04196610, .rot (.p 1) (.s 5) (.s 6)), (0x04196611, .min (.p 1) (.s 5) (.s 6)),
    (0x04196612, .max (.p 1) (.s 5) (.s 6)), (0x04196613, .minu (.p 1) (.s 5) (.s 6)), (0x04196614, .maxu (.p 1) (.s 5) (.s 6)),
    (0x04196615, .cmpeq (.p 1) (.s 5) (.s 6)), (0x04196616, .cmpne (.p 1) (.s 5) (.s 6)), (0x04196617, .cmplt (.p 1) (.s 5) (.s 6)),
    (0x04196618, .cmpltu (.p 1) (.s 5) (.s 6)), (0x04196619, .cmple (.p 1) (.s 5) (.s 6)), (0x0419661A, .cmpleu (.p 1) (.s 5) (.s 6)),
    (0x0419661B, .cmov (.p 1) (.s 5) (.s 6)), (0x08194000, .clz (.p 1) (.s 5)), (0x08194001, .ctz (.p 1) (.s 5)),
    (0x08194002, .popc (.p 1) (.s 5)), (0x08194003, .brev (.p 1) (.s 5)), (0x08194004, .bswap (.p 1) (.s 5)),
    (0x08194025, .exts .b4 (.p 1) (.s 5)), (0x08194026, .extz .b4 (.p 1) (.s 5)), (0x08194007, .not (.p 1) (.s 5)),
    (0x08194008, .neg (.p 1) (.s 5)), (0x08194009, .abs (.p 1) (.s 5)), (0x0C196AF3, .addi (.p 1) (.s 5) 0x2AF3),
    (0x10196AF3, .andi (.p 1) (.s 5) 0x2AF3)] = true := by decide

theorem test_decode_integer_2 : reads [
    (0x14196AF3, .ori (.p 1) (.s 5) 0x2AF3), (0x18196AF3, .xori (.p 1) (.s 5) 0x2AF3), (0x1C194005, .shli (.p 1) (.s 5) 0x5),
    (0x1C195005, .shri (.p 1) (.s 5) 0x5), (0x1C196005, .srai (.p 1) (.s 5) 0x5), (0x1C197005, .roti (.p 1) (.s 5) 0x5),
    (0x20196AF3, .cmpeqi (.p 1) (.s 5) 0x2AF3), (0x24196AF3, .cmplti (.p 1) (.s 5) 0x2AF3), (0x28196AF3, .cmpltui (.p 1) (.s 5) 0x2AF3),
    (0x2C10AAF3, .lui (.p 1) 0xAAF3), (0x3010AAF3, .addpc (.p 1) 0xAAF3), (0x34194251, .bfx (.p 1) (.s 5) 0x11 0x9),
    (0x34196251, .bfi (.p 1) (.s 5) 0x11 0x9), (0x38100003, .wid (.p 1) 0x3), (0x38196615, .addx (.p 1) (.s 5) (.s 6) 0x5)] = true := by decide

theorem test_decode_control : reads [
    (0x412509A5, .br .gtz (.s 5) 0x9A5), (0x418009A5, .bra 0x9A5), (0x4410AAF3, .call (.p 1) 0xAAF3),
    (0x48094000, .jr (.s 5)), (0x48194001, .callr (.p 1) (.s 5)), (0x48094002, .ret (.s 5)),
    (0x4C2509A5, .loop (.s 5) 0x9A5)] = true := by decide

theorem test_decode_float : reads [
    (0x50196602, .fadd .b (.p 1) (.s 5) (.s 6)), (0x50196606, .fsub .b (.p 1) (.s 5) (.s 6)), (0x5019660A, .fmul .b (.p 1) (.s 5) (.s 6)),
    (0x5019660E, .fdiv .b (.p 1) (.s 5) (.s 6)), (0x50194012, .fsqrt .b (.p 1) (.s 5)), (0x50196616, .fmin .b (.p 1) (.s 5) (.s 6)),
    (0x5019661A, .fmax .b (.p 1) (.s 5) (.s 6)), (0x5019401E, .fabs .b (.p 1) (.s 5)), (0x50194022, .fneg .b (.p 1) (.s 5)),
    (0x50196626, .fcmpeq .b (.p 1) (.s 5) (.s 6)), (0x5019662A, .fcmplt .b (.p 1) (.s 5) (.s 6)), (0x5019662E, .fcmple .b (.p 1) (.s 5) (.s 6)),
    (0x50194032, .fclass .b (.p 1) (.s 5)), (0x50194036, .frcp .b (.p 1) (.s 5)), (0x5419666A, .ffma .b (.p 1) (.s 5) (.s 6) (.qs 2)),
    (0x58194014, .fcvt .s .q (.p 1) (.s 5))] = true := by decide

theorem test_decode_memory : reads [
    (0x601969A5, .ld .b4 (.p 1) (.s 5) 0x9A5), (0x641969A5, .lds .b4 (.p 1) (.s 5) 0x9A5), (0x681969A5, .st .b4 (.p 1) (.s 5) 0x9A5),
    (0x6C1949A5, .ldfe (.p 1) (.s 5) 0x9A5), (0x6C1959A5, .ldff (.p 1) (.s 5) 0x9A5), (0x6C1969A5, .stfe (.p 1) (.s 5) 0x9A5),
    (0x6C1979A5, .stff (.p 1) (.s 5) 0x9A5), (0x701969A5, .pst .b4 (.p 1) (.s 5) 0x9A5), (0x74D94526, .ship (.qm 1) 0x5 (.s 5) (.s 6)),
    (0x78196606, .aadd .acq .b4 (.p 1) (.s 5) (.s 6)), (0x78196616, .aswp .acq .b4 (.p 1) (.s 5) (.s 6)), (0x78196626, .acas .acq .b4 (.p 1) (.s 5) (.s 6)),
    (0x78196636, .aand .acq .b4 (.p 1) (.s 5) (.s 6)), (0x78196646, .aor .acq .b4 (.p 1) (.s 5) (.s 6)), (0x78196656, .axor .acq .b4 (.p 1) (.s 5) (.s 6)),
    (0x78196666, .amin .acq .b4 (.p 1) (.s 5) (.s 6)), (0x78196676, .amax .acq .b4 (.p 1) (.s 5) (.s 6)), (0x78196686, .aminu .acq .b4 (.p 1) (.s 5) (.s 6)),
    (0x78196696, .amaxu .acq .b4 (.p 1) (.s 5) (.s 6)), (0x781940A6, .ainc .acq .b4 (.p 1) (.s 5)), (0x7C094000, .fenceBank (.s 5)),
    (0x7C000003, .fence .die)] = true := by decide

theorem test_decode_copy : reads [
    (0x80196C47, .cpy (.p 1) (.s 5) (.p 7) 0x2C true false), (0x84196C47, .cpym (.p 1) (.s 5) (.p 7) 0x2C true false), (0x88194000, .cpwa (.p 1) (.s 5)),
    (0x88194001, .cpwn (.p 1) (.s 5)), (0x88194002, .cpff (.p 1) (.s 5)), (0x88194003, .cpts (.p 1) (.s 5)),
    (0x8C000500, .stage 0x5), (0x8C100601, .wmrd (.p 1) 0x6), (0x90196600, .tsub (.p 1) (.s 5) (.s 6)),
    (0x90096601, .trel (.s 5) (.s 6)), (0x90096602, .trelSt (.s 5) (.s 6))] = true := by decide

theorem test_decode_channels : reads [
    (0xA0096D00, .send 0x2D (.s 5)), (0xA0096D01, .sendt 0x2D (.s 5)), (0xA0102D02, .recv (.p 1) 0x2D),
    (0xA0196D03, .recvt (.p 1) 0x2D (.s 5)), (0xA0196D04, .sendx (.p 1) 0x2D (.s 5)), (0xA0196D05, .recvx (.p 1) 0x2D (.s 5)),
    (0xA0102D06, .probe (.p 1) 0x2D), (0xA0002D07, .eos 0x2D), (0xA4194000, .alt (.p 1) (.s 5)),
    (0xA4196601, .altt (.p 1) (.s 5) (.s 6)), (0xA8096D00, .bind 0x2D (.s 5)), (0xA8002D01, .unbind 0x2D),
    (0xA8096D02, .chmode 0x2D (.s 5))] = true := by decide

theorem test_decode_ports_fibres : reads [
    (0xAC195300, .post (.p 1) 0x13 (.s 5)), (0xAC094501, .jpat 0x5 (.s 5)), (0xAC000502, .jarm 0x5),
    (0xAC000503, .jdis 0x5), (0xAC100504, .jrd (.p 1) 0x5), (0xAC095305, .pcfg 0x13 (.s 5)),
    (0xB0196600, .fork (.p 1) (.s 5) (.s 6)), (0xB0100001, .joinc (.p 1)), (0xB0194002, .lnch (.p 1) (.s 5)),
    (0xB4000000, .yield), (0xB4000001, .park), (0xB4094002, .wake (.s 5)),
    (0xB4094003, .setpri (.s 5)), (0xB4094004, .setdl (.s 5)), (0xB4094005, .setwl (.s 5)),
    (0xB4100006, .rdtime (.p 1)), (0xB4100007, .getst (.p 1)), (0xB8094000, .evwait (.s 5)),
    (0xB9594000, .evwaitQev (.s 5)), (0xB8094001, .evsig (.s 5)), (0xB8094002, .evclr (.s 5)),
    (0xB8194003, .evtst (.p 1) (.s 5)), (0xBC194000, .bar (.p 1) (.s 5)), (0xBC094001, .barBrk (.s 5))] = true := by decide

theorem test_decode_vector : reads [
    (0xC0324C02, .vadd .b 3 9 12), (0xC0324C0A, .vsub .b 3 9 12), (0xC0324C12, .vmul .b 3 9 12),
    (0xC0324C1A, .vfma .b 3 9 12), (0xC0324C22, .vmin .b 3 9 12), (0xC0324C2A, .vmax .b 3 9 12),
    (0xC0324032, .vabs .b 3 9), (0xC032403A, .vneg .b 3 9), (0xC0324C42, .vcmpEq .b 3 9 12),
    (0xC0324C4A, .vcmpLt .b 3 9 12), (0xC0324C52, .vcmpLe .b 3 9 12), (0xC0324C5A, .vsel .b 3 9 12),
    (0xC0324C65, .vand .w 3 9 12), (0xC0324C6D, .vor .w 3 9 12), (0xC0324C75, .vxor .w 3 9 12),
    (0xC0324C7D, .vshl .w 3 9 12), (0xC0324C85, .vshr .w 3 9 12), (0xC43949A5, .vld 3 (.s 5) 0x9A5),
    (0xC43959A5, .vst 3 (.s 5) 0x9A5), (0xC4396982, .vlds .b 3 (.s 5) (.s 6)), (0xC4397982, .vsts .b 3 (.s 5) (.s 6)),
    (0xC8394C02, .vgath .b 3 (.s 5) 12), (0xC8394C12, .vscat .b 3 (.s 5) 12), (0xCC124002, .vredAdd .b (.p 1) 9),
    (0xCC124012, .vredMin .b (.p 1) 9), (0xCC124022, .vredMax .b (.p 1) 9), (0xCC124C32, .vdot .b (.p 1) 9 12),
    (0xD0324C02, .vshf .b 3 9 12), (0xD0394042, .vbcast .b 3 (.s 5)), (0xD0124085, .vext (.p 1) 9 0x5),
    (0xD03940C5, .vins 3 (.s 5) 0x5), (0xD4324014, .vcvt .s .q 3 9), (0xD4324122, .vexp2 .b 3 9),
    (0xD4324222, .vlog2 .b 3 9)] = true := by decide

theorem test_decode_matrix_accumulators : reads [
    (0xD8094000, .mwld (.s 5)), (0xD8000001, .mswap), (0xD8096602, .mstrm (.s 5) (.s 6)),
    (0xD8196603, .mmul (.p 1) (.s 5) (.s 6)), (0xD8000004, .mzero), (0xD8194005, .mrd (.p 1) (.s 5)),
    (0xDC196600, .mcmd (.p 1) (.s 5) (.s 6)), (0xDC194001, .mscl (.p 1) (.s 5)), (0xE0096601, .accw .s (.s 5) (.s 6)),
    (0xE0094010, .accz (.s 5)), (0xE0194021, .accrd .s (.p 1) (.s 5)), (0xE0096630, .accmv (.s 5) (.s 6)),
    (0xE0096640, .accset (.s 5) (.s 6)), (0xE4094000, .xfork (.s 5)), (0xE4100001, .xjoin (.p 1))] = true := by decide

theorem test_decode_system_hints : reads [
    (0xE8100000, .prgrd (.p 1)), (0xE8094001, .prgwr (.s 5)), (0xF00000A5, .trap 0xA5),
    (0xF0000100, .eret), (0xF00002A5, .bkpt 0xA5), (0xF0094300, .rfwin (.s 5)),
    (0xF0000400, .syncid), (0xF0101004, .mfsr (.p 1) 0x4), (0xF0096004, .mtsr 0x4 (.s 5)),
    (0xF0096011, .mtsrUtask (.s 5)), (0xF0096013, .mtsrDlprobe (.s 5)), (0xF0096025, .mtsrEjrn (.s 5)),
    (0xFC2ABCDE, .himm 0x2ABCDE), (0xFC40000B, .hsch 0xB), (0xFC9234A5, .hlive 0xA5 0x1234),
    (0xFCC00025, .hmod true 0x2 false true false)] = true := by decide

/-! The checks on fields (02 R49, R51 step 2): an ill-formed term for each, all refused; the word with those fields does not decode
to it. -/

def refused (l : List Instr) : Bool := l.all fun i => !i.wf && (encode i).all fun w => decode w != .ok i

/-- A destination l0 or l1, in every family. -/
theorem test_wf_destinations : refused [.add (.l 0) .z .z, .clz (.l 1) .z, .addi (.l 0) .z 0, .lui (.l 0) 0, .wid (.l 0) 0, .addx (.l 0) .z .z 0,
    .fadd .d (.l 0) .z .z, .ffma .d (.l 0) .z .z .z, .fcvt .d .s (.l 0) .z, .ld .b8 (.l 0) .z 0, .ldfe (.l 0) .z 0, .aadd .rlx .b8 (.l 0) .z .z,
    .ainc .rlx .b8 (.l 0) .z, .cpwa (.l 0) .z, .wmrd (.l 0) 0, .tsub (.l 0) .z .z, .recv (.l 0) 0, .probe (.l 0) 0, .alt (.l 0) .z, .jrd (.l 0) 0,
    .joinc (.l 0), .lnch (.l 0) .z, .rdtime (.l 0), .evtst (.l 0) .z, .bar (.l 0) .z, .vredAdd .d (.l 0) 0, .vext (.l 0) 0 0, .mrd (.l 0) .z,
    .mcmd (.l 0) .z .z, .accrd .d (.l 0) .z, .xjoin (.l 0), .prgrd (.l 0), .mfsr (.l 0) 0] = true := by decide

/-- The registers of links, time-outs and child identifiers; of an old value; of a pair. -/
theorem test_wf_registers : refused [.call (.qs 0) 0, .callr .id .z, .sendx (.qm 0) 0 .z, .recvx (.p 0) 0 (.qs 1), .altt (.p 0) .z .qev, .fork .id .z .z,
    .cmov (.qs 0) .z .z, .bfi .qtm .z 0 0, .ship (.p 0) 0 .z (.p 7), .acas .rlx .b8 (.p 0) .z (.s 31), .acas .rlx .b8 (.p 0) .z .id] = true := by decide

/-- Sizes, types, positions, indices, modes. -/
theorem test_wf_values : refused [.exts .b8 (.p 0) .z, .extz .b8 (.p 0) .z, .bfx (.p 0) .z 40 24, .bfi (.p 0) .z 63 1, .wid (.p 0) 6, .fadd .q (.p 0) .z .z,
    .fcvt .c .d (.p 0) .z, .fcvt .d .e4m3 (.p 0) .z, .aadd .rlx .b2 (.p 0) .z .z, .acas .rlx .b1 (.p 0) .z .z, .ainc .rlx .b1 (.p 0) .z, .cpy .z .z .z 1 0 true,
    .cpym .z .z .z 63 0 true, .stage 8, .wmrd (.p 0) 8, .post .z 32 .z, .jpat 16 .z, .jarm 16, .jdis 16, .jrd (.p 0) 16, .pcfg 32 .z, .vadd .e4m3 0 0 0,
    .vand .d 0 0 0, .vlds .mxfp4 0 .z .z, .vredMin .l6 (.p 0) 0, .vcvt .s .s 0 0, .vexp2 .q 0 0, .accw .h .z .z, .accrd .q (.p 0) .z, .mfsr (.p 0) 0x0FF,
    .mtsr 0x011 .z, .mtsr 0x0FF .z, .hmod false 5 false false false] = true := by decide

/-- Words that the decoder refuses by name: a reserved major (02 Table 2-7), a reserved function of a major, a reserved field, a destination
l0, a reserved size. -/
theorem test_decode_refusals : decode 0x00000000 = .error .illegalOp ∧ decode (0x01#6 ++ 1#6 ++ 2#6 ++ 3#6 ++ 0xFF#8) = .error .illegalOp ∧
    decode (0x01#6 ++ 8#6 ++ 2#6 ++ 3#6 ++ 0x00#8) = .error .reservedField ∧ decode (0x3C#6 ++ 0#6 ++ 1#6 ++ 0x100#14) = .error .reservedField := by decide

/-- An example of the spec (05 Table 5-10): CPY.rr p1, p2, p3, 4. -/
theorem test_decode_example : decode 0x80108483 = .ok (.cpy (.p 1) (.p 2) (.p 3) 4 false true) := by decide

/-! Steps. -/

/-- ADD p1, p2, s5 placed after reset: one step runs it and moves the PC to the next word (02 R45; 04 R115). -/
theorem test_step_add : next (step (State.reset.withFetchWord 32 0x0410A500)) (fun t => t.ctx.pc) 0 = 0x100000000004 := by decide

/-- LD.8 p3, [p2 + 2·8]: an address the access check refuses (05 R146): the fibre with p2 = 3 traps with MISALIGN, and is FAULTED. -/
theorem test_step_trap : next (step (holds 2 3 (user 0x6030B002))) (fun t => (t.core.traps.map fun x => (x.code, x.epc), t.core.slots[(0 : Fin 8)].ent.isSome)) ([], true) =
    ([(0x04, 0x100000000000)], false) := by decide

/-- A word of zeros is an unassigned major: ILLEGAL_OP (02 R51). -/
theorem test_step_illegal : next (step (user 0)) (fun t => t.core.traps.map fun x => x.code) [] = [0x01] := by decide

/-! Witnesses. -/

theorem witness_IntegerResults : ∃ t, user.Ready ⟨[.p 1, .p 2], some (.p 3), false, false⟩ [1, 2] t ∧ t.dstCheck (.p 3) 3 = .ok :=
  ⟨user, ⟨by decide, rfl⟩, by decide⟩

theorem witness_DivisionResults :
    user.Ready ⟨[.p 1, .p 0], some (.p 3), false, false⟩ [1, 0] user ∧ user.Ready ⟨[.p 1, .p 2], some (.p 3), false, false⟩ [1, 2] user ∧
      (holds 1 0x8000000000000000 (holds 2 (-1) user)).Ready ⟨[.p 1, .p 2], some (.p 3), false, false⟩ [0x8000000000000000, -1] (holds 1 0x8000000000000000 (holds 2 (-1) user)) :=
  ⟨⟨by decide, rfl⟩, ⟨by decide, rfl⟩, ⟨by decide, rfl⟩⟩

theorem witness_OneOperandResults : user.Ready ⟨[.p 1], some (.p 3), false, false⟩ [1] user ∧ bits 0x0800000A#32 26 6 = 2 ∧
    bits 0x0800000A#32 6 2 = 0 ∧ 10 ≤ bits 0x0800000A#32 0 4 ∧ bits 0x08000040#32 6 2 ≠ 0 ∧ bits 0x08000100#32 8 6 ≠ 0 ∧
    bits 0x08000010#32 4 2 ≠ 0 :=
  ⟨⟨by decide, rfl⟩, by decide⟩

/-- A fibre whose group has met an HIMM. -/
def widened : State := user.setMe { user.me with hints := { user.me.hints with himm := some 0x3FFFFF } }

theorem witness_ImmediateAndAddressResults : user.me.hints.himm = none ∧ widened.me.hints.himm = some 0x3FFFFF ∧
    user.Ready ⟨[.p 0, .p 2, .p 3], some (.p 3), false, false⟩ [0, 2, 3] user ∧
    user.Ready ⟨[.p 1, .p 2, .p 3], some (.p 3), false, false⟩ [1, 2, 3] user :=
  ⟨rfl, rfl, ⟨by decide, rfl⟩, ⟨by decide, rfl⟩⟩

theorem witness_TransferResults : user.Ready ⟨[.p 0], none, false, false⟩ [0] user ∧ user.Ready ⟨[.p 3], none, false, false⟩ [3] user ∧
    user.Ready ⟨[], none, false, false⟩ [] user ∧ user.Ready ⟨[.p 4], some (.p 4), false, false⟩ [4] user :=
  ⟨⟨by decide, rfl⟩, ⟨by decide, rfl⟩, ⟨by decide, rfl⟩, ⟨by decide, rfl⟩⟩

/-- A loop whose LEND is its first body word: L at PC − 4, n passes left. -/
def looping (n : Nat) : State :=
  let s := user
  let l := s.ctx.pc - 4
  holds 7 (1#1 ++ BitVec.ofNat 17 n ++ l.extractLsb' 2 46) s

theorem witness_LoopsAndHints :
    (holds 1 131073 user).Ready ⟨[.p 1], none, false, false⟩ [131073] (holds 1 131073 user) ∧ (user.immB 0).toInt < 1 ∧ 1 ≤ (user.immB 1).toInt ∧
      (looping 0).ctx.p[7].getLsbD 63 = true ∧ (looping 0).ctx.p[7].extractLsb' 46 17 = 0 ∧ (looping 131071).ctx.p[7].extractLsb' 46 17 ≠ 0 :=
  ⟨⟨by decide, rfl⟩, by decide⟩

/-- The loop step's LEND: the LOOP word behind a word that is no hint, and behind an HIMM. -/
theorem witness_LoopEnd (w : Nat) (h : w = 0x0410A500 ∨ w = 0xFC000048) :
    (user w).me.lend = none ∧ (user w).mayFetch (probeAt + 4) = true ∧ inDram (probeAt + 4) = true ∧ ((user w).codeWord (probeAt + 4)).isSome = true ∧
      (user w).groupWord (user w).codeWord (probeAt + 4 - 4) = some (BitVec.ofNat 32 w) ∧ 4 ≤ probeAt + 4 ∧ isHintWord 0x0410A500 = false ∧
      isHintWord 0xFC000048 = true ∧ bits 0xFC000048#32 22 4 = 0 := by
  rcases h with rfl | rfl <;> decide

theorem witness_LoopStep :
    (looping 0).loopEnd (((looping 0).ctx.p[7].extractLsb' 0 46).toNat * 4) = (looping 1).loopEnd (((looping 1).ctx.p[7].extractLsb' 0 46).toNat * 4) ∧
      (holds 7 0 user).ctx.p[7].getLsbD 63 = false ∧ (looping 1).ctx.p[7].getLsbD 63 = true ∧ (looping 1).ctx.p[7].extractLsb' 46 17 ≠ 0 := by decide

theorem witness_FloatResults : user.Ready ⟨[.p 1, .p 2, .p 3], some (.p 4), false, false⟩ [1, 2, 3] user ∧ user.dstCheck (.p 4) 0 = .ok :=
  ⟨⟨by decide, rfl⟩, by decide⟩

/-- Two words in qs 0, one in qs 1. -/
def queued : State := onCore (fun c => { c with qs := (c.qs.set 0 [5, 6]).set 1 [7], qmx := ⟨[], [8]⟩, qhs := [9] })
  (user.setFib { user.fib with qtm := [1], qev := [2] })

theorem witness_RegisterReads : queued.core.qs[0] = 5 :: 6 :: [] ∧ queued.core.qs[1] = [7] ∧ queued.core.qs[2] = [] ∧ queued.fib.qtm = [1] ∧
    queued.fib.qev = [2] ∧ queued.core.qmx.res = [8] ∧ queued.core.qhs = [9] ∧ user.fib.qtm = [] ∧ user.fib.qev = [] ∧ user.core.qmx.res = [] ∧
    user.core.qhs = [] ∧ isQueue (.qs 0) = true := by decide

/-- Full queues. -/
def full : State := onCore (fun c => { c with qs := c.qs.set 0 [0, 0, 0, 0, 0, 0, 0, 0], qvx := ⟨[(0, 0), (0, 0), (0, 0), (0, 0)], []⟩ })
  (user.setFib { user.fib with timers := [⟨1, 0⟩, ⟨2, 1⟩, ⟨3, 2⟩, ⟨4, 3⟩] })

/-- Four command words in each engine queue. -/
def crowded : State :=
  let q : EngQueue := ⟨List.replicate 4 (0, 0), []⟩
  onCore (fun c => { c with qmx := q, qcp := q, qac := q }) user

theorem witness_RegisterWrites_queues : user.core.qmx.cmds.length < 4 ∧ user.core.qcp.cmds.length < 4 ∧ user.core.qac.cmds.length < 4 ∧
    4 ≤ crowded.core.qmx.cmds.length ∧ 4 ≤ crowded.core.qcp.cmds.length ∧ 4 ≤ crowded.core.qac.cmds.length ∧ (5 : DWord) ≠ 0 ∧ isQueue (.qs 0) = true ∧
    user.fib.timers.length + user.fib.expired.length + user.fib.qtm.length < 4 := by decide

theorem witness_RegisterWrites : user.core.qs[0].length < 8 ∧ 8 ≤ full.core.qs[0].length ∧ user.core.qvx.cmds.length < 4 ∧
    4 ≤ full.core.qvx.cmds.length ∧ 4 ≤ full.fib.timers.length + full.fib.expired.length + full.fib.qtm.length ∧
    2 ^ 40 ≤ (0x10000000000#64).toNat ∧ (0xFFFFFFFFFF#64).toNat < 2 ^ 40 ∧
    regOpOf (.add (.s 31) (.p 1) .z) = some ([.p 1, .z], .s 31) ∧ (∀ r ∈ [Reg.p 1, .z], isQueue r = false) ∧ (Reg.s 31).isPlain = true ∧
    user.gateFault ⟨[.p 1, .z], some (.s 31), false, false⟩ = none := by decide

/-- The head word of qs 0 has bad parity; pg is not zero. -/
def poisoned : State := onCore (fun c => { c with queuePoison := [(0, 24)] }) queued
def inExample : State := user.setCtx { user.ctx with pg := 1 }

theorem witness_GatesAndFieldFaults :
    (∃ o f, gateOf (.eret) = some o ∧ user.gateFault o = some f ∧ f.code = 0x03) ∧
    (∃ f, poisoned.gateFault ⟨[.qs 0], some (.p 1), false, false⟩ = some f ∧ f.code = 0x0E) ∧
    [Reg.qs 0].find? poisoned.badWord = some (.qs 0) ∧ (poisoned.popReg (.qs 0)).isSome = true ∧
    gateOf (.clz (.p 1) (.qs 0)) = some ⟨[.qs 0], some (.p 1), false, false⟩ ∧ user.refusedEarly .eret = false ∧ user.refusedEarly (.clz (.p 1) (.qs 0)) = false ∧
    user.gateFault ⟨[.qs 0], some (.p 1), false, false⟩ = none ∧ user.popAll [.qs 0] = none ∧ inExample.ctx.pg ≠ 0 ∧ super.sid = 7 :=
  ⟨⟨_, _, rfl, rfl, by decide⟩, ⟨_, rfl, by decide⟩, by decide, by decide, rfl, rfl, rfl, by decide, rfl, by decide, by decide⟩

/-- Privileged, id as the destination, pg not zero, a direction that a queue does not take. -/
theorem witness_FieldFaults : super.sid = 7 ∧ user.sid ≠ 7 ∧ user.ctx.pg = 0 ∧ inExample.ctx.pg ≠ 0 ∧ (none : Option Reg) ≠ some .id := by decide

/-- A trap of the fibre with run-queue index 0. -/
def aTrap (ent : Option Nat) : Trap :=
  { code := 0x12, async := false, arg := 0, ent := ent, slot := 0, epc := 64, epg := 0, eaddr := 0, eidx := 0, jent := none, chan := false,
    wdrawn := false, lost := false, extra := [] }

theorem witness_FaultsAndTrapEntry : user.sid.val < 6 ∧ user.me.ent = some 0 ∧ (aTrap (some 0)).code < 64 ∧ (aTrap (some 0)).slot < 8 := by decide

/-- Slot 7 handles a trap, with or without REMOVE. -/
def handling (ent : Option Nat) (remove : Bool) : State :=
  onCore (fun c => { c with handling := some (aTrap ent), cause := if remove then 0x8000000000000000 else 0, runq := [(0, Fibre.reset)],
                            trapbase := 0x100000000000 }) (mapped super)

theorem witness_TrapAndSupervisorInstructions :
    user.sid ≠ 7 ∧ super.Ready ⟨[], none, true, false⟩ [] super ∧ super.core.handling = none ∧
    (handling none false).core.handling = some (aTrap none) ∧ (handling (some 0) true).core.cause.getLsbD 63 = true ∧
    (handling (some 0) false).core.cause.getLsbD 63 = false ∧
    (((handling (some 0) false).vBytes (handling (some 0) false).frameAddr 256).bind fun l => ((handling (some 0) false).core.fibre? 0).bind
      fun f => ctxOfFrame l f.ctx (handling (some 0) false).core.epc (handling (some 0) false).core.epg).isSome = true ∧
    super.Ready ⟨[.p 3], none, true, false⟩ [0] super ∧ super.core.utasks.length < 8 ∧ super.outstanding = [] :=
  ⟨by decide, ⟨by decide, rfl⟩, by decide, by decide, by decide, by decide, by decide +kernel, ⟨by decide, rfl⟩, by decide, by decide⟩

/-- Entry 3 of slot 7's journal is kept. -/
def keeping : State := onCore (fun c => { c with journal := [⟨3, 4, 0, 0, .b8, false, 0, some 0x13, 0, none⟩] }) super

/-- A split-phase load to qam that has not come back. -/
def loading (a : DWord) : State := user.reserveQam a false (.load .qam .b8 false) none none

theorem witness_SupervisorWrites : (loading 0x010000010008).fenced .core ≠ [] ∧
    (handling none false).Ready ⟨[.p 3], none, true, false⟩ [0] (handling none false) ∧ super.Ready ⟨[.p 3], none, false, false⟩ [0] super ∧
    (handling none false).Ready ⟨[], some (.p 1), false, false⟩ [] (handling none false) ∧ user.Ready ⟨[], some (.p 1), false, false⟩ [] user ∧
    (handling none false).core.handling.isSome = true ∧ user.Ready ⟨[], none, false, false⟩ [] user ∧ (0 : DWord).toNat % 4 = 0 ∧
    (holds 3 0x8000000000000003 super).Ready ⟨[.p 3], none, false, false⟩ [0x8000000000000003] (holds 3 0x8000000000000003 super) ∧
    (0x8000000000000003 : DWord) = BitVec.ofNat 64 (2 ^ 63 + 3) ∧ super.core.kept 3 = false ∧ keeping.core.kept 3 = true ∧
    user.fenced .core = [] ∧ 2 ^ 24 ≤ (0x1000000 : DWord).toNat ∧ (handling none false).dstCheck (.p 1) 0 = .ok :=
  ⟨by decide, ⟨by decide, rfl⟩, ⟨by decide, rfl⟩, ⟨by decide, rfl⟩, ⟨by decide, rfl⟩, by decide, ⟨by decide, rfl⟩, by decide, ⟨by decide, rfl⟩, by decide, by decide, by decide,
    by decide, by decide, by decide⟩

theorem witness_SystemRegisters :
    SysReg.ofNum 0x026 = none ∧ SysReg.ofNum 0x00C = some .part0 ∧ userRead .cause = false ∧ userRead .status = true ∧ userWrite .part0 = false ∧
    userWrite .wlim = true ∧ superWrite .core = false ∧ superWrite .part0 = true ∧ sysReserved .wlim 1024 = true ∧ sysReserved .wlim 1023 = false ∧
    sysReserved .frm 5 = true ∧ sysReserved .frm 4 = false := by decide

/-- A fibre of a job with PRI 3. -/
def lowly : State := { user with jobs := user.jobs.set 0 { probeJob with pri := 3 } }

theorem witness_SystemRegisterWrites :
    user.Ready ⟨[], some (.p 1), false, false⟩ [] user ∧ user.Ready ⟨[.p 5], none, false, false⟩ [5] user ∧ lowly.Ready ⟨[.p 5], none, false, false⟩ [5] lowly ∧
    SysReg.ofNum 0x026 = none ∧ user.recStall = false ∧ user.replayed user.self.ent = none ∧ user.dstCheck (.p 1) 0 = .ok ∧ lowly.launchPri < 5 ∧
    (∃ n, SysReg.ofNum n = some .time) ∧ (∃ n, SysReg.ofNum n = some .pri) ∧ SysReg.tags ≠ .stagecnt :=
  ⟨⟨by decide, rfl⟩, ⟨by decide, rfl⟩, ⟨by decide, rfl⟩, by decide, by decide, by decide, by decide, by decide, ⟨0x007, by decide⟩, ⟨0x003, by decide⟩, by decide⟩

theorem witness_LocalAccesses :
    user.LocalAt { noAccess with addr := 3, size := .b1 } 1 3 ∧ user.LocalAt { noAccess with kind := .store, addr := 0xFFF8, size := .b8 } 8 0xFFF8 ∧
    user.core.poisoned 0xFFF8 8 = false ∧ (Reg.p 3 ≠ .qam) ∧ user.Ready ⟨[.p 1, .p 2], none, false, false⟩ [1, 2] user ∧
    regionOf 0 0x10000 = .none ∧ regionOf 0 0xFFFF = .own 0xFFFF ∧ (0xFFFF#64).toNat % 2 ≠ 0 ∧ 8192 < 8190 % 8192 + 4 ∧ 8184 % 8192 + 8 ≤ 8192 ∧
    (onCore (fun c => { c with part0 := 0x800000008 }) user).core.inPart0 0 8 = false ∧
    regionOf 0 0x010000010000 = .peer 1 0 ∧ (onCore (fun c => { c with part1 := 0 }) user).core.inPart1 1 = false := by
  refine ⟨?_, ?_, ?_, ?_, ⟨?_, rfl⟩, ?_⟩ <;> first | decide | (unfold State.LocalAt; decide)

theorem witness_LocalEnds : user.takes (.p 3) 0 ∧ user.takes .qam 0 ∧ user.noWaiter 3 ∧ user.Ready ⟨[.p 1], splitDst .qam, false, false⟩ [1] user ∧
    user.Ready ⟨[.p 1], splitDst (.p 3), false, false⟩ [1] user := by
  refine ⟨?_, ?_, ?_, ⟨?_, rfl⟩, ⟨?_, rfl⟩⟩ <;> first | decide | (unfold State.takes; decide) | (unfold State.noWaiter; decide)

/-- A counter-free word marked full at offset 8. -/
def filled : State := onCore (fun c => { c with full := [8] }) user

theorem witness_FullEmptyAndAtomics :
    filled.LocalAt { noAccess with kind := .ldfe, addr := 8 } 8 8 ∧ filled.core.full.contains 8 = true ∧ user.core.full.contains 8 = false ∧
    user.LocalAt { noAccess with kind := .stfe, addr := 8, a := 3 } 8 8 ∧ user.outstanding = [] ∧
    user.LocalAt { noAccess with kind := .atomic .add, addr := 4, size := .b4, a := 3, b := 0 } 4 4 ∧ user.core.counterAt 4 = none ∧
    user.core.poisoned 4 4 = false ∧ user.wideOn = false ∧ user.Ready ⟨[.p 4, .p 2, pairNext (.p 2)], some (.p 5), false, false⟩ [4, 2, 3] user ∧
    user.dstCheck (.p 5) 0 = .ok := by
  refine ⟨?_, ?_, ?_, ?_, ?_, ?_, ?_, ?_, ?_, ⟨?_, rfl⟩, ?_⟩ <;> first | decide | (unfold State.LocalAt; decide)

/-- A group whose HMOD has WIDE set. -/
def wided : State := user.setMe { user.me with hints := { user.me.hints with hmod := some (false, 0, false, false, true) } }

theorem witness_WideSwap : wided.wideOn = true ∧ (Reg.p 4).isPair = true ∧
    wided.Ready ⟨[.p 0, .p 2, pairNext (.p 2), .p 4, pairNext (.p 4)], some (.p 4), false, false⟩ [0, 2, 3, 4, 5] wided ∧
    wided.LocalAt { noAccess with kind := .cas16, addr := 0, a := 2, b := 3, c := 4, e := 5 } 16 0 ∧ wided.core.poisoned 0 16 = false ∧
    wided.core.counterAt 0 = none ∧ wided.core.counterAt 8 = none ∧ filled.fib.qam.length < 4 ∧ isRel .acq = false := by
  refine ⟨?_, ?_, ⟨?_, rfl⟩, ?_, ?_, ?_, ?_, ?_, ?_⟩ <;> first | decide | (unfold State.LocalAt; decide)

/-- A fibre with a posted store under way, and one whose journal is full. -/
def posting : State := user.addJournal 0 { noAccess with kind := .store, addr := 0x100000000000, size := .b8 }
def journalFull : State := onCore (fun c => { c with journal := (List.range 32).map fun k => ⟨k, k, 0, 0, .b8, false, 0, none, k, none⟩ }) user

theorem witness_RemoteAccessesAndFences :
    (user.checkAccess 0x010000010008 8 8 plainRefuses = .ok (.peer 1 8)) ∧ user.heldByAcquire = false ∧ user.core.freeJournal? = some 0 ∧
    journalFull.core.freeJournal? = none ∧ posting.outstanding ≠ [] ∧ user.outstanding = [] ∧ (regionOf 0 0x100000000000 = .dram) ∧
    user.core.journal = [] ∧ user.fib.qam = [] ∧ user.inTrapRegion 0x100000000000 1 = false ∧ freeTag? user.fib.qm[0] = some 0 ∧
    freeTag? { user.fib.qm[0] with tags := (List.range 64).map fun k => (k, k, false) } = none ∧
    scratchRead 0 0 = none ∧ scratchWrite 0 0 0 = none ∧ qmIndex (.p 0) = none ∧
    user.Ready ⟨[.p 1, .p 2, pairNext (.p 2)], none, false, false⟩ [1, 2, 3] user := by
  refine ⟨?_, ?_, ?_, ?_, ?_, ?_, ?_, ?_, ?_, ?_, ?_, ?_, ?_, ?_, ?_, ⟨?_, rfl⟩⟩ <;> decide

/-- A write to the host window that no flush read has covered, and one whose flush read is out. -/
def unflushed : State := user.setFib { user.fib with unflushed := true }
def flushing : State := user.setFib { user.fib with flush := some 9 }

theorem witness_RemotePaths :
    okAnd (user.checkAccess 0x200000000000 8 8 plainRefuses) (fun r => r == .host) = true ∧ user.fib.qam.length < 4 ∧
    user.fenced .sys = [] ∧ user.fib.flush = none ∧ user.fib.unflushed = false ∧ unflushed.fib.unflushed = true ∧ unflushed.fenced .sys = [] ∧
    flushing.fib.flush.isSome = true ∧ (loading 0x010000010008).fenced .die ≠ [] ∧ regionOf 0 0x010000010008 = .peer 1 8 ∧
    (∃ e ∈ (loading 0x010000010008).fib.qam, e.val = none ∧ e.addr = 0x010000010008) ∧
    user.gateFault ⟨[], none, false, false⟩ = none ∧ qmIndex (.qs 0) = none ∧ super.heldByAcquire = false ∧ freeTag? super.fib.qm[0] = some 0 ∧
    super.Ready ⟨[.p 1, .p 2, pairNext (.p 2)], none, false, false⟩ [0, 0, 0] super ∧ super.scratchStatus (scratchRead 4 1) ≠ 0 ∧ super.scratchStatus (scratchRead 4 32) = 0 ∧
    super.scratchStatus (scratchWrite 1 32 0) = 0 ∧ super.core.poisoned 32 32 = false ∧
    (∀ p ∈ shipTouches 0 0x100000500000 0 [], user.inTrapRegion p.1 p.2 = false) := by
  refine ⟨?_, ?_, ?_, ?_, ?_, ?_, ?_, ?_, ?_, ?_, ?_, ?_, ?_, ?_, ?_, ⟨?_, rfl⟩, ?_, ?_, ?_, ?_, ?_⟩ <;> decide

/-- Channel 5 runs a copy; it is halted. -/
def copying : State := onCore (fun c => { c with channels := c.channels.set 5 { Channel.reset with busy := true, elems := 2, layout := ⟨1, 64, 64, 0, 0, none⟩ } }) user
def haltedCopy : State := onCore (fun c => { c with channels := c.channels.set 5 { Channel.reset with busy := true, halted := true } }) super

theorem witness_CopyInstructions :
    user.Ready ⟨[.p 1, .p 2, .p 3], none, false, false⟩ [1, 2, 3] user ∧ user.channelHeld 5 = false ∧ copying.channelHeld 5 = true ∧
    okAnd (user.planCopy 0x2000 0x1000 64 5 false none) (fun p => p.layout.bytes != 0) = true ∧
    okAnd (user.planCopy 0x2000 0x1000 0 5 false none) (fun p => p.layout.bytes == 0) = true ∧
    okAnd (user.planCopy 0x40000 0x1000 64 5 false none) (fun _ => true) = false ∧
    okAnd (user.planMulticast 0x2000 0x1000 64 5 false none) (fun p => p.layout.bytes != 0) = true ∧
    okAnd (user.planMulticast 0x2000 0x40000 64 5 false none) (fun _ => true) = false ∧
    user.core.tags &&& 0 = 0 ∧ user.core.tags &&& 1 ≠ 1 ∧ user.core.tags &&& 1 = 0 ∧ user.dstCheck (.p 1) 0 = .ok := by
  refine ⟨⟨?_, rfl⟩, ?_, ?_, ?_, ?_, ?_, ?_, ?_, ?_, ?_, ?_, ?_⟩ <;> decide

/-- An acquire is pending in qam. -/
def acquiring : State := user.reserveQam 0x010000010008 true (.fe .ldfe .qam 0x010000010008 0) none none

theorem witness_Acquiring : acquiring.heldByAcquire = true ∧ user.heldByAcquire = false := by decide

/-- The core's job has one schedule of one entry: 64 bytes from 0x1000 to 0x2000, tag 5, fetched. -/
def scheduled : State :=
  onCore (fun c => { c with job := some 0, staged := [(0, leBytes 0x2000 8 ++ leBytes 0x1000 8 ++ leBytes 64 4 ++ [5, 0, 0, 0])] })
    { user with jobs := user.jobs.set 0 { probeJob with sched := [(probeAt, 0, 1)] } }

theorem witness_CopyProgress :
    scheduled.core.job = some 0 ∧ (scheduled.jobs.get? 0).isSome = true ∧ scheduled.core.pos 0 < 1 ∧ scheduled.core.pos 1 ≥ 0 ∧
    scheduled.core.exhausted.getLsbD 0 = false ∧ (scheduled.core.staged.get? 0).map List.length = some 24 ∧
    (scheduled.core.staged.get? 0).map entryReserved = some false ∧ scheduled.channelHeld 5 = false ∧
    okAnd (scheduled.planCopy 0x2000 0x1000 64 5 false none) (fun _ => true) = true ∧
    (copying.core.channels[(5 : Fin 8)]).mayGo 1 = true ∧ (copying.core.channels[(5 : Fin 8)]).mayGo 2 = false ∧
    (match copying.copySource (copying.core.channels[(5 : Fin 8)]) 0x1000 32 with
     | .inl (.ok l _) => l.length == 32
     | _ => false) = true ∧
    (copying.core.channels[(5 : Fin 8)]).has 1 = false ∧ (user.core.channels[(5 : Fin 8)]).busy = false := by decide

/-- Channel 5 in the course of a copy: to an address, with its next element, its flush read and its order. -/
def running (x : Channel) : State := onCore (fun c => { c with channels := c.channels.set 5 x }) user
def course : Channel := { Channel.reset with busy := true, elems := 2, layout := ⟨1, 64, 64, 0, 0, none⟩, src := 0x1000, dst := 0x2000 }

theorem witness_CopySteps :
    (∃ v, (running course).engPass course (0x2000 + (course.layout.elem 0).2.2.1) (course.layout.elem 0).2.2.2 true = some v ∧
      regionOf v.cid (BitVec.ofNat 64 0x2000) = .own 0x2000 ∧ (v.channel 5).layout.conv = none) ∧
    (running course).toHost { course with next := 2 } = false ∧ (running course).toHost { course with next := 2, dst := 0x200000000000 } = true ∧
    course.sched = none ∧ course.has 0 = false ∧ 0 < course.elems ∧ (1 ≠ course.next ∧ course.down = false ∧ course.overlap = false ∧ course.bad = none) ∧
    ({ course with flush := some (9, true) } : Channel).flush = some (9, true) ∧ ({ course with flush := some (9, false) } : Channel).flush = some (9, false) ∧
    ({ course with sched := some (1, 0) } : Channel).sched = some (1, 0) ∧ (∀ c ∈ [1], (running course).away c = false) ∧
    (regionOf 0 0x010000010000 = .peer 1 0 ∧ (running course).away 1 = false) ∧ ({ course with next := 2 } : Channel).next = course.elems :=
  ⟨⟨_, rfl, by decide, by decide⟩, by decide⟩

/-- The command word w of a slot at the head of qcp, and of qvx. -/
def commanded (w : DWord) (slot : Nat) (s : State) : State := onCore (fun c => { c with qcp := ⟨[(w, slot)], []⟩, qvx := ⟨[(w, slot)], []⟩ }) s

theorem witness_CopyCommands : (commanded 0x51 7 haltedCopy).core.qcp.cmds = [(0x51, 7)] ∧ (commanded 0x51 7 haltedCopy).core.qcp.res.length < 4 ∧
    (0x7F#64).toNat < 128 ∧ (0x50#64).toNat % 16 = 0 ∧ 2 < (0x53#64).toNat % 16 ∧ (0x51#64).toNat % 16 = 1 ∧ (0x52#64).toNat % 16 = 2 ∧
    (haltedCopy.channel 5).halted = true ∧ (user.channel 5).halted = false := by decide

theorem witness_CopyCommandFields : 128 ≤ (0x81#64).toNat ∧ (0x80#64).toNat % 16 = 0 ∧ (0x81#64).toNat % 16 = 1 ∧ (0x82#64).toNat % 16 = 2 ∧
    (commanded 0x51 3 haltedCopy).core.qcp.cmds = [(0x51, 3)] := by decide

/-- A descriptor of TSUB at 0x100: one slot of 32 bytes at 0x2000, tag 6, tiles at the start of the DRAM window. -/
def subscribing : State := bytesAt 0x100 (leBytes 0x2000 2 ++ leBytes 32 2 ++ leBytes 1 1 ++ leBytes 6 1 ++ [0, 0] ++ leBytes 0x100000000000 8 ++
  leBytes 32 8 ++ List.replicate 8 0) (mapped user)

/-- Channel 6 with a subscription of two tiles, ring slot 0 full. -/
def ringOf (full back : List (Nat × Nat)) : State :=
  let x : Channel := { Channel.reset with busy := true, subscr := true, tag := 6, dst := 0x2000, slotb := 32, nslot := 1 }
  onCore (fun c => { c with channels := c.channels.set 6 { x with va := 0x100000000000, stride := 32, elems := 2, full := full, back := back } }) subscribing

theorem witness_TileRings :
    user.Ready ⟨[.p 1, .p 2], some (.p 3), false, false⟩ [1, 2] user ∧ regionOf 0 0x100 = .own 0x100 ∧
    memBytes subscribing.mem (spHome 0 0x100) 32 = leBytes 0x2000 2 ++ leBytes 32 2 ++ leBytes 1 1 ++ leBytes 6 1 ++ [0, 0] ++
      leBytes 0x100000000000 8 ++ leBytes 32 8 ++ List.replicate 8 0 ∧
    subscribing.core.inPart0 0x100 32 = true ∧ subscribing.core.inPart0 0x2000 32 = true ∧ subscribing.channelHeld 6 = false ∧
    isQueue (.p 3) = false ∧ ((ringOf [(0, 0)] []).core.channels[(6 : Fin 8)]).full.find? (fun f => f.1 == 0) = some (0, 0) ∧
    ((ringOf [] [(0, 0)]).core.channels[(6 : Fin 8)]).back.find? (fun f => f.1 == 0) = some (0, 0) ∧
    (match (ringOf [] []).engGet ⟨0, 0⟩ none 0x100000000000 32 with
     | .ok l _ => l.length == 32
     | _ => false) = true ∧
    (match (ringOf [] [(0, 0)]).engPut ⟨0, 0⟩ none 0x100000000000 (List.replicate 32 1) with
     | .ok _ _ => true
     | _ => false) = true ∧ (ringOf [] []).core.saved = false := by
  refine ⟨⟨?_, rfl⟩, ?_, ?_, ?_, ?_, ?_, ?_, ?_, ?_, ?_, ?_, ?_⟩ <;> decide

theorem witness_TileRefusals :
    (∀ o, regionOf user.cid 0x100000000000 ≠ .own o) ∧ subscribing.core.poisoned 0x100 32 = false ∧
    (tilesMeet 0x100000000000 32 1 32 0 4722688 = false) ∧ user.sid ≠ 7 ∧ 8 ≤ (8 : DWord).toNat ∧ user.Ready ⟨[.p 5, .p 0], none, false, false⟩ [5, 0] user ∧
    (((ringOf [] []).core.channels[(6 : Fin 8)]).nslot ≠ 0 ∧ ((ringOf [(0, 0)] []).core.poisoned 0x2000 32 = false)) ∧
    ((ringOf [] []).engPass ((ringOf [] []).channel 6) 0x100000000000 32 false).isSome = true ∧
    ((ringOf [] [(0, 0)]).engPass ((ringOf [] [(0, 0)]).channel 6) 0x100000000000 32 true).isSome = true := by
  refine ⟨?_, ?_, ?_, ?_, ?_, ⟨?_, rfl⟩, ?_, ?_, ?_⟩
  · have h : regionOf user.cid 0x100000000000 = .dram := by decide
    rw [h]; intro o; nofun
  all_goals decide

/-- Entry 5 of core 0, used by the fibre with index 0; its peer is entry 9 of core 1. -/
def entry (dir mode : Bool) (type : BitVec 2) (pkind : BitVec 3) (cnt : Nat) : Endpoint :=
  { Endpoint.reset with valid := true, dir := dir, type := type, mode := mode, pkind := pkind, pep := 9, pcore := 1, cnt := cnt, slotb := 64 }
def withEntry (x : Endpoint) (s : State := user) : State := onCore (fun c => { c with endpoints := c.endpoints.set 5 x }) s

/-- The image of a sending word channel in restante mode, 1 slot, to entry 9 of core 1, at 0x100 of slot 7's core. -/
def binding : State := bytesAt 0x100 (leBytes (1 + 16 + 9 * 2 ^ 24 + 1 * 2 ^ 35) 16) super

theorem witness_ChannelChecksAndBinding :
    user.gateFault ⟨[.p 1], some (.p 1), false, true⟩ = none ∧ (user.core.endpoint 5).valid = false ∧
    (withEntry (entry true false 0 0 0)).gateFault ⟨(withEntry (entry true false 0 0 0)).sendReads 5 (.p 1), none, false, false⟩ = none ∧
    ((withEntry (entry true false 0 0 0)).core.endpoint 5).dir = true ∧ ((withEntry (entry false true 1 0 0)).core.endpoint 5).type = 1 ∧
    super.Ready ⟨[], none, true, false⟩ [] super ∧ super.Ready ⟨[.p 1], none, true, false⟩ [0] super ∧
    ((withEntry (entry false true 0 0 1) super).core.endpoint 5).idle = true ∧ ((withEntry (entry false true 0 0 0) super).core.endpoint 5).idle = false ∧
    okAnd (binding.checkOwn 0x100 16 8) (fun o => o == 0x100) = true ∧
    (let l := memBytes binding.mem (spHome 0 0x100) 16
     imageReserved l = false ∧ badSlotb (Endpoint.ofImage l) = false ∧ binding.extRefuses 0 5 (Endpoint.ofImage l) = false ∧
       (binding.core.endpoint 5).repoints (Endpoint.ofImage l) = false ∧ binding.bufferFault (Endpoint.ofImage l) = none ∧
       (Endpoint.ofImage l).pkind = 0) ∧ binding.core.inUse 5 = false := by
  refine ⟨?_, ?_, ?_, ?_, ?_, ⟨?_, rfl⟩, ⟨?_, rfl⟩, ?_, ?_, ?_, ?_, ?_⟩ <;> decide

theorem witness_EntryChecks :
    user.fieldFault ⟨[.p 1], none, false, false⟩ = none ∧ user.fieldFault ⟨[.p 1], some (.p 1), false, true⟩ = none ∧
    (user.sid ≠ 7 ∧ ((withEntry { entry false true 0 0 0 with owner := 3 }).core.endpoint 5).ownerIx ≠ user.self.ent) ∧
    ((withEntry { entry false true 0 0 0 with closed := true }).core.endpoint 5).closed = true ∧
    ((withEntry (entry false true 1 0 1) super).core.endpoint 5).valid = true ∧ badSlotb { entry false true 0 0 1 with slotb := 64 } = false ∧
    ((withEntry (entry false true 0 0 1) super).bufferFault { (entry false true 0 0 1) with buf := 0x2000, slotb := 64 }).isNone = true ∧
    okAnd (binding.checkOwn 0x10001 16 8) (fun _ => true) = false ∧
    ((entry false true 0 0 0).repoints { (entry false true 0 0 0) with pep := 3 }) = true := by decide

/-- What a channel instruction asks of entry 5. -/
theorem onEntry {s : State} {op : ChanOp} {o : Opnds} {vs : List DWord} (h1 : s.gateFault o = none) (h2 : s.entryBad (s.core.endpoint 5) (some op) = false)
    (h3 : (s.core.endpoint 5).closed = false) (h4 : s.replayed s.self.ent = none) (h5 : s.popAll o.reads = some (vs, s)) :
    s.OnEntry 5 op o vs (s.clearRsv (if op = .recv ∨ op = .recvTile then some 5 else none)) :=
  ⟨h1, h2, h3, h4, s, h5, rfl⟩

theorem witness_Sends :
    (∃ t, (withEntry (entry false true 0 0 1)).OnEntry 5 .send ⟨[.p 3], none, false, false⟩ [3] t) ∧
    (∃ t, (withEntry (entry false false 2 0 0)).OnEntry 5 .send ⟨[], none, false, false⟩ [] t) ∧
    (∃ t, (withEntry (entry false true 0 0 0)).OnEntry 5 .eos ⟨[], none, false, false⟩ [] t) ∧
    (∃ t, (withEntry (entry false true 0 0 0)).OnEntry 5 .send ⟨[.p 1, .p 3], some (.p 1), false, false⟩ [1, 3] t) ∧
    (withEntry (entry false true 0 0 0)).badTime (.p 1) = false ∧ (holds 1 0x10000000000 user).badTime (.p 1) = true ∧
    user.recMode user.fib ≠ 2 ∧ ((withEntry (entry false true 0 0 1)).core.endpoint 5).peerCore ≠ 0 ∧
    ((withEntry (entry false true 0 2 0)).box 0).outq.length < 256 ∧ (withEntry (entry false true 0 3 1)).outstanding = [] ∧
    (withEntry (entry false true 0 5 0)).recStall = false ∧ posting.outstanding ≠ [] :=
  ⟨⟨_, onEntry (by decide) (by decide) (by decide) (by decide) rfl⟩, ⟨_, onEntry (by decide) (by decide) (by decide) (by decide) rfl⟩,
    ⟨_, onEntry (by decide) (by decide) (by decide) (by decide) rfl⟩, ⟨_, onEntry (by decide) (by decide) (by decide) (by decide) rfl⟩,
    by decide, by decide, by decide, by decide, by decide, by decide, by decide, by decide⟩

/-- A channel of core 0 with itself, entry 5 to entry 9, and a fibre that waits to receive on it. -/
def paired (mode : Bool) (cnt : Nat) (waits : Bool) : State :=
  let w : Wait := { op := 3, kind := .recv 9 (.p 2), reason := 2, since := 0, due := none, thr := 0, probed := false, ep := 9, acc := none, limitHit := false, tpc := 0, live := none,
                    undo := [], sent := none }
  let f : Fibre := { Fibre.reset with ctx := Ctx.reset.inState 2 2, wait := some w }
  onCore (fun c => { c with endpoints := (c.endpoints.set 5 { entry false mode 0 0 cnt with pcore := 0 }).set 9
                              { entry true mode 0 0 0 with pep := 5, pcore := 0, owner := 1 },
                            runq := if waits then c.runq.set 1 f else c.runq }) user
def pairMsg (mode : Bool) : ChanMsg := { who := user.self, op := user.nextId, src := .core 0 5, dst := 9, body := .word 3, offer := !mode, job := none }

theorem witness_DirectSends :
    (paired true 1 false).direct 0 9 = true ∧ (paired true 1 false).direct 1 9 = false ∧ (∃ t, (paired true 1 false).OnEntry 5 .send ⟨[.p 3], none, false, false⟩ [3] t) ∧
    ((paired false 0 true).core.endpoint 9).refuses (pairMsg false) = false ∧ ((paired true 0 true).core.endpoint 9).refuses (pairMsg false) = true ∧
    ((paired false 0 false).core.userWait 9 fun k => recvsOn k == some 9) = none ∧ ((paired false 0 true).core.endpoint 9).offers = [] ∧
    ((paired false 0 true).core.userWait 9 fun k => recvsOn k == some 9).isSome = true ∧
    (((paired false 0 true).core.userWait 9 fun k => recvsOn k == some 9).bind fun x => (paired false 0 true).giveTo x.1 x.2 9 (.word 3)).isSome = true ∧
    ((withEntry (entry false true 0 1 0)).core.endpoint 5).peerCore ≠ user.cid ∧ ((withEntry { entry false true 0 1 0 with pcore := 0 }).core.endpoint 5).peerCore = user.cid ∧
    (withEntry (entry false true 0 3 0)).fieldFault ⟨(.p 1) :: (withEntry (entry false true 0 0 0)).sendReads 5 (.p 3), some (.p 1), false, false⟩ = none ∧
    (withEntry (entry false true 0 0 0)).entryBad (entry false true 0 0 0) (some .send) = false :=
  ⟨by decide, by decide, ⟨_, onEntry (by decide) (by decide) (by decide) (by decide) rfl⟩, by decide, by decide, by decide, by decide, by decide, by decide, by decide,
    by decide, by decide, by decide⟩

/-- An offer at entry 5: a word, or a last post. -/
def offered (b : Body) : State :=
  withEntry { entry true false 0 0 0 with offers := [{ who := ⟨1, 0⟩, op := 0, src := .core 1 9, dst := 5, body := b, offer := true, job := none }] }

theorem witness_ReceivesAndChoices :
    (∃ t, (offered (.word 7)).OnEntry 5 .recv ⟨[], some (.p 1), false, false⟩ [] t ∧ t.headMessage 5 = some (.word 7) ∧ t.dstCheck (.p 1) 7 = .ok) ∧
    (∃ t, (withEntry (entry true false 0 0 0)).OnEntry 5 .recv ⟨[.p 0], some (.p 1), false, false⟩ [0] t ∧ t.headMessage 5 = none) ∧
    (offered .last).headMessage 5 = some .last ∧ user.badTime (.p 0) = false ∧ user.recMode user.fib = 0 ∧
    user.Ready ⟨[], some (.p 1), false, false⟩ [] user ∧ (offered (.word 7)).maskFault 0x20 = none ∧ ((offered (.word 7)).core.endpoint 5).ready = true ∧
    ((withEntry (entry true false 0 0 0)).core.endpoint 5).ready = false ∧ (withEntry (entry true false 0 0 0)).maskFault 0x20 = none ∧
    (offered (.word 7)).replayed 0 = none ∧ (offered (.word 7)).recStall = false :=
  ⟨⟨_, onEntry (by decide) (by decide) (by decide) (by decide) rfl, by decide, by decide⟩,
    ⟨_, onEntry (by decide) (by decide) (by decide) (by decide) rfl, by decide⟩,
    by decide, by decide, by decide, ⟨by decide, rfl⟩, by decide, by decide, by decide, by decide, by decide, by decide⟩

theorem witness_ChoiceForms :
    user.Ready ⟨[.p 1], some (.p 3), false, false⟩ [1] user ∧ user.Ready ⟨[.p 1, .p 2], some (.p 3), false, false⟩ [1, 2] user ∧
    (user.maskFault 1).isSome = true ∧ (withEntry (entry true false 0 0 0)).fieldFault ⟨[.p 1], some (.p 3), false, false⟩ = none ∧
    (withEntry (entry true false 0 0 0)).entryBad (entry true false 0 0 0) (some .recv) = false ∧ (holds 2 0x10000000000 user).badTime (.p 2) = true ∧
    user.fieldFault ⟨[.p 1, .p 2], some (.p 3), false, false⟩ = none ∧ (user.clearRsv none).replayed user.self.ent = none ∧ (0 : DWord) = 0 :=
  ⟨⟨by decide, rfl⟩, ⟨by decide, rfl⟩, by decide, by decide, by decide, by decide, by decide, by decide, rfl⟩

/-- A record of 2 rows of 32 bytes (format 0), 32 apart, at 0x1000 of the own scratchpad, in slot 0 of the job's table. -/
def shaped (s : State) : State :=
  let s := onCore (fun c => { c with job := some 0, shapes := [(0, leBytes 0x1000 6 ++ [0, 0, 0, 0] ++ leBytes 2 2 ++ leBytes 32 2 ++ [0, 0] ++ leBytes 32 4 ++
    List.replicate 12 0)] }) s
  { s with jobs := s.jobs.set 0 { probeJob with shapecnt := 1 } }

def isShape (r : Resolved) : Bool :=
  match r with
  | .ok _ => true
  | _ => false

/-- A tile offered at entry 5 by core 1, of n rows. -/
def tiled (n : Nat) : State :=
  let m : ChanMsg := { who := ⟨1, 0⟩, op := 0, src := .core 1 9, dst := 5, body := .tile ⟨0x2000, 32, n, 32, 0, []⟩ [], offer := true, job := none }
  withEntry { entry true false 1 0 0 with offers := [m] } (shaped user)

def shape0 : Shape := ⟨0x1000, 0, 0, 2, 32, 32⟩

theorem witness_TileTransfers :
    isShape ((shaped user).resolve 0) = true ∧ okAnd ((shaped user).tileSide 0x1000 64) (fun o => o == 0x1000) = true ∧
    (∃ t, (withEntry (entry false false 1 0 0) (shaped user)).OnEntry 5 .sendTile ⟨[.p 0], none, false, true⟩ [0] t) ∧
    (∃ t, (withEntry (entry true false 1 0 0) (shaped user)).OnEntry 5 .recvTile ⟨[.p 0], some (.p 1), false, true⟩ [0] t ∧ t.headMessage 5 = none) ∧
    reservedBank (bankWords user.core.bfmt.toList 0x1000 64) = none ∧ user.ctx.pg = 0 ∧
    (let s := withEntry (entry false true 1 0 1) (shaped user)
     let p := s.sendEnds shape0 0x1000 5 s.core.bfmt.toList (s.coreAt 1).bfmt.toList
     okAnd (tileLayout 2 32 p.1 p.2) (fun l => l.dstSpan ≤ ((s.coreAt 1).endpoint 9).slotBytes || true) = true) ∧
    ((tiled 2).headMessage 5).isSome = true ∧
    okAnd (tileLayout 2 32 ((tiled 2).recvEnds 5 ⟨0x2000, 32, 2, 32, 0, []⟩ shape0 0x1000 user.core.bfmt.toList).1
      ((tiled 2).recvEnds 5 ⟨0x2000, 32, 2, 32, 0, []⟩ shape0 0x1000 user.core.bfmt.toList).2) (fun _ => true) = true ∧
    ((tiled 2).markArrival 0 (tileChan 5) 0x1000 0x1040 0x1000).isSome = true :=
  ⟨by decide, by decide, ⟨_, onEntry (by decide) (by decide) (by decide) (by decide) rfl⟩,
    ⟨_, onEntry (by decide) (by decide) (by decide) (by decide) rfl, by decide⟩,
    by decide, by decide, by decide, by decide, by decide, by decide⟩

/-- The ends of a plain transfer of shape0 within core 0, from 0x1000 to 0x4000. -/
def ends : TileEnd × TileEnd := (⟨0, 0x1000, 32, 0, user.core.bfmt.toList⟩, ⟨0, 0x4000, 32, 0, user.core.bfmt.toList⟩)

theorem witness_TileElements :
    user.kept = none ∧ (∃ l, tileLayout 2 32 ends.1 ends.2 = .ok l ∧ (user.tileElem l ends.1 0).isSome = true ∧
      (user.mayPass 0 0 (bankPlace 0 (0x4000 + (l.elem 0).2.2.1))).isSome = true ∧ (user.markArrival 0 (tileChan 5) 0x4000 (0x4000 + l.dstSpan) (l.markAfter 0x4000 1)).isSome = true ∧
      0 + 1 < l.elems ∧ l.elems ≤ 1 + 1) ∧
    ((withEntry (entry false true 1 3 1)).core.endpoint 5).pkind = 3 ∧ (entry false true 1 0 0).cnt = 0 ∧ rangesMeet 0x1000 64 0x4000 64 = false ∧
    rangesMeet 0x1000 64 0x1020 64 = true ∧ isBlock 0 = false := ⟨by decide, ⟨_, rfl, by decide⟩, by decide⟩

theorem witness_CopyStalls :
    (match (shaped user).resolve 0 with
     | .ok r => okAnd ((shaped user).planCopy 0x2000 0x1000 0 5 false (some r)) (fun p => p.layout.bytes != 0)
     | _ => false) = true := by decide

/-- The fibre with index 0 waits on an operation k with number 4 since time 0, in no slot. -/
def waiting (k : WaitKind) (reason : Nat) (due : Option Nat) (thr : Nat) : State :=
  let w : Wait := { op := 4, kind := k, reason := reason, since := 0, due := due, thr := thr, probed := false, ep := 5, acc := none, limitHit := false, tpc := 0, live := none, undo := [], sent := none }
  let f : Fibre := { Fibre.reset with ctx := Ctx.reset.inState 2 reason, wait := some w }
  onCore (fun c => { c with runq := [(0, f)] }) { State.reset with cycle := 14000 }

theorem witness_ChannelArrivals :
    (let m : ChanMsg := { who := ⟨1, 0⟩, op := 0, src := .core 1 9, dst := 5, body := .word 7, offer := true, job := none }
     (withEntry (entry true false 0 0 0)).liveDiscard m = false ∧ (withEntry (entry true false 0 0 0)).arrivalWaits 0 m = false ∧
       ((withEntry (entry true false 0 0 0)).core.endpoint 5).refuses m = false ∧ (user.core.endpoint 5).refuses m = true) ∧
    (user.core.userWait 5 fun k => sendsOn k == some 5) = none ∧ (user.core.userWait 5 (isTileOn 5)) = none ∧
    ((waiting (.send 5) 1 none 0).waitOf 0 4).isSome = true ∧ (user.waitOf 0 4) = none ∧
    (((waiting (.send 5) 1 none 0).waitOf 0 4).bind fun x => (waiting (.send 5) 1 none 0).finishWait 0 x.2 none 0).isSome = true ∧
    ((waiting (.recvx 5 (.p 1) (.p 2)) 2 (some 0) 0).core.fibre? 0).isSome = true ∧
    (((waiting (.recvx 5 (.p 1) (.p 2)) 2 (some 0) 0).waitOf 0 4).map fun x => (waiting (.recvx 5 (.p 1) (.p 2)) 2 (some 0) 0).withdrawable x.2) = some true ∧
    (((waiting (.recvx 5 (.p 1) (.p 2)) 2 (some 0) 0).waitOf 0 4).bind fun x =>
      (((waiting (.recvx 5 (.p 1) (.p 2)) 2 (some 0) 0).eraseOp ⟨0, 0⟩ x.2).record 0 4 5 0).finishWait 0 x.2 (some (.p 1)) 1).isSome = true := by decide

/-- Port 3 of core 0: a queue port of one slot, empty or full, without or with OVF. -/
def ported (fifo : List DWord) (ovf : Bool) : State :=
  onCore (fun c => { c with ports := [(3, { counter := false, ovf := ovf, depth := 1, arm := false, woff := 0, fifo := fifo, held := 0, waiting := [] })] }) user

theorem witness_Posts :
    user.Ready ⟨[.p 1, .p 0], none, false, false⟩ [1, 0] user ∧ (0x7FF00#64).toNat < 2 ^ 23 ∧ 2303 < (0x90000#64).toNat / 2 ^ 8 % 4096 ∧
    (0x8FF00#64).toNat / 2 ^ 8 % 4096 ≤ 2303 ∧ (onCore (fun c => { c with part1 := 0 }) user).core.inPart1 1 = false ∧ user.core.inPart1 0 = true ∧
    user.core.inPart1 18431 = true ∧ posting.outstanding ≠ [] ∧ user.core.ports.get? 3 = none ∧ ((ported [] false).core.ports.get? 3).isSome = true ∧
    ([] : List DWord).length + 0 < 1 ∧ 1 ≤ [(5 : DWord)].length + 0 := by
  refine ⟨⟨?_, rfl⟩, ?_, ?_, ?_, ?_, ?_, ?_, ?_, ?_, ?_, ?_, ?_⟩ <;> decide

/-- A descriptor of a queue port of 64 slots at 0x200, and a row's record at 0x300: ports 0 and 1, entry 64, priority 2. -/
def described : State := bytesAt 0x200 (leBytes (1 + 63 * 8) 8) (bytesAt 0x300 (leBytes 3 4 ++ leBytes 64 6 ++ leBytes 2 1 ++ [0, 0, 0, 0, 0]) user)

/-- Row 1 waits for port 3, which holds a word; entry 7 is free. -/
def armed : State :=
  onCore (fun c => { c with rows := [(1, { Row.reset with mask := 8, entry := 64, pri := 2, en := true })] }) (ported [9] false)

theorem witness_PortsAndPatterns :
    okAnd (described.checkScratch 0x200 8) (fun o => o == 0x200) = true ∧ described.core.poisoned 0x200 8 = false ∧
    portReserved (leWord (memBytes described.mem (spHome 0 0x200) 8)) = false ∧ memBytes described.mem (spHome 0 0x200) 8 = leBytes (1 + 0 * 4 + 63 * 8) 8 ∧
    described.core.namedByRow 3 = false ∧ described.portIdle 3 = true ∧ described.core.slotsUsed 3 + 63 + 1 ≤ 256 ∧ (ported [9] false).portIdle 3 = false ∧
    portReserved 0x401 = true ∧
    memBytes described.mem (spHome 0 0x300) 16 = leBytes 3 4 ++ leBytes 64 6 ++ leBytes 2 1 ++ [0, 0, 0, 0, 0] ∧ described.launchPri = 7 ∧
    described.core.rows.get? 1 = none ∧ (armed.core.rows.get? 1).isSome = true ∧ (armed.firing?).map (fun x => x.1) = some 1 ∧
    armed.core.handlerEntry? 1 = some 1 ∧ armed.core.slotOf? 1 = none ∧ user.firing? = none := by decide

theorem witness_SchedulingInstructions :
    user.Ready ⟨[], none, false, false⟩ [] user ∧ user.fib.unpopped = false ∧ queued.fib.unpopped = true ∧ user.me.ent = some 0 ∧ super.sid = 7 ∧
    user.inlineReturn = none ∧ user.Ready ⟨[.p 7], none, false, false⟩ [7] user ∧ (0x900000#64).toNat / 2 ^ 8 % 4096 ≤ 2303 ∧ user.launchPri = 7 ∧
    (0xFFFFFFFFFFFF#64).toNat < 2 ^ 48 ∧ 1023 < 1024 ∧ user.recStall = false ∧ user.replayed 0 = none :=
  ⟨⟨by decide, rfl⟩, by decide, by decide, by decide, by decide, by decide, ⟨by decide, rfl⟩, by decide, by decide, by decide, by decide, by decide, by decide⟩

/-- A SPIN of 2 in the group; the hold until cycle 20. -/
def spinning (c : Option Nat) : State := user.setMe { user.me with spin := c, hints := { user.me.hints with spin := some 2 } }

theorem witness_Spins : (spinning none).me.spin = none ∧ (spinning none).me.hints.spin = some 2 ∧ 8 * 2 ^ (2 : BitVec 4).toNat ≠ 8 ∧ (spinning (some 20)).me.spin = some 20 ∧
    (spinning (some 20)).coreCycles < 20 ∧ 0 ≤ (spinning (some 0)).coreCycles ∧ (spinning none).Ready ⟨[], none, false, false⟩ [] (spinning none) ∧
    acquiring.heldByAcquire = true ∧ user.heldByAcquire = false ∧ lowly.launchPri < 5 ∧ user.dstCheck (.p 1) 0 = .ok :=
  ⟨by decide, by decide, by decide, by decide, by decide, by decide, ⟨by decide, rfl⟩, by decide, by decide, by decide, by decide⟩

theorem witness_QueuesAndTimers :
    (∀ c ∈ user.qscTargets, (user.coreAt c).qsc.length < 4) ∧ (user.box user.qhsBox).outq.length + 2 ≤ 256 ∧ (0x7FFFFFFFFFFFFFFF#64).toNat < 2 ^ 63 ∧
    (let s := user.modCore 1 fun c => { c with qsc := [0, 0, 0, 0] }
     ∃ c ∈ s.qscTargets, 4 ≤ (s.coreAt c).qsc.length) ∧
    (let s := onCore (fun c => { c with runq := [(3, { Fibre.reset with timers := [⟨10, 0⟩] })] }) { user with cycle := 14 }
     s.core.fibre? 3 = some { Fibre.reset with timers := [⟨10, 0⟩] } ∧ s.now = 10 ∧ s.core.slotOf? 3 = none ∧ s.recMode Fibre.reset = 0) ∧
    (let s := user.setFib { user.fib with timers := [⟨10, 0⟩] }
     s.core.slotOf? 0 = some 0 ∧ s.now < 10) ∧ (Ctx.reset.inState 3 0).state = 3 ∧
    (waiting (.send 5) 1 none 0).completing 4 = false ∧ timed (.send 5) = false ∧ Ctx.reset.waitLimit = 0 ∧
    ({ Ctx.reset with status := 0x00100000 } : Ctx).waitLimit ≠ 0 ∧
    (let s := user.setMe { user.me with spin := some 1, fib := { user.fib with wait := some { op := 4, kind := .event, reason := 5, since := 0, due := none, thr := 0, probed := false, ep := 0, acc := none, limitHit := false, tpc := 0, live := none, undo := [], sent := none } } }
     s.me.spin = some 1 ∧ s.cycle < 1 ∧ s.fib.unpopped = false) := by decide

/-- A slot that has stalled since time 0, past its limit, with its word in the fetch buffer. -/
def longStalled : State := user.setMe { user.me with stall := some 0 }

theorem witness_Limits :
    2 ^ 40 ≤ (0x10000000000#64).toNat ∧ 4 ≤ full.fib.timers.length + full.fib.expired.length + full.fib.qtm.length ∧ 2 ^ 63 ≤ (0x8000000000000000#64).toNat ∧
    256 < ((user.setBox user.qhsBox { user.box user.qhsBox with outq := List.replicate 255 (0, 0, 0, .token) }).box user.qhsBox).outq.length + 2 ∧
    (((waiting (.send 5) 1 none 0).waitOf 0 4).map fun x => (waiting (.send 5) 1 none 0).tileMoving x.2) = some false ∧ longStalled.fib.wait = none ∧
    longStalled.core.slotOf? 0 = some 0 ∧ longStalled.core.slots[(0 : Fin 8)].stall = some 0 ∧ ({ longStalled with sid := 0 } : State).uncountedStall = false ∧
    Ctx.reset.state ≠ 3 ∧ user.coreCycles < 20 := by decide +kernel

theorem witness_DispatchAndDeadLetters :
    (let s := onCore (fun c => { c with runq := [(4, Fibre.reset)] }) State.reset
     s.core.freeSlot? s.coreCycles = some 0 ∧ (s.selected?).map (fun x => x.1) = some 4) ∧ State.reset.selected? = none ∧ user.displaced? = none ∧
    (let f : Fibre := { Fibre.reset with ctx := { Ctx.reset with status := 0x381 } }
     let s := onCore (fun c => { c with runq := [(4, f)] }) { user with cycle := 2000 }
     s.displaced? = some 0) ∧
    ((waiting (.send 5) 1 none 100).core.channelWait 0).isSome = true ∧ (waiting (.send 5) 1 none 0).core.channelWait 1 = none ∧
    ((waiting (.send 5) 1 none 100).dies[(0 : Fin 8)]).dlprobe ≠ 0 ∧ 0 + 100 < (waiting (.send 5) 1 none 100).now ∧
    ((withEntry (entry true false 0 0 0)).core.endpoint 5).ownerIx = 0 := by decide

/-- A fork frame of NCW slots at 0x400 with header h, its address in p6, the fibre of a det job. -/
def framed (h : Nat) : State :=
  let s := holds 6 0x400 (bytesAt 0x400 (leBytes h 8) user)
  { s with jobs := s.jobs.set 0 { probeJob with det := true } }

set_option maxRecDepth 4000 in
theorem witness_ForkAndLaunch :
    super.gateFault ⟨[.p 1, .p 2], some (.p 3), false, false⟩ = none ∧
    (framed 0x30000).Ready ⟨[.p 4, .p 2], some (.p 3), false, false⟩ [4, 2] (framed 0x30000) ∧ (framed 0x30000).job?.isSome = true ∧
    okAnd ((framed 0x30000).frameCheck 0x400) (fun o => o == 0x400) = true ∧ okAnd ((framed 0x40).frameCheck 0x400) (fun _ => true) = false ∧
    (let h := (framed 0x30000).spWord 0 0x400
     h.getLsbD 24 = false ∧ (frSpawn h + 64 - frJoin h) % 64 ≠ frNcw h ∧ frSpawn h ≠ 63 ∧ frJoin h = frSpawn h) ∧
    (let h := (framed 0x30001).spWord 0 0x400
     frJoin h ≠ frSpawn h) ∧
    pathDepth (framed 0x30000).ctx.id 0 = 0 ∧ 0 + 6 * (0 + 1) ≤ 64 ∧
    ((framed 0x30000).job?.map fun j => (j.w, j.det, j.core (placeHash 1 j.count))) = some (0, true, 0) ∧ (framed 0x30000).outstanding = [] ∧
    user.core.freeEntry? = some 1 ∧ (onCore (fun c => { c with runq := (List.range 256).map fun k => (k, Fibre.reset) }) user).core.freeEntry? = none ∧
    inDram 0x1FFFFFFFFFC0 = true ∧ inDram 0x200000000000 = false ∧ super.recStall = false ∧ super.replayed super.self.ent = none ∧
    (super.admitRecord 0 0 0 none).isSome = true := by
  refine ⟨?_, ⟨?_, rfl⟩, ?_, ?_, ?_, ?_, ?_, ?_, ?_, ?_, ?_, ?_, ?_, ?_, ?_, ?_, ?_, ?_⟩ <;> decide

/-- The frame of fibre 0 with one child forked, its slot full; a job of two cores that is not deterministic. -/
def joinable (full : Bool) : State := onCore (fun c => if full then c.setFull (0x400 + 96) true else c) (framed 0x30001)
def spread : State := { framed 0x30000 with jobs := (framed 0x30000).jobs.set 0 { probeJob with wm1 := 1, det := false } }

theorem witness_ForkForms :
    super.fieldFault ⟨[.p 1, .p 2], some (.p 3), false, false⟩ = none ∧ super.sid = 7 ∧ spread.heldByAcquire = false ∧
    (spread.job?.map fun j => (j.det, j.cores.any fun k => (spread.coreAt k).freeEntry?.isSome)) = some (false, true) ∧
    ((framed 0x30000).job?.map fun j => { j with wm1 := 1 }.core 1) = some 1 ∧ (joinable true).core.rangeStall 0 0x400 8 = false ∧
    (match ((joinable true).clearRsv none).atBank 0 (0x400 + 96) { noAccess with kind := .ldfe, addr := 0x460 } with
     | .done [_] _ _ => true
     | _ => false) = true ∧
    (match ((joinable false).clearRsv none).atBank 0 (0x400 + 96) { noAccess with kind := .ldfe, addr := 0x460 } with
     | .wait => true
     | _ => false) = true ∧ user.Ready ⟨[.p 1], some (.p 3), false, false⟩ [1] user := by
  refine ⟨?_, ?_, ?_, ?_, ?_, ?_, ?_, ?_, ⟨?_, rfl⟩⟩ <;> decide +kernel

/-- A pool whose 4,096 records are all taken admits none. -/
theorem admitRecord_full (s : State) (h : ∀ i, i < 4096 → ∃ p ∈ (s.dies[Fin.ofNat 8 0]).pool, p.idx = i) :
    s.admitRecord 0 0 0 none = none := by
  have free (lo n : Nat) (hn : lo + n ≤ 4096) : (s.dies[Fin.ofNat 8 0]).freePool? lo n = none := by
    unfold Die.freePool?
    rw [List.find?_eq_none]
    intro i hi hall
    obtain ⟨j, hj, rfl⟩ := List.mem_map.1 hi
    obtain ⟨p, hp, he⟩ := h (lo + j) (by have := List.mem_range.1 hj; omega)
    have hc := List.all_eq_true.1 hall p hp
    simp [he] at hc
  unfold State.admitRecord
  simp only [free 0 2048 (by omega), free (2048 + 256 * (0 % 8)) 256 (by omega)]
  rfl

/-- The launch pool of die 0 with the records of a list taken. -/
def pooled (s : State) (l : List Pending) : State := { s with dies := s.dies.set 0 { s.dies[(0 : Fin 8)] with pool := l } }

theorem pooled_pool (s : State) (l : List Pending) : ((pooled s l).dies[Fin.ofNat 8 0]).pool = l := by
  show (((s.dies.set 0 { s.dies[(0 : Fin 8)] with pool := l })[(0 : Fin 8)]).pool = l)
  simp

theorem witness_FullPool (s : State) : ∃ l, (pooled s l).admitRecord 0 0 0 none = none :=
  ⟨(List.range 4096).map fun i => ⟨i, 0, 0, none⟩, admitRecord_full _ fun i hi =>
    ⟨⟨i, 0, 0, none⟩, by rw [pooled_pool]; exact List.mem_map.2 ⟨i, List.mem_range.2 hi, rfl⟩, rfl⟩⟩

/-- A gang of two fibres at job 0; fibre 0 of core 0 belongs to it. -/
def ganged (arrived : List (Who × Nat)) : State :=
  let s := user.setFib { user.fib with gangs := [7] }
  let g : Gang := { num := 7, members := [⟨0, 0⟩, ⟨1, 0⟩], first := 0, last := 1, arrived := arrived }
  onCore (fun c => { c with job := some 0 }) { s with jobs := s.jobs.set 0 { probeJob with gangs := [g] } }

theorem witness_EventsAndBarriers :
    (user.eventOf 65535).isSome = true ∧ user.eventOf 65536 = none ∧ user.Ready ⟨[.p 1], none, false, false⟩ [1] user ∧
    user.fib.qev.length + user.fib.qevPend.length < 4 ∧
    (let m : EvMsg := { who := ⟨0, 0⟩, op := 4, job := 0, name := 3, die := 0, notify := false }
     (user.dies[(0 : Fin 8)]).event? m = none ∧ (user.dies[(0 : Fin 8)]).noEntry m = false) ∧
    ((waiting (.evtst (.p 1)) 5 none 0).waitOf 0 4).isSome = true ∧
    (((waiting (.evtst (.p 1)) 5 none 0).waitOf 0 4).bind fun x => (waiting (.evtst (.p 1)) 5 none 0).finishWait 0 x.2 (some (.p 1)) 1).isSome = true ∧
    (((waiting .event 5 none 0).waitOf 0 4).bind fun x => (waiting .event 5 none 0).finishWait 0 x.2 none 1).isSome = true ∧
    (0x7FFF#64).toNat < 2 ^ 15 ∧ (ganged []).job?.isSome = true ∧ 7 ∈ (ganged []).fib.gangs ∧ (ganged []).outstanding = [] ∧
    (ganged []).core.tags.getLsbD 3 = false ∧ (ganged []).core.job = some 0 ∧
    ((ganged []).job?.bind fun j => j.gangs.find? fun g => g.num = 7).isSome = true ∧ (ganged []).barWait ⟨0, 0⟩ 7 = none ∧
    (∃ m ∈ [(⟨0, 0⟩ : Who), ⟨1, 0⟩], ∀ y ∈ ([] : List (Who × Nat)) ++ [(⟨0, 0⟩, 4)], y.1 ≠ m) ∧
    (∀ m ∈ [(⟨0, 0⟩ : Who), ⟨1, 0⟩], ∃ y ∈ [((⟨1, 0⟩ : Who), 3)] ++ [(⟨0, 0⟩, 4)], y.1 = m) ∧
    (((waiting (.bar (.p 1) 7) 6 none 0).waitOf 0 4).bind fun x => (waiting (.bar (.p 1) 7) 6 none 0).finishWait 0 x.2 (some (.p 1)) 0).isSome = true := by
  refine ⟨?_, ?_, ⟨?_, rfl⟩, ?_, ?_, ?_, ?_, ?_, ?_, ?_, ?_, ?_, ?_, ?_, ?_, ?_, ?_, ?_, ?_⟩ <;> decide

/-- An event 3 of job 0 at die 0, set or not; the table of die 0 full; an event wait noted in qev. -/
def eventful (set : Bool) : State := { user with dies := user.dies.set 0 ((user.dies[(0 : Fin 8)]).putEvent ⟨0, 3, set, [], false, 0⟩) }
def noted : State := user.setFib { user.fib with qevPend := [4] }
def evMsg (notify : Bool) : EvMsg := { who := ⟨0, 0⟩, op := 4, job := 0, name := 3, die := 0, notify := notify }

theorem witness_EventForms :
    acquiring.heldByAcquire = true ∧ (acquiring.eventOf 3).isSome = true ∧ ((user.setFib { user.fib with qev := [1, 2, 3, 4] }).fib.qev).length + 0 = 4 ∧
    (((eventful true).dies[(0 : Fin 8)]).event? (evMsg false)).map (fun v => v.set) = some true ∧
    (evMsg true).notify = true ∧ (evMsg true).who.core = noted.cid ∧
    (noted.core.fibre? 0).isSome = true ∧ noted.core.slotOf? 0 = some 0 ∧ (evMsg true).op ∈ noted.fib.qevPend ∧ 2 ^ 14 ≤ (0x4300#64).toNat ∧
    (onCore (fun c => { c with tags := 8 }) (ganged [])).core.tags.getLsbD 3 = true ∧ 6 ≤ super.sid.val ∧ user.job?.isSome = true ∧ 0 ∉ user.fib.gangs ∧
    super.Ready ⟨[.p 1], none, true, false⟩ [0] super ∧ super.core.job = none ∧ 256 ≤ (256#64).toNat := by
  refine ⟨?_, ?_, ?_, ?_, ?_, ?_, ?_, ?_, ?_, ?_, ?_, ?_, ?_, ?_, ⟨?_, rfl⟩, ?_, ?_⟩ <;> decide

/-- A member of gang 7 that waits in BAR. -/
def barring : State :=
  let w : Wait := { op := 4, kind := .bar (.p 1) 7, reason := 6, since := 0, due := none, thr := 0, probed := false, ep := 0, acc := none, limitHit := false, tpc := 0, live := none,
                    undo := [], sent := none }
  let f : Fibre := { Fibre.reset with ctx := Ctx.reset.inState 2 6, wait := some w, gangs := [7] }
  onCore (fun c => { c with runq := c.runq.set 0 f, slots := c.slots.set 0 Slot.reset }) (ganged [])

theorem witness_Breaks : (barring.barWait ⟨0, 0⟩ 7).isSome = true ∧ (barring.core.job.bind barring.jobs.get?).isSome = true := by decide

theorem witness_VectorLanesAndMoves :
    user.VecFree ∧ tyFmt .c = none ∧ (tyFmt .d).isSome = true ∧ user.Ready ⟨[.p 1], none, false, false⟩ [1] user ∧ user.vecHeld = false ∧
    user.dstCheck (.p 1) (user.core.v[0].extractLsb' 448 64) = .ok ∧ blockTy .mxfp4 = true ∧ blockTy .e4m3 = false ∧
    Min.min (elemCount .d) (elemCount .mxfp4) < 32 ∧ 32 ≤ Min.min (elemCount .e4m3) (elemCount .mxfp4) := by
  refine ⟨⟨?_, ?_⟩, ?_, ?_, ⟨?_, rfl⟩, ?_, ?_, ?_, ?_, ?_, ?_⟩ <;> decide

def vecAt (r : VecAcc) : Option Nat :=
  match r with
  | .at o => some o
  | _ => none

theorem witness_VectorMemoryAndReductions :
    vecAt (user.vecAccess 0xFFC0 64 true) = some 0xFFC0 ∧ vecAt (user.vecAccess 0x1FC0 64 false) = some 0x1FC0 ∧ vecAt (user.vecAccess 0x10000 64 true) = none ∧
    user.Ready ⟨[.p 1, .p 2], none, false, true⟩ [1, 2] user ∧ user.Ready ⟨[.p 1], none, false, true⟩ [1] user ∧
    vecAt (user.vecAccess 0xFFF8 8 true) = some 0xFFF8 ∧ vecAt (user.vecAccess 0xFFFF 1 false) = some 0xFFFF ∧
    user.Ready ⟨[], some (.p 1), false, false⟩ [] user ∧ isQueue (.p 1) = false ∧ ([3, -4] : List Int).min? = some (-4) ∧ ([3, -4] : List Int).max? = some 3 := by
  refine ⟨?_, ?_, ?_, ⟨?_, rfl⟩, ⟨?_, rfl⟩, ?_, ?_, ⟨?_, rfl⟩, ?_, ?_, ?_⟩ <;> decide

/-- Records of FP64 tiles at slots 0 to 2 of the job's table: A and Bᵀ of 2 × 8, C of 2 × 2. -/
def matrices (s : State) : State :=
  let r (base rows cols stride : Nat) : List Byte := leBytes base 6 ++ [1, 0, 0, 0] ++ leBytes rows 2 ++ leBytes cols 2 ++ [0, 0] ++ leBytes stride 4 ++ List.replicate 12 0
  let s := onCore (fun c => { c with job := some 0, shapes := [(0, r 0x1000 2 8 64), (1, r 0x2000 2 8 64), (2, r 0x4000 2 2 16)] }) s
  { s with jobs := s.jobs.set 0 { probeJob with shapecnt := 3 } }

/-- The plane of an FP64 load of 8 × 2. -/
def planed (s : State) : State := onCore (fun c => { c with active := { c.active with fmt := 0, k := 8, n := 2 } }) s

def plans (s : State) (op : MatOp) (hs : List Nat) : Bool :=
  match s.resolveAll s.shapeJob hs with
  | .ok l => okAnd (s.matPlan op (if s.sid = 7 then s.core.shadow else s.core.active) l) fun _ => true
  | .error _ => false

theorem witness_MatrixInstructions :
    user.matHeld = false ∧ user.ctx.pg = 0 ∧ mwldReserved 0 = false ∧ mwldReserved 0x200000000 = true ∧ plans (matrices user) .mwld [0] = true ∧
    plans (matrices user) .mmul [0, 4096, 8192] = true ∧ plans (planed (matrices user)) .mstrm [0, 8192] = true ∧ plans (planed (matrices user)) .mrd [0] = true ∧
    user.Ready ⟨[.p 0], none, false, true⟩ [0] user ∧ user.Ready ⟨[], none, false, false⟩ [] user ∧ super.matHeld = false ∧ user.core.shadow.lost = false ∧
    (onCore (fun c => { c with seqs := c.seqs.set 0 { Seq.reset with running := true } }) user).matHeld = true ∧ user.core.held7 = false ∧
    user.core.held7 = false := by
  refine ⟨?_, ?_, ?_, ?_, ?_, ?_, ?_, ?_, ⟨?_, rfl⟩, ⟨?_, rfl⟩, ?_, ?_, ?_, ?_, ?_⟩ <;> decide

/-- Element 0 of 2 of each matrix instruction, over the tiles of `matrices`. -/
def aTile : Shape := ⟨0x1000, 1, 0, 2, 8, 64⟩
def bTile : Shape := ⟨0x2000, 1, 0, 2, 8, 64⟩
def cTile : Shape := ⟨0x4000, 1, 0, 2, 2, 16⟩
def unit : State := planed (matrices user)
def rowFree (r : Shape) (i : Nat) (read : Bool) : Bool := (unit.rowBar user.core.bfmt r i 0 r.cols true read).isNone

theorem witness_MatrixElements : unit.sid ≠ 7 ∧ unit.core.held7 = false ∧ rowFree aTile 0 true = true ∧ rowFree bTile 0 true = true ∧ rowFree bTile 1 true = true ∧
    rowFree cTile 0 true = true ∧ (unit.wholeRow user.core.bfmt cTile 0 false).isNone = true ∧ min (planeDepth 1) (8 - 0) ≤ 8 ∧
    ({ ElemRun.start (.mmul (.p 2) (.p 0) (.p 1)) 2 1 with shapes := [aTile, bTile, cTile], vec := 1 } : ElemRun).vec ≠ 0 ∧
    (ElemRun.start (.mwld (.p 0)) 2 0).k + 1 < (ElemRun.start (.mwld (.p 0)) 2 0).n ∧ (ElemRun.start (.mwld (.p 0)) 2 1).k + 1 = (ElemRun.start (.mwld (.p 0)) 2 1).n ∧
    aTile.fmt = bankCode unit.core.active.fmt ∧ aTile.fmt ≠ 0 ∧ isBlock aTile.fmt = false ∧
    (match (onCore (fun c => { c with poison := [0x1000] }) unit).wholeRow user.core.bfmt aTile 0 true with
     | some (.fault _) => true
     | _ => false) = true ∧ acquiring.heldByAcquire = true ∧
    (onCore (fun c => { c with shadow := { c.shadow with lost := true, src := some (aTile, false, 0) } }) unit).core.shadow.src = some (aTile, false, 0) := by decide +kernel

/-- A command block at 0x500: code 5, tag 63, no operands, token 9; the core has that token. -/
def blocked : State :=
  onCore (fun c => { c with captok := 9 }) (bytesAt 0x500 (leBytes 5 1 ++ leBytes 63 1 ++ List.replicate 6 0 ++ leBytes 0 8 ++ leBytes 0 4 ++ leBytes 0 4 ++ leBytes 9 8) user)

theorem witness_MatrixCommands :
    regionOf 0 0x500 = .own 0x500 ∧ blocked.core.inPart0 0x500 32 = true ∧ blocked.core.poisoned 0x500 32 = false ∧
    memBytes blocked.mem (spHome 0 0x500) 32 = leBytes 5 1 ++ leBytes 63 1 ++ List.replicate 6 0 ++ leBytes 0 8 ++ leBytes 0 4 ++ leBytes 0 4 ++ leBytes 9 8 ∧
    blocked.core.inPart1 (handleCore 0x100) = true ∧ blocked.core.mcmdOut < 4 ∧ blocked.dstCheck (.p 1) 1 = .ok ∧ (9 : DWord) = blocked.core.captok ∧
    user.core.captok = 0 ∧ (user.core.fibre? 0).isSome = true ∧ user.core.slots[(7 : Fin 8)].busy = false ∧ user.core.slots[(7 : Fin 8)].paused = false ∧
    (0x1FFFF#64).toNat < 2 ^ 17 ∧ user.core.inPart1 (keeperOf 0) = true ∧
    (((waiting (.mscl (.p 1)) 7 none 0).waitOf 0 4).bind fun x => (waiting (.mscl (.p 1)) 7 none 0).finishWait 0 x.2 (some (.p 1)) 0).isSome = true := by decide

set_option maxRecDepth 4000 in
theorem witness_MatrixCommandForms : (∀ o, regionOf user.cid 0x100000000000 ≠ .own o) ∧ 4 ≤ (onCore (fun c => { c with mcmdOut := 4 }) blocked).core.mcmdOut ∧
    2303 < (0x90000#64).toNat / 2 ^ 8 % 4096 ∧ (9 : DWord) ≠ user.core.captok ∧ 0x0F ≠ 0 ∧
    (onCore (fun c => { c with slots := c.slots.set 7 { c.slots[(7 : Fin 8)] with paused := true } }) user).core.slots[(7 : Fin 8)].paused = true ∧
    super.core.slots[(7 : Fin 8)].busy = true ∧ user.Ready ⟨[.p 0], some (.p 1), false, false⟩ [0] user := by
  refine ⟨?_, ?_, ?_, ?_, ?_, ?_, ?_, ⟨?_, rfl⟩⟩
  · have h : regionOf user.cid 0x100000000000 = .dram := by decide
    rw [h]; intro o; nofun
  all_goals decide

theorem witness_Accumulators :
    user.LocalAt { noAccess with kind := .accz, addr := 0x1FB8 } 8 0x1FB8 ∧ user.LocalAt { noAccess with kind := .accset, addr := 0, a := 5 } 8 0 ∧
    user.LocalAt { noAccess with kind := .accrd, addr := 0 } 8 0 ∧ user.core.poisoned 0 72 = false ∧ okAnd (user.cellCheck 0) (fun o => o == 0) = true ∧
    okAnd (user.cellCheck 72) (fun o => o == 72) = true ∧ okAnd (user.cellCheck 0x1FC0) (fun _ => true) = false ∧ regionOf 0 0 = .own 0 ∧
    user.Ready ⟨[.p 0, .p 2], none, false, true⟩ [0, 2] user ∧ user.core.rangeStall 0 8 8 = false := by
  refine ⟨?_, ?_, ?_, ?_, ?_, ?_, ?_, ?_, ⟨?_, rfl⟩, ?_⟩ <;> first | decide | (unfold State.LocalAt; decide)

/-- The elements of ACCW and ACCMV: word 1 of a cell with a carry, with none left, and of two cells. -/
theorem witness_AccumulatorElements :
    acquiring.heldByAcquire = true ∧ user.heldByAcquire = false ∧ (∀ w ∈ ([0x100, 5, 0] : List DWord).drop 2, w = 0) ∧ ([0x100, 5, 7] : List DWord).getD (1 + 1) 0 ≠ 0 ∧
    user.core.rangeStall 0 0x108 8 = false ∧ user.core.poisoned 0x108 8 = false ∧ user.core.rangeStall 0 0x208 8 = false ∧ user.core.poisoned 0x208 8 = false := by
  refine ⟨?_, ?_, by simp, ?_, ?_, ?_, ?_, ?_⟩ <;> decide

/-- A descriptor at 0x600 that starts the vector sequencer on one word at 0x700; with a sequencer that runs at a VADD. -/
def forking : State := bytesAt 0x600 (List.replicate 16 0 ++ leBytes 0x700 2 ++ leBytes 1 2 ++ leBytes 1 2 ++ List.replicate 26 0) user
def sequenced (w : Nat) : State :=
  onCore (fun c => { c with seqs := c.seqs.set 1 { Seq.reset with running := true, paddr := 0x700, nword := 1, rep := 1, owner := some ⟨0, 0⟩, joined := false } })
    (bytesAt 0x700 (leBytes w 4) user)

theorem witness_Sequencers :
    regionOf 0 0x600 = .own 0x600 ∧ forking.core.inPart0 0x600 48 = true ∧ forking.xforkFault (memBytes forking.mem (spHome 0 0x600) 48) = none ∧
    (seqEntry (memBytes forking.mem (spHome 0 0x600) 48) 1).2.2 ≠ 0 ∧ (∀ e : Fin 3, (forking.core.seqs[e]).running = false) ∧
    ((sequenced 0).core.seqs[(1 : Fin 3)]).owner = some (sequenced 0).self ∧ (commanded 0x21 7 (sequenced 0)).core.qvx.cmds = [(0x21, 7)] ∧
    ((sequenced 0).seq .vec).running = true ∧ (user.seq .vec).running = false ∧ engOf 2 = some .cpy ∧ engOf 1 = some .vec ∧
    (match decode (BitVec.ofNat 32 (leNat (memBytes (sequenced 0xC0000005).mem (spHome 0 0x700) 4))) with
     | .ok i => (seqExec .vec i).isSome
     | .error _ => false) = true ∧ decode 0 = .error .illegalOp ∧ seqReg (.s 0) = true ∧ seqReg (.p 0) = false ∧
    (user.setMe { user.me with run := some (ElemRun.start (.mwld (.p 0)) 2 0) }).me.run.isSome = true := by decide

theorem witness_SequencerStates :
    acquiring.heldByAcquire = true ∧ (loading 0x10).ownPending = true ∧ forking.ownPending = false ∧ forking.heldByAcquire = false ∧
    (onCore (fun c => { c with channels := c.channels.set 0 { course with bySeq := true } }) (sequenced 0)).core.seqCopies ⟨0, 0⟩ = true ∧
    (sequenced 0).core.seqCopies ⟨0, 0⟩ = false ∧ ((sequenced 0).core.seqs[(1 : Fin 3)]).joined = false ∧ ((sequenced 0).seq .vec).stopped = false ∧
    ((sequenced 0).seq .vec).run = none ∧ (sequenced 0).core.poisoned 0x700 4 = false ∧ decode 0x04800000 = .error .reservedField := by decide

/-! What reaches a core and the agents. -/

def aResult (code : Nat) : Result := ⟨code, 0x10000, false, [5]⟩
def journalled : State := onCore (fun c => { c with journal := [⟨3, 4, 0, 0, .b8, false, 0, none, 0, none⟩] }) user

/-- A request of fibre 0 of core 0 to stack 0, at the start of the DRAM window. -/
def req : Req := { stack := 0, routine := 0, priv := false, w32 := false, w128 := false, tag := 0, queue := 0, origin := 0, who := ⟨0, 0⟩, op := 4, via := .wait, jent := 0, hops := 0, hinted := false, va := 0x100000000000, a := 0, b := 0, payload := [], job := none }

theorem witness_Replies :
    ((waiting (.load (.p 1) .b8 false) 2 none 0).waitOf 0 4).isSome = true ∧ isPost (.load (.p 1) .b8 false) = false ∧
    (((waiting (.load (.p 1) .b8 false) 2 none 0).waitOf 0 4).bind fun x =>
      (waiting (.load (.p 1) .b8 false) 2 none 0).finishAccess 0 x.2 (aResult 0)).isSome = true ∧
    user.waitOf 0 4 = none ∧ (∀ c : Fin 8, ∀ x ∈ (user.core.channels[c]).flight, x.2 ≠ 4) ∧
    ((waiting (.load (.p 1) .b8 false) 2 none 0).waitOf 0 4).map (fun x => x.1.ctx.state) = some 2 ∧ user.core.journalEntry 3 4 = none ∧
    (journalled.core.journalEntry 3 4).isSome = true ∧ (aResult 0x13).code ≠ 0x0C ∧ (aResult 0x0C).code = 0x0C ∧
    (user.core.fibre? 0).isSome = true ∧ user.core.slotOf? 0 = some 0 ∧ (aResult 0x13).code ≠ 0x0E ∧
    ((waiting .event 5 none 0).core.fibre? 0).isSome = true ∧ (waiting .event 5 none 0).core.slotOf? 0 = none ∧
    req.who.core = user.cid ∧ req.origin = 0 ∧ scratchWrite 0 0 0 = none := by decide

/-- A fibre whose flush read 9 is out; a fibre that has a message from a server under way. -/
theorem witness_ReplyForms :
    flushing.waitOf 0 9 = none ∧ (flushing.core.fibre? 0).bind (fun f => f.flush) = some 9 ∧ (∀ c : Fin 8, (user.core.channels[c]).flush ≠ some (4, false)) ∧ 0 < 20000 ∧
    scratchWrite 1 32 0 = some (32, 32) ∧ ((loading 0x10).fib.qam.map fun q => q.op) = [user.nextId] ∧
    ((waiting (.load (.p 1) .b8 false) 2 none 0).core.fibre? 0).bind (fun f => f.wait.map fun w => w.op) = some 4 := by decide

def loadOf (a : DWord) : Access := { noAccess with kind := .load, addr := a, size := .b8 }
def far : Issuer := ⟨⟨1, 0⟩, 4, .wait, none⟩
def busy6 : State := onCore (fun c => { c with slots := c.slots.set 6 { c.slots[(6 : Fin 8)] with busy := true } }) user

def bankIs (r : BankOut) (k : Nat) : Bool :=
  match r with
  | .wait => k == 0
  | .refuse _ => k == 1
  | .done _ _ f => !f && k == 2

/-- Notify page 2, exposed to the host, with its register 5 bound to entry 9 of core 3. -/
def exposing : State := { user with host := { user.host with notify := [(2, 1)], bound := [(256 + (2 * 512 + 5), (3, 9))] } }

theorem witness_OwnerAccesses :
    (∃ off, regionOf 30000 (loadOf 0x010000000010).addr = .peer user.cid off ∧ (loadOf 0x010000000010).addr.toNat % 65536 = off ∧
      user.core.rangeStall user.cid off (accSpan (loadOf 0x010000000010)) = false ∧ user.core.ownerFault user.cid off (accSpan (loadOf 0x010000000010)) = none) ∧
    user.core.amq = [] ∧ user.core.slot6Busy = false ∧ user.core.saved = false ∧ user.core.halted = false ∧
    (user.core.ownerFault 0 0x1FFC (accSpan (loadOf 0x010000001FFC))).isSome = true ∧ isPosted far = false ∧
    (let u := onCore (fun c => { c with recent6 := (user.coreCycles :: c.recent6).take 2 }) user
     bankIs (u.atBank 0 0x10 (loadOf 0x010000000010)) 2 = true ∧ bankIs (u.atBank 0 0x10 { loadOf 0x010000000010 with kind := .ldfe }) 0 = true) ∧
    busy6.core.slot6Busy = true ∧ busy6.core.amq = [] ∧ regionOf 30000 (loadOf 0x020000000000).addr = .none ∧
    bankIs ((onCore (fun c => { c with poison := [0x10] }) user).atBank 0 0x10 (loadOf 0x010000000010)) 1 = true ∧
    (user.satisfy far (loadOf 0x010000000010) [5]).isSome = true ∧
    user.exposed 2 true = false ∧ exposing.exposed 2 true = true ∧ (exposing.pageWord 2).getLsbD 2 = false ∧
    exposing.host.bound.get? (256 + (2 * 512 + 5)) = some (3, 9) := by
  refine ⟨⟨0x10, ?_, ?_, ?_, ?_⟩, ?_, ?_, ?_, ?_, ?_, ?_, ?_, ?_, ?_, ?_, ?_, ?_, ?_, ?_, ?_, ?_⟩ <;> decide

theorem witness_OwnerRefusals :
    0x10 % 8192 + accSpan (loadOf 0x010000000010) ≤ 8192 ∧ (onCore (fun c => { c with part1 := 1 }) user).core.inPart1 (onCore (fun c => { c with part1 := 1 }) user).cid = false ∧
    (onCore (fun c => { c with part0 := 0x100000020 }) user).core.part0.toNat % 2 ^ 16 > 0x10 ∧
    (onCore (fun c => { c with arrivals := [⟨1, 0, 0, 64, 0⟩] }) user).core.rangeStall 0 0x10 8 = true := by decide

def tasked : State := onCore (fun c => { c with utasks := [(0x40, 7, none)] }) user
def trapped : State := onCore (fun c => { c with traps := [aTrap (some 0)] }) user

/-- An envelope of agent 0 for agent 1 with number q. -/
def enveloped (q : BitVec 16) : State :=
  let e : Envelope := { src := 0, dst := 1, seq := q, kind := 1, len := 1, vc := List.replicate 18 0, upd := none }
  let p : Packet := { num := 3, src := 0, dst := 2304, after := [], afterWho := none, order := [], env := some e, admitted := none, held := false, ev := .creditReturn 5 }
  { user with net := [p] }

theorem witness_CoreArrivals :
    user.stalledOn 0x40000001 = [] ∧ user.core.slot7Free = true ∧ user.core.traps = [] ∧ super.core.slot7Free = false ∧
    trapped.core.nextTrap?.isSome = true ∧ trapped.core.slot7Free = true ∧ tasked.core.utasks = (0x40, 7, none) :: [] ∧ tasked.core.traps = [] ∧
    tasked.core.slot7Free = true ∧ trapped.core.traps ≠ [] ∧ (∀ p ∈ user.net, p.num ≠ 3) ∧
    ((enveloped 1).net.find? fun p => p.num == 3).isSome = true ∧
    (((enveloped 1).net.find? fun p => p.num == 3).map (enveloped 1).admissible) = some true ∧
    (((enveloped 2).net.find? fun p => p.num == 3).map (enveloped 2).admissible) = some false ∧ (∀ p ∈ (enveloped 1).net, p.held = false) := by decide

/-- Slot 0 stands at a word whose line is not held. -/
def lineless : State := onCore (fun c => { c with lines := [] }) (user.setMe { user.me with stall := some 0 })

theorem witness_LineFills : lineless.stalledOn 0x4000000000 = [(0, 0x100000000000, none)] ∧ (0x13 : Nat) ≠ 0 := by decide

/-! Memory servers. -/

/-- Stack 0 holds the translation of the first page, and no granule is uncorrectable. -/
def served : State := mapped State.reset
def page0 : Page := ⟨true, false, false, false, 0, 0, 0, 8388608⟩
def roPage : State := { State.reset with hbm := State.reset.hbm.set 0 { Stack.reset with cache := [(0, { page0 with ro := true })] } }
def badGranule : State := { served with hbm := served.hbm.set 0 { served.hbm[(0 : Fin 8)] with poison := [0] } }
def elsewhere : State := { State.reset with hbm := State.reset.hbm.set 0 { Stack.reset with cache := [(0, { page0 with home := 3 })] } }

theorem serves (q : Req) (p : Page) (s : State) (n : Nat) (h1 : q.va.toNat % n = 0) (h2 : s.walking q = false) (h3 : s.cached q.stack q.va.toNat = some p)
    (h4 : s.migrations = []) (h5 : p.home = q.stack) : s.Serves q n p := ⟨h1, h2, h3, by simp [State.migHold, h4], h5⟩

theorem witness_ServerRoutines :
    (∀ n, (served.stack req.stack).bad (page0.pa req.va.toNat) n = []) ∧ page0.ro = false ∧ served.Serves req 64 page0 ∧ served.Serves req 32 page0 ∧
    served.Serves req 16 page0 ∧ served.Serves req 8 page0 ∧ served.Serves { req with w32 := true } 4 page0 ∧ served.Serves { req with w128 := true } 16 page0 ∧
    page0.pa req.va.toNat % 256 + 72 ≤ 256 ∧ xaccType ((5 : DWord).toNat % 16) = some .w ∧ (accAddend (accValue .w 5)).1.isSome = true := by
  have h (q : Req) (n : Nat) (h1 : q.va.toNat % n = 0) (h3 : served.cached q.stack q.va.toNat = some page0) (h5 : page0.home = q.stack) :
      served.Serves q n page0 := serves q page0 served n h1 rfl h3 rfl h5
  refine ⟨fun n => rfl, rfl, h _ _ ?_ ?_ ?_, h _ _ ?_ ?_ ?_, h _ _ ?_ ?_ ?_, h _ _ ?_ ?_ ?_, h _ _ ?_ ?_ ?_, h _ _ ?_ ?_ ?_, ?_, ?_, ?_⟩ <;> decide

theorem unwalked (va : Nat) : State.reset.walk va = none := by
  have m (a : Nat) : memGet State.reset.mem a = 0 := rfl
  have h (a : Nat) : memBytes State.reset.mem a 16 = [0, 0, 0, 0, 0, 0, 0, 0, 0, 0, 0, 0, 0, 0, 0, 0] := by simp only [memBytes, m]
  have h0 : pageOfBytes [0, 0, 0, 0, 0, 0, 0, 0, 0, 0, 0, 0, 0, 0, 0, 0] = none := by decide
  simp only [State.walk, bucketEntries, List.map, List.findSome?, h, h0]

def migrating (copied : Bool) : State :=
  { State.reset with migrations := [{ num := 2, page := page0, newHome := 3, newPfn := 1, req := req, copied := copied, queued := [], held := [] }] }

theorem witness_ServerRefusals :
    ({ req with va := 0x100000000004 } : Req).va.toNat % 8 ≠ 0 ∧ req.va.toNat % 8 = 0 ∧ State.reset.walking req = false ∧
    State.reset.cached req.stack req.va.toNat = none ∧ roPage.Serves req 8 { page0 with ro := true } ∧ badGranule.Serves req 8 page0 ∧ page0.tol = false ∧
    (badGranule.stack req.stack).bad (page0.pa req.va.toNat) 8 ≠ [] ∧ elsewhere.cached req.stack req.va.toNat = some { page0 with home := 3 } ∧
    elsewhere.migHold req = .free ∧ ({ page0 with home := 3 } : Page).home ≠ req.stack ∧ req.hops < 2 ∧ 2 ≤ ({ req with hops := 2 } : Req).hops ∧ req.priv = false ∧
    req.origin = 0 ∧ served.Serves { req with routine := 30 } 1 page0 ∧ served.routines.get? 30 = none ∧ State.reset.walk req.va.toNat = none ∧
    (∀ m ∈ State.reset.migrations, m.num ≠ 2) ∧ ((migrating true).migrations.find? fun x => x.num == 2 && x.copied).isSome = true ∧
    ((migrating false).migrations.find? fun x => x.num == 2 && !x.copied).isSome = true ∧
    (let x : Stack := { Stack.reset with allow := [(4, -1)], window := some 100 }
     x.allowance 4 < 0 ∧ 0 ≤ x.allowance 5 ∧ Stack.reset.window = none ∧ x.window = some 100 ∧ State.reset.now < 100 ∧
       100 ≤ ({ State.reset with postmark := 100 } : State).now) := by
  refine ⟨?_, ?_, ?_, ?_, serves _ _ _ _ ?_ ?_ ?_ ?_ ?_, serves _ _ _ _ ?_ ?_ ?_ ?_ ?_, ?_, ?_, ?_, rfl, ?_, ?_, ?_, ?_, ?_, serves _ _ _ _ ?_ ?_ ?_ ?_ ?_, ?_,
    unwalked _, ?_, ?_, ?_, ?_⟩ <;> decide

/-- What the forms of the servers ask beside: no replay substitutes a read; a window that is open, with fewer than eight postponed refreshes. -/
theorem witness_ServerForms : (served.focus req.who.core 0).replayed req.who.ent = none ∧
    (let x : Stack := { Stack.reset with window := some 100 }
     x.window = some 100 ∧ State.reset.now < 100 ∧ x.allowance 5 < 8) ∧ 0 ≤ Stack.reset.allowance 5 ∧ Stack.reset.window = none := by decide

/-- The page of the DRAM window in the directory of its address. -/
def walkedAt : Nat := bucketAt (directoryOf 0x100000000000) (0x100000000000 / 2 ^ 30 * 512)
def walked : State := { State.reset with mem := memPut [] walkedAt page0.bytes }
def publishing : State := { mapped State.reset with jobs := [(0, { probeJob with shapebase := 0x100000000000, shapecnt := 1 })] }
def routine24 : Routine := ⟨24, false, [0], []⟩

theorem walked_walk : walked.walk 0x100000000000 = some (walkedAt, page0) := by
  have h : memBytes walked.mem walkedAt 16 = page0.bytes := by
    have k := memBytes_memPut page0.bytes [] walkedAt
    rwa [show page0.bytes.length = 16 from leBytes_length _ _] at k
  have h0 : pageOfBytes page0.bytes = some page0 := by decide
  have c : page0.covers 0x100000000000 = true := by decide
  have g : page0.giga = true := rfl
  have e : bucketAt (directoryOf 0x100000000000) (0x100000000000 / 2 ^ 30 * 512) = walkedAt := rfl
  simp only [State.walk, e, bucketEntries, List.map, List.findSome?, Nat.mul_zero, Nat.add_zero, h, h0, c, g, decide_true, Bool.and_true, if_true]

theorem witness_ServerServices :
    served.Serves req 1 page0 ∧ (List.replicate 8 (0 : BitVec 32)).length = 8 ∧ (∀ n pa, (served.stack req.stack).bad pa n = []) ∧
    (∀ o ∈ List.replicate 8 (0 : BitVec 32), (req.va.toNat + o.toNat) % 8 = 0 ∧ page0.covers (req.va.toNat + o.toNat) = true) ∧
    req.va.toNat % 32 = 0 ∧ page0.ro = false ∧ req.job = none ∧ publishing.Serves { req with job := some 0, a := 0x100000000020 } 1 page0 ∧
    (publishing.jobs.get? 0).isSome = true ∧ (publishing.jobs.get? 0).map (fun j => (j.shapebase, j.shapecnt)) = some (0x100000000000, 1) ∧
    inDram 0x100000000020 = true ∧ (publishing.vBytes 0x100000000020 32).isSome = true ∧ ({ req with priv := true } : Req).priv = true ∧
    served.loadImage 1 = none ∧ (0x1803#64).toNat % 256 = 3 ∧ 24 ≤ (24 : DWord).toNat % 64 ∧
    ({ served with routines := [(24, routine24)] } : State).Serves { req with routine := 24 } 1 page0 ∧
    ({ served with routines := [(24, routine24)] } : State).routines.get? 24 = some routine24 ∧ walked.walk 0x100000000000 = some (walkedAt, page0) ∧
    req.routine < 24 ∧ ({ req with origin := 1 } : Req).origin ≠ 0 ∧ req.who.core = served.cid ∧ (0x3 : DWord).toNat % 256 ≠ 0 := by
  refine ⟨serves _ _ _ _ ?_ ?_ ?_ ?_ ?_, ?_, fun n pa => rfl, fun o ho => (List.eq_of_mem_replicate ho) ▸ ?_, ?_, ?_, ?_, serves _ _ _ _ ?_ ?_ ?_ ?_ ?_, ?_, ?_, ?_, ?_, ?_, ?_, ?_, ?_,
    serves _ _ _ _ ?_ ?_ ?_ ?_ ?_, ?_, walked_walk, ?_, ?_, ?_, ?_⟩ <;> decide

/-! Management commands. -/

/-- A command block (Table 16-7), at the start of the DRAM window. -/
def block (op siglen a0 a1 a2 : Nat) (nonce : Nat) : List Byte :=
  leBytes op 2 ++ leBytes siglen 2 ++ leBytes 0 4 ++ leBytes a0 8 ++ leBytes a1 8 ++ leBytes a2 8 ++ leBytes nonce 32
def withBlock (l : List Byte) (s : State := user) (sub : Submitter := .host) : State :=
  mapped { s with mem := memPut s.mem (dramHome 0 0) l, mgmt := { s.mgmt with cmds := [⟨0x100000000000, sub⟩] } }
def theCmd (sub : Submitter := .host) : Cmd := ⟨0x100000000000, sub⟩
def args (l : List Byte) : CmdArgs := argsOf 0x100000000000 l

/-- The state that a command leaves when it is taken. -/
def taken (s : State) (_c : Cmd := theCmd) : State := ({ s with mgmt := { s.mgmt with cmds := s.mgmt.cmds.tail } } : State).vNote 0x100000000000 64

theorem commands (s : State) (sub : Submitter) (l : List Byte) (op : Nat) (n : Names) (h0 : s.mgmt.cmds.head? = some (theCmd sub)) (h1 : s.mgmt.waiting = [])
    (h2 : s.mgmt.power ≠ .off) (h3 : ({ s with mgmt := { s.mgmt with cmds := s.mgmt.cmds.tail } } : State).vBytes 0x100000000000 64 = some l)
    (h4 : fieldOf l 0 1 = op) (h5 : unnamed n l (args l) = false) : s.Commanded (theCmd sub) op n (args l) (taken s (theCmd sub)) :=
  ⟨rfl, h0, h1, h2, (by decide : (0x100000000000#48).toNat % 64 = 0), (by decide : inDram (0x100000000000#48).toNat = true), l, h3, rfl, h4, h5⟩

set_option maxRecDepth 4000 in
theorem witness_ManagementCommands :
    IsCommand theCmd (.urgent theCmd) 0x05 ⟨true, true, true, 1, false⟩ ∧ user.mgmt.waiting = [] ∧ user.mgmt.power ≠ .off ∧
    ({ user.mgmt with waiting := [theCmd (.core 3)] } : Mgmt).waiting ≠ [theCmd] ∧ ({ user.mgmt with power := .off } : Mgmt).power = .off ∧
    (0x100000000020#48).toNat % 64 ≠ 0 ∧ inDram 0x0FFFFFFFFFC0 = false ∧
    (∃ l, (withBlock (block 5 0 0 0 0 0)).vBytes 0x100000000000 64 = some l ∧ fieldOf l 0 1 ≠ 4 ∧ unnamed ⟨true, false, false, 0, false⟩ (block 4 0 0 1 0 0) (args (block 4 0 0 1 0 0)) = true) ∧
    (withBlock (block 5 0 0x100 0x40 7 1)).Commanded theCmd 0x05 ⟨true, true, true, 1, false⟩ (args (block 5 0 0x100 0x40 7 1)) (taken (withBlock (block 5 0 0x100 0x40 7 1))) ∧
    coreArg 0x100 = some 1 ∧ coreArg 1 = none ∧ 0x40 < 2 ^ 48 ∧ 0x40 % 4 = 0 ∧ (user.coreAt 1).utasks.length < 8 ∧
    8 ≤ ((user.modCore 1 fun c => { c with utasks := List.replicate 8 (0, 0, none) }).coreAt 1).utasks.length ∧
    leNat ((args (block 5 0 0x100 0x40 7 1)).nonce.take 1) = 1 ∧ leNat ((args (block 5 0 0x100 0x40 7 0)).nonce.take 1) = 0 ∧
    (withBlock (block 0x11 0 1500 0 0 0)).Commanded theCmd 0x11 ⟨true, false, false, 0, false⟩ (args (block 0x11 0 1500 0 0 0)) (taken (withBlock (block 0x11 0 1500 0 0 0))) ∧
    (withBlock (block 0x30 0 9 0 0 0)).Commanded theCmd 0x30 ⟨true, false, false, 0, false⟩ (args (block 0x30 0 9 0 0 0)) (taken (withBlock (block 0x30 0 9 0 0 0))) ∧
    user.mgmt.admitted = false ∧
    (withBlock (block 0x31 0 7 0x100000000040 16 0)).Commanded theCmd 0x31 ⟨true, true, true, 16, false⟩ (args (block 0x31 0 7 0x100000000040 16 0)) (taken (withBlock (block 0x31 0 7 0x100000000040 16 0))) ∧
    inDram 0x100000000040 = true ∧ 0x100000000040 % 64 = 0 ∧
    (withBlock (block 0x32 0 0 0x100000000040 0 0)).Commanded theCmd 0x32 ⟨true, true, false, 0, false⟩ (args (block 0x32 0 0 0x100000000040 0 0)) (taken (withBlock (block 0x32 0 0 0x100000000040 0 0))) ∧
    ((withBlock []).vPut 0x100000000040 ((withBlock []).counterBytes 0 0)).isSome = true ∧
    (withBlock (block 0x33 0 5 0 9 0)).Commanded theCmd 0x33 ⟨true, true, true, 16, false⟩ (args (block 0x33 0 5 0 9 0)) (taken (withBlock (block 0x33 0 5 0 9 0))) ∧
    badTable (args (block 0x33 0 5 0 9 0)) = false ∧ (∀ b ∈ (args (block 0x33 0 5 0 9 0)).nonce, b = 0) ∧ user.mgmt.ready = false ∧
    badTable (args (block 0x33 0 2 63 0x10001 5)) = false ∧ badTable (args (block 0x33 0 0 4095 1 0)) = false ∧ badTable (args (block 0x33 0 1 3839 1 0)) = false ∧
    badTable (args (block 0x33 0 3 32767 5 0)) = false ∧ badTable (args (block 0x33 0 4 0 0x40000000 0)) = false ∧ badTable (args (block 0x33 0 6 0 4 0)) = false := by
  refine ⟨.inr (.inr (.inr (.inr (.inl ⟨rfl, rfl, rfl⟩)))), ?_, ?_, ?_, ?_, ?_, ?_, ⟨_, rfl, ?_, ?_⟩, commands _ _ _ _ _ ?_ ?_ ?_ ?_ ?_ ?_, ?_, ?_, ?_, ?_, ?_, ?_, ?_, ?_,
    commands _ _ _ _ _ ?_ ?_ ?_ ?_ ?_ ?_, commands _ _ _ _ _ ?_ ?_ ?_ ?_ ?_ ?_, ?_, commands _ _ _ _ _ ?_ ?_ ?_ ?_ ?_ ?_, ?_, ?_, commands _ _ _ _ _ ?_ ?_ ?_ ?_ ?_ ?_,
    ?_, commands _ _ _ _ _ ?_ ?_ ?_ ?_ ?_ ?_, ?_, ?_, ?_, ?_, ?_, ?_, ?_, ?_, ?_⟩ <;> decide

/-- A qhs with room and one without; the clock set once; a place for two words of RECCFG; what COUNTERS and SETTABLE refuse. -/
theorem witness_ManagementForms :
    (user.coreAt 0).qhs.length < 4 ∧ 4 ≤ ((onCore (fun c => { c with qhs := [0, 0, 0, 0] }) user).coreAt 0).qhs.length ∧ (theCmd (.core 0)).sub = .core 0 ∧
    ({ user.mgmt with clockSet := true } : Mgmt).clockSet = true ∧ user.mgmt.clockSet = false ∧ 2 < 3 % 256 ∧ 7 ≤ 7 ∧ 7 < 8 ∧
    ({ user.mgmt with ready := true } : Mgmt).ready = true := by decide

/-- The controller in a security state and a debug mode. -/
def secured (x : Sec) (d : Dbg) (s : State := user) : State := { s with mgmt := { s.mgmt with sec := x, dbg := d } }

/-- The signatures are opaque values: what holds here is all that the statement asks beside them. -/
theorem witness_SecurityStates :
    (withBlock (block 0x20 9 0 3 0 77)).Commanded theCmd 0x20 ⟨false, true, false, 32, true⟩ (args (block 0x20 9 0 3 0 77)) (taken (withBlock (block 0x20 9 0 3 0 77))) ∧
    (withBlock (block 0x21 9 0 0 0 0)).Commanded theCmd 0x21 ⟨false, false, false, 0, true⟩ (args (block 0x21 9 0 0 0 0)) (taken (withBlock (block 0x21 9 0 0 0 0))) ∧
    (withBlock (block 0x22 9 0 0 0 0)).Commanded theCmd 0x22 ⟨false, false, false, 0, true⟩ (args (block 0x22 9 0 0 0 0)) (taken (withBlock (block 0x22 9 0 0 0 0))) ∧
    (withBlock (block 0x23 9 0 0 0 0)).Commanded theCmd 0x23 ⟨false, false, false, 0, true⟩ (args (block 0x23 9 0 0 0 0)) (taken (withBlock (block 0x23 9 0 0 0 0))) ∧
    (withBlock (block 0x12 0 0x55 0 0 0)).Commanded theCmd 0x12 ⟨true, false, false, 0, false⟩ (args (block 0x12 0 0x55 0 0 0)) (taken (withBlock (block 0x12 0 0x55 0 0 0))) ∧
    theCmd.sub = .host ∧ (theCmd (.core 0)).sub ≠ .host ∧ (secured .blank .none).mgmt.sec = .blank ∧ (secured .provisioned .none).mgmt.sec = .provisioned ∧
    user.mgmt.sec = .locked ∧ (secured .retired .none).mgmt.sec = .retired ∧ (∀ k < 4, 0x55 / 4 ^ k % 4 ≠ 3) ∧ 256 ≤ 0x100 ∧ 0x30 / 4 ^ 2 % 4 = 3 := by
  refine ⟨commands _ _ _ _ _ ?_ ?_ ?_ ?_ ?_ ?_, commands _ _ _ _ _ ?_ ?_ ?_ ?_ ?_ ?_, commands _ _ _ _ _ ?_ ?_ ?_ ?_ ?_ ?_, commands _ _ _ _ _ ?_ ?_ ?_ ?_ ?_ ?_,
    commands _ _ _ _ _ ?_ ?_ ?_ ?_ ?_ ?_, ?_, ?_, ?_, ?_, ?_, ?_, ?_, ?_, ?_⟩ <;> decide

/-- A debug mode is open, and the fibre with index 0 is FAULTED with the trap registers of its trap; FUSTAT 0x80. -/
def debugged : State :=
  let s := onCore (fun c => { c with runq := [(0, { Fibre.reset with ctx := Ctx.reset.inState 4 0 })], cause := 0, trapbase := 0x100000000000 }) (secured .locked .owner)
  onCore (fun c => { c with slots := c.slots.set 0 Slot.reset }) s

theorem witness_DebugCommands :
    (withBlock (block 0x24 0 0 0 0 0)).Commanded theCmd 0x24 ⟨false, false, false, 32, false⟩ (args (block 0x24 0 0 0 0 0)) (taken (withBlock (block 0x24 0 0 0 0 0))) ∧
    (withBlock (block 0x25 9 1 0 0 5)).Commanded theCmd 0x25 ⟨true, false, false, 32, true⟩ (args (block 0x25 9 1 0 0 5)) (taken (withBlock (block 0x25 9 1 0 0 5))) ∧
    user.mgmt.challenge = none ∧ ({ user.mgmt with challenge := some 6 } : Mgmt).challenge = some 6 ∧ leNat ((args (block 0x25 9 1 0 0 5)).nonce.take 32) ≠ (6 : BitVec 256).toNat ∧
    leNat ((args (block 0x25 9 1 0 0 5)).nonce.take 32) = (5 : BitVec 256).toNat ∧ (secured .blank .none).mgmt.sec ≠ .provisioned ∧
    (withBlock (block 0x26 0 0 0 0 0)).Commanded theCmd 0x26 named0 (args (block 0x26 0 0 0 0 0)) (taken (withBlock (block 0x26 0 0 0 0 0))) ∧
    (withBlock (block 0x2A 0 0x100 1 0 0)).Commanded theCmd 0x2A ⟨true, true, false, 0, false⟩ (args (block 0x2A 0 0x100 1 0 0)) (taken (withBlock (block 0x2A 0 0x100 1 0 0))) ∧
    user.mgmt.dbg = .none ∧ debugged.mgmt.dbg ≠ .none ∧
    (withBlock (block 0x27 0 0 0 0 0) debugged).Commanded theCmd 0x27 ⟨true, false, false, 0, false⟩ (args (block 0x27 0 0 0 0 0)) (taken (withBlock (block 0x27 0 0 0 0 0) debugged)) ∧
    fibreArg 0x90000 = none ∧ fibreArg 0 = some ⟨debugged.cid, 0⟩ ∧ (fibreArg 0x105).map (fun w => w.core) = some 1 ∧ debugged.core.fibre? 9 = none ∧
    (debugged.core.fibre? 0).map (fun f => f.ctx.state) = some 4 ∧ bits debugged.core.cause 32 23 = (whoHandle ⟨debugged.cid, 0⟩).toNat ∧
    bits (0x500000000 : DWord) 32 23 ≠ (whoHandle ⟨debugged.cid, 0⟩).toNat ∧
    debugged.core.cause.getLsbD 63 = false ∧ (let t := withBlock (block 0x27 0 0 0 0 0) debugged
      ((t.vBytes t.frameAddr 256).bind fun l => (debugged.core.fibre? 0).bind fun f => ctxOfFrame l f.ctx debugged.core.epc debugged.core.epg).isSome = true) := by
  refine ⟨commands _ _ _ _ _ ?_ ?_ ?_ ?_ ?_ ?_, commands _ _ _ _ _ ?_ ?_ ?_ ?_ ?_ ?_, ?_, ?_, ?_, ?_, ?_, commands _ _ _ _ _ ?_ ?_ ?_ ?_ ?_ ?_,
    commands _ _ _ _ _ ?_ ?_ ?_ ?_ ?_ ?_, ?_, ?_, commands _ _ _ _ _ ?_ ?_ ?_ ?_ ?_ ?_, ?_, ?_, ?_, ?_, ?_, ?_, ?_, ?_, ?_⟩ <;> decide +kernel

/-- The power state of the module; no job unless it is switched out. -/
def powered (p : Power) (s : State := user) : State := { s with mgmt := { s.mgmt with power := p } }
def idle : State := { user with jobs := [(0, { probeJob with switched := some (0, 0, true, 0) })] }

/-- A SETPSTATE to S1 is under way. -/
def sleeping : State := { user with mgmt := { user.mgmt with waiting := [theCmd], goal := some .s1 } }
def flying : State := { sleeping with net := [{ num := 3, src := 0, dst := 7, after := [], afterWho := none, order := [], env := none, admitted := some 0, held := false, ev := .creditReturn 5 }] }

theorem witness_AttestationAndPower :
    (withBlock (block 0x28 0 0 0x100000000400 0 9)).Commanded theCmd 0x28 ⟨false, true, false, 32, false⟩ (args (block 0x28 0 0 0x100000000400 0 9)) (taken (withBlock (block 0x28 0 0 0x100000000400 0 9))) ∧
    0x100000000400 % 64 = 0 ∧ inDram 0x100000000400 = true ∧ 0x100000000401 % 64 ≠ 0 ∧
    (withBlock (block 0x29 9 0x100000000400 4 1 0)).Commanded theCmd 0x29 ⟨true, true, true, 0, true⟩ (args (block 0x29 9 0x100000000400 4 1 0)) (taken (withBlock (block 0x29 9 0x100000000400 4 1 0))) ∧
    (withBlock []).vBytes 0x100000000400 4 = some [0, 0, 0, 0] ∧
    (withBlock (block 0x10 0 3 0 0 0)).Commanded theCmd 0x10 ⟨true, false, false, 0, false⟩ (args (block 0x10 0 3 0 0 0)) (taken (withBlock (block 0x10 0 3 0 0 0))) ∧
    (withBlock (block 0x10 0 0 0 0 0) (powered .s3)).Commanded theCmd 0x10 ⟨true, false, false, 0, false⟩ (args (block 0x10 0 0 0 0 0)) (taken (withBlock (block 0x10 0 0 0 0 0) (powered .s3))) ∧
    user.mgmt.power = .active ∧ (powered .s1).mgmt.power = .s1 ∧ (∃ j ∈ user.jobs, j.2.switched = none) ∧ (∀ j ∈ idle.jobs, j.2.switched ≠ none) ∧
    sleeping.mgmt.waiting = [theCmd] ∧ sleeping.mgmt.goal = some .s1 ∧ sleeping.drained = true ∧ flying.drained = false ∧ user.mgmt.ready = false := by
  refine ⟨commands _ _ _ _ _ ?_ ?_ ?_ ?_ ?_ ?_, ?_, ?_, ?_, commands _ _ _ _ _ ?_ ?_ ?_ ?_ ?_ ?_, ?_, commands _ _ _ _ _ ?_ ?_ ?_ ?_ ?_ ?_, commands _ _ _ _ _ ?_ ?_ ?_ ?_ ?_ ?_,
    ?_, ?_, ?_, ?_, ?_, ?_, ?_, ?_, ?_⟩ <;> decide

theorem witness_BringUp : (powered .off).mgmt.power = .off ∧ (powered .off).mgmt.ready = false ∧ (powered .s1).mgmt.power = .s1 ∧ ({ user.mgmt with ready := true } : Mgmt).ready = true ∧
    sleeping.mgmt.waiting = [theCmd] := by decide

def sampled (l : List Nat) (steps : List (Nat × Nat)) : State := { user with mgmt := { user.mgmt with samples := l, steps := steps, draws := [(3, 20)] } }

theorem witness_TamperAndPower :
    user.mgmt.halted = false ∧ user.mgmt.sec = .locked ∧ user.mgmt.dbg = .none ∧ bits (0 : BitVec 8) 0 2 = 0 ∧ bits (1 : BitVec 8) 0 2 = 1 ∧ bits (2 : BitVec 8) 0 2 = 2 ∧
    (secured .blank .none).mgmt.sec ≠ .locked ∧ user.mgmt.samples = [] ∧ (sampled [6000] []).mgmt.samples.length ≠ 0 ∧ 5600 * 1 < [6000].sum ∧
    (sampled [6000] []).hungriest = some [3] ∧ user.hungriest = none ∧ (5600 * 97 * 1 < [5500].sum * 100 ∧ [5500].sum ≤ 5600 * 1) ∧
    [5000].sum * 100 ≤ 5600 * 97 * 1 ∧ user.cid < 18432 ∧ 94208 ≤ 94208 ∧ 94208 < 2 ^ 17 ∧ 12 % 8 ≠ 0 ∧ 94200 % 8 = 0 ∧
    (onCore (fun c => { c with job := some 0 }) user).core.job = some 0 ∧ (user.jobs.get? 0).isSome = true ∧ 8 ∉ user.core.poison ∧
    8 ∈ (onCore (fun c => { c with poison := [8] }) user).core.poison := by decide

/-- Islands: the last is 297; the group of an island that no gang joins to another is its own. -/
theorem witness_IslandGroups : 298 ≤ 298 ∧ 297 < 298 ∧ (∀ i ∈ user.groupOf 297, i < 298) ∧ (user.mgmt.steps.map fun x => x.1).Nodup ∧ (∀ g ∈ user.gangIslands, 5 ∉ g) ∧
    user.groupOf 3 = [3] := by decide

/-! Jobs. -/

/-- A launch record of one fibre in core 0 of CD0: one entry at the code image, one sink, no bindings or gangs. -/
def record : List Byte :=
  leBytes 1 64 ++ leBytes 0 16 ++ (leBytes 1 2 ++ leBytes 0 2 ++ leBytes 1 2 ++ leBytes 0 2) ++ (leBytes 0x100000000200 8 ++ leBytes 0x100000000200 8 ++
    leBytes 0x100000000220 8 ++ leBytes 0x100000000200 8) ++ (leBytes 0x100000000400 8 ++ leBytes 64 4 ++ leBytes 0 4 ++ leBytes 0x100000000400 8) ++ List.replicate 240 0
def recordAt : Addr := 0x100000000000
def withRecord (l : List Byte) (s : State := user) : State :=
  withBlock (l ++ List.replicate (512 - l.length) 0 ++ (leBytes 0 6 ++ [0xFF, 0] ++ leBytes 0 8)) s

/-- The module is READY and the pool of CD0 holds the record. -/
def launching (l : List Byte) : State :=
  let s := withRecord l { State.reset with mgmt := { State.reset.mgmt with ready := true } }
  { s with dies := s.dies.set 0 { s.dies[(0 : Fin 8)] with pool := [⟨4, recordAt, 0, none⟩] } }
def validated (s : State) : Option (Option Nat) :=
  (s.record? recordAt).map fun r =>
    match s.validate r 0 4 recordAt with
    | .ok _ => none
    | .error c => some c

/-- The probe's job with a sink, open or closed. -/
def sunk (closed : Bool) (consumed : Nat) : State :=
  { user with jobs := [(0, { probeJob with sinks := [(0, 5, closed)], sent := probeJob.sent.set 0 3, consumed := probeJob.consumed.set 1 consumed, cpladdr := 0x100000000400 })] }

/-- Launch page 2 of CD0 with a ring of 4 slots at the start of DRAM, a READY module. -/
def ringed (target : Option DWord) (adm : DWord) : State :=
  let s := withBlock (leBytes 0x100000000000 8) { State.reset with mgmt := { State.reset.mgmt with ready := true } }
  { s with host := { s.host with pages := [(2, ⟨0x100000000000, 4, adm, target⟩)] } }

theorem witness_JobLifecycle :
    record.length = 384 ∧ (∀ p ∈ (user.dieOf 0).pool, p.idx ≠ 4) ∧ (((launching record).dieOf 0).pool.find? fun p => p.idx == 4).isSome = true ∧ user.admits = false ∧
    (launching record).admits = true ∧ (launching record).record? 0x100000000020 = none ∧ validated (launching record) = some none ∧
    validated (launching (0x02 :: record.drop 1)) = some (some 1) ∧ ((launching record).record? recordAt).map (fun r => (launching record).heldBack r 0) = some false ∧
    ((launching record).dieOf 0).lastStart ≤ (launching record).now ∧ (Record.mk record).badFields = false ∧ (Record.mk record).badCounts = false ∧ (Record.mk record).badPart = false ∧
    (Record.mk (record.take 8 ++ leBytes 65 8 ++ record.drop 16)).badFields = false ∧ (∃ w ∈ (Record.mk (record.take 8 ++ leBytes 65 8 ++ record.drop 16)).widths, 64 < w) ∧
    192 ≤ (Record.mk (record.take 64 ++ [100, 0, 100] ++ record.drop 67)).at 64 1 + (Record.mk (record.take 64 ++ [100, 0, 100] ++ record.drop 67)).at 66 1 ∧
    256 * (Record.mk (record.take 8 ++ leBytes 9 8 ++ leBytes 511 8 ++ record.drop 24)).p < (Record.mk (record.take 8 ++ leBytes 9 8 ++ leBytes 511 8 ++ record.drop 24)).fibres ∧
    user.jobs.get? 1 = none ∧ ((sunk false 3).jobs.get? 0).isSome = true ∧
    (∀ k ∈ [(0, 5, true)], k.2.2 = true) ∧ (probeJob.consumed.set 1 3).toList.sum = (probeJob.sent.set 0 3).toList.sum ∧
    ((sunk true 3).jobs.get? 0).map (sunk true 3).hasFaulted = some false ∧
    (user.dieOf 0).status = [] ∧ (user.box 0).outq.length + 4 + 1 ≤ 256 ∧
    ((ringed none 0).launchPage 2).target = none ∧ ((ringed none 0).launchPage 2).admitted.toNat < (3 : DWord).toNat ∧ (3 : DWord).toNat - 0 ≤ ((ringed none 0).launchPage 2).ringsize.toNat ∧
    4 < (5 : DWord).toNat - 0 ∧ ((ringed (some 1) 0).launchPage 2).target = some 1 ∧ (ringed (some 1) 0).admits = true ∧
    (((ringed (some 1) 0).vBytes 0x100000000000 8).bind fun l => (ringed (some 1) 0).admitRecord ((ringed (some 1) 0).pageHome 2) 0 ((leWord l).setWidth 48) none).isSome = true := by
  decide +kernel

/-- A record whose data image lies outside the DRAM window; a ring slot word that is no address. -/
def imaged : Record := ⟨record.take 136 ++ leBytes 0x200000000000 8 ++ leBytes 0 4 ++ leBytes 1 4 ++ record.drop 152⟩

theorem witness_JobForms : imaged.badFields = false ∧ imaged.badCounts = false ∧ imaged.badPart = false ∧ imaged.fibres ≤ 256 * imaged.p ∧ 0 < imaged.at 148 4 ∧
    inDram (imaged.at 136 8) = false ∧ bits (0x1000100000000000 : DWord) 48 16 ≠ 0 ∧ bits (0x100000000000 : DWord) 48 16 = 0 ∧ (2 : DWord).toNat = (1 : DWord).toNat + 1 := by decide +kernel

def switched : State :=
  { user with jobs := [(0, { probeJob with switched := some (0x100000020000, 131072, true, 0), saved := [(0, user.core)] })] }
def switching : State := { user with jobs := [(0, { probeJob with switching := some (0x100000020000, 131072, theCmd) })] }

theorem witness_JobCommands :
    (withBlock (block 1 0 0 0x100000020000 131072 0)).Commanded theCmd 0x01 ⟨true, true, true, 0, false⟩ (args (block 1 0 0 0x100000020000 131072 0)) (taken (withBlock (block 1 0 0 0x100000020000 131072 0))) ∧
    user.jobs.get? 3 = none ∧ user.jobs.get? 0 = some probeJob ∧ 0x100000020000 % 64 = 0 ∧ inDram 0x100000020000 = true ∧ 131072 % 131072 = 0 ∧
    inDram (0x100000020000 + probeJob.count * 131072 - 1) = true ∧ probeJob.switching = none ∧ probeJob.switched = none ∧ (switching.jobs.get? 0).map (fun j => j.switching.isSome) = some true ∧
    (withBlock (block 2 0 0 0x100000020000 131072 0x0101) switched).Commanded theCmd 0x02 ⟨true, true, true, 8, false⟩ (args (block 2 0 0 0x100000020000 131072 0x0101)) (taken (withBlock (block 2 0 0 0x100000020000 131072 0x0101) switched)) ∧
    leNat ((args (block 2 0 0 0x100000020000 131072 0x0101)).nonce.take 8) = 1 + 1 * 2 ^ 8 + 0 * 2 ^ 16 + 0 * 2 ^ 24 ∧
    (switched.jobs.get? 0).map (fun j => (j.switched.isSome, j.wm1, j.hm1)) = some (true, 0, 0) ∧ (∀ i ∈ ({ probeJob with x0 := 1, y0 := 1 } : Job).cores, (switched.coreAt i).job = none) ∧
    ((taken (withBlock (block 2 0 0 0x100000020000 131072 0x0101) switched)).images probeJob 0x100000020000 131072).isSome = true ∧
    (taken (withBlock [] switched)).images probeJob 0x100000000000 131072 ≠ some [] ∧
    (∃ l ∈ (((taken (withBlock (block 2 0 0 0x100000020000 131072 0x0101) switched)).images probeJob 0x100000020000 131072).getD []), fieldOf l 8 1 / 2 % 2 = 0) ∧
    (withBlock (block 3 0 0 0x100 0 0)).Commanded theCmd 0x03 ⟨true, true, false, 0, false⟩ (args (block 3 0 0 0x100 0 0)) (taken (withBlock (block 3 0 0 0x100 0 0))) ∧
    fibreArg 0 = some ⟨0, 0⟩ ∧ coreArg 0x100 = some 1 ∧ coreArg 0 = some 0 ∧ (((user.coreAt 0).fibre? 0).bind fun f => f.job.bind user.jobs.get?) = some probeJob ∧
    (((user.coreAt 5).fibre? 0).bind fun f => f.job.bind user.jobs.get?) = none ∧ probeJob.holds 1 = false ∧ probeJob.holds 0 = true ∧ ({ probeJob with wm1 := 1 } : Job).holds 1 = true ∧
    (withBlock (block 4 0 0 0 0 0)).Commanded theCmd 0x04 ⟨true, false, false, 0, false⟩ (args (block 4 0 0 0 0 0)) (taken (withBlock (block 4 0 0 0 0 0))) := by
  refine ⟨commands _ _ _ _ _ ?_ ?_ ?_ ?_ ?_ ?_, ?_, ?_, ?_, ?_, ?_, ?_, ?_, ?_, ?_, commands _ _ _ _ _ ?_ ?_ ?_ ?_ ?_ ?_, ?_, ?_, ?_, ?_, ?_, ?_,
    commands _ _ _ _ _ ?_ ?_ ?_ ?_ ?_ ?_, ?_, ?_, ?_, ?_, ?_, ?_, ?_, ?_, commands _ _ _ _ _ ?_ ?_ ?_ ?_ ?_ ?_⟩ <;> decide +kernel

/-- Core 0's job is to be switched out, and no fibre of it is resident; its region is mapped. -/
def leaving : State :=
  let s := { State.reset with jobs := [(0, { probeJob with switching := some (0x100000020000, 131072, theCmd) })] }
  mapped (onCore (fun c => { c with job := some 0, runq := [(0, { Fibre.reset with job := some 0 })] }) s)

/-- A fibre with index 0 of core 0, not resident, is to move to core 1. -/
def moving (st : Nat) : State :=
  onCore (fun c => { c with runq := [(0, { Fibre.reset with ctx := Ctx.reset.inState st 0 })] })
    { State.reset with mgmt := { State.reset.mgmt with migrating := some (theCmd, ⟨0, 0⟩, 1) } }
def late : State :=
  let s := switching.setMe { switching.me with ran := 9 }
  { s with cycle := 50000 }

set_option maxRecDepth 4000 in
theorem witness_ImagesAndPlacement :
    State.reset.core.job = none ∧ leaving.core.job = some 0 ∧ leaving.maySave = true ∧ leaving.core.saving = none ∧
    (leaving.jobs.get? 0).map (fun j => (j.switching.isSome, j.index 0)) = some (true, 0) ∧ (leaving.pageOf 0x100000020000).isSome = true ∧ user.maySave = false ∧
    (∀ i ∈ probeJob.cores, i = 0) ∧ (∃ i ∈ ({ probeJob with wm1 := 1 } : Job).cores, i ≠ 0) ∧
    bits late.core.livetab 0 32 ≠ 0 ∧ bits late.core.livetab 0 32 < late.coreCycles - late.fib.liveSince ∧ late.me.atBoundary late.coreCycles = true ∧ late.sid.val < 6 ∧ (late.job?.map fun j => j.switching.isSome) = some true ∧
    user.coreCycles - user.fib.liveSince ≤ bits user.core.livetab 0 32 ∧ bits (onCore (fun c => { c with livetab := 0 }) user).core.livetab 0 32 = 0 ∧ user.mgmt.migrating = none ∧ (moving 1).mgmt.migrating = some (theCmd, ⟨(moving 1).cid, 0⟩, 1) ∧
    (onCore (fun c => { c with runq := [] }) (moving 1)).core.fibre? 0 = none ∧ (((moving 1).core.fibre? 0).map fun f => ((moving 1).mayTake 0 f, f.calm, (moving 1).settled 0)) = some (true, true, true) ∧
    (((moving 4).core.fibre? 0).map fun f => (moving 4).mayTake 0 f) = some false ∧ (moving 1).refusesMove 0 1 = false ∧
    ((moving 1).modCore 1 fun c => { c with saved := true }).refusesMove 0 1 = true ∧ (moving 1).core.slotOf? 0 = none ∧ ((moving 1).coreAt 1).freeEntry? = some 0 := by decide

/-- Mailbox 3: words in it, a binding to entry 9 of core 3 with credits. -/
def boxed (ins : List Body) (outs : List (DWord × Nat × Nat × Body)) (credit : Nat) : State :=
  { user with host := { user.host with boxes := [(3, { Mailbox.reset with inq := ins, outq := outs, credit := credit })], bound := [(3, (3, 9))] } }

def engOk (r : EngOut) (k : Nat) : Bool :=
  match r with
  | .ok _ _ => k == 0
  | .fault _ _ _ => k == 1
  | .wait => k == 2

/-- Page 0 of the second directory bucket is not there; the host's window begins at the DRAM window's start. -/
theorem witness_HostInterface :
    (Instr.mailboxIn 3 7 = .mailboxIn 3 7 ∧ Body.word 7 = .word 7) ∧ 256 ≤ 256 ∧ 255 < 256 ∧ 64 ≤ ((boxed (List.replicate 64 .token) [] 0).box 3).inq.length ∧
    (user.box 3).inq.length < 64 ∧ user.host.bound.get? 3 = none ∧ (boxed [] [] 2).host.bound.get? 3 = some (3, 9) ∧ ((boxed [] [] 2).box 3).inq = [] ∧
    ((boxed [] [] 2).box 3).credit ≠ 0 ∧ ((boxed [] [] 0).box 3).credit = 0 ∧ (user.box 3).outq = [] ∧ ((boxed [] [(5, 0, 1, .word 5)] 0).box 3).outq = (5, 0, 1, .word 5) :: [] ∧
    (∀ w ∈ user.host.waiting, w.1 ≠ 3) ∧ 4 ≤ ((onCore (fun c => { c with qhs := [0, 0, 0, 0] }) user).coreAt (handleCore ((user.box 3).qhsdst.setWidth 64))).qhs.length ∧
    (user.coreAt (handleCore ((user.box 3).qhsdst.setWidth 64))).qhs.length < 4 ∧ (1 : DWord).getLsbD 0 = true ∧ (2 : DWord).getLsbD 1 = true ∧
    engOk (served.engGet ⟨30001, 0⟩ none (0x100000000000 + served.host.apbase + 8) 8) 0 = true ∧
    engOk (served.engPut ⟨30001, 0⟩ none (0x100000000000 + served.host.apbase + 8) [1, 2]) 0 = true ∧
    engOk (badGranule.engGet ⟨30001, 0⟩ none (0x100000000000 + badGranule.host.apbase + 8) 8) 1 = true ∧ (0x100000000000 + 4) % 8 ≠ 0 ∧ (0x100000000000 + 8) % 8 = 0 ∧
    served.pageOf 0x100000000008 = some page0 ∧ served.migrating 0x100000000008 = false ∧ (served.stack page0.home).bad (page0.pa 0x100000000008) 8 = [] ∧
    served.pageOf 0x0FFFFFFFFFF8 = none := by decide

theorem witness_RegisterMap : 255 < 256 ∧ 0x28 < 64 ∧ (user.box 255).inq.length ≤ 64 ∧ (user.box 255).outq.length ≤ 256 ∧
    roPage.pageOf 0x100000000008 = some { page0 with ro := true } ∧ (AtomOp.and ≠ .add ∧ AtomOp.and ≠ .swp ∧ AtomOp.and ≠ .cas) ∧
    engOk (roPage.engPut ⟨30001, 0⟩ none 0x100000000008 [1, 2]) 1 = true := by decide

def aFrame : Frame := { frameOf 2 1 6 with srcMod := 5, arg := 0x100000000000, arg2 := 9, data := [1, 2, 3, 4, 5, 6, 7, 8], code := 8 }

/-- Stream 6 of link 2 bound both ways; an import entry that admits module 5 to all of DRAM and the scratchpads; an access waits on link 2. -/
def linked : State :=
  { mapped user with office := { user.office with streamsIn := [(2, 6, 3, 9)], streamsOut := [(2, 6, 3, 10)], imports := [(0, (0x50001, 0, 0x1FFFFFFFFFFF))], waiting := [(9, 2, ⟨⟨0, 0⟩, 4, .wait, none⟩)] } }

theorem witness_OfficeFrames :
    linked.streamIn aFrame.link aFrame.stream = some (3, 9) ∧ linked.streamOut aFrame.link aFrame.stream = some (3, 10) ∧ user.streamIn aFrame.link aFrame.stream = none ∧
    user.streamOut aFrame.link aFrame.stream = none ∧ user.imports aFrame.srcMod aFrame.arg.toNat (reqSpan aFrame) aFrame.write = false ∧
    user.imports aFrame.srcMod aFrame.arg.toNat aFrame.data.length true = false ∧ linked.imports aFrame.srcMod aFrame.arg.toNat (reqSpan aFrame) aFrame.write = true ∧
    aFrame.access = none ∧ regionOf 30000 aFrame.arg = .dram ∧ engOk (linked.engGet (farWho aFrame) none aFrame.arg.toNat (reqSpan aFrame)) 0 = true ∧
    engOk (linked.engPut (farWho aFrame) none aFrame.arg.toNat aFrame.data) 0 = true ∧ linked.imports aFrame.srcMod aFrame.arg.toNat aFrame.data.length true = true ∧
    (let f : Frame := { aFrame with arg := 0x010000030010 }
     regionOf 30000 f.arg = .peer 3 0x10 ∧ linked.away 3 = false ∧ linked.imports f.srcMod f.arg.toNat (reqSpan f) f.write = true ∧ (linked.coreAt 3).inPart0 0x10 (reqSpan f) = true ∧
       (linked.coreAt 3).poisoned 0x10 (reqSpan f) = false ∧ ((linked.modCore 3 fun c => { c with part0 := 0 }).coreAt 3).inPart0 0x10 (reqSpan f) = false ∧
       linked.imports f.srcMod f.arg.toNat (reqSpan { f with access := some (loadOf 0) }) f.write = true ∧ f.arg.toNat % accSpan (loadOf 0) = 0) ∧
    (linked.office.waiting.find? fun w => w.1 == aFrame.arg2.toNat && w.2.1 == aFrame.link).isSome = true ∧ (∀ w ∈ user.office.waiting, w.1 ≠ 9 ∨ w.2.1 ≠ 2) ∧
    user.flightOf 9 = none ∧ 2 ∉ user.office.down ∧ 2 ∈ ({ user.office with down := [2] } : Office).down := by decide

/-- The first byte that an import entry does not admit, past the end of its range. -/
theorem witness_FirstBad : firstBad 0x100 8 (fun x => decide (x < 0x104)) = 0x104 := by decide

theorem unlinked : (∀ w ∈ user.office.waiting, w.2.1 ≠ 2) ∧ ∀ c, ∀ x ∈ (user.coreAt c).channels.toList, user.flightsOn x 2 = [] := by
  refine ⟨by decide, fun c x hx => ?_⟩
  have h : (user.coreAt c).channels.toList = List.replicate 8 Channel.reset := by
    unfold State.coreAt; split <;> rfl
  rw [h] at hx
  rw [List.eq_of_mem_replicate hx]
  decide

/-- A barrier block of one rank, canonical, COMM 5, SEQ 2; and the record that it makes. -/
def collBlock (op nrank : Nat) : List Byte :=
  leBytes op 3 ++ [1] ++ leBytes 0 2 ++ leBytes nrank 2 ++ leBytes 0 8 ++ leBytes 0x100000000200 8 ++ leBytes 0x100000000200 8 ++ leBytes 0 8 ++ leBytes 0x100000000200 8 ++
    leBytes 5 4 ++ leBytes 2 4 ++ List.replicate 72 0
def collState (l : List Byte) : State := withBlock l user
def collRecord (state : Nat) (decided : Option Bool) (result : Option (List Byte × BitVec 4)) (parent : Option Nat) : Collective :=
  { Collective.early 5 2 10000 0 with who := some ⟨0, 0⟩, state := state, decided := decided, result := result, parent := parent, children := [1], links := [(1, 2, 3)], asked := false, op := 4, count := 1, dst := 0x100000000200 }
def collecting (c : Collective) (ns : Nat) : State := { mapped user with postmark := ns, office := { user.office with colls := [c] } }
def collFrame5 : Frame := { frameOf 2 5 0 with srcMod := 3, arg := 0x200000005 }

theorem witness_Collectives :
    (collBlock 0 1).length = 128 ∧ (collState (collBlock 0 1)).vBytes 0x100000000000 128 = some (collBlock 0 1) ∧ 0x100000000000 % 64 = 0 ∧
    (match (collState (collBlock 0 1)).checkColl ⟨collBlock 0 1⟩ with
     | .ok _ => true
     | .error _ => false) = true ∧ (collState (collBlock 0 1)).coll? 5 2 = none ∧ (Block.mk (collBlock 0 0)).bad = true ∧
    (collecting (collRecord 0 none none none) 0).coll? (bits collFrame5.arg 0 24) (bits collFrame5.arg 32 32) = some (collRecord 0 none none none) ∧
    (collRecord 0 none none none).state = 0 ∧ (collRecord 0 none none none).decided = none ∧ (collRecord 0 none none none).fromRank collFrame5 = some 1 ∧
    1 ∈ (collRecord 0 none none none).children ∧ (∀ x ∈ (collRecord 0 none none none).inputs, x.1 ≠ 1) ∧ (collRecord 0 none none (some 1)).parent = some 1 ∧
    (collRecord 1 (some true) none none).state ≠ 0 ∧ (collRecord 0 (some true) (some ([], 0)) none).decided = some true ∧
    ({ collRecord 0 (some true) (some ([], 0)) none with op := 0 } : Collective).written [] = [] ∧
    (collRecord 0 (some true) (some ([1, 2, 3, 4, 5, 6, 7, 8], 0)) none).written [1, 2, 3, 4, 5, 6, 7, 8] ≠ [] ∧
    engOk ((collecting (collRecord 0 (some true) none none) 0).engPut ⟨30000, 0⟩ none 0x100000000200 [1, 2, 3, 4, 5, 6, 7, 8]) 0 = true ∧
    (collecting (collRecord 0 none none none) 0).now < 0 + 10000 * 1000 ∧ 0 + 10000 * 1000 ≤ (collecting (collRecord 0 none none none) 10000000).now ∧
    (collecting (collRecord 1 none none none) 20000000).now ≥ 0 + 2 * 10000 * 1000 ∧ 4 < 5 := by decide +kernel

theorem witness_SubmitFlush : (collState (collBlock 0 1)).submitFlush ⟨0, 0⟩ = none ∧ (unflushed.submitFlush ⟨0, 0⟩).isSome = true ∧
    (flushing.submitFlush ⟨0, 0⟩).map (fun x => x.1) = some 9 := by decide

theorem vunmapped : State.reset.vBytes 0x100000000000 128 = none := by
  have h : State.reset.pageOf 0x100000000000 = none := by
    have e : inDram 0x100000000000 = true := by decide
    have f : (([0, 1, 2, 3, 4, 5, 6, 7] : List Nat).findSome? fun k => State.reset.cached k 0x100000000000) = none := by decide
    simp only [State.pageOf, e, f, unwalked, if_true, Option.map]
  simp only [State.vBytes, State.vBytesAux, h]

/-! The machine as a whole: ADD p1, p2, s5 at the PC of a slot in turn. -/

def placed : State := State.reset.withFetchWord 32 0x0410A500

/-- The state of the next turn, and its kind. -/
def turnState (s : State) : State :=
  match s.nextTurn with
  | .idle u => u
  | .issue u => u
  | .event u _ => u
def turnKind (s : State) : Nat :=
  match s.nextTurn with
  | .idle _ => 0
  | .issue _ => 1
  | .event _ _ => 2

/-- The slot in turn, chosen by the agenda. -/
def turned : State := turnState placed

theorem witness_StepRunsTheDecodedInstruction :
    placed.mgmt.halted = false ∧ turnKind placed = 1 ∧ turned.core.halted = false ∧ turned.mgmt.goal = none ∧ turned.core.occupied turned.sid turned.coreCycles = false ∧
    turned.sid.val < 6 ∧ turned.me.ent ≠ none ∧ turned.canTake = false ∧ turned.atSwitchPoint = false ∧ turned.fib.wait = none ∧
    turned.me.run = none ∧ turned.mayFetch turned.ctx.pc.toNat = true ∧ turned.lendDue = none ∧
    lineWord turned.heldLines turned.ctx.pc.toNat = some 0x0410A500 ∧ decode 0x0410A500 = .ok (.add (.p 1) (.p 2) (.s 5)) ∧
    turned.me.group = none ∧ turned.groupOutside 5 turned.ctx.pc.toNat = none ∧
    (match groupWords turned.heldLines 5 turned.ctx.pc.toNat with
     | .ok (hs, t) => (groupFault hs t false).isNone
     | .error _ => false) = true := by decide

/-- An agenda of one turn, of a slot or an event, after p cycles. -/
def agendaOf (p : Nat) (e : Option Ev) (s : State := placed) : State := { s with agenda := [⟨p, 0, 0, e⟩] }

theorem witness_StepForms :
    placed.agenda ≠ [] ∧ (placed.firstAct (placed.acts.filter Todo.isRetry)).isNone = true ∧ turnKind (agendaOf 1 none) = 0 ∧ turnKind (agendaOf 0 (some .powerStep)) = 2 ∧
    turnKind (powered .s1 placed) = 0 ∧ anyPower .powerStep = false ∧ anyPower (.bringUp []) = true ∧ packetOnly (.creditReturn 5) = true ∧ packetOnly .powerStep = false ∧
    placed.completes (.creditReturn 5) = none ∧ placed.elementWaits .powerStep = false ∧ placed.core.readySlot 0 placed.coreCycles = true ∧ placed.hasIssued = false ∧
    turned.hasIssued = true ∧ ({ placed with agenda := [] } : State).acts = [] ∧
    ({ placed with mgmt := { placed.mgmt with halted := true } } : State).tamperDue = false ∧ (agendaOf 0 (some (.tamperEvent 1 0))).tamperDue = true ∧
    (onCore (fun c => { c with slots := c.slots.set 0 { c.slots[(0 : Fin 8)] with stall := some 0 } }) placed).retries 0 = true ∧ placed.retries 0 = false := by decide

/-- Results of slots 0 and 2 under way to s3, due in core cycle k; a word of slot 0 for qs 0. -/
def underway (k : Nat) : State := onCore (fun c => { c with late := [⟨k, 0, .reg 3 5⟩, ⟨k, 2, .reg 3 7⟩] }) user
def underwayWord (s : State) : State := onCore (fun c => { c with late := [⟨0, 0, .push (.qs 0) 5⟩] }) s

theorem witness_Occupancy : (∀ x ∈ (underway 9).core.late, (underway 9).coreCycles < x.due) ∧ (underway 0).landCore.core.s[(3 : Fin 32)] = 7 ∧
    (⟨0, 0, .reg 3 5⟩ : Late).rank < (⟨0, 2, .reg 3 7⟩ : Late).rank ∧ (underwayWord user).core.late = [⟨0, 0, .push (.qs 0) 5⟩] ∧ user.room (.qs 0) 0 = true ∧
    full.room (.qs 0) 0 = false ∧ isCommand (.qs 0) 5 = false ∧ (underwayWord full).landCore.core.late.length = 1 ∧
    (user.setMe { user.me with ready := 5 }).core.occupied 0 0 = true := by
  refine ⟨by simp [underway, onCore]; decide, ?_⟩
  decide

/-- MUL s3, p1, p2 at the word that the next step fetches: s3 keeps its value until three cycles have passed (04 R117). -/
theorem test_mul_shows_later :
    next (step ((onCore (fun c => { c with slots := c.slots.set 0 { c.slots[(0 : Fin 8)] with fib := { c.slots[(0 : Fin 8)].fib with ctx := { c.slots[(0 : Fin 8)].fib.ctx with p := (c.slots[(0 : Fin 8)].fib.ctx.p.set 1 6).set 2 7 } } } })
        State.reset).withFetchWord 32 (((encode (.mul (.s 3) (.p 1) (.p 2))).getD 0).toNat)))
      (fun t => t.core.s[(3 : Fin 32)] == 0 && (t.tick 1).core.s[(3 : Fin 32)] == 0 && (t.tick 2).core.s[(3 : Fin 32)] == 0 && (t.tick 3).core.s[(3 : Fin 32)] == 42) false = true := by
  decide +kernel

/-! The boundaries of the hypotheses: accesses that wait, queues with bad parity, what stands behind what. -/

/-- The head words of the engines' queues have bad parity; bytes from 0 to 64 are on their way from core 1. -/
def badHeads (s : State) : State := onCore (fun c => { c with fifoPoison := [0, 1, 2, 3, 4, 5, 6, 7] }) s
def awaited (s : State) : State := onCore (fun c => { c with arrivals := [⟨1, 0, 0, 0x2000, 0⟩] }) s
/-- Sixteen traps of the core wait, none of them against a fibre. -/
def trapFull (s : State) : State := onCore (fun c => { c with traps := List.replicate 16 (aTrap none) }) s

theorem witness_FrameAccesses :
    (handling (some 0) false).frameBusy = false ∧ ((handling (some 0) false).sendFrame (List.replicate 256 0)).frameBusy = true := by decide

theorem witness_Collisions :
    ({ course with sched := some (1, 4) } : Channel).collided = false ∧ ({ course with sched := some (1, 4), collided := true } : Channel).collided = true ∧
    user.core.trapsFull = false ∧ (trapFull user).core.trapsFull = true ∧ (8 / 8 ≠ user.cid) ∧
    ((user.modCore 1 fun c => { c with channels := c.channels.set 0 { course with sched := some (1, 4) } }).coreAt (8 / 8)).scheduled (8 % 8) = true := by decide

/-- Slot 0 stands stalled at SEND 5, s31 with an empty qs 0. -/
def stalledSend : State :=
  let s := user ((encode (.send 5 (.qs 0))).getD 0).toNat
  s.setMe { s.me with stall := some 0, line := some (probeAt / 64, probeLine ((encode (.send 5 (.qs 0))).getD 0)) }

theorem witness_EntriesInUse : stalledSend.stallsOn 0 5 = true ∧ (∀ i : Fin 8, user.stallsOn i 5 = false) ∧ (awaited super).core.rangeStall 0 0x100 16 = true ∧
    super.core.rangeStall 0 0x100 16 = false ∧ super.heldByAcquire = false := by decide

/-- A restante entry whose head slot, at 0x1000, holds a word. -/
def slotted : State := withEntry { entry true true 0 0 0 with kinds := [.word 0], buf := 0x1000 }

/-- Entry 5 of a fibre whose job records; the ring of its die is full. -/
def recorded : State :=
  let s := { slotted with jobs := slotted.jobs.set 0 { probeJob with recm := 1 } }
  { s with dies := s.dies.set 0 { s.dies[(0 : Fin 8)] with recorder := ⟨0, 16, 65536, 0⟩ } }

theorem witness_TimesAndSlots :
    user.expired (some (user.me.stall.getD user.now + 0)) = true ∧ user.expired (some (user.me.stall.getD user.now + 5)) = false ∧
    ((onCore (fun c => { c with poison := [0x1000] }) slotted).headBad 5).isSome = true ∧ slotted.headBad 5 = none ∧ slotted.headMessage 5 = some (.word 0) ∧
    (slotted.clearRsv none).headBad 5 = none ∧
    (let m : ChanMsg := { who := ⟨0, 0⟩, op := 0, src := .ext 2 3, dst := 5, body := .word 7, offer := false, job := none }
     recorded.arrivalWaits 0 m = true ∧ recorded.liveDiscard m = false) := by decide

theorem witness_Withdrawals :
    (waiting (.recvx 5 (.p 1) (.p 2)) 2 (some 0) 0).recFull ⟨0, 0⟩ = false ∧
    (((waiting (.recvx 5 (.p 1) (.p 2)) 2 (some 0) 0).waitOf 0 4).map fun x => (waiting (.recvx 5 (.p 1) (.p 2)) 2 (some 0) 0).expires x.2) = some true ∧
    (ported [9] true).core.latch = none ∧ (trapFull (ported [9] true)).core.trapsFull = true ∧ (ported [9] true).core.trapsFull = false := by decide

theorem witness_OwnReads :
    (awaited described).core.rangeStall 0 0x200 8 = true ∧ (awaited described).core.rangeStall 0 0x300 16 = true ∧ described.core.rangeStall 0 0x200 8 = false ∧
    described.core.rangeStall 0 0x300 16 = false ∧ described.heldByAcquire = false ∧ described.core.poisoned 0x300 16 = false ∧
    (awaited blocked).core.rangeStall 0 0x500 32 = true ∧ blocked.core.rangeStall 0 0x500 32 = false ∧ blocked.heldByAcquire = false ∧
    (awaited forking).core.rangeStall 0 0x600 48 = true ∧ forking.core.rangeStall 0 0x600 48 = false ∧
    (awaited (framed 0x30000)).frameWaits = true ∧ (framed 0x30000).frameWaits = false ∧ (awaited (joinable true)).core.rangeStall 0 (0x400 + 96) 8 = true ∧
    (awaited (unit)).core.rangeStall 0 0x108 8 = true := by decide

/-- The fibre runs a child of the frame at 0x400 in its own slot. -/
theorem witness_Parking :
    user.unpoppedReg = none ∧ queued.unpoppedReg = some .qev ∧ user.frameHeld = none ∧ user.inlineReturn = none ∧ super.sid = 7 ∧
    (user.setMe { user.me with hints := { user.me.hints with spin := some 0 } }).me.hints.spin = some 0 := by decide

theorem witness_Dispatching : ({ user with core := { user.core with halted := true } } : State).core.halted = true ∧
    (onCore (fun c => { c with slots := Vector.replicate 8 { Slot.reset with ready := 5 } }) user).core.freeSlot? 0 = none ∧
    (∀ i : Fin 8, i.val < 6 → user.qualifies user.core.slots[i] = false) ∧ user.core.saved = false := by decide

/-- A replayed LNCH: the ring's next entry is its word. -/
theorem witness_ReplayedLaunch : super.outstanding = [] ∧ super.recStall = false ∧ (1 : DWord).toNat % 4 = 1 ∧ (0x10000 : DWord).toNat % 4 ≠ 1 := by decide

/-- The event table's set of the message's event full; the overflow list full. -/
def listFull : State := { user with dies := user.dies.set 0 { user.dies[(0 : Fin 8)] with events := [⟨9, 9, true, [], false, 65536⟩] } }

theorem witness_OverflowLists :
    (let d := listFull.dies[(0 : Fin 8)]
     65536 ≤ d.listUsed ∧ d.event? (evMsg false) = none) ∧ ((user.dies[(0 : Fin 8)]).listUsed < 65536 ∧ (user.dies[(0 : Fin 8)]).poolUsed < 16384) ∧
    ((user.dies[(0 : Fin 8)]).eventFor (evMsg false)).set = false ∧ ((user.dies[(0 : Fin 8)]).eventFor (evMsg false)).far = false ∧
    (((eventful true).dies[(0 : Fin 8)]).eventFor (evMsg false)).set = true := by decide

theorem witness_HeldVectors :
    vecAt ((awaited user).vecAccess 0 64 true) = none ∧ (onCore (fun c => { c with vecAt := some 0 }) user).vecHeld = true ∧ user.vecHeld = false := by decide

/-- A matrix load that runs in slot 0; slot 7 is to take the unit. -/
def unitBusy : State := onCore (fun c => { c with slots := c.slots.set 0 { c.slots[(0 : Fin 8)] with run := some (ElemRun.start (.mwld (.p 0)) 2 0) } }) super

theorem witness_Pauses : unitBusy.core.matWork = true ∧ super.core.matWork = false ∧ unitBusy.sid = 7 ∧ unitBusy.me.paused = false ∧
    ({ unitBusy with core := { unitBusy.core with loaded7 := true } } : State).core.loaded7 = true ∧ user.core.loaded7 = false := by decide

theorem witness_FifoWords :
    3 ∈ (badHeads (commanded 0x51 7 haltedCopy)).core.fifoPoison ∧ 3 ∉ (commanded 0x51 7 haltedCopy).core.fifoPoison ∧
    ((badHeads (commanded 0x21 7 (sequenced 0))).readFifo (queueNum .vx)).1 = true ∧ ((commanded 0x21 7 (sequenced 0)).readFifo (queueNum .vx)).1 = false ∧
    (0x21#64).toNat % 16 ≤ 2 ∧ (0x21#64).toNat < 64 ∧ 2 < (0x23#64).toNat % 16 ∧ 64 ≤ (0x41#64).toNat := by decide

theorem witness_Commits : (user.setMe { user.me with ready := 5 }).core.occupied 0 0 = true ∧ user.core.occupied 0 user.coreCycles = false ∧
    ((sequenced 0).seq .vec).ready ≤ (sequenced 0).coreCycles := by decide

theorem witness_BankWaits : (awaited user).core.accessStall 0 0x10 (loadOf 0x010000000010) = true ∧ user.core.accessStall 0 0x10 (loadOf 0x010000000010) = false ∧
    (loadOf 0).kind ≠ .accw := by decide

/-- The rows that agent 1 last sent to agent 0. -/
theorem witness_Rows : (0 : Fin 18) ≠ 1 ∧ (∀ p ∈ (enveloped 1).net, p.ev ≠ .clockUpdate 0 ⟨1, []⟩) ∧ (enveloped 1).net.length = 1 := by decide

/-- A migration whose forwarded request is still on its way to the new home, or has come. -/
def forwarding (gone : Bool) : State :=
  let m : Migration := { num := 2, page := page0, newHome := 3, newPfn := 1, req := req, copied := true, queued := [req], held := [] }
  let p : Packet := { num := 3, src := 18432, dst := 18435, after := [], afterWho := none, order := [], env := none, admitted := none, held := false, ev := .rd8 req }
  { State.reset with migrations := [m], net := if gone then [] else [p] }

theorem witness_MigrationEnds : (∀ m ∈ (forwarding false).migrations, (forwarding false).ahead m = true ∧ m.num = 2) ∧
    (∀ m ∈ (forwarding true).migrations, (forwarding true).ahead m = false) ∧ (∀ m ∈ (migrating false).migrations, m.queued = []) ∧
    ({ req with origin := 1, va := 0x100000000004 } : Req).va.toNat % 32 ≠ 0 ∧ req.routine ≠ 22 := by decide

/-- A bank of a stack that owes a refresh, used in the present cycle or 64 cycles ago; a window in which the first bank is next. -/
def owing (n : Nat) : Stack := { Stack.reset with allow := [(4, -1)], used := [(4, n)] }

theorem witness_Refreshes :
    (owing 0).allowance 4 < 0 ∧ (∀ t, (owing 0).used.get? 4 = some t → t + 64 ≤ ({ State.reset with cycle := 64 } : State).cycle) ∧
    ¬ (∀ t, (owing 1).used.get? 4 = some t → t + 64 ≤ ({ State.reset with cycle := 64 } : State).cycle) ∧ (owing 0).window = none ∧
    (∀ n, 0 < n → 4 < 160 * n) ∧ Stack.reset.nextBank 0 = some 0 ∧ (Stack.reset.allowance 5 - 1 ≤ -8 ↔ False) ∧
    ({ Stack.reset with allow := [(5, -7)] } : Stack).allowance 5 - 1 ≤ -8 := by
  have w (t : Nat) (h : (owing 0).used.get? 4 = some t) : t = 0 := by
    have : (owing 0).used.get? 4 = some 0 := by decide
    rw [this] at h; exact (Option.some.inj h).symm
  refine ⟨by decide, fun t h => ?_, fun h => ?_, by decide, fun n h => by omega, ?_, by decide, by decide⟩
  · rw [w t h]
  · exact absurd (h 1 (by decide)) (by decide)
  · simp only [Stack.nextBank, List.range_succ_eq_map, List.map_cons, List.find?_cons]
    have e : (0 * (Config.lastBank + 1) + ((Stack.reset.turn.get? 0).getD (Config.lastBank + 1 - 1) + 1 + 0) % (Config.lastBank + 1)) = 0 := by
      have h : Stack.reset.turn.get? 0 = none := by decide
      rw [h]; simp
    rw [e]
    have h : decide (Stack.reset.allowance 0 < 8) = true := by decide
    rw [h]

/-! The module: after bring-up; the host, the Office, collectives, jobs. -/

/-- The firmware image was verified: the BARs are on. -/
def upped (s : State := user) : State := { s with mgmt := { s.mgmt with verified := true } }
/-- Requests of the host that wait. -/
def hostBehind : State := { upped with host := { user.host with kept := [.mailboxIn 3 7] } }

theorem witness_HostOrder :
    user.mgmt.verified = false ∧ (upped).HostOpen ∧ hostBehind.mgmt.verified = true ∧ hostBehind.mgmt.power = .active ∧ hostBehind.host.kept ≠ [] ∧
    ((mapped (upped (migrating false))).hostDo (.hostAtomicop 0 .add 8 1 0)).isNone = true ∧ (mapped (migrating false)).migrating 0x100000000000 = true ∧
    256 + 3 ∉ (boxed [] [] 2).host.fifoPoison ∧ 3 ∉ user.host.fifoPoison ∧ 3 ∈ ({ user.host with fifoPoison := [3] } : HostDie).fifoPoison ∧
    (∀ l ∈ user.host.letters, l.1 ≠ 3) ∧ (boxed [] [] 2).host.kept = [] := by
  refine ⟨?_, ⟨?_, ?_⟩, ?_, ?_, ?_, ?_, ?_, ?_, ?_, ?_, ?_, ?_⟩ <;> decide

theorem witness_EdgeAccesses :
    engOk (served.edgeGet 30001 ⟨30001, 0⟩ none 0x100000000008 8) 0 = true ∧ engOk (served.edgePut 30001 ⟨30001, 0⟩ none 0x100000000008 [1, 2]) 0 = true ∧
    engOk (badGranule.edgeGet 30001 ⟨30001, 0⟩ none 0x100000000008 8) 1 = true ∧ engOk (roPage.edgePut 30001 ⟨30001, 0⟩ none 0x100000000008 [1, 2]) 1 = true ∧
    engOk ((mapped (migrating false)).edgeGet 30001 ⟨30001, 0⟩ none 0x100000000008 8) 2 = true ∧
    engOk (linked.edgeGet 30000 (farWho aFrame) none aFrame.arg.toNat (reqSpan aFrame)) 0 = true ∧
    engOk (linked.edgePut 30000 (farWho aFrame) none aFrame.arg.toNat aFrame.data) 0 = true ∧
    ((served.cross 30001 (serverDst 0) [granulePlaces 0x100000000008 8] 1).bind fun x => x.cross (serverDst 0) 30001 [] 1).isSome = true ∧
    (({ served with agents := served.agents.set (agentOf 30001) { served.agents[agentOf 30001] with know := [] } } : State).cross 30001 (serverDst 0) [] 1).isSome = true := by
  decide

/-- Frames of link 2 that wait at the Office; a tile that has begun on stream 6. -/
def tileHead : TileDesc := { base := 0, bf := [], stride := 32, rows := 2, cols := 32, fmt := 0 }
def tileFrame (l : List Byte) : Frame := { frameOf 2 1 6 with body := .tile tileHead [], data := l }
def officeBehind : State := { linked with office := { linked.office with kept := [(2, .streamMessage aFrame)] } }

theorem witness_OfficeOrder :
    (∃ k ∈ officeBehind.office.kept, k.1 = aFrame.link) ∧ (∀ k ∈ linked.office.kept, k.1 ≠ aFrame.link) ∧
    (let f : Frame := { aFrame with arg := 0x010000030010 }
     ((linked.modCore 3 fun c => { c with saved := true }).frameGo (.accessRequest f)).isNone = true ∧
       (linked.toPad 3 0x10 (reqSpan f) 1).isSome = true ∧ ((linked.modCore 3 fun c => { c with saved := true }).toPad 3 0x10 (reqSpan f) 1).isNone = true ∧
       (linked.cross 3 30000 [] ((reqSpan f + 31) / 32)).isSome = true ∧ linked.away 3 = false) ∧
    (tileFrame []).data = [] ∧ (tileFrame [1]).data ≠ [] ∧ (linked.office.tilesIn.get? (2 + 256 * 6)).isNone = true ∧ tileSize tileHead = 64 ∧
    (let f : Frame := { aFrame with arg := 0x200000000000 }
     regionOf 30000 f.arg = .host ∧ (linked.farWindow f).isSome = true ∧ linked.hostAddr f.arg.toNat = none) ∧ regionOf 30000 0x300000000000 = .pkg := by decide

/-- A submission behind others; a frame of the collective that came before it, and one of another. -/
def submitBehind : State := { user with office := { user.office with kept := [(256, .collectiveSubmit 0 ⟨0, 0⟩ none)] } }
def aborted : State := collecting (Collective.early 5 2 10000 0) 0
def downPage : State := mapped (migrating false)

theorem witness_CollectiveOrder :
    (∃ k ∈ submitBehind.office.kept, k.1 = 256) ∧ (∀ k ∈ user.office.kept, k.1 ≠ 256) ∧
    ofColl 5 2 (.collectiveData collFrame5 false 0) = true ∧ ofColl 5 3 (.collectiveData collFrame5 false 0) = false ∧
    (Collective.early 5 2 10000 0).who = none ∧ (Collective.early 5 2 10000 0).decided = some false ∧ (collRecord 1 (some true) none none).who ≠ none ∧
    (aborted.coll? 5 2).isSome = true ∧
    (let c := collRecord 0 none none none
     c.whole 1 = none ∧ ((c.takes 1 (List.replicate c.total 0) 0).whole 1).isSome = true) ∧
    (((collState (collBlock 0 1)).rejectColl ⟨collBlock 0 0⟩ 0x100000000000 1 none).isSome = true ∧ (downPage.rejectColl ⟨collBlock 0 0⟩ 0x100000000000 1 none).isNone = true) ∧
    (((collState (collBlock 0 1)).officeWrite none 0x100000000060 [1]).isSome = true ∧ (downPage.officeWrite none 0x100000000060 [1]).isNone = true) ∧
    ((downPage.putStatus 0x100000000000 1 0 0).isNone = true ∧ ((collecting (collRecord 0 (some false) none none) 0).putStatus 0x100000000000 2 0 0).isSome = true) ∧
    (let c := collRecord 0 (some true) (some ([1, 2, 3, 4, 5, 6, 7, 8], 0)) none
     ((collecting c 0).putResult c).isSome = true ∧ (downPage.putResult c).isNone = true ∧
       engOk ((collecting c 0).edgePut 30000 ⟨30000, 0⟩ c.job c.dst (c.written [1, 2, 3, 4, 5, 6, 7, 8])) 0 = true ∧
       engOk (downPage.edgePut 30000 ⟨30000, 0⟩ c.job c.dst (c.written [1, 2, 3, 4, 5, 6, 7, 8])) 2 = true) := by decide +kernel

/-- Two entries of CD0's pool, with the same record: the first of them is to start before the second. -/
def queuing : State :=
  let s := launching record
  { s with dies := s.dies.set 0 { s.dies[(0 : Fin 8)] with pool := [⟨4, recordAt, 0, none⟩, ⟨5, recordAt, 1, none⟩] } }

theorem witness_LaunchOrder :
    queuing.behind 0 1 = true ∧ queuing.behind 0 0 = false ∧ (queuing.record? recordAt).map (fun r => queuing.heldBack r 1) = some true ∧
    ((launching record).behind 0 0 = false) ∧ (secured .retired .none).mgmt.sec = .retired ∧ user.mgmt.sec ≠ .retired := by decide +kernel

/-- No fibre is resident, and the module is to go to S1. -/
def vacated : State := { State.reset with mgmt := { State.reset.mgmt with waiting := [theCmd], goal := some .s1 } }
def cycling (n : Nat) : State := { user with mgmt := { user.mgmt with verified := n == 1, halted := n == 2, power := if n == 3 then .off else .active } }

theorem witness_PowerForms :
    sleeping.vacant = false ∧ vacated.vacant = true ∧ vacated.drained = true ∧ vacated.mgmt.goal = some .s1 ∧
    (cycling 1).mgmt.verified = true ∧ (cycling 2).mgmt.halted = true ∧ (cycling 3).mgmt.power = .off ∧ (cycling 3).mgmt.ready = false ∧ (cycling 3).mgmt.verified = false ∧
    user.mgmt.power = .active ∧ user.mgmt.halted = false ∧ (secured .retired .none).mgmt.sec = .retired ∧
    (withBlock (block 0x25 9 1 0 0 5) (powered .s3)).Commanded theCmd 0x25 ⟨true, false, false, 32, true⟩ (args (block 0x25 9 1 0 0 5)) (taken (withBlock (block 0x25 9 1 0 0 5) (powered .s3))) ∧
    (powered .s3).mgmt.power = .s3 ∧ user.mgmt.power ≠ .s3 := by
  refine ⟨?_, ?_, ?_, ?_, ?_, ?_, ?_, ?_, ?_, ?_, ?_, ?_, commands _ _ _ _ _ ?_ ?_ ?_ ?_ ?_ ?_, ?_, ?_⟩ <;> decide

/-- What a block that cannot be read ends with. -/
theorem witness_Unreadable :
    (withBlock []).vPoison 0x100000000000 64 = false ∧ ((withBlock []).mgmt.cmds.head? = some theCmd) ∧ user.mgmt.cmds.head? ≠ some theCmd ∧
    (let s := withBlock []
     let t : State := { s with hbm := s.hbm.set 0 { s.hbm[(0 : Fin 8)] with poison := [0] } }
     t.vPoison 0x100000000000 64 = true ∧ t.vBytes 0x100000000000 64 = none) := by decide

theorem witness_ResumesAndMoves :
    (let t := taken (withBlock (block 0x27 0 0 0 0 0) debugged)
     t.frameBusy = false ∧ (t.sendFrame (List.replicate 256 0)).frameBusy = true ∧ (t.vBytes t.frameAddr 256).isSome = true) ∧
    (onCore (fun c => { c with cause := 0x8000000000000000 }) debugged).core.cause.getLsbD 63 = true ∧
    (user.me.atBoundary user.coreCycles = true ∧ user.core.slotOf? 0 = some 0 ∧ user.fib.wait = none ∧ user.fib.calm = true) ∧
    (({ posting with sid := 0 } : State).displace.settled 0 = false) ∧ posting.fib.calm = true ∧ posting.me.atBoundary posting.coreCycles = true ∧
    posting.settled 0 = false ∧ (moving 3).settled 0 = true := by decide +kernel

theorem witness_DecodeEncode : (Instr.add (.p 1) (.p 2) (.s 5)).wf = true ∧ encode (.add (.p 1) (.p 2) (.s 5)) = some 0x0410A500 := by decide

theorem witness_StepKeepsMemory : State.reset.memOk ∧ (bytesAt 0x10 [1, 0, 3] placed).memOk ∧ next (step (bytesAt 0x10 [1, 0, 3] placed)) (fun t => memWf t.mem) false = true := by
  refine ⟨?_, ?_, ?_⟩ <;> (try unfold State.memOk) <;> decide

end Sys2Proof.Tests
end

section
/-! What reset leaves. -/

namespace Sys2Proof.Machine

/-- At reset no core is listed apart from the reset core. -/
theorem reset_coreAt (n : Nat) : State.reset.coreAt n = Core.reset := by
  unfold State.coreAt
  split <;> rfl

theorem reset_die (k : Fin 8) : State.reset.dies[k] = Die.reset := Vector.getElem_replicate ..
theorem reset_stack (k : Fin 8) : State.reset.hbm[k] = Stack.reset := Vector.getElem_replicate ..
theorem reset_channel (k : Fin 8) : Core.reset.channels[k] = Channel.reset := Vector.getElem_replicate ..

/-- Settles O56: the scalar fields by evaluation, the vectors element by element. -/
theorem resetValues : Obligations.ResetValues := by
  unfold Obligations.ResetValues
  refine ⟨?s, ?v, ?bfmt, rfl, rfl, rfl, rfl, rfl, rfl, rfl, rfl, rfl, rfl, fun _ => rfl, rfl, fun _ => rfl, ?lastfire, ?keeper, rfl, rfl, rfl,
    ?wm, reset_coreAt, ?dies, rfl, rfl, rfl, rfl⟩
  case wm => exact fun k => congrArg Channel.wm (reset_channel k)
  case dies =>
    intro k
    rw [reset_die, reset_stack]
    exact ⟨rfl, fun _ => rfl⟩
  all_goals exact fun k => Vector.getElem_replicate ..

end Sys2Proof.Machine
end

section
/-! ## Every step keeps the canonical form of memory

For each function of the model that a step calls, one lemma: `f_mem`, that it leaves memory alone, or `f_memWf`, that it keeps memory in
its canonical form. They stand in the order of the model's files; the `simp` ones compose. -/

namespace Sys2Proof.Machine

theorem getD_memWf {o : Option State} {s : State} (h : ∀ t, o = some t → memWf t.mem = true) (hs : memWf s.mem = true) :
    memWf (o.getD s).mem = true := by
  cases o with
  | none => exact hs
  | some t => exact h t rfl

@[simp] theorem foldl_mem {α : Type} {f : State → α → State} (hf : ∀ t x, (f t x).mem = t.mem) (l : List α) (s : State) :
    (l.foldl f s).mem = s.mem := foldl_keeps State.mem f hf l s

theorem foldl_memWf {α : Type} {f : State → α → State} (hf : ∀ t x, memWf t.mem = true → memWf (f t x).mem = true) (l : List α)
    {s : State} (hs : memWf s.mem = true) : memWf (l.foldl f s).mem = true :=
  List.foldlRecOn l f hs fun t ht x _ => hf t x ht

theorem foldl_fst_memWf {α β : Type} {f : State × β → α → State × β} {l : List α} {r q : State × β} (h : l.foldl f r = q)
    (hf : ∀ p x, memWf p.1.mem = true → memWf (f p x).1.mem = true) (hr : memWf r.1.mem = true) : memWf q.1.mem = true :=
  h ▸ List.foldlRecOn (motive := fun p : State × β => memWf p.1.mem = true) l f hr fun p hp x _ => hf p x hp

theorem memWf_fillGranules (m : List Host.Cell) (k fill : Nat) (gs : List Nat) (hm : memWf m = true) :
    memWf (fillGranules m k fill gs) = true :=
  List.foldlRecOn (motive := fun m => memWf m = true) gs _ hm fun t ht _ _ => memWf_memPut _ t _ ht

/-- The state that a transfer of the copy engine leaves, where it leaves one, has its memory in the canonical form. -/
def EngOut.MemWf : EngOut → Prop
  | .ok _ s | .fault _ _ s => memWf s.mem = true
  | .wait => True

/-- The state that a fetch leaves. -/
def Fetched.state : Fetched → State
  | .run _ s | .whole s => s

theorem ite_memWf {c : Prop} [Decidable c] {a b : State} (ha : memWf a.mem = true) (hb : memWf b.mem = true) :
    memWf (if c then a else b).mem = true := by
  split
  · exact ha
  · exact hb

theorem memWf_of_eq {s t : State} (h : t.mem = s.mem) (hs : memWf s.mem = true) : memWf t.mem = true := h ▸ hs

/-! ### The operations of Machine/Ops.lean -/

@[simp] theorem State.modFibre_mem (s : State) (e : Nat) (f : Fibre → Fibre) : (s.modFibre e f).mem = s.mem := by
  unfold State.modFibre
  split <;> simp

@[simp] theorem State.modJob_mem (s : State) (j : Option Nat) (f : Job → Job) : (s.modJob j f).mem = s.mem := by
  unfold State.modJob
  split <;> simp

@[simp] theorem State.countSend_mem (s : State) (j : Option Nat) (die : Nat) : (s.countSend j die).mem = s.mem := by simp [State.countSend]

@[simp] theorem State.countConsume_mem (s : State) (j : Option Nat) (die : Nat) : (s.countConsume j die).mem = s.mem := by
  simp [State.countConsume]

@[simp] theorem State.makeReady_mem (s : State) (e : Nat) : (s.makeReady e).mem = s.mem := by
  unfold State.makeReady
  split <;> simp

@[simp] theorem State.swapOut_mem (s : State) (st reason : Nat) : (s.swapOut st reason).mem = s.mem := by
  unfold State.swapOut
  split <;> simp

@[simp] theorem State.stallOn_mem (s : State) (q : Bool) : (s.stallOn q).mem = s.mem := rfl

@[simp] theorem State.stall_mem (s : State) : (s.stall).mem = s.mem := rfl

@[simp] theorem State.setStack_mem (s : State) (k : Nat) (x : Stack) : (s.setStack k x).mem = s.mem := rfl

@[simp] theorem State.countSubs_mem (s : State) (job : Option Nat) (n : Nat) : (s.countSubs job n).mem = s.mem := by
  unfold State.countSubs
  split <;> simp

@[simp] theorem State.pieceNote_mem (s : State) (p : Page) (pa n : Nat) (job : Option Nat) : (s.pieceNote p pa n job).mem = s.mem := by
  unfold State.pieceNote
  grind [State.setStack_mem, State.countSubs_mem]

@[simp] theorem State.pieceWrite_memWf (s : State) (p : Page) (pa : Nat) (l : List Byte) (job : Option Nat) (hs : memWf s.mem = true) :
    memWf (s.pieceWrite p pa l job).mem = true := by
  have put (m : List Host.Cell) (hm : memWf m = true) := memWf_memPut l m (dramHome p.home pa) hm
  simp only [State.pieceWrite, State.countSubs_mem, State.setStack_mem]
  split
  · exact put _ (memWf_fillGranules _ _ _ _ hs)
  · exact List.foldlRecOn (motive := fun m => memWf m = true) _ _ (put _ hs) fun m hm g _ => memWf_memPut _ m _ hm

theorem State.vPutAux_memWf {s t : State} {job : Option Nat} {fuel va : Nat} {l : List Byte} (h : s.vPutAux job fuel va l = some t)
    (hs : memWf s.mem = true) : memWf t.mem = true := by
  induction fuel generalizing s va l with
  | zero => simp only [State.vPutAux] at h; grind
  | succ fuel ih => simp only [State.vPutAux] at h; grind [State.pieceWrite_memWf]

theorem State.vPut_memWf {s : State} {va : Nat} {l : List Byte} {job : Option Nat} {t : State}
    (h : s.vPut va l job = some t) (hs : memWf s.mem = true) : memWf t.mem = true := by
  unfold State.vPut at h
  grind [State.vPutAux_memWf]

@[simp] theorem State.vNoteAux_mem (s : State) (job : Option Nat) (fuel va n : Nat) : (s.vNoteAux job fuel va n).mem = s.mem := by
  induction fuel generalizing s va n with
  | zero => rfl
  | succ fuel ih =>
    simp only [State.vNoteAux]
    (repeat' split) <;> simp [ih]

@[simp] theorem State.vNote_mem (s : State) (va n : Nat) (job : Option Nat) : (s.vNote va n job).mem = s.mem := by
  simp [State.vNote]

@[simp] theorem State.spPut_memWf (s : State) (core off : Nat) (l : List Byte) (hs : memWf s.mem = true) :
    memWf (s.spPut core off l).mem = true := memWf_memPut l s.mem _ hs

@[simp] theorem State.finishCmd_memWf (s : State) (c : Cmd) (status : Nat) (hs : memWf s.mem = true) :
    memWf (s.finishCmd c status).mem = true := by
  have hv : memWf ((s.vPut (c.block.toNat + 1) [BitVec.ofNat 8 status]).getD s).mem = true :=
    getD_memWf (fun t h => State.vPut_memWf h hs) hs
  unfold State.finishCmd
  split
  · exact hv
  · simpa [State.modCore_mem] using hv

@[simp] theorem State.finishUrgent_memWf (s : State) (status : Nat) (hs : memWf s.mem = true) : memWf (s.finishUrgent status).mem = true := by
  unfold State.finishUrgent
  split <;> simp [hs]

@[simp] theorem State.stopUpper_mem (s : State) (st : Nat) : (s.stopUpper st).mem = s.mem := rfl

@[simp] theorem State.queueTrap_mem (s : State) (t : Trap) : (s.queueTrap t).mem = s.mem := rfl

@[simp] theorem State.slot7Fault_memWf (s : State) (f : Flt) (epc : Addr) (epg : DWord) (hs : memWf s.mem = true) :
    memWf (s.slot7Fault f epc epg).mem = true := by
  unfold State.slot7Fault
  grind [State.finishUrgent_memWf]

@[simp] theorem State.faultAt_memWf (s : State) (f : Flt) (epc : Addr) (epg : DWord) (hs : memWf s.mem = true) :
    memWf (s.faultAt f epc epg).mem = true := by
  unfold State.faultAt
  grind [State.slot7Fault_memWf, State.setFib_mem, State.stopUpper_mem, State.queueTrap_mem, State.swapOut_mem]

@[simp] theorem State.raise_memWf (s : State) (f : Flt) (hs : memWf s.mem = true) : memWf (s.raise f).mem = true := by
  simp [State.raise, hs]

@[simp] theorem State.raiseMacro_memWf (s : State) (f : Flt) (hs : memWf s.mem = true) : memWf (s.raiseMacro f).mem = true := by
  unfold State.raiseMacro
  split <;> simp [hs]

@[simp] theorem State.raiseElem_memWf (s : State) (f : Flt) (k : Nat) (hs : memWf s.mem = true) : memWf (s.raiseElem f k).mem = true := by
  simp [State.raiseElem, hs]

@[simp] theorem State.coreTrap_mem (s : State) (code : Nat) (eaddr eidx : DWord) (extra : List DWord) :
    (s.coreTrap code eaddr eidx extra).mem = s.mem := by
  unfold State.coreTrap
  split <;> simp

@[simp] theorem State.parityTrap_mem (s : State) (field : Nat) : (s.parityTrap field).mem = s.mem := rfl

@[simp] theorem State.readFifo_mem (s : State) (k : Nat) : (s.readFifo k).2.mem = s.mem := rfl

@[simp] theorem State.complete_mem (s : State) : (s.complete).mem = s.mem := rfl

@[simp] theorem State.takeTrap_mem (s : State) (t : Trap) (run : Bool) : (s.takeTrap t run).mem = s.mem := by
  unfold State.takeTrap
  split <;> simp

@[simp] theorem State.endSlot7_memWf (s : State) (hs : memWf s.mem = true) : memWf (s.endSlot7).mem = true := by simp [State.endSlot7, hs]

@[simp] theorem State.removeFibre_mem (s : State) (e : Nat) : (s.removeFibre e).mem = s.mem := rfl

@[simp] theorem State.resumeFibre_mem (s : State) (e : Nat) : (s.resumeFibre e).mem = s.mem := by
  unfold State.resumeFibre
  split <;> simp

@[simp] theorem State.restoreFibre_mem (s : State) (e : Nat) (c : Ctx) : (s.restoreFibre e c).mem = s.mem := by
  unfold State.restoreFibre
  grind [State.modFibre_mem, State.resumeFibre_mem]

@[simp] theorem State.returnFromTrap_memWf (s : State) (t : Trap) (hs : memWf s.mem = true) : memWf (s.returnFromTrap t).mem = true := by
  unfold State.returnFromTrap
  grind [State.endSlot7_memWf, State.removeFibre_mem, State.vNote_mem, State.restoreFibre_mem, State.raise_memWf]

/-! ### The operations of Machine/Operands.lean -/

theorem State.popReg_mem {s : State} {r : Reg} {t : State} {a : DWord} (h : s.popReg r = some (a, t)) : t.mem = s.mem := by
  cases r <;> simp only [State.popReg] at h <;> (repeat' split at h) <;> simp at h <;> grind [State.setFib_mem, State.countConsume_mem]

theorem State.popAll_mem {s t : State} {rs : List Reg} {vs : List DWord} (h : s.popAll rs = some (vs, t)) : t.mem = s.mem := by
  induction rs generalizing s vs with
  | nil =>
    simp only [State.popAll] at h
    grind
  | cons r rs ih =>
    simp only [State.popAll] at h
    grind [State.popReg_mem]

@[simp] theorem State.setBox_mem (s : State) (m : Nat) (b : Mailbox) : (s.setBox m b).mem = s.mem := rfl

@[simp] theorem State.outPush_mem (s : State) (m kind : Nat) (words : List (DWord × Body)) : (s.outPush m kind words).mem = s.mem := by
  unfold State.outPush
  grind [State.setBox_mem]

@[simp] theorem State.pushHost_mem (s : State) (w : DWord) : (s.pushHost w).mem = s.mem := by
  unfold State.pushHost
  split <;> simp

@[simp] theorem State.pushScale_mem (s : State) (w : DWord) : (s.pushScale w).mem = s.mem := by simp [State.pushScale, State.modCore_mem]

@[simp] theorem State.setTimer_mem (s : State) (t : DWord) : (s.setTimer t).mem = s.mem := by
  unfold State.setTimer
  split <;> simp

@[simp] theorem State.later_mem (s : State) (w : LateWrite) : (s.later w).mem = s.mem := rfl

@[simp] theorem State.writeReg_mem (s : State) (d : Reg) (v : DWord) : (s.writeReg d v).mem = s.mem := by
  unfold State.writeReg
  split <;> simp

@[simp] theorem State.writePair_mem (s : State) (d : Reg) (lo hi : DWord) : (s.writePair d lo hi).mem = s.mem := by
  unfold State.writePair
  split <;> simp

@[simp] theorem State.stallRead_mem (s : State) (reads : List Reg) : (s.stallRead reads).mem = s.mem := rfl

theorem State.gate_mem {s t : State} {o : Opnds} {vs : List DWord} (h : s.gate o = .go vs t) : t.mem = s.mem := by
  unfold State.gate at h
  grind [State.popAll_mem]

@[simp] theorem State.raiseOf_memWf (s : State) (o : Opnds) (f : Flt) (hs : memWf s.mem = true) : memWf (s.raiseOf o f).mem = true := by
  unfold State.raiseOf
  split <;> simp [hs]

@[simp] theorem State.gateRaise_memWf (s : State) (o : Opnds) (f : Flt) (hs : memWf s.mem = true) : memWf (s.gateRaise o f).mem = true := by
  unfold State.gateRaise
  split
  · split
    · rename_i h
      obtain ⟨r', -, h⟩ := Option.bind_eq_some_iff.1 h
      obtain ⟨⟨v, u⟩, hp, h⟩ := Option.map_eq_some_iff.1 h
      obtain ⟨rfl, rfl⟩ := Prod.mk.inj h
      exact State.raiseOf_memWf _ _ _ (by simpa [State.popReg_mem hp] using hs)
    · exact State.raiseOf_memWf _ _ _ hs
  · exact State.raiseOf_memWf _ _ _ hs

theorem State.issue_memWf {s t : State} {o : Opnds} {k : List DWord → State → State} (h : s.issue o k = .next t)
    (hk : ∀ vs u, memWf u.mem = true → memWf (k vs u).mem = true) (hs : memWf s.mem = true) : memWf t.mem = true := by
  cases h
  split
  · exact State.gateRaise_memWf _ _ _ hs
  · simpa using hs
  · rename_i hg
    exact hk _ _ (by rwa [State.gate_mem hg])

@[simp] theorem State.done_memWf (s s' : State) (d : Reg) (v : DWord) (hs : memWf s.mem = true) (hs' : memWf s'.mem = true) :
    memWf (s.done s' d v).mem = true := by
  unfold State.done
  split <;> simp [hs, hs']

theorem State.compute_memWf {s : State} {reads : List Reg} {d : Reg} {f : List DWord → DWord} {t : State}
    (h : s.compute reads d f = .next t) (hs : memWf s.mem = true) : memWf t.mem = true := by
  unfold State.compute at h
  grind [State.issue_memWf, State.done_memWf]

@[simp] theorem State.borrow_mem (s : State) (e : Nat) (f : Fibre) : (s.borrow e f).mem = s.mem := by
  unfold State.borrow
  split <;> simp

theorem State.giveBack_mem (s0 s1 : State) (e : Nat) : (s0.giveBack s1 e).mem = s1.mem := by
  unfold State.giveBack
  split <;> rfl

@[simp] theorem State.asFibre_mem (s : State) (e : Nat) (g : State → State) (hg : ∀ t, (g t).mem = t.mem) : (s.asFibre e g).mem = s.mem := by
  unfold State.asFibre
  split
  · rw [State.giveBack_mem, hg, State.borrow_mem]
  · rfl

theorem State.asFibre_memWf (s : State) (e : Nat) (g : State → State) (hg : ∀ t, memWf t.mem = true → memWf (g t).mem = true)
    (hs : memWf s.mem = true) : memWf (s.asFibre e g).mem = true := by
  unfold State.asFibre
  split
  · rw [State.giveBack_mem]
    exact hg _ (by rwa [State.borrow_mem])
  · exact hs

@[simp] theorem State.unpopReg_mem (s : State) (x : Reg × DWord) : (s.unpopReg x).mem = s.mem := by
  unfold State.unpopReg
  split <;> simp

@[simp] theorem State.putBack_mem (s : State) (ws : List (Reg × DWord)) : (s.putBack ws).mem = s.mem := by
  induction ws with
  | nil => rfl
  | cons x ws ih => exact (State.unpopReg_mem _ x).trans ih

@[simp] theorem State.unpop_mem (s : State) (e : Nat) (w : Wait) : (s.unpop e w).mem = s.mem := by
  unfold State.unpop
  split <;> simp

@[simp] theorem State.block_mem (s : State) (w : Wait) : (s.block w).mem = s.mem := by
  unfold State.block
  grind [State.setFib_mem, State.setMe_mem, State.swapOut_mem, State.setPc_mem]

@[simp] theorem State.holdSlot_mem (s : State) (w : Wait) : (s.holdSlot w).mem = s.mem := rfl

@[simp] theorem State.endWait_mem (s : State) (w : Wait) : (s.endWait w).mem = s.mem := rfl

@[simp] theorem State.afterWait_memWf (s : State) (w : Wait) (hs : memWf s.mem = true) : memWf (s.afterWait w).mem = true := by
  unfold State.afterWait
  split <;> simp [hs]

@[simp] theorem State.faultWait_memWf (s : State) (e : Nat) (w : Wait) (f : Flt) (hs : memWf s.mem = true) :
    memWf (s.faultWait e w f).mem = true := by
  unfold State.faultWait
  grind [State.asFibre_memWf, State.setFib_mem, State.faultAt_memWf]

theorem State.finishWait_memWf {s : State} {e : Nat} {w : Wait} {d : Option Reg} {v : DWord} {t : State}
    (h : s.finishWait e w d v = some t) (hs : memWf s.mem = true) : memWf t.mem = true := by
  unfold State.finishWait at h
  grind [State.borrow_mem, State.faultWait_memWf, State.writeReg_mem, State.endWait_mem, State.giveBack_mem, State.makeReady_mem,
    State.asFibre_memWf, State.afterWait_memWf]

theorem State.finishWait2_memWf {s : State} {e : Nat} {w : Wait} {d : Reg} {v : DWord} {d2 : Reg} {v2 : DWord} {t : State}
    (h : s.finishWait2 e w d v d2 v2 = some t) (hs : memWf s.mem = true) : memWf t.mem = true := by
  unfold State.finishWait2 at h
  grind [State.faultWait_memWf, State.finishWait_memWf, State.asFibre_memWf, State.writeReg_mem]

@[simp] theorem State.asyncTrap_mem (s : State) (e : Nat) (t : Trap) : (s.asyncTrap e t).mem = s.mem := by simp [State.asyncTrap]

/-! ### The operations of Machine/Net.lean -/

@[simp] theorem State.stamp_mem (s : State) (p : Packet) : (s.stamp p).mem = s.mem := rfl

@[simp] theorem State.sendRange_mem (s : State) (src dst : Nat) (who : Option Who) (after : List Nat) (order : List (Nat × Nat)) (ev : Ev) :
    (s.sendRange src dst who after order ev).mem = s.mem := by
  unfold State.sendRange
  grind [State.stamp_mem]

@[simp] theorem State.sendFrom_mem (s : State) (src dst : Nat) (who : Option Who) (after : List Nat) (order : Option Nat) (ev : Ev) :
    (s.sendFrom src dst who after order ev).mem = s.mem := by simp [State.sendFrom]

@[simp] theorem State.send_mem (s : State) (dst : Nat) (ev : Ev) : (s.send dst ev).mem = s.mem := by simp [State.send]

@[simp] theorem State.sendTo_mem (s : State) (dst : Nat) (order : Option Nat) (ev : Ev) : (s.sendTo dst order ev).mem = s.mem := by
  simp [State.sendTo]

@[simp] theorem State.stampHeld_mem (s : State) (ps : List Packet) : (s.stampHeld ps).mem = s.mem := by
  induction ps generalizing s with
  | nil => rfl
  | cons p ps ih =>
    simp only [State.stampHeld]
    split <;> simp [ih]

theorem State.cross_mem {s : State} {src dst : Nat} {order : List (Nat × Nat)} {len : Nat} {t : State}
    (h : s.cross src dst order len = some t) :
    t.mem = s.mem := by
  unfold State.cross at h
  grind

@[simp] theorem State.cull_mem (s : State) (f : Packet → Bool) : (s.cull f).mem = s.mem := rfl

@[simp] theorem State.dropPacket_mem (s : State) (n : Nat) : (s.dropPacket n).mem = s.mem := rfl

@[simp] theorem State.onCore_mem (s : State) (c : Nat) (f : State → State) (hf : ∀ t, (f t).mem = t.mem) : (s.onCore c f).mem = s.mem := by
  unfold State.onCore
  split
  · exact hf s
  · rw [State.focus_mem, hf, State.focus_mem]

theorem State.onCore_memWf (s : State) (c : Nat) (f : State → State) (hf : ∀ t, memWf t.mem = true → memWf (f t).mem = true)
    (hs : memWf s.mem = true) : memWf (s.onCore c f).mem = true := by
  unfold State.onCore
  split
  · exact hf s hs
  · rw [State.focus_mem]
    exact hf _ (by rwa [State.focus_mem])

/-! ### The operations of Machine/Traps.lean -/

@[simp] theorem State.dropPost_mem (s : State) (core op : Nat) : (s.dropPost core op).mem = s.mem := by
  simp [State.dropPost, State.modCore_mem]

@[simp] theorem State.onFibre_mem (s : State) (w : Who) (f : Fibre → Fibre) : (s.onFibre w f).mem = s.mem := by
  simp [State.onFibre, State.modCore_mem]

@[simp] theorem State.eraseOp_mem (s : State) (who : Who) (w : Wait) : (s.eraseOp who w).mem = s.mem := by
  unfold State.eraseOp
  grind [State.cull_mem, State.modCore_mem, State.onFibre_mem, State.dropPost_mem, State.countConsume_mem]

@[simp] theorem State.withdraw_mem (s : State) (e : Nat) : (s.withdraw e).mem = s.mem := by
  unfold State.withdraw
  split <;> simp

@[simp] theorem State.interruptPg_mem (s : State) : (s.interruptPg).mem = s.mem := by
  unfold State.interruptPg
  split <;> simp

@[simp] theorem State.forget_mem (s : State) : (s.forget).mem = s.mem := by
  unfold State.forget
  split <;> simp

@[simp] theorem State.takeAsync_mem (s : State) (t : Trap) (wdrawn : Bool) : (s.takeAsync t wdrawn).mem = s.mem := by
  simp [State.takeAsync]

@[simp] theorem State.takePend_mem (s : State) (e : Nat) : (s.takePend e).mem = s.mem := by
  unfold State.takePend
  (repeat' split) <;> simp

@[simp] theorem State.lateFault7_memWf (s : State) (t : Trap) (hs : memWf s.mem = true) : memWf (s.lateFault7 t).mem = true := by
  simp [State.lateFault7, hs]

@[simp] theorem State.raiseAsync_memWf (s : State) (e : Nat) (t : Trap) (hs : memWf s.mem = true) : memWf (s.raiseAsync e t).mem = true := by
  unfold State.raiseAsync
  grind [State.lateFault7_memWf, State.asyncTrap_mem, State.takePend_mem]

/-! ### The operations of Machine/Bank.lean -/

@[simp] theorem State.spWrite_memWf (s : State) (core off : Nat) (l : List Byte) (hs : memWf s.mem = true) :
    memWf (s.spWrite core off l).mem = true := by simp [State.spWrite, hs, State.modCore_mem]

theorem State.atBank_memWf {s t : State} {core off : Nat} {a : Access} {ws : List DWord} {fl : Bool}
    (h : s.atBank core off a = .done ws t fl) (hs : memWf s.mem = true) : memWf t.mem = true := by
  unfold State.atBank at h
  grind [State.spWrite_memWf, State.modCore_mem]

/-! ### The operations of Machine/Access.lean -/

@[simp] theorem State.touchHome_mem (s : State) (va : Nat) : (s.touchHome va).mem = s.mem := by
  unfold State.touchHome
  split <;> simp

@[simp] theorem State.launch_mem (s : State) (r : Region) (i : Issuer) (a : Access) (after : List Nat) :
    (s.launch r i a after).mem = s.mem := by
  unfold State.launch
  split <;> simp

@[simp] theorem State.sideResult_memWf (s : State) (k : WaitKind) (words : List DWord) (hs : memWf s.mem = true) :
    memWf (s.sideResult k words).mem = true := by
  unfold State.sideResult
  split <;> simp [hs]

theorem State.finishAccess_memWf {s : State} {e : Nat} {w : Wait} {r : Result} {t : State} (h : s.finishAccess e w r = some t)
    (hs : memWf s.mem = true) : memWf t.mem = true := by
  unfold State.finishAccess at h
  grind [State.faultWait_memWf, State.asFibre_memWf, State.sideResult_memWf, State.finishWait_memWf]

@[simp] theorem State.fillQam_mem (s : State) (e op : Nat) (words : Option (List DWord)) : (s.fillQam e op words).mem = s.mem := by
  simp [State.fillQam]

@[simp] theorem State.answer_mem (s : State) (i : Issuer) (r : Result) : (s.answer i r).mem = s.mem := by simp [State.answer]

@[simp] theorem State.refuseTo_memWf (s : State) (i : Issuer) (addr : DWord) (code : Nat) (hs : memWf s.mem = true) :
    memWf (s.refuseTo i addr code).mem = true := by
  unfold State.refuseTo
  (repeat' split) <;> simp [hs]

theorem State.satisfy_memWf {s : State} {i : Issuer} {a : Access} {words : List DWord} {t : State} (h : s.satisfy i a words = some t)
    (hs : memWf s.mem = true) : memWf t.mem = true := by
  unfold State.satisfy at h
  grind [State.fillQam_mem, State.finishAccess_memWf, State.answer_mem]

theorem State.serveFirst_memWf {s t : State} {off : Nat} {l : List (Issuer × Access)} (h : s.serveFirst off l = some t)
    (hs : memWf s.mem = true) : memWf t.mem = true := by
  induction l with
  | nil => cases h
  | cons x l ih =>
    simp only [State.serveFirst] at h
    grind [State.atBank_memWf, State.satisfy_memWf, State.refuseTo_memWf]

@[simp] theorem State.retest_memWf (n : Nat) (s : State) (off : Nat) (hs : memWf s.mem = true) : memWf (State.retest n s off).mem = true := by
  induction n generalizing s with
  | zero => exact hs
  | succ n ih =>
    simp only [State.retest]
    split
    · rename_i h
      exact ih _ (State.serveFirst_memWf h hs)
    · exact hs

@[simp] theorem State.recordWaiter_mem (s : State) (i : Issuer) (a : Access) : (s.recordWaiter i a).mem = s.mem := by
  unfold State.recordWaiter
  split <;> simp

@[simp] theorem State.reserveQam_mem (s : State) (ea : DWord) (acq : Bool) (k : WaitKind) (v : Option DWord) (job : Option Nat) :
    (s.reserveQam ea acq k v job).mem = s.mem := rfl

@[simp] theorem State.addJournal_mem (s : State) (j : Nat) (a : Access) : (s.addJournal j a).mem = s.mem := rfl

@[simp] theorem State.quick_mem (s : State) : (s.quick).mem = s.mem := rfl

@[simp] theorem State.bankDone_memWf (s s' : State) (k : WaitKind) (words : List DWord) (off : Nat) (hs : memWf s.mem = true)
    (hs' : memWf s'.mem = true) : memWf (s.bankDone s' k words off).mem = true := by
  unfold State.bankDone
  grind [State.sideResult_memWf, State.retest_memWf, State.advance_mem, State.writeReg_mem, State.stall_mem, State.raise_memWf]

@[simp] theorem State.accessOf_memWf (s s' : State) (reads : List Reg) (vs : List DWord) (a : Access) (k : WaitKind) (path : Path)
    (rel acq : Bool) (align : Nat) (refuses : Region → Option Nat) (hs : memWf s.mem = true) (hs' : memWf s'.mem = true) :
    memWf (s.accessOf s' reads vs a k path rel acq align refuses).mem = true := by
  unfold State.accessOf
  grind [State.raise_memWf, State.stall_mem, State.atBank_memWf, State.raiseAsync_memWf, State.advance_mem, State.reserveQam_mem,
    State.retest_memWf, State.bankDone_memWf, State.recordWaiter_mem, State.block_mem, State.setFib_mem, State.launch_mem, State.quick_mem,
    State.addJournal_mem]

@[simp] theorem State.access_memWf (s s' : State) (a : Access) (k : WaitKind) (path : Path) (rel acq : Bool) (align : Nat)
    (refuses : Region → Option Nat) (hs : memWf s.mem = true) (hs' : memWf s'.mem = true) :
    memWf (s.access s' a k path rel acq align refuses).mem = true := by simp [State.access, hs, hs']

theorem State.load_memWf {s : State} {sx : Bool} {sz : Size} {d a : Reg} {off : BitVec 12} {t : State} (h : s.load sx sz d a off = .next t)
    (hs : memWf s.mem = true) : memWf t.mem = true := by
  unfold State.load at h
  grind [State.issue_memWf, State.access_memWf]

theorem State.store_memWf {s : State} {path : Path} {sz : Size} {d a : Reg} {off : BitVec 12} {t : State}
    (h : s.store path sz d a off = .next t) (hs : memWf s.mem = true) : memWf t.mem = true := by
  unfold State.store at h
  grind [State.issue_memWf, State.access_memWf]

theorem State.feLoad_memWf {s : State} {k : AccKind} {d a : Reg} {off : BitVec 12} {t : State} (h : s.feLoad k d a off = .next t)
    (hs : memWf s.mem = true) : memWf t.mem = true := by
  unfold State.feLoad at h
  grind [State.issue_memWf, State.accessOf_memWf]

theorem State.feStore_memWf {s : State} {k : AccKind} {d a : Reg} {off : BitVec 12} {t : State} (h : s.feStore k d a off = .next t)
    (hs : memWf s.mem = true) : memWf t.mem = true := by
  unfold State.feStore at h
  grind [State.issue_memWf, State.accessOf_memWf]

theorem State.atomicOp_memWf {s : State} {op : AtomOp} {o : Order} {sz : Size} {d a : Reg} {bs : List Reg} {t : State}
    (h : s.atomicOp op o sz d a bs = .next t) (hs : memWf s.mem = true) : memWf t.mem = true := by
  unfold State.atomicOp at h
  grind [State.issue_memWf, State.access_memWf]

theorem State.wideCas_memWf {s : State} {o : Order} {d a b : Reg} {t : State} (h : s.wideCas o d a b = .next t) (hs : memWf s.mem = true) :
    memWf t.mem = true := by
  unfold State.wideCas at h
  grind [State.issue_memWf, State.access_memWf]

theorem execAcas_memWf {o : Order} {sz : Size} {d a b : Reg} {s t : State} (h : execAcas o sz d a b s = .next t) (hs : memWf s.mem = true) :
    memWf t.mem = true := by
  unfold execAcas at h
  grind [State.wideCas_memWf, State.raise_memWf, State.atomicOp_memWf]

theorem execFenceBank_memWf {a : Reg} {s t : State} (h : execFenceBank a s = .next t) (hs : memWf s.mem = true) : memWf t.mem = true := by
  refine State.issue_memWf h (fun vs u hu => ?_) hs
  grind [State.raise_memWf, State.stall_mem, State.advance_mem]

@[simp] theorem State.startFlush_mem (s : State) (w : Who) : (s.startFlush w).mem = s.mem := by simp [State.startFlush]

@[simp] theorem State.flushed_mem (s : State) (e op : Nat) : (s.flushed e op).mem = s.mem := by simp [State.flushed]

theorem execFence_memWf {c : Scope} {s t : State} (h : execFence c s = .next t) (hs : memWf s.mem = true) : memWf t.mem = true := by
  refine State.issue_memWf h (fun vs u hu => ?_) hs
  (repeat' split) <;> simp [hs, hu]

/-! ### The operations of Machine/Record.lean -/

@[simp] theorem State.record_memWf (s : State) (e kind ep : Nat) (value : DWord) (mark : Nat) (hs : memWf s.mem = true) :
    memWf (s.record e kind ep value mark).mem = true := by
  unfold State.record
  split
  · exact hs
  · split
    · exact hs
    · split
      · exact getD_memWf (fun t h => State.vPut_memWf h (by simpa using hs)) (by simpa using hs)
      · simpa using hs

@[simp] theorem State.fileStatus_mem (s : State) (die box : Nat) (words : List DWord) : (s.fileStatus die box words).mem = s.mem := rfl

@[simp] theorem State.fileDeadLetter_mem (s : State) (box : Nat) (words : List DWord) : (s.fileDeadLetter box words).mem = s.mem := by
  unfold State.fileDeadLetter
  split <;> simp

@[simp] theorem State.sendLetters_mem (n : Nat) (s : State) (box : Nat) : (State.sendLetters n s box).mem = s.mem := by
  induction n generalizing s with
  | zero => rfl
  | succ n ih =>
    simp only [State.sendLetters]
    (repeat' split) <;> simp [ih]

@[simp] theorem State.misdelivery_mem (s : State) (job : Option Nat) (src : Option (Who × Nat)) (e : Nat) :
    (s.misdelivery job src e).mem = s.mem := by simp [State.misdelivery]

/-! ### The operations of Machine/Replies.lean -/

@[simp] theorem State.remoteReply_memWf (s : State) (who : Who) (op : Nat) (r : Result) (hs : memWf s.mem = true) :
    memWf (s.remoteReply who op r).mem = true := by
  unfold State.remoteReply
  grind [State.finishAccess_memWf, State.countConsume_mem, State.send_mem]

@[simp] theorem State.splitReply_memWf (s : State) (who : Who) (op : Nat) (r : Result) (hs : memWf s.mem = true) :
    memWf (s.splitReply who op r).mem = true := by
  unfold State.splitReply
  (repeat' split) <;> simp [hs]

theorem execSplitPhaseReply_memWf {who : Who} {op : Nat} {r : Result} {s t : State} (h : execSplitPhaseReply who op r s = .next t)
    (hs : memWf s.mem = true) : memWf t.mem = true := by
  cases h
  grind [State.onCore_memWf, State.splitReply_memWf]

@[simp] theorem State.feNotice_mem (s : State) (who : Who) (op : Nat) : (s.feNotice who op).mem = s.mem := by
  unfold State.feNotice
  split <;> simp

theorem execFullemptyNotice_mem {who : Who} {op : Nat} {s t : State} (h : execFullemptyNotice who op s = .next t) : t.mem = s.mem := by
  cases h
  simp

theorem execFullemptyRetry_memWf {f : Issuer} {a : Access} {s t : State} (h : execFullemptyRetry f a s = .next t) (hs : memWf s.mem = true) :
    memWf t.mem = true := by
  cases h
  grind [State.atBank_memWf, State.recordWaiter_mem, State.refuseTo_memWf, State.satisfy_memWf, State.retest_memWf]

theorem execJournalAck_mem {j op : Nat} {s t : State} (h : execJournalAck j op s = .next t) : t.mem = s.mem := by
  cases h
  (repeat' split) <;> simp

theorem execPostedStoreRefused_memWf {j op : Nat} {r : Result} {s t : State} (h : execPostedStoreRefused j op r s = .next t)
    (hs : memWf s.mem = true) : memWf t.mem = true := by
  cases h
  (repeat' split) <;> simp [hs]

/-! ### The operations of Machine/Ship.lean -/

theorem execShip_memWf {q : Reg} {n : BitVec 6} {a b : Reg} {s t : State} (h : execShip q n a b s = .next t) (hs : memWf s.mem = true) :
    memWf t.mem = true := by
  unfold execShip at h
  split at h
  · exact State.issue_memWf h (fun _ _ _ => State.raise_memWf _ _ hs) hs
  · refine State.issue_memWf h (fun vs u hu => ?_) hs
    grind [State.raise_memWf, State.stall_mem, State.advance_mem, State.setFib_mem, State.touchHome_mem, State.countSend_mem, State.sendRange_mem]

@[simp] theorem State.sendFrame_mem (s : State) (l : List Byte) : (s.sendFrame l).mem = s.mem := by simp +contextual [State.sendFrame]

@[simp] theorem State.learnHome_mem (s : State) (va : Nat) (home : Option Nat) : (s.learnHome va home).mem = s.mem := by
  unfold State.learnHome
  grind

@[simp] theorem State.shipReply_memWf (s : State) (q : Req) (r : Rep) (hs : memWf s.mem = true) : memWf (s.shipReply q r).mem = true := by
  unfold State.shipReply
  grind [State.send_mem, State.learnHome_mem, State.spWrite_memWf, State.countConsume_mem, State.modFibre_mem, State.raiseAsync_memWf,
    State.remoteReply_memWf, State.splitReply_memWf, State.sendTo_mem]

/-! ### The operations of Machine/Server.lean -/

@[simp] theorem State.reply_mem (s : State) (q : Req) (r : Rep) : (s.reply q r).mem = s.mem := by
  unfold State.reply
  grind [State.countConsume_mem, State.sendFrom_mem]

@[simp] theorem State.substitute_memWf (s : State) (k fill : Nat) (bad : List Nat) (job : Option Nat) (hs : memWf s.mem = true) :
    memWf (s.substitute k fill bad job).mem = true := by simpa [State.substitute] using memWf_fillGranules _ _ _ _ hs

@[simp] theorem State.noteSubst_memWf (s : State) (q : Req) (va : DWord) (bad : Bool) (hs : memWf s.mem = true) :
    memWf (s.noteSubst q va bad).1.mem = true := by
  unfold State.noteSubst
  grind [State.onCore_memWf, State.record_memWf, State.raiseAsync_memWf]

@[simp] theorem State.substituted_memWf (s : State) (q : Req) (p : Page) (pa n : Nat) (hs : memWf s.mem = true) :
    memWf (s.substituted q p pa n).1.mem = true := foldl_fst_memWf rfl (fun _ _ hr => State.noteSubst_memWf _ _ _ _ hr) hs

@[simp] theorem State.countBad_mem (s : State) (k pa n : Nat) : (s.countBad k pa n).mem = s.mem := rfl

@[simp] theorem State.dramRead_memWf (s : State) (q : Req) (p : Page) (pa n : Nat) (hs : memWf s.mem = true) :
    memWf (s.dramRead q p pa n).1.mem = true := by
  unfold State.dramRead
  grind [State.substituted_memWf, State.countBad_mem]

@[simp] theorem State.dramWrite_memWf (s : State) (k pa : Nat) (l : List Byte) (hs : memWf s.mem = true) :
    memWf (s.dramWrite k pa l).mem = true := memWf_memPut l _ _ hs

@[simp] theorem State.dramUpdate_memWf (s : State) (q : Req) (p : Page) (pa n : Nat) (f : List Byte → List Byte) (hs : memWf s.mem = true) :
    memWf (s.dramUpdate q p pa n f).1.mem = true := by
  have hc : memWf (s.countBad q.stack pa n).mem = true := by simpa using hs
  unfold State.dramUpdate
  dsimp only
  split
  · exact hc
  · refine memWf_memPut _ _ _ ?_
    rw [State.setStack_mem]
    cases p.tol with
    | false => exact hc
    | true =>
      have hr := State.substituted_memWf _ q p pa n hc
      simp only [if_true]
      split
      · exact hr
      · exact State.substitute_memWf _ _ _ _ _ hr

@[simp] theorem repOf_mem (r : State × Except Nat (List Byte × Bool)) (f : List Byte → Rep) : (repOf r f).1.mem = r.1.mem := by
  unfold repOf
  split <;> rfl

@[simp] theorem State.gather_memWf (s : State) (q : Req) (p : Page) (off : Nat) (hs : memWf s.mem = true) :
    memWf (s.gather q p off).1.mem = true := by
  unfold State.gather
  grind [State.dramRead_memWf]

theorem State.gatherAll_memWf (s : State) (q : Req) (p : Page) (l : List Nat) (hs : memWf s.mem = true) :
    memWf (s.gatherAll q p l).1.mem = true := by
  induction l generalizing s with
  | nil => exact hs
  | cons o l ih =>
    have hg := State.gather_memWf s q p o hs
    simp only [State.gatherAll]
    split
    · rename_i u _ h
      rwa [h] at hg
    · rename_i u _ _ h
      rw [h] at hg
      have hr := ih u hg
      split <;> simp_all

@[simp] theorem State.dropTranslations_mem (s : State) (va : Nat) : (s.dropTranslations va).mem = s.mem := rfl

@[simp] theorem State.setEntry_memWf (s : State) (p : Page) (va : Nat) (hs : memWf s.mem = true) : memWf (s.setEntry p va).mem = true := by
  refine foldl_memWf (fun t d ht => ?_) _ hs
  split
  · exact memWf_memPut _ _ _ ht
  · exact ht

@[simp] theorem State.setMig_mem (s : State) (m : Migration) : (s.setMig m).mem = s.mem := rfl

@[simp] theorem State.passOn_mem (s : State) (q : Req) (k : Nat) (first : List (Nat × Nat)) (ev : Ev) :
    (s.passOn q k first ev).mem = s.mem := by simp [State.passOn]

@[simp] theorem State.useBank_mem (s : State) (k pa : Nat) : (s.useBank k pa).mem = s.mem := rfl

/-- A routine's act keeps memory in the canonical form. -/
def ActKeepsMem (act : Act) : Prop := ∀ s q p pa, memWf s.mem = true → memWf (act s q p pa).1.mem = true

theorem bodyRead_keepsMem (n : Nat) : ActKeepsMem (bodyRead n) := fun s q p pa hs => by
  simpa [bodyRead] using State.dramRead_memWf s q p pa n hs

/-- The acts that end with the reply to one update of a granule. -/
theorem repOf_dramUpdate_memWf (s : State) (q : Req) (p : Page) (pa n : Nat) (f : List Byte → List Byte) (g : List Byte → Rep)
    (hs : memWf s.mem = true) : memWf (repOf (s.dramUpdate q p pa n f) g).1.mem = true := by
  rw [repOf_mem]
  exact State.dramUpdate_memWf s q p pa n f hs

theorem bodyWt8_keepsMem : ActKeepsMem bodyWt8 := fun s q p pa hs => repOf_dramUpdate_memWf s q p pa _ _ _ hs
theorem bodyWtm_keepsMem : ActKeepsMem bodyWtm := fun s q p pa hs => repOf_dramUpdate_memWf s q p pa _ _ _ hs
theorem bodyFadd32_keepsMem : ActKeepsMem bodyFadd32 := fun s q p pa hs => repOf_dramUpdate_memWf s q p pa _ _ _ hs
theorem bodyAtomic_keepsMem (op : AtomOp) : ActKeepsMem (bodyAtomic op) := fun s q p pa hs => repOf_dramUpdate_memWf s q p pa _ _ _ hs
theorem bodyWrite_keepsMem : ActKeepsMem bodyWrite := fun s _ _ pa hs => State.dramWrite_memWf s _ pa _ hs
theorem bodyFill64_keepsMem : ActKeepsMem bodyFill64 := fun s _ _ pa hs => State.dramWrite_memWf s _ pa _ hs

theorem bodyCas_keepsMem : ActKeepsMem bodyCas := fun s q p pa hs => by
  unfold bodyCas
  split
  · exact repOf_dramUpdate_memWf s q p pa _ _ _ hs
  · exact bodyAtomic_keepsMem .cas s q p pa hs

theorem bodyXacc_keepsMem : ActKeepsMem bodyXacc := fun s q p pa hs => by
  unfold bodyXacc
  split
  · exact hs
  · split
    · exact hs
    · split
      · exact hs
      · exact repOf_dramUpdate_memWf s q p pa _ _ _ hs

theorem bodyGath8_keepsMem : ActKeepsMem bodyGath8 := fun s q p pa hs => by
  unfold bodyGath8
  rw [repOf_mem]
  exact State.gatherAll_memWf s q p _ hs

theorem bodyPublish_keepsMem : ActKeepsMem bodyPublish := fun s q p pa hs => by
  unfold bodyPublish
  split
  · exact hs
  · extract_lets va u slot
    split
    · exact hs
    · split
      · exact hs
      · split
        · exact hs
        · split
          · simpa using hs
          · have hd := State.dramRead_memWf u q p pa 32 (by simpa [u] using hs)
            split
            · rename_i h
              rwa [h] at hd
            · rename_i h
              rw [h] at hd
              extract_lets gen fresh1 v fresh w tell x
              split
              · exact hd
              · have hv : memWf v.mem = true := State.dramWrite_memWf _ _ _ _ hd
                simpa [x, w] using hv

theorem bodyMigrate_keepsMem : ActKeepsMem bodyMigrate := fun s q p pa hs => by
  simpa [bodyMigrate] using State.setEntry_memWf s { p with mig := true } q.va.toNat hs

theorem bodyLoad_keepsMem : ActKeepsMem bodyLoad := fun s q p pa hs => by
  unfold bodyLoad
  split
  · simpa using hs
  · extract_lets u rest
    have hu : memWf u.mem = true := by simpa [u] using hs
    split <;> exact hu

theorem bodyUnload_keepsMem : ActKeepsMem bodyUnload := fun s q p pa hs => by
  unfold bodyUnload
  split <;> exact hs

theorem bodySvc_keepsMem : ActKeepsMem bodySvc := fun s q p pa hs => by
  unfold bodySvc
  split
  · exact bodyMigrate_keepsMem s q p pa hs
  · simpa using hs
  · exact bodyLoad_keepsMem s q p pa hs
  · exact bodyUnload_keepsMem s q p pa hs
  · exact hs

/-- Every fixed routine's act (Table 14-3). -/
theorem fixedBody_keepsMem (q : Req) : ActKeepsMem (fixedBody q).2.2 := by
  unfold fixedBody
  extract_lets n
  split <;> simp only [bodyRead_keepsMem, bodyWt8_keepsMem, bodyWtm_keepsMem, bodyFadd32_keepsMem, bodyAtomic_keepsMem, bodyWrite_keepsMem,
    bodyFill64_keepsMem, bodyCas_keepsMem, bodyXacc_keepsMem, bodyGath8_keepsMem, bodyPublish_keepsMem, bodySvc_keepsMem]

theorem State.servePage_memWf (s : State) (q : Req) (p : Page) (stores : Bool) {act : Act} (ha : ActKeepsMem act) (hs : memWf s.mem = true) :
    memWf (s.servePage q p stores act).mem = true := by
  unfold State.servePage
  split
  · simpa using hs
  · simpa using hs
  · split
    · split <;> simpa using hs
    · split
      · simpa using hs
      · dsimp only
        split
        · exact ha _ _ _ _ (by simpa using hs)
        · rw [State.reply_mem]
          exact ha _ _ _ _ (by simpa using hs)

@[simp] theorem State.sendWalk_mem (s : State) (q : Req) : (s.sendWalk q).mem = s.mem := by simp [State.sendWalk]

@[simp] theorem State.request_memWf (s : State) (q : Req) (hs : memWf s.mem = true) : memWf (s.request q).mem = true := by
  unfold State.request
  dsimp only
  split
  · simpa using hs
  · split
    · simpa using hs
    · split
      · simpa using hs
      · split
        · exact State.servePage_memWf _ _ _ _ (fixedBody_keepsMem q) hs
        · simpa using hs

@[simp] theorem State.copyPage_memWf (s : State) (m : Migration) (hs : memWf s.mem = true) : memWf (s.copyPage m).mem = true := by
  rw [State.copyPage, State.setStack_mem]
  exact List.foldlRecOn (motive := fun m => memWf m = true) _ _ (memWf_filter _ _ hs) fun m hm c _ => memWf_memSet m _ _ hm

theorem execPageCopyComplete_memWf {n : Nat} {s t : State} (h : execPageCopyComplete n s = .next t) (hs : memWf s.mem = true) :
    memWf t.mem = true := by
  cases h
  (repeat' split) <;> simp [hs]

theorem execRefreshInterval_mem {stack : Fin 8} {s t : State} (h : execRefreshInterval stack s = .next t) : t.mem = s.mem := by
  cases h
  simp

theorem execRefresh_mem {stack : Fin 8} {bank : Nat} {s t : State} (h : execRefresh stack bank s = .next t) : t.mem = s.mem := by
  cases h
  grind

theorem execRfwinNotice_mem {stack : Fin 8} {len : BitVec 16} {s t : State} (h : execRfwinNotice stack len s = .next t) : t.mem = s.mem := by
  cases h
  simp

theorem execRfwinWindowExpiry_mem {stack : Fin 8} {s t : State} (h : execRfwinWindowExpiry stack s = .next t) : t.mem = s.mem := by
  cases h
  grind

/-! ### The operations of Machine/Shapes.lean -/

@[simp] theorem State.wantShape_mem (s : State) (slot va : Nat) : (s.wantShape slot va).mem = s.mem := by
  unfold State.wantShape
  split <;> simp

@[simp] theorem State.dropFailed_mem (s : State) : (s.dropFailed).mem = s.mem := rfl

theorem State.withShape_memWf (s : State) (h : DWord) (k : Shape → State) (hk : ∀ r, memWf (k r).mem = true) (hs : memWf s.mem = true) :
    memWf (s.withShape h k).mem = true := by
  unfold State.withShape
  split
  · split
    · exact State.raiseMacro_memWf _ _ hs
    · exact hk _
  · exact State.raiseMacro_memWf _ _ (by simpa using hs)
  · simpa using hs

theorem State.startRun_memWf (s : State) (n : Nat) (r : ElemRun) (fin : State → State)
    (hf : ∀ t, memWf t.mem = true → memWf (fin t).mem = true) (hs : memWf s.mem = true) : memWf (s.startRun n r fin).mem = true := by
  unfold State.startRun
  split
  · exact hf s hs
  · split
    · exact State.raise_memWf _ _ hs
    · exact hs

theorem State.stepRun_memWf (s : State) (r : ElemRun) (fin : State → State) (hf : ∀ t, memWf t.mem = true → memWf (fin t).mem = true)
    (hs : memWf s.mem = true) : memWf (s.stepRun r fin).mem = true := by
  unfold State.stepRun
  split
  · exact hs
  · exact hf _ hs

/-! ### The operations of Machine/Accum.lean -/

@[simp] theorem State.accwNone_mem (s : State) (f : BitVec 7) : (s.accwNone f).mem = s.mem := rfl

theorem execAccw_memWf {t : Ty} {a b : Reg} {s u : State} (h : execAccw t a b s = .next u) (hs : memWf s.mem = true) : memWf u.mem = true := by
  refine State.issue_memWf h (fun vs u hu => ?_) hs
  grind [State.raiseMacro_memWf, State.stall_mem, State.startRun_memWf, State.accwNone_mem, State.setCtx_mem, State.raise_memWf,
    State.advance_mem, State.access_memWf]

@[simp] theorem State.accwElem_memWf (s : State) (r : ElemRun) (hs : memWf s.mem = true) : memWf (s.accwElem r).mem = true := by
  unfold State.accwElem
  grind [State.stepRun_memWf, State.advance_mem, State.stall_mem, State.raiseElem_memWf, State.spWrite_memWf, State.setCtx_mem,
    State.setMe_mem]

theorem execAccz_memWf {a : Reg} {s t : State} (h : execAccz a s = .next t) (hs : memWf s.mem = true) : memWf t.mem = true := by
  refine State.issue_memWf h (fun vs u hu => ?_) hs
  simp [hs, hu]

theorem execAccset_memWf {a b : Reg} {s t : State} (h : execAccset a b s = .next t) (hs : memWf s.mem = true) : memWf t.mem = true := by
  refine State.issue_memWf h (fun vs u hu => ?_) hs
  simp [hs, hu]

theorem execAccrd_memWf {t : Ty} {d a : Reg} {s u : State} (h : execAccrd t d a s = .next u) (hs : memWf s.mem = true) :
    memWf u.mem = true := by
  refine State.issue_memWf h (fun vs u hu => ?_) hs
  simp [hs, hu]

theorem execAccmv_memWf {a b : Reg} {s t : State} (h : execAccmv a b s = .next t) (hs : memWf s.mem = true) : memWf t.mem = true := by
  refine State.issue_memWf h (fun vs u hu => ?_) hs
  grind [State.raiseMacro_memWf, State.stall_mem, State.startRun_memWf, State.advance_mem]

@[simp] theorem State.accmvElem_memWf (s : State) (r : ElemRun) (hs : memWf s.mem = true) : memWf (s.accmvElem r).mem = true := by
  unfold State.accmvElem
  grind [State.stall_mem, State.raiseElem_memWf, State.spWrite_memWf, State.stepRun_memWf, State.setMe_mem, State.advance_mem]

/-! ### The operations of Machine/Ports.lean -/

theorem State.takePost_memWf {s : State} {m : PostMsg} {p : Port} {t : State} (h : s.takePost m p = some t) (hs : memWf s.mem = true) :
    memWf t.mem = true := by
  unfold State.takePost at h
  grind [State.spWrite_memWf, State.countConsume_mem, State.coreTrap_mem]

theorem State.offerPost_accepted_memWf {s t : State} {m : PostMsg} (h : s.offerPost m = .accepted t) (hs : memWf s.mem = true) :
    memWf t.mem = true := by
  unfold State.offerPost at h
  grind [State.takePost_memWf]

theorem State.offerPost_waiting_memWf {s t : State} {m : PostMsg} (h : s.offerPost m = .waiting t) (hs : memWf s.mem = true) :
    memWf t.mem = true := by
  unfold State.offerPost at h
  grind

@[simp] theorem State.tellSender_memWf (s : State) (m : PostMsg) (code : Nat) (hs : memWf s.mem = true) :
    memWf (s.tellSender m code).mem = true := by
  unfold State.tellSender
  (repeat' split) <;> simp [hs]

theorem State.admitWaiting_memWf {s : State} {i : Nat} {t : State} (h : s.admitWaiting i = some t) (hs : memWf s.mem = true) :
    memWf t.mem = true := by
  unfold State.admitWaiting at h
  split at h
  · cases h
  · split at h
    · cases h
    · obtain ⟨u, hu, rfl⟩ := Option.map_eq_some_iff.1 h
      exact State.tellSender_memWf _ _ _ (State.takePost_memWf hu hs)

@[simp] theorem State.drainPort_memWf (n : Nat) (s : State) (i : Nat) (hs : memWf s.mem = true) : memWf (State.drainPort n s i).mem = true := by
  induction n generalizing s with
  | zero => exact hs
  | succ n ih =>
    simp only [State.drainPort]
    split
    · rename_i h
      exact ih _ (State.admitWaiting_memWf h hs)
    · exact hs

@[simp] theorem State.settlePorts_memWf (s : State) (hs : memWf s.mem = true) : memWf (s.settlePorts).mem = true := by
  refine foldl_memWf (fun t p ht => ?_) _ hs
  split
  · exact ht
  · exact State.drainPort_memWf _ _ _ ht

theorem execPostArrival_memWf {m : PostMsg} {s t : State} (h : execPostArrival m s = .next t) (hs : memWf s.mem = true) :
    memWf t.mem = true := by
  cases h
  grind [State.offerPost_accepted_memWf, State.offerPost_waiting_memWf, State.tellSender_memWf, State.countConsume_mem]

@[simp] theorem State.timesOut_memWf (s u : State) (e : Nat) (r : Reg) (hs : memWf s.mem = true) (hu : memWf u.mem = true) :
    memWf (s.timesOut u e r).mem = true := by
  unfold State.timesOut
  split <;> simp [hs, hu]

@[simp] theorem State.expireOrStall_memWf (s s' : State) (ws : List (Reg × DWord)) (k : WaitKind) (due : Option Nat)
    (hs : memWf s.mem = true) (hs' : memWf s'.mem = true) : memWf (s.expireOrStall s' ws k due).mem = true := by
  unfold State.expireOrStall
  (repeat' split) <;> simp [hs, hs']

@[simp] theorem State.postTo_memWf (s s' : State) (ws : List (Reg × DWord)) (k : WaitKind) (due : Option Nat) (ep core port : Nat)
    (w : DWord) (hs : memWf s.mem = true) (hs' : memWf s'.mem = true) : memWf (s.postTo s' ws k due ep core port w).mem = true := by
  unfold State.postTo
  grind [State.expireOrStall_memWf, State.offerPost_accepted_memWf, State.offerPost_waiting_memWf, State.raise_memWf, State.countSend_mem,
    State.advance_mem, State.writeReg_mem, State.holdSlot_mem, State.block_mem, State.sendFrom_mem]

theorem execPost_memWf {d : Reg} {pt : BitVec 6} {a : Reg} {s t : State} (h : execPost d pt a s = .next t) (hs : memWf s.mem = true) :
    memWf t.mem = true := by
  refine State.issue_memWf h (fun vs u hu => ?_) hs
  grind [State.raise_memWf, State.postTo_memWf]

theorem execPcfg_memWf {pt : BitVec 6} {a : Reg} {s t : State} (h : execPcfg pt a s = .next t) (hs : memWf s.mem = true) :
    memWf t.mem = true := by
  refine State.issue_memWf h (fun vs u hu => ?_) hs
  grind [State.raise_memWf, State.stall_mem, State.advance_mem]

theorem execJpat_memWf {n : BitVec 6} {a : Reg} {s t : State} (h : execJpat n a s = .next t) (hs : memWf s.mem = true) :
    memWf t.mem = true := by
  refine State.issue_memWf h (fun vs u hu => ?_) hs
  grind [State.raise_memWf, State.stall_mem, State.advance_mem]

theorem execJarm_memWf {n : BitVec 6} {s t : State} (h : execJarm n s = .next t) (hs : memWf s.mem = true) : memWf t.mem = true := by
  refine State.issue_memWf h (fun vs u hu => ?_) hs
  (repeat' split) <;> simp [hs, hu]

theorem execJdis_memWf {n : BitVec 6} {s t : State} (h : execJdis n s = .next t) (hs : memWf s.mem = true) : memWf t.mem = true := by
  refine State.issue_memWf h (fun vs u hu => ?_) hs
  (repeat' split) <;> simp [hu]

@[simp] theorem State.takeArg_mem (s : State) (i : Nat) : (s.takeArg i).1.mem = s.mem := by
  unfold State.takeArg
  grind [State.readFifo_mem, State.parityTrap_mem, State.countConsume_mem]

@[simp] theorem State.takeArgs_mem (s : State) (l : List Nat) : (s.takeArgs l).1.mem = s.mem := by
  induction l generalizing s with
  | nil => rfl
  | cons i l ih => exact (ih _).trans (State.takeArg_mem s i)

@[simp] theorem State.fire_mem (s : State) (n : Nat) (r : Row) : (s.fire n r).mem = s.mem := by
  unfold State.fire
  split <;> simp

@[simp] theorem State.evaluate_mem (s : State) : (s.evaluate).mem = s.mem := by
  unfold State.evaluate
  grind [State.fire_mem]

/-! ### The operations of Machine/Channel.lean -/

@[simp] theorem State.outFrame_mem (s : State) (f : Frame) : (s.outFrame f).mem = s.mem := by
  unfold State.outFrame
  split <;> simp

@[simp] theorem State.returnCredit_mem (s : State) (x : Endpoint) : (s.returnCredit x).mem = s.mem := by
  unfold State.returnCredit
  split <;> simp

@[simp] theorem State.reportSink_mem (s : State) (j : Option Nat) (e : Nat) : (s.reportSink j e).mem = s.mem := by simp [State.reportSink]

@[simp] theorem State.consumed_mem (s : State) (e : Nat) (b : Body) (j : Option Nat) : (s.consumed e b j).mem = s.mem := by
  unfold State.consumed
  split <;> simp

@[simp] theorem State.endSend_memWf (s : State) (e op code : Nat) (hs : memWf s.mem = true) : memWf (s.endSend e op code).mem = true := by
  unfold State.endSend
  split
  · exact hs
  · split
    · exact State.faultWait_memWf _ _ _ _ hs
    · dsimp only
      split
      · refine getD_memWf (fun t h => State.finishWait_memWf h ?_) ?_ <;> (repeat' split) <;> exact hs
      · refine getD_memWf (fun t h => State.finishWait_memWf h ?_) ?_ <;> (repeat' split) <;> exact hs

@[simp] theorem State.replySender_memWf (s : State) (w : Who) (op code : Nat) (hs : memWf s.mem = true) :
    memWf (s.replySender w op code).mem = true := by
  unfold State.replySender
  split <;> simp [hs]

theorem execSendReply_memWf {who : Who} {op code : Nat} {s t : State} (h : execSendReply who op code s = .next t) (hs : memWf s.mem = true) :
    memWf t.mem = true := by
  cases h
  grind [State.onCore_memWf, State.endSend_memWf]

@[simp] theorem State.takeMessage_memWf (s : State) (e : Nat) (hs : memWf s.mem = true) : memWf (s.takeMessage e).mem = true := by
  unfold State.takeMessage
  grind [State.returnCredit_mem, State.replySender_memWf]

theorem State.giveTo_memWf {s : State} {n : Nat} {w : Wait} {e : Nat} {b : Body} {t : State} (h : s.giveTo n w e b = some t)
    (hs : memWf s.mem = true) : memWf t.mem = true := by
  unfold State.giveTo at h
  grind [State.finishWait_memWf, State.finishWait2_memWf]

@[simp] theorem State.decideAlt_memWf (s : State) (n i : Nat) (hs : memWf s.mem = true) : memWf (s.decideAlt n i).mem = true := by
  simp [State.decideAlt, hs]

@[simp] theorem State.resolveAlt_memWf (s : State) (n : Nat) (w : Wait) (hs : memWf s.mem = true) : memWf (s.resolveAlt n w).mem = true := by
  unfold State.resolveAlt
  grind [State.finishWait2_memWf, State.finishWait_memWf, State.decideAlt_memWf]

@[simp] theorem State.reissue_mem (s : State) (n : Nat) : (s.reissue n).mem = s.mem := by
  unfold State.reissue
  grind [State.modFibre_mem, State.makeReady_mem]

@[simp] theorem State.dropNotice_mem (s : State) (e : Nat) : (s.dropNotice e).mem = s.mem := by
  unfold State.dropNotice
  grind [State.modCore_mem]

@[simp] theorem State.wakeOwner_mem (s : State) (e : Nat) : (s.wakeOwner e).mem = s.mem := by
  unfold State.wakeOwner
  grind [State.makeReady_mem]

@[simp] theorem State.resolveEntry_memWf (s : State) (e : Nat) (hs : memWf s.mem = true) : memWf (s.resolveEntry e).mem = true := by
  unfold State.resolveEntry
  split
  · exact hs
  · split
    · split
      · exact State.faultWait_memWf _ _ _ _ hs
      · refine getD_memWf (fun t h => State.giveTo_memWf h ?_) hs
        simpa using State.takeMessage_memWf _ _ hs
    · split
      · simpa using hs
      · split
        · exact State.resolveAlt_memWf _ _ _ hs
        · exact hs

@[simp] theorem State.arrive_memWf (s : State) (m : ChanMsg) (hs : memWf s.mem = true) : memWf (s.arrive m).mem = true := by
  unfold State.arrive
  grind [State.countConsume_mem, State.replySender_memWf, State.misdelivery_mem, State.wakeOwner_mem, State.resolveEntry_memWf,
    State.spWrite_memWf, State.record_memWf, State.countSend_mem]

theorem execMessageArrival_memWf {m : ChanMsg} {s t : State} (h : execMessageArrival m s = .next t) (hs : memWf s.mem = true) :
    memWf t.mem = true := by
  cases h
  (repeat' split) <;> simp [hs]

@[simp] theorem State.replayArrivals_memWf (k : Nat) (s : State) (n : Nat) (hs : memWf s.mem = true) :
    memWf (State.replayArrivals k s n).mem = true := by
  induction k generalizing s with
  | zero => exact hs
  | succ k ih =>
    simp only [State.replayArrivals]
    split
    · split
      · exact ih _ (State.arrive_memWf _ _ hs)
      · exact hs
    · exact hs

theorem execRecvNoticeArrival_mem {ep : Nat} {on : Bool} {s t : State} (h : execRecvNoticeArrival ep on s = .next t) : t.mem = s.mem := by
  cases h
  simp

@[simp] theorem State.expire_memWf (s : State) (n : Nat) (hs : memWf s.mem = true) : memWf (s.expire n).mem = true := by
  unfold State.expire
  grind [State.record_memWf, State.eraseOp_mem, State.finishWait_memWf, State.unpop_mem, State.finishWait2_memWf, getD_memWf]

@[simp] theorem State.clearRsv_memWf (s : State) (takes : Option Nat) (hs : memWf s.mem = true) : memWf (s.clearRsv takes).mem = true := by
  refine foldl_memWf (fun u p hu => ?_) _ hs
  split
  · exact State.onCore_memWf _ _ _ (fun v hv => State.expire_memWf _ _ hv) hu
  · exact hu

theorem State.chanIssue_memWf {s t : State} {o : Opnds} {e : Nat} {op : ChanOp} {time : Option Reg} {k : List DWord → State → State}
    (h : s.chanIssue o e op time k = .next t) (hk : ∀ vs u, memWf u.mem = true → memWf (k vs u).mem = true) (hs : memWf s.mem = true) :
    memWf t.mem = true := by
  cases h
  split
  · exact State.raiseOf_memWf _ _ _ hs
  · have hr := State.replayArrivals_memWf 64 s s.self.ent hs
    dsimp only
    split
    · exact State.raiseOf_memWf _ _ _ hs
    · split
      · exact State.raise_memWf _ _ hs
      · split
        · exact State.gateRaise_memWf _ _ _ hr
        · split
          · split
            · exact State.timesOut_memWf _ _ _ _ hr (State.clearRsv_memWf _ _ hr)
            · simpa using hr
          · simpa using hr
        · rename_i hg
          exact hk _ _ (State.clearRsv_memWf _ _ (by rwa [State.gate_mem hg]))

@[simp] theorem State.sendDone_mem (s : State) (e : Nat) (b : Body) (t : Timed) : (s.sendDone e b t).mem = s.mem := by
  unfold State.sendDone
  (repeat' split) <;> simp

@[simp] theorem State.sendMessage_mem (s : State) (core : Nat) (m : ChanMsg) : (s.sendMessage core m).mem = s.mem := by
  simp [State.sendMessage]

@[simp] theorem State.sendEntry_memWf (s s' : State) (ws : List (Reg × DWord)) (e : Nat) (b : Body) (t : Timed) (due : Option Nat)
    (hs : memWf s.mem = true) (hs' : memWf s'.mem = true) : memWf (s.sendEntry s' ws e b t due).mem = true := by
  unfold State.sendEntry
  grind [State.countSend_mem, State.block_mem, State.expireOrStall_memWf, State.arrive_memWf, State.sendDone_mem, State.sendMessage_mem,
    State.raise_memWf, State.consumed_mem, State.giveTo_memWf]

@[simp] theorem State.sendBox_memWf (s s' : State) (ws : List (Reg × DWord)) (e : Nat) (b : Body) (t : Timed) (due : Option Nat)
    (hs : memWf s.mem = true) (hs' : memWf s'.mem = true) : memWf (s.sendBox s' ws e b t due).mem = true := by
  unfold State.sendBox
  grind [State.expireOrStall_memWf, State.sendDone_mem, State.outPush_mem, State.countConsume_mem, State.countSend_mem, State.block_mem]

@[simp] theorem State.sendStream_memWf (s s' : State) (ws : List (Reg × DWord)) (e : Nat) (b : Body) (t : Timed) (due : Option Nat)
    (hs : memWf s.mem = true) (hs' : memWf s'.mem = true) : memWf (s.sendStream s' ws e b t due).mem = true := by
  unfold State.sendStream
  grind [State.expireOrStall_memWf, State.sendDone_mem, State.outFrame_mem, State.countConsume_mem, State.countSend_mem, State.block_mem]

@[simp] theorem State.sendRecorder_memWf (s s' : State) (ws : List (Reg × DWord)) (e : Nat) (b : Body) (t : Timed) (due : Option Nat)
    (hs : memWf s.mem = true) (hs' : memWf s'.mem = true) : memWf (s.sendRecorder s' ws e b t due).mem = true := by
  unfold State.sendRecorder
  (repeat' split) <;> simp [hs, hs']

@[simp] theorem State.sendOn_memWf (s s' : State) (ws : List (Reg × DWord)) (e : Nat) (b : Body) (t : Timed) (hs : memWf s.mem = true)
    (hs' : memWf s'.mem = true) : memWf (s.sendOn s' ws e b t).mem = true := by
  unfold State.sendOn
  grind [State.sendEntry_memWf, State.raise_memWf, State.postTo_memWf, State.sendBox_memWf, State.sendStream_memWf,
    State.sendRecorder_memWf]

theorem execSend_memWf {e : BitVec 6} {a : Reg} {s t : State} (h : execSend e a s = .next t) (hs : memWf s.mem = true) :
    memWf t.mem = true := by
  refine State.chanIssue_memWf h (fun vs u hu => ?_) hs
  simp [hs, hu]

theorem execEos_memWf {e : BitVec 6} {s t : State} (h : execEos e s = .next t) (hs : memWf s.mem = true) : memWf t.mem = true := by
  refine State.chanIssue_memWf h (fun vs u hu => ?_) hs
  simp [hs, hu]

theorem execSendx_memWf {d : Reg} {e : BitVec 6} {a : Reg} {s t : State} (h : execSendx d e a s = .next t) (hs : memWf s.mem = true) :
    memWf t.mem = true := by
  refine State.chanIssue_memWf h (fun vs u hu => ?_) hs
  simp [hs, hu]

@[simp] theorem State.sendNotice_mem (s : State) (e : Nat) : (s.sendNotice e).mem = s.mem := by
  unfold State.sendNotice
  grind [State.send_mem]

theorem execRecv_memWf {d : Reg} {e : BitVec 6} {s t : State} (h : execRecv d e s = .next t) (hs : memWf s.mem = true) :
    memWf t.mem = true := by
  refine State.chanIssue_memWf h (fun vs u hu => ?_) hs
  grind [State.raise_memWf, State.stall_mem, State.consumed_mem, State.takeMessage_memWf, State.advance_mem, State.writeReg_mem,
    State.sendNotice_mem, State.block_mem]

theorem execRecvx_memWf {d : Reg} {e : BitVec 6} {a : Reg} {s t : State} (h : execRecvx d e a s = .next t) (hs : memWf s.mem = true) :
    memWf t.mem = true := by
  refine State.chanIssue_memWf h (fun vs u hu => ?_) hs
  grind [State.raise_memWf, State.timesOut_memWf, State.stall_mem, State.consumed_mem, State.takeMessage_memWf, State.advance_mem,
    State.writeReg_mem, State.sendNotice_mem, State.block_mem]

theorem execProbe_memWf {d : Reg} {e : BitVec 6} {s t : State} (h : execProbe d e s = .next t) (hs : memWf s.mem = true) :
    memWf t.mem = true := by
  refine State.issue_memWf h (fun vs u hu => ?_) hs
  simp [hs, hu]

@[simp] theorem State.altTimesOut_memWf (s u : State) (d b : Reg) (hs : memWf s.mem = true) (hu : memWf u.mem = true) :
    memWf (s.altTimesOut u d b).mem = true := by
  unfold State.altTimesOut
  (repeat' split) <;> simp [hs, hu]

@[simp] theorem State.altOn_memWf (s s' : State) (ws : List (Reg × DWord)) (d : Reg) (mask : DWord) (b : Option (Reg × Nat))
    (hs : memWf s.mem = true) (hs' : memWf s'.mem = true) : memWf (s.altOn s' ws d mask b).mem = true := by
  unfold State.altOn
  grind [State.raise_memWf, State.stall_mem, State.clearRsv_memWf, State.replayArrivals_memWf, State.writeReg_mem, State.advance_mem,
    State.decideAlt_memWf, State.altTimesOut_memWf, State.block_mem]

theorem execAlt_memWf {d a : Reg} {s t : State} (h : execAlt d a s = .next t) (hs : memWf s.mem = true) : memWf t.mem = true := by
  refine State.issue_memWf h (fun vs u hu => ?_) hs
  simp [hs, hu]

theorem execAltt_memWf {d a b : Reg} {s t : State} (h : execAltt d a b s = .next t) (hs : memWf s.mem = true) : memWf t.mem = true := by
  unfold execAltt at h
  grind [State.raise_memWf, State.altTimesOut_memWf, State.clearRsv_memWf, State.issue_memWf, State.altOn_memWf]

@[simp] theorem State.resumeSend_memWf (s : State) (n : Nat) (w : Wait) (hs : memWf s.mem = true) : memWf (s.resumeSend n w).mem = true := by
  unfold State.resumeSend
  grind [State.endSend_memWf, State.outFrame_mem, State.countConsume_mem, State.sendMessage_mem]

@[simp] theorem State.credit_memWf (s : State) (e : Nat) (hs : memWf s.mem = true) : memWf (s.credit e).mem = true := by
  unfold State.credit
  grind [State.resumeSend_memWf, State.reissue_mem, State.countConsume_mem]

@[simp] theorem State.readBoxFifo_mem (s : State) (k : Nat) : (s.readBoxFifo k).2.mem = s.mem := by
  unfold State.readBoxFifo
  split <;> simp

@[simp] theorem State.pumpBox_mem (s : State) (m : Nat) : (s.pumpBox m).mem = s.mem := by
  unfold State.pumpBox
  grind [State.readBoxFifo_mem, State.setBox_mem, State.sendFrom_mem]

theorem execCreditReturn_memWf {ep : Nat} {s t : State} (h : execCreditReturn ep s = .next t) (hs : memWf s.mem = true) :
    memWf t.mem = true := by
  cases h
  (repeat' split) <;> simp [hs]

@[simp] theorem State.unbindExt_mem (s : State) (core e : Nat) (x : Endpoint) : (s.unbindExt core e x).mem = s.mem := by
  unfold State.unbindExt
  (repeat' split) <;> simp

@[simp] theorem State.bindExt_mem (s : State) (core e : Nat) (x : Endpoint) : (s.bindExt core e x).mem = s.mem := by
  unfold State.bindExt
  (repeat' split) <;> simp

@[simp] theorem State.putEntry_mem (s : State) (e : Nat) (x : Endpoint) : (s.putEntry e x).mem = s.mem := by simp [State.putEntry]

theorem execBind_memWf {e : BitVec 6} {a : Reg} {s t : State} (h : execBind e a s = .next t) (hs : memWf s.mem = true) :
    memWf t.mem = true := by
  refine State.issue_memWf h (fun vs u hu => ?_) hs
  grind [State.raise_memWf, State.stall_mem, State.advance_mem, State.putEntry_mem]

theorem execUnbind_memWf {e : BitVec 6} {s t : State} (h : execUnbind e s = .next t) (hs : memWf s.mem = true) : memWf t.mem = true := by
  refine State.issue_memWf h (fun vs u hu => ?_) hs
  (repeat' split) <;> simp [hs, hu]

theorem execChmode_memWf {e : BitVec 6} {a : Reg} {s t : State} (h : execChmode e a s = .next t) (hs : memWf s.mem = true) :
    memWf t.mem = true := by
  refine State.issue_memWf h (fun vs u hu => ?_) hs
  grind [State.raise_memWf, State.advance_mem, State.putEntry_mem]

/-! ### The operations of Machine/Fork.lean -/

@[simp] theorem State.createChild_mem (s : State) (e : Nat) (c : Child) : (s.createChild e c).mem = s.mem := by simp [State.createChild]

@[simp] theorem State.goInline_memWf (s : State) (f : Nat) (d : Reg) (c : Child) (back : Addr) (hs : memWf s.mem = true) :
    memWf (s.goInline f d c back).mem = true := by simp [State.goInline, hs]

theorem execFork_memWf {d a b : Reg} {s t : State} (h : execFork d a b s = .next t) (hs : memWf s.mem = true) : memWf t.mem = true := by
  obtain rfl := Host.Outcome.next.inj h
  have hr (f : Flt) := State.raise_memWf s f hs
  split
  · exact State.raise_memWf _ _ hs
  · split
    · exact State.raise_memWf _ _ hs
    · split
      · exact State.gateRaise_memWf _ _ _ hs
      · simpa using hs
      · rename_i hg
        have hu := (State.gate_mem hg).symm ▸ hs
        dsimp only
        split
        · simpa using hs
        · split
          · exact hr _
          · exact hr _
          · refine ite_memWf (hr _) (ite_memWf (hr _) (ite_memWf (hr _) ?_))
            split
            · simpa using hs
            · split
              · split
                · rw [State.advance_mem, State.writeReg_mem, State.createChild_mem, State.countConsume_mem, State.countSend_mem]
                  exact State.retest_memWf _ _ _ (State.spWrite_memWf _ _ _ _ (State.clearRsv_memWf _ _ hu))
                · rw [State.complete_mem]
                  refine State.goInline_memWf _ _ _ _ _ ?_
                  rw [State.countConsume_mem, State.countSend_mem]
                  exact State.retest_memWf _ _ _ (State.spWrite_memWf _ _ _ _ (State.clearRsv_memWf _ _ hu))
              · rw [State.sendFrom_mem, State.block_mem, State.countSend_mem]
                exact State.retest_memWf _ _ _ (State.spWrite_memWf _ _ _ _ (State.clearRsv_memWf _ _ hu))

@[simp] theorem State.forkReply_memWf (s : State) (e : Nat) (w : Wait) (d : Reg) (r : Result) (hs : memWf s.mem = true) :
    memWf (s.forkReply e w d r).mem = true := by
  unfold State.forkReply
  grind [State.finishWait_memWf, State.asFibre_memWf, State.goInline_memWf, State.setFib_mem, State.setMe_mem, State.makeReady_mem,
    getD_memWf]

theorem execForkChildCreate_mem {c : Child} {s t : State} (h : execForkChildCreate c s = .next t) : t.mem = s.mem := by
  cases h
  grind [State.createChild_mem, State.send_mem]

theorem execJoinc_memWf {d : Reg} {s t : State} (h : execJoinc d s = .next t) (hs : memWf s.mem = true) : memWf t.mem = true := by
  refine State.issue_memWf h (fun vs u hu => ?_) hs
  grind [State.stall_mem, State.raise_memWf, State.clearRsv_memWf, State.atBank_memWf, State.bankDone_memWf, State.recordWaiter_mem,
    State.block_mem]

theorem State.inlineReturn_memWf {s t : State} (h : s.inlineReturn = some t) (hs : memWf s.mem = true) : memWf t.mem = true := by
  unfold State.inlineReturn at h
  grind [State.spWrite_memWf, State.complete_mem, State.setCtx_mem, State.writeReg_mem]

theorem State.admitRecord_mem {s : State} {die depth : Nat} {record : Addr} {job : Option Nat} {t : State} {a : Nat}
    (h : s.admitRecord die depth record job = some (a, t)) :
    t.mem = s.mem := by
  unfold State.admitRecord at h
  grind [Option.map_eq_some_iff]

@[simp] theorem State.busySeen_mem (s : State) (w : DWord) : (s.busySeen w).mem = s.mem := by
  unfold State.busySeen
  split <;> simp

theorem execLnch_memWf {d a : Reg} {s t : State} (h : execLnch d a s = .next t) (hs : memWf s.mem = true) : memWf t.mem = true := by
  refine State.issue_memWf h (fun vs u hu => ?_) hs
  grind [State.raise_memWf, State.stall_mem, State.clearRsv_memWf, State.admitRecord_mem, State.done_memWf, State.record_memWf,
    State.busySeen_mem]

/-! ### The operations of Machine/EventOps.lean -/

@[simp] theorem State.eventWait_memWf (s s' : State) (ws : List (Reg × DWord)) (v : DWord) (k : WaitKind) (ev : EvMsg → Ev)
    (hs : memWf s.mem = true) (hs' : memWf s'.mem = true) : memWf (s.eventWait s' ws v k ev).mem = true := by
  unfold State.eventWait
  (repeat' split) <;> simp [hs, hs']

@[simp] theorem State.eventNotify_memWf (s s' : State) (v : DWord) (ev : EvMsg → Ev) (hs : memWf s.mem = true) (hs' : memWf s'.mem = true) :
    memWf (s.eventNotify s' v ev).mem = true := by
  unfold State.eventNotify
  (repeat' split) <;> simp [hs, hs']

theorem execEvwait_memWf {a : Reg} {s t : State} (h : execEvwait a s = .next t) (hs : memWf s.mem = true) : memWf t.mem = true := by
  refine State.issue_memWf h (fun vs u hu => ?_) hs
  simp [hs, hu]

theorem execEvwaitQev_memWf {a : Reg} {s t : State} (h : execEvwaitQev a s = .next t) (hs : memWf s.mem = true) : memWf t.mem = true := by
  refine State.issue_memWf h (fun vs u hu => ?_) hs
  simp [hs, hu]

theorem execEvtst_memWf {d a : Reg} {s t : State} (h : execEvtst d a s = .next t) (hs : memWf s.mem = true) : memWf t.mem = true := by
  refine State.issue_memWf h (fun vs u hu => ?_) hs
  (repeat' split) <;> simp [hs, hu]

theorem execEvsig_memWf {a : Reg} {s t : State} (h : execEvsig a s = .next t) (hs : memWf s.mem = true) : memWf t.mem = true := by
  refine State.issue_memWf h (fun vs u hu => ?_) hs
  (repeat' split) <;> simp [hs, hu]

theorem execEvclr_memWf {a : Reg} {s t : State} (h : execEvclr a s = .next t) (hs : memWf s.mem = true) : memWf t.mem = true := by
  refine State.issue_memWf h (fun vs u hu => ?_) hs
  (repeat' split) <;> simp [hs, hu]

@[simp] theorem State.setDie_mem (s : State) (k : Nat) (d : Die) : (s.setDie k d).mem = s.mem := rfl

@[simp] theorem State.eventAnswer_mem (s : State) (m : EvMsg) (test value : Bool) : (s.eventAnswer m test value).mem = s.mem := by
  simp [State.eventAnswer]

@[simp] theorem State.eventWaitAt_mem (s : State) (m : EvMsg) : (s.eventWaitAt m).mem = s.mem := by
  unfold State.eventWaitAt
  grind [State.eventAnswer_mem, State.setDie_mem, State.sendFrom_mem]

theorem execEventSignalArrival_mem {m : EvMsg} {s t : State} (h : execEventSignalArrival m s = .next t) : t.mem = s.mem := by
  cases h
  dsimp only
  split <;> simp

theorem execEventClearArrival_mem {m : EvMsg} {s t : State} (h : execEventClearArrival m s = .next t) : t.mem = s.mem := by
  cases h
  grind [State.setDie_mem, State.countConsume_mem]

@[simp] theorem State.eventReplyAt_memWf (s : State) (m : EvMsg) (test value : Bool) (hs : memWf s.mem = true) :
    memWf (s.eventReplyAt m test value).mem = true := by
  unfold State.eventReplyAt
  grind [State.send_mem, State.countConsume_mem, State.modFibre_mem, State.finishWait_memWf]

theorem execEventReply_memWf {m : EvMsg} {test value : Bool} {s t : State} (h : execEventReply m test value s = .next t)
    (hs : memWf s.mem = true) : memWf t.mem = true := by
  cases h
  grind [State.onCore_memWf, State.eventReplyAt_memWf]

@[simp] theorem State.sendArrival_mem (s : State) (who : Who) (op : Nat) (j : Job) (g : Nat) : (s.sendArrival who op j g).mem = s.mem := by
  simp [State.sendArrival]

theorem execBar_memWf {d a : Reg} {s t : State} (h : execBar d a s = .next t) (hs : memWf s.mem = true) : memWf t.mem = true := by
  refine State.issue_memWf h (fun vs u hu => ?_) hs
  grind [State.raise_memWf, State.stall_mem, State.block_mem, State.sendArrival_mem]

@[simp] theorem State.tagsSet_mem (s : State) (tags : DWord) : (s.tagsSet tags).mem = s.mem := by
  refine foldl_mem (fun u e => ?_) _ s
  split
  · rfl
  · split
    · split <;> simp
    · rfl

@[simp] theorem State.setTags_mem (s : State) (mask : DWord) : (s.setTags mask).mem = s.mem := by simp [State.setTags]

theorem execBarrierArrival_mem {who : Who} {op job gang : Nat} {s t : State} (h : execBarrierArrival who op job gang s = .next t) :
    t.mem = s.mem := by
  cases h
  dsimp only
  split
  · rfl
  · split
    · rfl
    · split <;> simp

@[simp] theorem State.barrierDone_memWf (s : State) (who : Who) (op : Nat) (broken : Bool) (hs : memWf s.mem = true) :
    memWf (s.barrierDone who op broken).mem = true := by
  unfold State.barrierDone
  grind [State.finishWait_memWf, State.send_mem]

theorem execBarrierCompletion_memWf {who : Who} {op : Nat} {broken : Bool} {s t : State}
    (h : execBarrierCompletion who op broken s = .next t) (hs : memWf s.mem = true) : memWf t.mem = true := by
  cases h
  grind [State.onCore_memWf, State.barrierDone_memWf]

theorem execBarBrk_memWf {a : Reg} {s t : State} (h : execBarBrk a s = .next t) (hs : memWf s.mem = true) : memWf t.mem = true := by
  refine State.issue_memWf h (fun vs u hu => ?_) hs
  dsimp only
  split
  · exact State.raise_memWf _ _ hs
  · split
    · simpa using hu
    · split
      · simpa using hu
      · simpa using hu

/-! ### The operations of Machine/Tiles.lean -/

@[simp] theorem State.putElem_memWf (s : State) (l : Layout) (b : TileEnd) (k : Nat) (r : List Byte × Option Nat × Counts)
    (hs : memWf s.mem = true) : memWf (s.putElem l b k r).mem = true := by
  unfold State.putElem
  split <;> simp [hs]

theorem State.markFrom_mem {s : State} {src c ch lo hi wm : Nat} {t : State} (h : s.markFrom src c ch lo hi wm = some t) : t.mem = s.mem := by
  unfold State.markFrom at h
  grind [State.modCore_mem]

theorem State.markArrival_mem {s : State} {c ch lo hi wm : Nat} {t : State} (h : s.markArrival c ch lo hi wm = some t) : t.mem = s.mem := by
  unfold State.markArrival at h
  grind [State.markFrom_mem]

@[simp] theorem State.setBusyTile_mem (s : State) (e : Nat) (v : Bool) : (s.setBusyTile e v).mem = s.mem := rfl

theorem State.tileShape_memWf (s : State) (e : Nat) (h : DWord) (k : Shape → State) (hk : ∀ r, memWf (k r).mem = true)
    (hs : memWf s.mem = true) : memWf (s.tileShape e h k).mem = true := by
  unfold State.tileShape
  split
  · exact hk _
  · exact State.withShape_memWf _ _ _ hk hs

@[simp] theorem State.keepTile_mem (s : State) (e : Nat) (r : Shape) : (s.keepTile e r).mem = s.mem := rfl

theorem State.mayPass_mem {s : State} {src dst place : Nat} {t : State} (h : s.mayPass src dst place = some t) : t.mem = s.mem := by
  unfold State.mayPass at h
  grind [State.cross_mem]

@[simp] theorem State.sendTile_memWf (s : State) (e : Nat) (r : ElemRun) (hs : memWf s.mem = true) : memWf (s.sendTile e r).mem = true := by
  unfold State.sendTile
  grind [State.startRun_memWf, State.setBusyTile_mem, State.advance_mem]

theorem execSendt_memWf {e : BitVec 6} {a : Reg} {s t : State} (h : execSendt e a s = .next t) (hs : memWf s.mem = true) :
    memWf t.mem = true := by
  refine State.chanIssue_memWf h (fun vs u hu => State.tileShape_memWf _ _ _ _ (fun r => ?_) hs) hs
  dsimp only
  (repeat' split) <;> simp [hs, hu]

@[simp] theorem State.sentTile_mem (s : State) (e : Nat) : (s.sentTile e).mem = s.mem := rfl

@[simp] theorem State.linkElem_memWf (s : State) (r : ElemRun) (sh : Shape) (e : Nat) (hs : memWf s.mem = true) :
    memWf (s.linkElem r sh e).mem = true := by
  unfold State.linkElem
  grind [State.raiseElem_memWf, State.stepRun_memWf, State.advance_mem, State.outFrame_mem, State.countConsume_mem, State.sentTile_mem]

@[simp] theorem State.sendtElem_memWf (s : State) (r : ElemRun) (e : Nat) (hs : memWf s.mem = true) : memWf (s.sendtElem r e).mem = true := by
  unfold State.sendtElem
  dsimp only
  split
  · split
    · exact State.raiseElem_memWf _ _ _ hs
    · split
      · exact State.raiseElem_memWf _ _ _ hs
      · split
        · exact hs
        · rename_i t h
          obtain ⟨v, hv, hm⟩ := Option.bind_eq_some_iff.1 h
          have ht : memWf t.mem = true := by rwa [State.markArrival_mem hm, State.mayPass_mem hv]
          refine State.stepRun_memWf _ _ _ (fun u hu => ?_) ?_
          · simpa [State.modCore_mem] using hu
          · split
            · exact ht
            · exact State.putElem_memWf _ _ _ _ _ ht
  · exact State.linkElem_memWf _ _ _ _ hs
  · exact hs

theorem execRecvt_memWf {d : Reg} {e : BitVec 6} {a : Reg} {s t : State} (h : execRecvt d e a s = .next t) (hs : memWf s.mem = true) :
    memWf t.mem = true := by
  refine State.chanIssue_memWf h (fun vs u hu => State.tileShape_memWf _ _ _ _ (fun r => ?_) hs) hs
  extract_lets bf span
  split
  · simp [hs]
  · split
    · simp [hu]
    · split
      · simp [hs]
      · extract_lets p
        split
        · simp [hs]
        · split
          · simp [hs]
          · refine State.startRun_memWf _ _ _ _ (fun t ht => by simpa using ht) ?_
            rw [State.setBusyTile_mem]
            exact getD_memWf (fun t ht => by rwa [State.markFrom_mem ht]) hu
    · (repeat' split) <;> simp [hs, hu]

@[simp] theorem State.recvtElem_memWf (s : State) (r : ElemRun) (d : Reg) (e : Nat) (hs : memWf s.mem = true) :
    memWf (s.recvtElem r d e).mem = true := by
  unfold State.recvtElem
  dsimp only
  split
  · split
    · exact State.raiseElem_memWf _ _ _ hs
    · split
      · exact State.raiseElem_memWf _ _ _ hs
      · split
        · exact hs
        · rename_i u h
          obtain ⟨v, hv, hm⟩ := Option.bind_eq_some_iff.1 h
          have hu : memWf u.mem = true := by rwa [State.markFrom_mem hm, State.mayPass_mem hv]
          split
          · exact hs
          · refine State.stepRun_memWf _ _ _ (fun w hw => ?_) (State.putElem_memWf _ _ _ _ _ hu)
            split
            · exact State.raise_memWf _ _ (by simpa using hw)
            · simpa using State.takeMessage_memWf _ _ (by simpa using hw)
  · exact hs

/-! ### The operations of Machine/Copy.lean -/

theorem State.engRead_memWf (s : State) (who : Who) (job : Option Nat) (fuel va n : Nat) (hs : memWf s.mem = true) :
    (s.engRead who job fuel va n).MemWf := by
  induction fuel generalizing s va n with
  | zero => exact hs
  | succ fuel ih =>
    unfold State.engRead
    split
    · exact hs
    · dsimp only
      split
      · exact hs
      · split
        · trivial
        · rename_i p _ _
          have hd := State.dramRead_memWf s (engReq p.home who job va) p (p.pa va) (min n (32 - va % 32)) hs
          split
          · rename_i h
            rwa [h] at hd
          · rename_i h
            rw [h] at hd
            have hr := ih _ (va + min n (32 - va % 32)) (n - min n (32 - va % 32)) hd
            split
            · rename_i h
              rwa [h] at hr
            · exact hr

theorem State.engWrite_memWf (s : State) (who : Who) (job : Option Nat) (fuel va : Nat) (l : List Byte) (hs : memWf s.mem = true) :
    (s.engWrite who job fuel va l).MemWf := by
  induction fuel generalizing s va l with
  | zero => exact hs
  | succ fuel ih =>
    unfold State.engWrite
    split
    · exact hs
    · dsimp only
      split
      · exact hs
      · split
        · exact hs
        · split
          · trivial
          · split
            · exact ih _ _ _ (State.dramWrite_memWf _ _ _ _ hs)
            · rename_i p _ _ _ _
              have hd := State.dramUpdate_memWf s (engReq p.home who job va) p (p.pa va) (min l.length (32 - va % 32))
                (fun _ => l.take (min l.length (32 - va % 32))) hs
              split
              · rename_i h
                rwa [h] at hd
              · rename_i h
                rw [h] at hd
                exact ih _ _ _ hd

theorem State.engGet_memWf (s : State) (who : Who) (job : Option Nat) (va n : Nat) (hs : memWf s.mem = true) :
    (s.engGet who job va n).MemWf := State.engRead_memWf _ _ _ _ _ _ hs

theorem State.engGet_ok_memWf {s t : State} {who : Who} {job : Option Nat} {va n : Nat} {bs : List Byte}
    (h : s.engGet who job va n = .ok bs t) (hs : memWf s.mem = true) :
    memWf t.mem = true := (h ▸ State.engGet_memWf s who job va n hs : (EngOut.ok bs t).MemWf)

theorem State.engGet_fault_memWf {s t : State} {who : Who} {job : Option Nat} {va n : Nat} {c ea : Nat}
    (h : s.engGet who job va n = .fault c ea t) (hs : memWf s.mem = true) :
    memWf t.mem = true := (h ▸ State.engGet_memWf s who job va n hs : (EngOut.fault c ea t).MemWf)

theorem State.engPut_memWf (s : State) (who : Who) (job : Option Nat) (va : Nat) (l : List Byte) (hs : memWf s.mem = true) :
    (s.engPut who job va l).MemWf := State.engWrite_memWf _ _ _ _ _ _ hs

theorem State.engPut_ok_memWf {s t : State} {who : Who} {job : Option Nat} {va : Nat} {l : List Byte} {bs : List Byte}
    (h : s.engPut who job va l = .ok bs t) (hs : memWf s.mem = true) :
    memWf t.mem = true := (h ▸ State.engPut_memWf s who job va l hs : (EngOut.ok bs t).MemWf)

theorem State.engPut_fault_memWf {s t : State} {who : Who} {job : Option Nat} {va : Nat} {l : List Byte} {c ea : Nat}
    (h : s.engPut who job va l = .fault c ea t) (hs : memWf s.mem = true) :
    memWf t.mem = true := (h ▸ State.engPut_memWf s who job va l hs : (EngOut.fault c ea t).MemWf)

theorem State.edgePut_memWf (s : State) (src : Nat) (who : Who) (job : Option Nat) (va : Nat) (l : List Byte) (hs : memWf s.mem = true) :
    (s.edgePut src who job va l).MemWf := by
  unfold State.edgePut
  split
  · exact hs
  · dsimp only
    split
    · trivial
    · split
      · trivial
      · rename_i h
        exact State.engPut_memWf _ _ _ _ _ (by rwa [State.cross_mem h])

theorem State.edgePut_ok_memWf {s t : State} {src : Nat} {who : Who} {job : Option Nat} {va : Nat} {l : List Byte} {bs : List Byte}
    (h : s.edgePut src who job va l = .ok bs t) (hs : memWf s.mem = true) :
    memWf t.mem = true := (h ▸ State.edgePut_memWf s src who job va l hs : (EngOut.ok bs t).MemWf)

theorem State.edgePut_fault_memWf {s t : State} {src : Nat} {who : Who} {job : Option Nat} {va : Nat} {l : List Byte} {c ea : Nat}
    (h : s.edgePut src who job va l = .fault c ea t) (hs : memWf s.mem = true) :
    memWf t.mem = true := (h ▸ State.edgePut_memWf s src who job va l hs : (EngOut.fault c ea t).MemWf)

theorem State.edgeGet_memWf (s : State) (src : Nat) (who : Who) (job : Option Nat) (va n : Nat) (hs : memWf s.mem = true) :
    (s.edgeGet src who job va n).MemWf := by
  unfold State.edgeGet
  split
  · exact hs
  · dsimp only
    split
    · trivial
    · split
      · trivial
      · rename_i t h
        have hg := State.engGet_memWf t who job va n (by rwa [State.cross_mem h])
        split
        · rename_i h
          rw [h] at hg
          split
          · rename_i h
            exact (congrArg memWf (State.cross_mem h)).trans hg
          · trivial
        · exact hg

theorem State.edgeGet_ok_memWf {s t : State} {src : Nat} {who : Who} {job : Option Nat} {va n : Nat} {bs : List Byte}
    (h : s.edgeGet src who job va n = .ok bs t) (hs : memWf s.mem = true) :
    memWf t.mem = true := (h ▸ State.edgeGet_memWf s src who job va n hs : (EngOut.ok bs t).MemWf)

theorem State.edgeGet_fault_memWf {s t : State} {src : Nat} {who : Who} {job : Option Nat} {va n : Nat} {c ea : Nat}
    (h : s.edgeGet src who job va n = .fault c ea t) (hs : memWf s.mem = true) :
    memWf t.mem = true := (h ▸ State.edgeGet_memWf s src who job va n hs : (EngOut.fault c ea t).MemWf)

@[simp] theorem State.setChannel_mem (s : State) (c : Nat) (x : Channel) : (s.setChannel c x).mem = s.mem := rfl

@[simp] theorem State.beginCopy_mem (s : State) (p : CopyPlan) (dst src : DWord) (tag : Nat) (rr : Bool) (sched : Option (Nat × Nat))
    (pc : Addr) :
    (s.beginCopy p dst src tag rr sched pc).mem = s.mem := by
  unfold State.beginCopy
  (repeat' split) <;> simp

@[simp] theorem State.copyGo_memWf (s s' : State) (multi : Bool) (dst src : DWord) (n tag : Nat) (rr : Bool) (r : Option Shape)
    (hs : memWf s.mem = true) (hs' : memWf s'.mem = true) : memWf (s.copyGo s' multi dst src n tag rr r).mem = true := by
  unfold State.copyGo
  (repeat' split) <;> simp [hs, hs']

theorem State.copyInstr_memWf {s : State} {multi : Bool} {d a n : Reg} {tag : Nat} {sh rr : Bool} {t : State}
    (h : s.copyInstr multi d a n tag sh rr = .next t) (hs : memWf s.mem = true) : memWf t.mem = true := by
  unfold State.copyInstr at h
  grind [State.issue_memWf, State.withShape_memWf, State.copyGo_memWf]

@[simp] theorem State.fetchEntry_mem (s : State) (k : Nat) : (s.fetchEntry k).mem = s.mem := by
  unfold State.fetchEntry
  grind

theorem execStage_memWf {n : BitVec 6} {s t : State} (h : execStage n s = .next t) (hs : memWf s.mem = true) : memWf t.mem = true := by
  refine State.issue_memWf h (fun vs u hu => ?_) hs
  grind [State.raise_memWf, State.stall_mem, State.fetchEntry_mem, State.beginCopy_mem, State.advance_mem]

theorem execCpwa_memWf {d a : Reg} {s t : State} (h : execCpwa d a s = .next t) (hs : memWf s.mem = true) : memWf t.mem = true := by
  refine State.issue_memWf h (fun vs u hu => ?_) hs
  grind [State.done_memWf, State.stall_mem]

theorem execCpwn_memWf {d a : Reg} {s t : State} (h : execCpwn d a s = .next t) (hs : memWf s.mem = true) : memWf t.mem = true := by
  refine State.issue_memWf h (fun vs u hu => ?_) hs
  grind [State.done_memWf, State.stall_mem]

@[simp] theorem State.haltCopy_memWf (s : State) (c k code : Nat) (addr : DWord) (hs : memWf s.mem = true) :
    memWf (s.haltCopy c k code addr).mem = true := by
  unfold State.haltCopy
  grind [State.setChannel_mem, State.coreTrap_mem, State.raiseAsync_memWf]

@[simp] theorem State.failElem_memWf (s : State) (c k code : Nat) (addr : DWord) (hs : memWf s.mem = true) :
    memWf (s.failElem c k code addr).mem = true := by
  unfold State.failElem
  grind [State.haltCopy_memWf, State.setChannel_mem]

@[simp] theorem State.markElem_memWf (s : State) (c k : Nat) (hs : memWf s.mem = true) : memWf (s.markElem c k).mem = true := by
  unfold State.markElem
  grind [State.setChannel_mem, State.markArrival_mem, State.haltCopy_memWf, getD_memWf]

@[simp] theorem State.sourceFree_mem (s : State) (c : Nat) : (s.sourceFree c).mem = s.mem := by
  unfold State.sourceFree
  grind [State.setTags_mem]

theorem State.engPass_mem {s : State} {x : Channel} {ea n : Nat} {toSide : Bool} {t : State} (h : s.engPass x ea n toSide = some t) :
    t.mem = s.mem := by
  unfold State.engPass at h
  dsimp only at h
  split at h
  · cases h
  · split at h
    · exact State.cross_mem h
    · obtain ⟨u, hu, hc⟩ := Option.bind_eq_some_iff.1 h
      exact (State.cross_mem hc).trans (State.cross_mem hu)

theorem State.copySource_memWf (s : State) (x : Channel) (ea n : Nat) {o : EngOut} (h : s.copySource x ea n = .inl o)
    (hs : memWf s.mem = true) :
    o.MemWf := by
  unfold State.copySource at h
  dsimp only at h
  split at h
  · cases h
    trivial
  · rename_i t ht
    have hw : memWf t.mem = true := by rwa [State.engPass_mem ht]
    split at h
    · split at h
      · cases h
        trivial
      · split at h <;> cases h <;> exact hw
    · split at h
      · cases h
        exact State.engGet_memWf _ _ _ _ _ hw
      · cases h

@[simp] theorem State.putPad_memWf (s : State) (core off : Nat) (w : Option Word) (r : List Byte × Option Nat × Counts)
    (hs : memWf s.mem = true) : memWf (s.putPad core off w r).mem = true := by
  unfold State.putPad
  split <;> simp [hs]

@[simp] theorem State.fly_mem (s : State) (c k : Nat) : (s.fly c k).2.mem = s.mem := rfl

@[simp] theorem State.writeElem_memWf (s : State) (c k : Nat) (l : List Byte) (hs : memWf s.mem = true) :
    memWf (s.writeElem c k l).mem = true := by
  unfold State.writeElem
  grind [State.sourceFree_mem, State.markElem_memWf, State.putPad_memWf, State.setChannel_mem, State.markArrival_mem,
    State.engPut_ok_memWf, State.engPut_fault_memWf, State.failElem_memWf, State.fly_mem, State.outFrame_mem]

@[simp] theorem State.copyPut_memWf (s u : State) (c k : Nat) (l : List Byte) (hs : memWf s.mem = true) (hu : memWf u.mem = true) :
    memWf (s.copyPut u c k l).mem = true := by
  unfold State.copyPut
  grind [State.engPass_mem, State.writeElem_memWf]

theorem State.passAll_mem {s t : State} {x : Channel} {ea : Nat} {cs : List Nat} (h : s.passAll x ea cs = some t) : t.mem = s.mem := by
  induction cs generalizing s with
  | nil => simp only [State.passAll] at h; grind
  | cons c cs ih =>
    obtain ⟨u, hu, hc⟩ := Option.bind_eq_some_iff.1 h
    exact (ih hc).trans (State.engPass_mem hu)

@[simp] theorem State.multicastPut_memWf (s u : State) (c k : Nat) (l : List Byte) (hs : memWf s.mem = true) (hu : memWf u.mem = true) :
    memWf (s.multicastPut u c k l).mem = true := by
  unfold State.multicastPut
  dsimp only
  split
  · exact hu
  · rename_i t ht
    have hw : memWf t.mem = true := by rw [State.passAll_mem ht]; exact hs
    split
    · simpa using hw
    · rw [State.sourceFree_mem]
      refine State.markElem_memWf _ _ _ ?_
      rw [State.setChannel_mem]
      exact foldl_memWf (fun t p h => State.putPad_memWf _ _ _ _ _ h) _ hw

@[simp] theorem State.enqueueSend_memWf (s : State) (c : Nat) (hs : memWf s.mem = true) : memWf (s.enqueueSend c).mem = true := by
  unfold State.enqueueSend
  grind [State.haltCopy_memWf, State.fly_mem, State.sourceFree_mem, State.outFrame_mem]

@[simp] theorem State.copyElem_memWf (s : State) (c k : Nat) (hs : memWf s.mem = true) : memWf (s.copyElem c k).mem = true := by
  unfold State.copyElem
  dsimp only
  split
  · exact hs
  · split
    · exact State.enqueueSend_memWf _ _ hs
    · split
      · rename_i h
        have ht := State.copySource_memWf s _ _ _ h hs
        split
        · exact State.copyPut_memWf _ _ _ _ _ ht hs
        · exact State.multicastPut_memWf _ _ _ _ _ ht hs
      · rename_i h
        have ht := State.copySource_memWf s _ _ _ h hs
        exact State.failElem_memWf _ _ _ _ _ ht
      · exact hs
      · split
        · exact State.failElem_memWf _ _ _ _ _ hs
        · simpa using hs
      · split
        · exact State.failElem_memWf _ _ _ _ _ hs
        · simpa using hs
      · exact hs

theorem execCopyElement_memWf {ch : Fin 8} {k : Nat} {s t : State} (h : execCopyElement ch k s = .next t) (hs : memWf s.mem = true) :
    memWf t.mem = true := by
  cases h
  (repeat' split) <;> simp [hs]

theorem execCopyHalt_memWf {ch : Fin 8} {k code : Nat} {addr : DWord} {s t : State} (h : execCopyHalt ch k code addr s = .next t)
    (hs : memWf s.mem = true) : memWf t.mem = true := by
  cases h
  grind [State.failElem_memWf]

@[simp] theorem State.flightReply_memWf (s : State) (op : Nat) (r : Result) (hs : memWf s.mem = true) :
    memWf (s.flightReply op r).mem = true := by
  unfold State.flightReply
  grind [State.setChannel_mem, State.failElem_memWf, State.engPass_mem, State.writeElem_memWf, State.send_mem, State.markElem_memWf]

@[simp] theorem State.collides_mem (s : State) (c other : Nat) : (s.collides c other).mem = s.mem := by
  unfold State.collides
  grind [State.coreTrap_mem, State.setChannel_mem]

theorem execScheduledFlitDelivery_memWf {ch : Fin 8} {k : Nat} {collide : Option Nat} {s t : State}
    (h : execScheduledFlitDelivery ch k collide s = .next t) (hs : memWf s.mem = true) : memWf t.mem = true := by
  cases h
  grind [State.onCore_memWf, State.collides_mem, State.copyElem_memWf]

@[simp] theorem State.endArrival_mem (s : State) (c : Nat) : (s.endArrival c).mem = s.mem := by
  unfold State.endArrival
  grind [State.modCore_mem]

@[simp] theorem State.flushChannel_mem (s : State) (c : Nat) : (s.flushChannel c).mem = s.mem := rfl

theorem execCopyComplete_mem {ch : Fin 8} {s t : State} (h : execCopyComplete ch s = .next t) : t.mem = s.mem := by
  cases h
  grind [State.flushChannel_mem, State.setChannel_mem, State.endArrival_mem, State.setTags_mem, State.countConsume_mem]

theorem execCopyResend_mem {ch : Fin 8} {s t : State} (h : execCopyResend ch s = .next t) : t.mem = s.mem := by
  cases h
  grind [State.setChannel_mem]

@[simp] theorem State.copyCommand_mem (s : State) (ops : Nat → Bool) : (s.copyCommand ops).mem = s.mem := by
  unfold State.copyCommand
  grind [State.readFifo_mem, State.setChannel_mem, State.endArrival_mem, State.countConsume_mem]

theorem execTsub_memWf {d a b : Reg} {s t : State} (h : execTsub d a b s = .next t) (hs : memWf s.mem = true) : memWf t.mem = true := by
  have hr (f : Flt) := State.raise_memWf s f hs
  refine State.issue_memWf h (fun vs u hu => ?_) hs
  dsimp only
  split
  · refine ite_memWf (hr _) (ite_memWf (hr _) (ite_memWf (hr _) (ite_memWf (hr _) (ite_memWf (hr _) (ite_memWf (hr _) (ite_memWf (hr _)
      (ite_memWf (hr _) (ite_memWf (hr _) (ite_memWf ?_ ?_)))))))))
    · simpa using hs
    · exact State.done_memWf _ _ _ _ hs (by simpa using hu)
  · exact hr _

theorem State.trel_memWf {s : State} {a b : Reg} {store : Bool} {t : State} (h : s.trel a b store = .next t) (hs : memWf s.mem = true) :
    memWf t.mem = true := by
  unfold State.trel at h
  grind [State.issue_memWf, State.raise_memWf, State.advance_mem, State.setChannel_mem]

@[simp] theorem State.pushTile_memWf (s : State) (c : Nat) (hs : memWf s.mem = true) : memWf (s.pushTile c).mem = true := by
  unfold State.pushTile
  grind [State.engPass_mem, State.engGet_ok_memWf, State.engGet_fault_memWf, State.setChannel_mem, State.spWrite_memWf,
    State.haltCopy_memWf]

@[simp] theorem State.writeTile_memWf (s : State) (c k : Nat) (hs : memWf s.mem = true) : memWf (s.writeTile c k).mem = true := by
  unfold State.writeTile
  grind [State.haltCopy_memWf, State.engPass_mem, State.engPut_ok_memWf, State.engPut_fault_memWf, State.setChannel_mem]

/-! ### The operations of Machine/Fetch.lean -/

@[simp] theorem State.requestLine_mem (s : State) (l : Nat) : (s.requestLine l).mem = s.mem := by
  unfold State.requestLine
  split <;> simp

@[simp] theorem State.wantLine_mem (s : State) (a : Nat) : (s.wantLine a).mem = s.mem := by simp [State.wantLine]

@[simp] theorem State.prefetch_mem (s : State) (a : Nat) : (s.prefetch a).mem = s.mem := by
  unfold State.prefetch
  split <;> simp

@[simp] theorem State.useLine_mem (s : State) (l : Nat) : (s.useLine l).mem = s.mem := rfl

theorem State.readLend_mem {s : State} {l : Nat} {t : State} (h : s.readLend l = .ok t) : t.mem = s.mem := by
  unfold State.readLend at h
  grind [State.setMe_mem]

@[simp] theorem State.displace_mem (s : State) : (s.displace).mem = s.mem := by simp [State.displace]

theorem State.fetch_memWf (s : State) (hs : memWf s.mem = true) : memWf s.fetch.state.mem = true := by
  have hraise (v : State) (f : Flt) (a : Nat) (hv : memWf v.mem = true) : memWf ((v.useLine a).raise f).mem = true :=
    State.raise_memWf _ _ (by simpa using hv)
  unfold State.fetch
  split
  · exact hs
  · split
    · exact hs
    · split
      · exact hs
      · split
        · simpa [Fetched.state] using hs
        · split
          · simpa [Fetched.state] using hs
          · split
            · exact hs
            · dsimp only
              split
              · exact State.raise_memWf _ _ hs
              · split
                · simpa [Fetched.state] using hs
                · rename_i v hl
                  have hv : memWf v.mem = true := by
                    split at hl
                    · rwa [State.readLend_mem hl]
                    · cases hl
                      exact hs
                  split
                  · simpa [Fetched.state] using hv
                  · split
                    · split
                      · exact hraise _ _ _ hv
                      · split
                        · simpa [Fetched.state] using hv
                        · split
                          · exact hraise _ _ _ hv
                          · split
                            · simpa [Fetched.state] using hv
                            · exact hraise _ _ _ hv
                    · split
                      · simpa [Fetched.state] using hv
                      · exact hraise _ _ _ hv
                      · exact hraise _ _ _ hv

/-! ### The operations of Machine/Sched.lean -/

@[simp] theorem State.endUpper_memWf (s : State) (hs : memWf s.mem = true) : memWf (s.endUpper).mem = true := by
  unfold State.endUpper
  split <;> simp [hs]

@[simp] theorem State.afterSpin_memWf (s k : State) (hs : memWf s.mem = true) (hk : memWf k.mem = true) : memWf (s.afterSpin k).mem = true := by
  unfold State.afterSpin
  (repeat' split) <;> simp [hs, hk]

theorem execYield_memWf {s t : State} (h : execYield s = .next t) (hs : memWf s.mem = true) : memWf t.mem = true := by
  refine State.issue_memWf h (fun vs u hu => ?_) hs
  (repeat' split) <;> simp [hs, hu]

theorem State.frameHeld_memWf {s t : State} (h : s.frameHeld = some t) (hs : memWf s.mem = true) : memWf t.mem = true := by
  unfold State.frameHeld at h
  grind [State.stall_mem, State.raise_memWf]

theorem execPark_memWf {s t : State} (h : execPark s = .next t) (hs : memWf s.mem = true) : memWf t.mem = true := by
  refine State.issue_memWf h (fun vs u hu => ?_) hs
  grind [State.frameHeld_memWf, State.inlineReturn_memWf, State.raise_memWf, State.endUpper_memWf, State.afterSpin_memWf,
    State.swapOut_mem, State.advance_mem]

@[simp] theorem State.wake_mem (s : State) (e : Nat) (job : Option Nat) : (s.wake e job).mem = s.mem := by
  unfold State.wake
  (repeat' split) <;> simp

theorem execWake_memWf {a : Reg} {s t : State} (h : execWake a s = .next t) (hs : memWf s.mem = true) : memWf t.mem = true := by
  refine State.issue_memWf h (fun vs u hu => ?_) hs
  grind [State.raise_memWf, State.stall_mem, State.wake_mem, State.advance_mem, State.sendFrom_mem]

theorem execSetpri_memWf {a : Reg} {s t : State} (h : execSetpri a s = .next t) (hs : memWf s.mem = true) : memWf t.mem = true := by
  refine State.issue_memWf h (fun vs u hu => ?_) hs
  (repeat' split) <;> simp [hs, hu]

theorem execSetdl_memWf {a : Reg} {s t : State} (h : execSetdl a s = .next t) (hs : memWf s.mem = true) : memWf t.mem = true := by
  refine State.issue_memWf h (fun vs u hu => ?_) hs
  (repeat' split) <;> simp [hs, hu]

theorem execSetwl_memWf {a : Reg} {s t : State} (h : execSetwl a s = .next t) (hs : memWf s.mem = true) : memWf t.mem = true := by
  refine State.issue_memWf h (fun vs u hu => ?_) hs
  (repeat' split) <;> simp [hs, hu]

@[simp] theorem State.readTime_memWf (s s' : State) (d : Reg) (hs : memWf s.mem = true) (hs' : memWf s'.mem = true) :
    memWf (s.readTime s' d).mem = true := by
  unfold State.readTime
  (repeat' split) <;> simp [hs, hs']

theorem execRdtime_memWf {d : Reg} {s t : State} (h : execRdtime d s = .next t) (hs : memWf s.mem = true) : memWf t.mem = true := by
  refine State.issue_memWf h (fun vs u hu => ?_) hs
  simp [hs, hu]

@[simp] theorem State.expireTimers_memWf (s : State) (e : Nat) (hs : memWf s.mem = true) : memWf (s.expireTimers e).mem = true := by
  unfold State.expireTimers
  split
  · exact hs
  · refine foldl_memWf (fun t x h => State.record_memWf _ _ _ _ _ _ h) _ ?_
    split <;> simpa using hs

@[simp] theorem State.endSpin_mem (s : State) : (s.endSpin).mem = s.mem := by
  unfold State.endSpin
  (repeat' split) <;> simp

@[simp] theorem State.markWithdrawn_mem (s : State) (e : Nat) : (s.markWithdrawn e).mem = s.mem := rfl

@[simp] theorem State.limitWait_memWf (s : State) (e : Nat) (hs : memWf s.mem = true) : memWf (s.limitWait e).mem = true := by
  unfold State.limitWait
  split
  · exact hs
  · split
    · split
      · exact hs
      · split
        · simpa using hs
        · split
          · exact hs
          · rw [State.markWithdrawn_mem]
            exact State.faultWait_memWf _ _ _ _ (by simpa using hs)
    · split
      · exact hs
      · dsimp only
        split
        · exact hs
        · split
          · exact hs
          · rw [State.markWithdrawn_mem]
            exact State.asFibre_memWf _ _ _ (fun u h => State.faultAt_memWf _ _ _ _ (by simpa using h)) hs

@[simp] theorem State.sendProbe_mem (s : State) (p : Probe) (e : Nat) (x : Nat × Nat × Nat) : (s.sendProbe p e x).mem = s.mem := by
  simp [State.sendProbe]

theorem execDeadLetterProbe_mem {ent : Nat} {s t : State} (h : execDeadLetterProbe ent s = .next t) : t.mem = s.mem := by
  cases h
  (repeat' split) <;> simp

@[simp] theorem State.fileCycle_mem (s : State) (p : Probe) : (s.fileCycle p).mem = s.mem := by
  unfold State.fileCycle
  grind [State.fileDeadLetter_mem]

theorem execDeadLetterProbeArrival_mem {p : Probe} {s t : State} (h : execDeadLetterProbeArrival p s = .next t) : t.mem = s.mem := by
  cases h
  grind [State.fileCycle_mem, State.sendProbe_mem]

/-! ### The operations of Machine/Dispatcher.lean -/

@[simp] theorem State.noLine_memWf (s : State) (code a : Nat) (l : Option Nat) (hs : memWf s.mem = true) :
    memWf (s.noLine code a l).mem = true := by
  unfold State.noLine
  split <;> simp [hs]

@[simp] theorem State.fillLine_memWf (s : State) (line : Nat) (l : List Byte) (code : Nat) (hs : memWf s.mem = true) :
    memWf (s.fillLine line l code).mem = true := by
  unfold State.fillLine
  split <;> simp +contextual [hs, foldl_memWf]

@[simp] theorem State.pushWord_memWf (s : State) (d : Reg) (w : DWord) (hs : memWf s.mem = true) : memWf (s.pushWord d w).mem = true := by
  unfold State.pushWord
  split <;> simp [hs]

@[simp] theorem State.freeArgs_memWf (s : State) (args : List (Nat × Option DWord)) (hs : memWf s.mem = true) :
    memWf (s.freeArgs args).mem = true := by
  refine foldl_memWf (fun t a h => ?_) _ hs
  split
  · exact State.drainPort_memWf _ _ _ h
  · exact h

@[simp] theorem State.fileLate_mem (s : State) (e : Nat) (f : Fibre) : (s.fileLate e f).mem = s.mem := by
  unfold State.fileLate
  split <;> simp

@[simp] theorem State.swapIn_memWf (s : State) (i : Fin 8) (e : Nat) (f : Fibre) (hs : memWf s.mem = true) :
    memWf (s.swapIn i e f).mem = true := by
  unfold State.swapIn
  grind [State.freeArgs_memWf, State.fileLate_mem]

theorem execDispatch_memWf {s t : State} (h : execDispatch s = .next t) (hs : memWf s.mem = true) : memWf t.mem = true := by
  cases h
  (repeat' split) <;> simp [hs]

theorem execDisplacement_mem {s t : State} (h : execDisplacement s = .next t) : t.mem = s.mem := by
  cases h
  (repeat' split) <;> simp

theorem execTrapDelivery_mem {s t : State} (h : execTrapDelivery s = .next t) : t.mem = s.mem := by
  cases h
  (repeat' split) <;> simp

theorem execUrgentTaskStart_mem {s t : State} (h : execUrgentTaskStart s = .next t) : t.mem = s.mem := by
  cases h
  (repeat' split) <;> simp

theorem execEnvelopeAdmit_mem {pkt : Nat} {s t : State} (h : execEnvelopeAdmit pkt s = .next t) : t.mem = s.mem := by
  cases h
  (repeat' split) <;> simp

theorem execClockUpdate_mem {agent : Fin 18} {rows : CountRows} {s t : State} (h : execClockUpdate agent rows s = .next t) : t.mem = s.mem := by
  cases h
  simp

theorem execTsvc_memWf {q : Req} {s t : State} (h : execTsvc q s = .next t) (hs : memWf s.mem = true) : memWf t.mem = true := by
  cases h
  grind [State.request_memWf, State.onCore_memWf, State.pushTile_memWf, State.writeTile_memWf]

theorem execStatusRecordForward_mem {die : Nat} {s t : State} (h : execStatusRecordForward die s = .next t) : t.mem = s.mem := by
  cases h
  grind [State.outPush_mem, State.setDie_mem]

/-! ### The operations of Machine/System.lean -/

theorem execMfsr_memWf {d : Reg} {sr : BitVec 12} {s t : State} (h : execMfsr d sr s = .next t) (hs : memWf s.mem = true) :
    memWf t.mem = true := by
  refine State.issue_memWf h (fun vs u hu => ?_) hs
  (repeat' split) <;> simp [hs, hu]

@[simp] theorem State.setStageCnt_mem (s : State) (v : DWord) : (s.setStageCnt v).mem = s.mem := by simp +contextual [State.setStageCnt]

@[simp] theorem State.writeSys_mem (s : State) (r : SysReg) (v : DWord) : (s.writeSys r v).mem = s.mem := by
  unfold State.writeSys
  split <;> simp

theorem State.mtsr_memWf {s t : State} {sr : BitVec 12} {a : Reg} {k : DWord → State → State} (h : s.mtsr sr a k = .next t)
    (hk : ∀ v u, memWf u.mem = true → memWf (k v u).mem = true) (hs : memWf s.mem = true) : memWf t.mem = true := by
  unfold State.mtsr at h
  split at h
  · cases h
    exact State.raise_memWf _ _ hs
  · exact State.issue_memWf h (fun vs u hu => hk _ _ hu) hs

theorem execMtsr_memWf {sr : BitVec 12} {a : Reg} {s t : State} (h : execMtsr sr a s = .next t) (hs : memWf s.mem = true) :
    memWf t.mem = true := by
  refine State.mtsr_memWf h (fun v u hu => ?_) hs
  (repeat' split) <;> simp [hs, hu]

theorem execMtsrUtask_memWf {a : Reg} {s t : State} (h : execMtsrUtask a s = .next t) (hs : memWf s.mem = true) : memWf t.mem = true := by
  refine State.mtsr_memWf h (fun v u hu => ?_) hs
  (repeat' split) <;> simp [hs, hu]

@[simp] theorem State.eachCoreOf_mem (s : State) (die : Nat) (f : Core → Core) : (s.eachCoreOf die f).mem = s.mem := rfl

theorem execMtsrDlprobe_memWf {a : Reg} {s t : State} (h : execMtsrDlprobe a s = .next t) (hs : memWf s.mem = true) : memWf t.mem = true := by
  refine State.mtsr_memWf h (fun v u hu => ?_) hs
  (repeat' split) <;> simp [hs, hu]

theorem execMtsrEjrn_memWf {a : Reg} {s t : State} (h : execMtsrEjrn a s = .next t) (hs : memWf s.mem = true) : memWf t.mem = true := by
  refine State.mtsr_memWf h (fun v u hu => ?_) hs
  grind [State.raise_memWf, State.advance_mem, State.setCore_mem]

@[simp] theorem State.trapAfter_memWf (s : State) (code : Nat) (ca : BitVec 8) (hs : memWf s.mem = true) :
    memWf (s.trapAfter code ca).mem = true := by simp [State.trapAfter, hs]

theorem execTrap_memWf {code : BitVec 8} {s t : State} (h : execTrap code s = .next t) (hs : memWf s.mem = true) : memWf t.mem = true := by
  refine State.issue_memWf h (fun vs u hu => ?_) hs
  simp [hu]

theorem execBkpt_memWf {code : BitVec 8} {s t : State} (h : execBkpt code s = .next t) (hs : memWf s.mem = true) : memWf t.mem = true := by
  refine State.issue_memWf h (fun vs u hu => ?_) hs
  simp [hu]

@[simp] theorem State.endUrgent_memWf (s : State) (hs : memWf s.mem = true) : memWf (s.endUrgent).mem = true := by
  simp [State.endUrgent, hs]

theorem execEret_memWf {s t : State} (h : execEret s = .next t) (hs : memWf s.mem = true) : memWf t.mem = true := by
  refine State.issue_memWf h (fun vs u hu => ?_) hs
  (repeat' split) <;> simp [hs, hu]

theorem execRfwin_memWf {a : Reg} {s t : State} (h : execRfwin a s = .next t) (hs : memWf s.mem = true) : memWf t.mem = true := by
  refine State.issue_memWf h (fun vs u hu => ?_) hs
  dsimp only
  split
  · exact State.raise_memWf _ _ hs
  · rw [foldl_mem fun t k => State.send_mem _ _ _]
    simpa using hu

theorem execSyncid_memWf {s t : State} (h : execSyncid s = .next t) (hs : memWf s.mem = true) : memWf t.mem = true := by
  refine State.issue_memWf h (fun vs u hu => ?_) hs
  (repeat' split) <;> simp [hs, hu]

theorem execPrgwr_memWf {a : Reg} {s t : State} (h : execPrgwr a s = .next t) (hs : memWf s.mem = true) : memWf t.mem = true := by
  refine State.issue_memWf h (fun vs u hu => ?_) hs
  (repeat' split) <;> simp [hu]

/-! ### The operations of Machine/Launch.lean -/

@[simp] theorem State.loadPad_memWf (s : State) (core : Nat) (img : List Byte) (hs : memWf s.mem = true) :
    memWf (s.loadPad core img).mem = true := memWf_memPut img _ _ (memWf_filter _ _ hs)

@[simp] theorem State.addFibre_mem (s : State) (r : Record) (t : Tables) (j : Job) (x : Nat × Nat × Nat) :
    (s.addFibre r t j x).mem = s.mem := by simp [State.addFibre]

@[simp] theorem State.freePool_mem (s : State) (die pool : Nat) : (s.freePool die pool).mem = s.mem := rfl

@[simp] theorem State.setSteps_mem (s : State) (g : List Nat) (n : Nat) : (s.setSteps g n).mem = s.mem := rfl

@[simp] theorem State.equalise_mem (s : State) : (s.equalise).mem = s.mem := by
  refine foldl_mem (fun t g => ?_) _ s
  split <;> simp

@[simp] theorem State.noteLaunch_mem (s : State) (r : Record) (record : Addr) (job : Nat) : (s.noteLaunch r record job).mem = s.mem := by
  simp +contextual [State.noteLaunch]

@[simp] theorem State.startJob_memWf (s : State) (r : Record) (t : Tables) (die pool : Nat) (record : Addr) (hs : memWf s.mem = true) :
    memWf (s.startJob r t die pool record).mem = true := by
  simp only [State.startJob, State.fileStatus_mem, State.equalise_mem, State.setDie_mem, State.freePool_mem]
  refine foldl_memWf (fun u w h => ?_) _ (foldl_memWf (fun u x h => ?_) _ (foldl_memWf (fun u i h => ?_) _ ?_))
  · rw [State.onCore_mem _ _ _ fun v => State.putEntry_mem _ _ _]
    exact h
  · simpa using h
  · rw [State.onCore_mem _ _ _ fun v => ?_, State.cull_mem]
    · exact State.loadPad_memWf _ _ _ h
    · exact foldl_mem (fun t k => by split <;> simp) _ _
  · simpa using hs

@[simp] theorem State.rejectJob_mem (s : State) (die pool : Nat) (record : Addr) (code box : Nat) :
    (s.rejectJob die pool record code box).mem = s.mem := rfl

theorem execJobStart_memWf {die pool : Nat} {s t : State} (h : execJobStart die pool s = .next t) (hs : memWf s.mem = true) :
    memWf t.mem = true := by
  cases h
  (repeat' split) <;> simp [hs]

@[simp] theorem State.reclaim_mem (s : State) (j : Job) : (s.reclaim j).mem = s.mem := by
  refine foldl_mem (fun u c => ?_) _ s
  split
  · simp [State.modCore_mem]
  · rfl

theorem execJobCompletionCheck_memWf {job : Nat} {s t : State} (h : execJobCompletionCheck job s = .next t) (hs : memWf s.mem = true) :
    memWf t.mem = true := by
  cases h
  grind [State.reclaim_mem, State.vPut_memWf, State.fileStatus_mem, getD_memWf]

@[simp] theorem State.setLaunchPage_mem (s : State) (p : Nat) (x : LaunchPage) : (s.setLaunchPage p x).mem = s.mem := rfl

@[simp] theorem State.admitSlots_mem (s : State) (p n : Nat) : (s.admitSlots p n).mem = s.mem := by
  induction n generalizing s with
  | zero => conv_lhs => arg 1; whnf
  | succ n ih =>
    conv_lhs => arg 1; whnf
    split
    · rfl
    · split
      · simp
      · split
        · rfl
        · dsimp only
          split
          · simp [ih]
          · split
            · simp [ih]
            · split
              · rfl
              · rename_i h
                simp [ih, State.admitRecord_mem h]

@[simp] theorem State.ringDoorbell_mem (s : State) (p : Nat) (n : DWord) : (s.ringDoorbell p n).mem = s.mem := by
  unfold State.ringDoorbell
  grind [State.fileStatus_mem, State.admitSlots_mem, State.setLaunchPage_mem]

/-! ### The operations of Machine/Active.lean -/

@[simp] theorem State.answerFrom_mem (s : State) (src : Nat) (i : Issuer) (r : Result) : (s.answerFrom src i r).mem = s.mem := by
  unfold State.answerFrom
  split <;> simp

@[simp] theorem State.refuseFrom_mem (s : State) (src : Nat) (i : Issuer) (addr : DWord) (code : Nat) :
    (s.refuseFrom src i addr code).mem = s.mem := by simp [State.refuseFrom]

@[simp] theorem State.atOwner_memWf (s : State) (i : Issuer) (a : Access) (off : Nat) (hs : memWf s.mem = true) :
    memWf (s.atOwner i a off).mem = true := by
  unfold State.atOwner
  grind [State.answer_mem, State.atBank_memWf, State.countConsume_mem, State.retest_memWf, State.recordWaiter_mem, State.send_mem]

@[simp] theorem State.noteSlot6_mem (s : State) : (s.noteSlot6).mem = s.mem := rfl

@[simp] theorem State.atSlot6_memWf (s : State) (i : Issuer) (a : Access) (hs : memWf s.mem = true) : memWf (s.atSlot6 i a).mem = true := by
  unfold State.atSlot6
  grind [State.atOwner_memWf, State.noteSlot6_mem, State.sendTo_mem]

@[simp] theorem State.notifyPut_mem (s : State) (page reg : Nat) (w : DWord) : (s.notifyPut page reg w).mem = s.mem := by
  unfold State.notifyPut
  grind [State.sendFrom_mem, State.setLaunchPage_mem]

@[simp] theorem State.notifyWritten_mem (s : State) (page reg : Nat) (w : DWord) (fromHost : Bool) :
    (s.notifyWritten page reg w fromHost).mem = s.mem := by
  unfold State.notifyWritten
  split <;> simp

@[simp] theorem State.atNotify_mem (s : State) (i : Issuer) (a : Access) (page reg : Nat) : (s.atNotify i a page reg).mem = s.mem := by
  unfold State.atNotify
  grind [State.notifyPut_mem, State.answerFrom_mem, State.refuseFrom_mem]

@[simp] theorem State.atWindow_mem (s : State) (i : Issuer) (a : Access) : (s.atWindow i a).mem = s.mem := by
  unfold State.atWindow
  (repeat' split) <;> simp

@[simp] theorem State.atOffice_mem (s : State) (i : Issuer) (a : Access) : (s.atOffice i a).mem = s.mem := by
  unfold State.atOffice
  (repeat' split) <;> simp

theorem execActiveMessage_memWf {f : Issuer} {a : Access} {s t : State} (h : execActiveMessage f a s = .next t) (hs : memWf s.mem = true) :
    memWf t.mem = true := by
  cases h
  grind [State.onCore_memWf, State.atSlot6_memWf, State.atWindow_mem, State.atOffice_mem, State.atNotify_mem, State.refuseFrom_mem]

@[simp] theorem State.farReply_mem (s : State) (ent : Nat) (r : Result) : (s.farReply ent r).mem = s.mem := by simp [State.farReply]

theorem execRemoteReply_memWf {who : Who} {op : Nat} {r : Result} {s t : State} (h : execRemoteReply who op r s = .next t)
    (hs : memWf s.mem = true) : memWf t.mem = true := by
  cases h
  grind [State.farReply_mem, State.onCore_memWf, State.forkReply_memWf, State.countConsume_mem, State.remoteReply_memWf, State.flushed_mem,
    State.flightReply_memWf]

theorem execShipReply_memWf {q : Req} {r : Rep} {s t : State} (h : execShipReply q r s = .next t) (hs : memWf s.mem = true) :
    memWf t.mem = true := by
  cases h
  grind [State.farReply_mem, State.onCore_memWf, State.shipReply_memWf]

/-! ### The operations of Machine/Office.lean -/

@[simp] theorem State.streamDeliver_mem (s : State) (link stream : Nat) (b : Body) : (s.streamDeliver link stream b).mem = s.mem := by
  unfold State.streamDeliver
  split <;> simp

@[simp] theorem State.streamFrameIn_mem (s : State) (f : Frame) : (s.streamFrameIn f).mem = s.mem := by
  unfold State.streamFrameIn
  grind [State.streamDeliver_mem]

theorem execCreditOrAcknowledgement_mem {f : Frame} {s t : State} (h : execCreditOrAcknowledgement f s = .next t) : t.mem = s.mem := by
  cases h
  (repeat' split) <;> simp

@[simp] theorem State.replyTo_mem (s : State) (f : Frame) (addr code : Nat) (data : List Byte) : (s.replyTo f addr code data).mem = s.mem := by
  simp [State.replyTo]

theorem State.toPad_mem {s : State} {c off n len : Nat} {t : State} (h : s.toPad c off n len = some t) : t.mem = s.mem := by
  unfold State.toPad at h
  grind [State.cross_mem]

theorem State.farPad_memWf {s : State} {f : Frame} {c off : Nat} {t : State} (h : s.farPad f c off = some t) (hs : memWf s.mem = true) :
    memWf t.mem = true := by
  unfold State.farPad at h
  grind [State.toPad_mem, State.replyTo_mem, State.spWrite_memWf, State.cross_mem, Option.map_eq_some_iff, Option.bind_eq_some_iff]

theorem State.farWindow_mem {s : State} {f : Frame} {t : State} (h : s.farWindow f = some t) : t.mem = s.mem := by
  unfold State.farWindow at h
  grind [State.replyTo_mem, State.cross_mem, Option.map_eq_some_iff]

@[simp] theorem State.farOnward_mem (s : State) (f : Frame) : (s.farOnward f).mem = s.mem := by
  unfold State.farOnward
  grind [State.replyTo_mem, State.outFrame_mem]

theorem State.farCopy_memWf {s : State} {f : Frame} {t : State} (h : s.farCopy f = some t) (hs : memWf s.mem = true) : memWf t.mem = true := by
  unfold State.farCopy at h
  grind [State.farPad_memWf, State.edgePut_ok_memWf, State.edgePut_fault_memWf, State.edgeGet_ok_memWf, State.edgeGet_fault_memWf,
    State.replyTo_mem, State.farWindow_mem, State.farOnward_mem]

@[simp] theorem State.farAccess_mem (s : State) (f : Frame) (x : Access) : (s.farAccess f x).mem = s.mem := by
  unfold State.farAccess
  grind [State.replyTo_mem, State.sendFrom_mem]

theorem State.serveRequest_memWf {s : State} {f : Frame} {t : State} (h : s.serveRequest f = some t) (hs : memWf s.mem = true) :
    memWf t.mem = true := by
  unfold State.serveRequest at h
  grind [State.replyTo_mem, State.farAccess_mem, State.farCopy_memWf]

theorem State.serveWrite_memWf {s : State} {f : Frame} {t : State} (h : s.serveWrite f = some t) (hs : memWf s.mem = true) :
    memWf t.mem = true := by
  unfold State.serveWrite at h
  grind [State.replyTo_mem, State.streamDeliver_mem, State.edgePut_ok_memWf, State.spWrite_memWf, State.toPad_mem, Option.map_eq_some_iff]

theorem execAccessReply_mem {f : Frame} {s t : State} (h : execAccessReply f s = .next t) : t.mem = s.mem := by
  cases h
  grind [State.answerFrom_mem, State.sendFrom_mem]

@[simp] theorem State.dropFlights_mem (s : State) (c link : Nat) : (s.dropFlights c link).mem = s.mem := by
  simp +contextual [State.dropFlights]

theorem execLinkDown_mem {link : Nat} {s t : State} (h : execLinkDown link s = .next t) : t.mem = s.mem := by
  cases h
  (repeat' split) <;> simp

/-! ### The operations of Machine/HostDie.lean -/

@[simp] theorem State.boxIn_mem (s : State) (m : Nat) (b : Body) : (s.boxIn m b).mem = s.mem := by
  unfold State.boxIn
  grind [State.setBox_mem, State.pumpBox_mem]

@[simp] theorem State.wakeSender_mem (s : State) (m : Nat) : (s.wakeSender m).mem = s.mem := by
  unfold State.wakeSender
  (repeat' split) <;> simp

@[simp] theorem State.boxOut_mem (s : State) (m : Nat) : (s.boxOut m).mem = s.mem := by
  unfold State.boxOut
  split <;> simp

@[simp] theorem State.qhsWrite_mem (s : State) (m : Nat) (w : DWord) : (s.qhsWrite m w).mem = s.mem := by
  unfold State.qhsWrite
  grind [State.setBox_mem, State.modCore_mem]

@[simp] theorem State.barWrite_mem (s : State) (off : Nat) (w : DWord) : (s.barWrite off w).mem = s.mem := by
  unfold State.barWrite
  grind [State.boxIn_mem, State.setBox_mem, State.qhsWrite_mem]

@[simp] theorem State.completeHost_mem (s : State) (data : List Byte) (abort : Bool) : (s.completeHost data abort).mem = s.mem := rfl

theorem State.bar4_memWf {s : State} {off len : Nat} {data : List Byte} {write : Bool} {t : State} (h : s.bar4 off len data write = some t)
    (hs : memWf s.mem = true) : memWf t.mem = true := by
  unfold State.bar4 at h
  grind [State.edgePut_ok_memWf, State.edgePut_fault_memWf, State.edgeGet_ok_memWf, State.edgeGet_fault_memWf, State.completeHost_mem]

theorem State.bar4Atomic_memWf {s : State} {off : Nat} {op : AtomOp} {size : Nat} {a b : DWord} {t : State}
    (h : s.bar4Atomic off op size a b = some t) (hs : memWf s.mem = true) : memWf t.mem = true := by
  unfold State.bar4Atomic at h
  grind [State.completeHost_mem, State.cross_mem, State.dramUpdate_memWf, Option.map_eq_some_iff, Option.bind_eq_some_iff]

theorem State.hostDo_memWf {s : State} {x : Ev} {t : State} (h : s.hostDo x = some t) (hs : memWf s.mem = true) : memWf t.mem = true := by
  unfold State.hostDo at h
  grind [State.boxIn_mem, State.boxOut_mem, State.qhsWrite_mem, State.barWrite_mem, State.notifyWritten_mem, State.bar4_memWf,
    State.bar4Atomic_memWf]

@[simp] theorem State.barsOff_mem (s : State) (x : Ev) : (s.barsOff x).mem = s.mem := by
  unfold State.barsOff
  split <;> simp

@[simp] theorem State.hostTurn_memWf (s : State) (e : Ev) (hs : memWf s.mem = true) : memWf (s.hostTurn e).mem = true := by
  unfold State.hostTurn
  grind [State.barsOff_mem, State.hostDo_memWf, getD_memWf]

@[simp] theorem State.retryHost_memWf (n : Nat) (s : State) (hs : memWf s.mem = true) : memWf (State.retryHost n s).mem = true := by
  induction n generalizing s with
  | zero => exact hs
  | succ n ih =>
    simp only [State.retryHost]
    split
    · exact hs
    · split
      · rename_i h
        exact ih _ (State.hostDo_memWf h (by exact hs))
      · exact hs

theorem execNotifyWrite_memWf {page reg : Nat} {w : DWord} {fromHost : Bool} {s t : State}
    (h : execNotifyWrite page reg w fromHost s = .next t) (hs : memWf s.mem = true) : memWf t.mem = true := by
  cases h
  (repeat' split) <;> simp [hs]

/-! ### The operations of Machine/Collective.lean -/

@[simp] theorem State.setColls_mem (s : State) (l : List Collective) : (s.setColls l).mem = s.mem := rfl

@[simp] theorem State.putColl_mem (s : State) (c : Collective) : (s.putColl c).mem = s.mem := rfl

@[simp] theorem State.collFrame_mem (s : State) (c : Collective) (kind rank : Nat) (data : List Byte) (flags : BitVec 4)
    (commit down : Bool) :
    (s.collFrame c kind rank data flags commit down).mem = s.mem := by
  unfold State.collFrame
  split <;> simp

theorem State.officeWrite_memWf {s : State} {job : Option Nat} {va : Nat} {l : List Byte} {t : State} (h : s.officeWrite job va l = some t)
    (hs : memWf s.mem = true) : memWf t.mem = true := by
  unfold State.officeWrite at h
  grind [State.edgePut_ok_memWf, State.edgePut_fault_memWf]

theorem State.putStatus_memWf {s : State} {block state code : Nat} {flags : BitVec 4} {t : State}
    (h : s.putStatus block state code flags = some t) (hs : memWf s.mem = true) : memWf t.mem = true := by
  unfold State.putStatus at h
  grind [State.officeWrite_memWf]

@[simp] theorem State.notice_mem (s : State) (job : Option Nat) (target : Option (Nat × Nat)) (seq state code : Nat) (flags : BitVec 4) :
    (s.notice job target seq state code flags).mem = s.mem := by
  unfold State.notice
  split <;> simp

@[simp] theorem State.timeoutTrap_memWf (s : State) (c : Collective) (hs : memWf s.mem = true) : memWf (s.timeoutTrap c).mem = true := by
  unfold State.timeoutTrap
  grind [State.onCore_memWf, State.coreTrap_mem, State.raiseAsync_memWf]

@[simp] theorem State.completeLater_mem (s : State) (c : Collective) : (s.completeLater c).mem = s.mem := rfl

@[simp] theorem State.abortColl_mem (s : State) (c : Collective) : (s.abortColl c).mem = s.mem := by simp +contextual [State.abortColl]

@[simp] theorem State.tellAbort_mem (s : State) (c : Collective) (f : Frame) : (s.tellAbort c f).mem = s.mem := by simp [State.tellAbort]

@[simp] theorem State.commitColl_mem (s : State) (c : Collective) (flags : BitVec 4) : (s.commitColl c flags).mem = s.mem := by
  simp +contextual [State.commitColl]

@[simp] theorem State.resultColl_mem (s : State) (c : Collective) (r : List Byte × BitVec 4) : (s.resultColl c r).mem = s.mem := by
  unfold State.resultColl
  dsimp only
  split <;> simp

@[simp] theorem State.advanceColl_mem (s : State) (c : Collective) : (s.advanceColl c).mem = s.mem := by
  unfold State.advanceColl
  (repeat' split) <;> simp

theorem State.rejectColl_memWf {s : State} {b : Block} {block code : Nat} {job : Option Nat} {t : State}
    (h : s.rejectColl b block code job = some t) (hs : memWf s.mem = true) : memWf t.mem = true := by
  unfold State.rejectColl at h
  grind [State.notice_mem, State.putStatus_memWf, Option.map_eq_some_iff]

@[simp] theorem State.collData_mem (s : State) (c : Collective) (f : Frame) (down : Bool) (flags : BitVec 4) :
    (s.collData c f down flags).mem = s.mem := by
  unfold State.collData
  grind [State.tellAbort_mem, State.resultColl_mem, State.putColl_mem, State.advanceColl_mem]

@[simp] theorem State.collControl_mem (s : State) (c : Collective) (f : Frame) (commit down : Bool) :
    (s.collControl c f commit down).mem = s.mem := by
  unfold State.collControl
  (repeat' split) <;> simp

@[simp] theorem State.collArrive_mem (s : State) (e : Ev) : (s.collArrive e).mem = s.mem := by
  unfold State.collArrive
  (repeat' split) <;> simp

@[simp] theorem State.replayEarly_mem (s : State) (comm seq : Nat) : (s.replayEarly comm seq).mem = s.mem := by
  simp +contextual [State.replayEarly]

theorem State.submitColl_memWf {s : State} {block : Addr} {who : Who} {job : Option Nat} {t : State}
    (h : s.submitColl block who job = some t) (hs : memWf s.mem = true) : memWf t.mem = true := by
  unfold State.submitColl at h
  grind [State.vNote_mem, State.rejectColl_memWf, State.modJob_mem, State.abortColl_mem, State.replayEarly_mem, State.advanceColl_mem,
    State.putColl_mem, State.officeWrite_memWf, Option.map_eq_some_iff]

theorem State.frameGo_memWf {s : State} {x : Ev} {t : State} (h : s.frameGo x = some t) (hs : memWf s.mem = true) : memWf t.mem = true := by
  unfold State.frameGo at h
  grind [State.streamFrameIn_mem, State.serveRequest_memWf, State.serveWrite_memWf, State.submitColl_memWf]

@[simp] theorem State.takeFrame_memWf (s : State) (link : Nat) (e : Ev) (hs : memWf s.mem = true) : memWf (s.takeFrame link e).mem = true := by
  unfold State.takeFrame
  grind [State.frameGo_memWf, getD_memWf]

@[simp] theorem State.retryLink_memWf (n : Nat) (s : State) (link : Nat) (hs : memWf s.mem = true) :
    memWf (State.retryLink n s link).mem = true := by
  induction n generalizing s with
  | zero => exact hs
  | succ n ih =>
    simp only [State.retryLink]
    split
    · exact hs
    · split
      · rename_i h
        exact ih _ (State.frameGo_memWf h (by exact hs))
      · exact hs

@[simp] theorem State.retryFrames_memWf (s : State) (hs : memWf s.mem = true) : memWf (s.retryFrames).mem = true := foldl_memWf (fun _ _ h => State.retryLink_memWf _ _ _ h) _ hs

theorem State.submitFlush_mem {s : State} {who : Who} {t : State} {a : Nat} (h : s.submitFlush who = some (a, t)) : t.mem = s.mem := by
  unfold State.submitFlush at h
  grind [State.startFlush_mem]

theorem execCollectiveSubmit_memWf {block : Addr} {who : Who} {job : Option Nat} {s t : State}
    (h : execCollectiveSubmit block who job s = .next t) (hs : memWf s.mem = true) : memWf t.mem = true := by
  cases h
  grind [State.submitFlush_mem, State.sendFrom_mem, State.takeFrame_memWf]

theorem State.endColl_memWf {s : State} {c : Collective} {ok : Bool} {flags : BitVec 4} {t : State} (h : s.endColl c ok flags = some t)
    (hs : memWf s.mem = true) : memWf t.mem = true := by
  unfold State.endColl at h
  grind [State.notice_mem, State.putColl_mem, State.timeoutTrap_memWf, State.putStatus_memWf, Option.map_eq_some_iff]

theorem State.putResult_memWf {s : State} {c : Collective} {t : State} (h : s.putResult c = some t) (hs : memWf s.mem = true) :
    memWf t.mem = true := by
  unfold State.putResult at h
  grind [State.officeWrite_memWf]

theorem execCollectiveComplete_memWf {comm seq : Nat} {s t : State} (h : execCollectiveComplete comm seq s = .next t)
    (hs : memWf s.mem = true) : memWf t.mem = true := by
  cases h
  grind [State.putResult_memWf, State.endColl_memWf, State.completeLater_mem, Option.bind_eq_some_iff, getD_memWf]

theorem execCollectiveLimitExpiry_mem {comm seq : Nat} {s t : State} (h : execCollectiveLimitExpiry comm seq s = .next t) : t.mem = s.mem := by
  cases h
  (repeat' split) <;> simp

theorem execCollectiveRecordExpiry_mem {comm seq : Nat} {s t : State} (h : execCollectiveRecordExpiry comm seq s = .next t) :
    t.mem = s.mem := by
  cases h
  (repeat' split) <;> simp

/-! ### The operations of Machine/Command.lean -/

theorem State.command_memWf {s t : State} {c : Cmd} {op : Nat} {n : Names} {k : CmdArgs → State → State} (h : s.command c op n k = .next t)
    (hk : ∀ a u, memWf u.mem = true → memWf (k a u).mem = true) (hs : memWf s.mem = true) : memWf t.mem = true := by
  cases h
  split
  · exact hs
  · dsimp only
    split
    · exact State.finishCmd_memWf _ _ _ hs
    · have hn : memWf (({ s with mgmt := { s.mgmt with cmds := s.mgmt.cmds.tail } } : State).vNote c.block.toNat 64).mem = true := by simpa using hs
      split
      · exact State.finishCmd_memWf _ _ _ hn
      · split
        · exact State.finishCmd_memWf _ _ _ hn
        · exact hk _ _ hn

@[simp] theorem State.retryCmd_mem (s : State) (c : Cmd) : (s.retryCmd c).mem = s.mem := rfl

@[simp] theorem State.holdCmd_mem (s : State) (c : Cmd) : (s.holdCmd c).mem = s.mem := rfl

theorem execUrgent_memWf {c : Cmd} {s t : State} (h : execUrgent c s = .next t) (hs : memWf s.mem = true) : memWf t.mem = true := by
  refine State.command_memWf h (fun a u hu => ?_) hs
  grind [State.finishCmd_memWf, State.modCore_mem, State.holdCmd_mem]

theorem execSetclock_memWf {c : Cmd} {s t : State} (h : execSetclock c s = .next t) (hs : memWf s.mem = true) : memWf t.mem = true := by
  refine State.command_memWf h (fun a u hu => ?_) hs
  (repeat' split) <;> simp [hu]

theorem execSetcap_memWf {c : Cmd} {s t : State} (h : execSetcap c s = .next t) (hs : memWf s.mem = true) : memWf t.mem = true := by
  refine State.command_memWf h (fun a u hu => ?_) hs
  (repeat' split) <;> simp [hu]

theorem execReccfg_memWf {c : Cmd} {s t : State} (h : execReccfg c s = .next t) (hs : memWf s.mem = true) : memWf t.mem = true := by
  refine State.command_memWf h (fun a u hu => ?_) hs
  grind [State.finishCmd_memWf, State.vPut_memWf, State.setDie_mem, getD_memWf]

@[simp] theorem State.clearCounters_mem (s : State) (kind die : Nat) : (s.clearCounters kind die).mem = s.mem := by
  unfold State.clearCounters
  (repeat' split) <;> simp

theorem execCounters_memWf {c : Cmd} {s t : State} (h : execCounters c s = .next t) (hs : memWf s.mem = true) : memWf t.mem = true := by
  refine State.command_memWf h (fun a u hu => ?_) hs
  grind [State.finishCmd_memWf, State.vPut_memWf, State.clearCounters_mem]

@[simp] theorem State.setTable_mem (s : State) (a : CmdArgs) : (s.setTable a).mem = s.mem := by
  unfold State.setTable
  split <;> simp

theorem execSettable_memWf {c : Cmd} {s t : State} (h : execSettable c s = .next t) (hs : memWf s.mem = true) : memWf t.mem = true := by
  refine State.command_memWf h (fun a u hu => ?_) hs
  (repeat' split) <;> simp [hu]

/-! ### The operations of Machine/Control.lean -/

theorem execBr_memWf {c : Cond} {a : Reg} {off : BitVec 16} {s t : State} (h : execBr c a off s = .next t) (hs : memWf s.mem = true) :
    memWf t.mem = true := by
  refine State.issue_memWf h (fun vs u hu => ?_) hs
  (repeat' split) <;> simp [hu]

theorem execBra_memWf {off : BitVec 16} {s t : State} (h : execBra off s = .next t) (hs : memWf s.mem = true) : memWf t.mem = true := by
  refine State.issue_memWf h (fun vs u hu => ?_) hs
  simp [hu]

theorem execCall_memWf {d : Reg} {imm : BitVec 20} {s t : State} (h : execCall d imm s = .next t) (hs : memWf s.mem = true) :
    memWf t.mem = true := by
  refine State.issue_memWf h (fun vs u hu => ?_) hs
  simp [hu]

theorem State.jumpReg_memWf {s : State} {d : Option Reg} {a : Reg} {t : State} (h : s.jumpReg d a = .next t) (hs : memWf s.mem = true) :
    memWf t.mem = true := by
  unfold State.jumpReg at h
  grind [State.issue_memWf, State.raise_memWf, State.writeReg_mem, State.jumpTo_mem]

@[simp] theorem State.setP7_mem (s : State) (v : DWord) : (s.setP7 v).mem = s.mem := rfl

theorem execLoop_memWf {a : Reg} {off : BitVec 16} {s t : State} (h : execLoop a off s = .next t) (hs : memWf s.mem = true) :
    memWf t.mem = true := by
  unfold execLoop at h
  grind [State.raise_memWf, State.issue_memWf, State.jumpTo_mem, State.setP7_mem]

theorem State.hint_mem {s : State} {f : Hints → Hints} {t : State} (h : s.hint f = .next t) : t.mem = s.mem := by
  unfold State.hint at h
  grind [State.setPc_mem, State.setMe_mem]

/-! ### The operations of Machine/Float.lean -/

theorem State.floating_memWf {s : State} {reads : List Reg} {d : Reg} {f : List DWord → Nat × BitVec 7} {t : State}
    (h : s.floating reads d f = .next t) (hs : memWf s.mem = true) : memWf t.mem = true := by
  unfold State.floating at h
  grind [State.issue_memWf, State.advance_mem, State.writeReg_mem, State.setCtx_mem, State.stall_mem, State.raise_memWf]

/-! ### The operations of Machine/Integer.lean -/

theorem State.divide_memWf {s : State} {d a b : Reg} {f : DWord → DWord → DWord} {t : State} (h : s.divide d a b f = .next t)
    (hs : memWf s.mem = true) : memWf t.mem = true := by
  unfold State.divide at h
  grind [State.issue_memWf, State.raise_memWf, State.done_memWf]

/-! ### The operations of Machine/Vector.lean -/

@[simp] theorem State.setV_mem (s : State) (d : VReg) (v : VWord) : (s.setV d v).mem = s.mem := rfl

@[simp] theorem State.setVLane_mem (s : State) (d : VReg) (w i x : Nat) : (s.setVLane d w i x).mem = s.mem := rfl

@[simp] theorem State.takeVec_mem (s : State) : (s.takeVec).mem = s.mem := rfl

theorem State.vecIssue_memWf {s t : State} {o : Opnds} {k : List DWord → State → State} (h : s.vecIssue o k = .next t)
    (hk : ∀ vs u, memWf u.mem = true → memWf (k vs u).mem = true) (hs : memWf s.mem = true) : memWf t.mem = true := by
  refine State.issue_memWf h (fun vs u hu => ?_) hs
  split
  · simpa using hs
  · exact hk _ _ (by simpa using hu)

theorem State.lanewise_memWf {s : State} {t : Ty} {d a b : VReg} {f : Nat → Nat → Nat → Nat × BitVec 7} {u : State}
    (h : s.lanewise t d a b f = .next u) (hs : memWf s.mem = true) : memWf u.mem = true := by
  unfold State.lanewise at h
  grind [State.vecIssue_memWf, State.advance_mem, State.setCtx_mem, State.setV_mem]

theorem execVld_memWf {d : VReg} {a : Reg} {off : BitVec 12} {s t : State} (h : execVld d a off s = .next t) (hs : memWf s.mem = true) :
    memWf t.mem = true := by
  refine State.vecIssue_memWf h (fun vs u hu => ?_) hs
  (repeat' split) <;> simp [hs, hu]

theorem execVst_memWf {d : VReg} {a : Reg} {off : BitVec 12} {s t : State} (h : execVst d a off s = .next t) (hs : memWf s.mem = true) :
    memWf t.mem = true := by
  refine State.vecIssue_memWf h (fun vs u hu => ?_) hs
  (repeat' split) <;> simp [hs, hu]

theorem State.vecStart_memWf {s : State} {ins : Instr} {n : Nat} {reads : List Reg} {data off : VWord} {t : State}
    (h : s.vecStart ins n reads data off = .next t) (hs : memWf s.mem = true) : memWf t.mem = true := by
  unfold State.vecStart at h
  grind [State.vecIssue_memWf, State.startRun_memWf, State.advance_mem]

theorem State.laneLoad_mem {s : State} {t : Ty} {d : VReg} {k : Nat} {ea : DWord} {clear : Bool} {u : State}
    (h : s.laneLoad t d k ea clear = .inl u) :
    u.mem = s.mem := by
  unfold State.laneLoad at h
  grind [State.setVLane_mem, State.later_mem]

theorem State.laneStore_memWf {s : State} {t : Ty} {v : VWord} {k : Nat} {ea : DWord} {u : State} (h : s.laneStore t v k ea = .inl u)
    (hs : memWf s.mem = true) : memWf u.mem = true := by
  unfold State.laneStore at h
  grind [State.spWrite_memWf]

theorem State.vecElement_memWf {s : State} {r : ElemRun} {t : State} (h : s.vecElement r = .inl t) (hs : memWf s.mem = true) :
    memWf t.mem = true := by
  unfold State.vecElement at h
  grind [State.laneLoad_mem, State.laneStore_memWf]

@[simp] theorem State.vecElem_memWf (s : State) (r : ElemRun) (hs : memWf s.mem = true) : memWf (s.vecElem r).mem = true := by
  unfold State.vecElem
  grind [State.vecElement_memWf, State.stepRun_memWf, State.setMe_mem, State.advance_mem, State.raiseElem_memWf, State.stall_mem]

theorem State.reduce_memWf {s : State} {d : Reg} {r : Nat × BitVec 7} {t : State} (h : s.reduce d r = .next t) (hs : memWf s.mem = true) :
    memWf t.mem = true := by
  unfold State.reduce at h
  grind [State.vecIssue_memWf, State.done_memWf, State.setCtx_mem]

theorem execVshf_memWf {t : Ty} {d a b : VReg} {s u : State} (h : execVshf t d a b s = .next u) (hs : memWf s.mem = true) :
    memWf u.mem = true := by
  refine State.vecIssue_memWf h (fun vs u hu => ?_) hs
  simp [hu]

theorem execVbcast_memWf {t : Ty} {d : VReg} {a : Reg} {s u : State} (h : execVbcast t d a s = .next u) (hs : memWf s.mem = true) :
    memWf u.mem = true := by
  refine State.vecIssue_memWf h (fun vs u hu => ?_) hs
  simp [hu]

theorem execVext_memWf {d : Reg} {a : VReg} {n : BitVec 3} {s t : State} (h : execVext d a n s = .next t) (hs : memWf s.mem = true) :
    memWf t.mem = true := by
  refine State.vecIssue_memWf h (fun vs u hu => ?_) hs
  simp [hs, hu]

theorem execVins_memWf {d : VReg} {a : Reg} {n : BitVec 3} {s t : State} (h : execVins d a n s = .next t) (hs : memWf s.mem = true) :
    memWf t.mem = true := by
  refine State.vecIssue_memWf h (fun vs u hu => ?_) hs
  simp [hu]

theorem execVcvt_memWf {dty sty : Ty} {d a : VReg} {s t : State} (h : execVcvt dty sty d a s = .next t) (hs : memWf s.mem = true) :
    memWf t.mem = true := by
  unfold execVcvt at h
  grind [State.raise_memWf, State.vecIssue_memWf, State.advance_mem, State.setCtx_mem, State.setV_mem]

/-! ### The operations of Machine/Matrix.lean -/

@[simp] theorem State.setPlane_mem (s : State) (shadow : Bool) (p : Plane) : (s.setPlane shadow p).mem = s.mem := rfl

theorem State.byteBar_ne_ok {s t : State} {read : Bool} {x : Nat × Nat} : s.byteBar read x ≠ some (.ok t) := by
  unfold State.byteBar
  split
  · simp
  · split <;> simp

theorem State.rowBar_ne_ok {s t : State} {bf : Vector Word 8} {r : Shape} {i k0 n : Nat} {scales read : Bool} :
    s.rowBar bf r i k0 n scales read ≠ some (.ok t) := by
  unfold State.rowBar
  split
  · simp
  · intro h
    obtain ⟨x, -, hx⟩ := List.exists_of_findSome?_eq_some h
    exact State.byteBar_ne_ok hx

theorem State.wholeRow_ne_ok {s t : State} {bf : Vector Word 8} {r : Shape} {i : Nat} {read : Bool} :
    s.wholeRow bf r i read ≠ some (.ok t) := State.rowBar_ne_ok

@[simp] theorem State.addExc_mem (s : State) (k : Counts) : (s.addExc k).mem = s.mem := by
  unfold State.addExc
  rfl

theorem State.mwldElem_mem {s t : State} {user : Bool} {r : ElemRun} {a : Shape} (h : s.mwldElem user r a = .ok t) : t.mem = s.mem := by
  unfold State.mwldElem at h
  split at h
  · rename_i hb
    subst h
    exact absurd hb State.rowBar_ne_ok
  · cases h
    rfl

@[simp] theorem State.putRow_memWf (s : State) (y : Shape) (i : Nat) (vs : List (Nat × Counts)) (hs : memWf s.mem = true) :
    memWf (s.putRow y i vs).mem = true := by simp +contextual [State.putRow, hs]

theorem State.mstrmElem_memWf {s t : State} {sh : Bool} {r : ElemRun} {x y : Shape} (h : s.mstrmElem sh r x y = .ok t)
    (hs : memWf s.mem = true) : memWf t.mem = true := by
  unfold State.mstrmElem at h
  split at h
  · rename_i hb
    subst h
    exact absurd hb State.wholeRow_ne_ok
  · rename_i hb
    subst h
    exact absurd hb State.wholeRow_ne_ok
  · cases h
    exact State.putRow_memWf _ _ _ _ hs

theorem State.mmulElem_memWf {s t : State} {sh : Bool} {r : ElemRun} {a b c : Shape} (h : s.mmulElem sh r a b c = .ok t)
    (hs : memWf s.mem = true) : memWf t.mem = true := by
  unfold State.mmulElem at h
  dsimp only at h
  split at h
  · rename_i hb
    subst h
    split at hb
    · obtain ⟨j, -, hj⟩ := List.exists_of_findSome?_eq_some hb
      exact absurd hj State.rowBar_ne_ok
    · cases hb
  · rename_i hb
    subst h
    exact absurd hb State.rowBar_ne_ok
  · rename_i hb
    subst h
    exact absurd hb State.wholeRow_ne_ok
  · cases h
    refine State.putRow_memWf _ _ _ _ ?_
    split <;> simpa using hs

theorem State.mrdElem_memWf {s t : State} {sh : Bool} {r : ElemRun} {a : Shape} (h : s.mrdElem sh r a = .ok t) (hs : memWf s.mem = true) :
    memWf t.mem = true := by
  unfold State.mrdElem at h
  dsimp only at h
  split at h
  · rename_i hb
    subst h
    split at hb
    · exact absurd hb State.byteBar_ne_ok
    · exact absurd hb State.wholeRow_ne_ok
  · split at h
    · cases h
      split
      · exact foldl_memWf (fun t b ht => State.spWrite_memWf _ _ _ _ ht) _ (State.spWrite_memWf _ _ _ _ hs)
      · exact State.spWrite_memWf _ _ _ _ hs
    · cases h
      have hw (l : List Byte) (k : Counts) : memWf ((s.spWrite s.cid (rowOff a r.k) l).addExc k).mem = true := by
        rw [State.addExc_mem]
        exact State.spWrite_memWf _ _ _ _ hs
      split
      · exact foldl_memWf (fun t b ht => State.spWrite_memWf _ _ _ _ ht) _ (hw _ _)
      · exact hw _ _

theorem State.matStep_memWf {s t : State} {op : MatOp} {user : Bool} {r : ElemRun} (h : s.matStep op user r = .ok t)
    (hs : memWf s.mem = true) : memWf t.mem = true := by
  unfold State.matStep at h
  split at h
  · rwa [State.mwldElem_mem h]
  · exact State.mstrmElem_memWf h hs
  · exact State.mmulElem_memWf h hs
  · exact State.mrdElem_memWf h hs
  · cases h

@[simp] theorem State.matEnd_mem (s : State) (op : MatOp) (user : Bool) (r : ElemRun) : (s.matEnd op user r).mem = s.mem := by
  unfold State.matEnd
  (repeat' split) <;> simp

theorem State.matIssue_memWf {s t : State} {o : Opnds} {k : List DWord → State → State} (h : s.matIssue o k = .next t)
    (hk : ∀ vs u, memWf u.mem = true → memWf (k vs u).mem = true) (hs : memWf s.mem = true) : memWf t.mem = true := by
  refine State.issue_memWf h (fun vs u hu => ?_) hs
  split
  · simpa using hs
  · exact hk _ _ hu

@[simp] theorem State.setMatAt_mem (s : State) (n : Nat) : (s.setMatAt n).mem = s.mem := rfl

@[simp] theorem State.paced_mem (s : State) (user : Bool) (r : ElemRun) : (s.paced user r).mem = s.mem := by
  unfold State.paced
  split <;> simp

@[simp] theorem State.takeUnit_mem (s : State) (lost : Bool) : (s.takeUnit lost).mem = s.mem := by
  unfold State.takeUnit
  (repeat' split) <;> simp

@[simp] theorem State.matStart_memWf (s s' : State) (ins : Instr) (op : MatOp) (handles vals : List DWord) (hs : memWf s.mem = true)
    (hs' : memWf s'.mem = true) : memWf (s.matStart s' ins op handles vals).mem = true := by
  unfold State.matStart
  grind [State.raiseMacro_memWf, State.dropFailed_mem, State.stall_mem, State.wantShape_mem, State.raise_memWf, State.startRun_memWf,
    State.takeUnit_mem, State.advance_mem, State.setMatAt_mem, State.setMe_mem]

theorem execMwld_memWf {a : Reg} {s t : State} (h : execMwld a s = .next t) (hs : memWf s.mem = true) : memWf t.mem = true := by
  refine State.matIssue_memWf h (fun vs u hu => ?_) hs
  (repeat' split) <;> simp [hs, hu]

theorem execMstrm_memWf {a b : Reg} {s t : State} (h : execMstrm a b s = .next t) (hs : memWf s.mem = true) : memWf t.mem = true := by
  refine State.matIssue_memWf h (fun vs u hu => ?_) hs
  simp [hs, hu]

theorem execMmul_memWf {d a b : Reg} {s t : State} (h : execMmul d a b s = .next t) (hs : memWf s.mem = true) : memWf t.mem = true := by
  refine State.matIssue_memWf h (fun vs u hu => ?_) hs
  simp [hs, hu]

theorem execMrd_memWf {d a : Reg} {s t : State} (h : execMrd d a s = .next t) (hs : memWf s.mem = true) : memWf t.mem = true := by
  refine State.matIssue_memWf h (fun vs u hu => ?_) hs
  simp [hs, hu]

theorem State.swapPlanes_mem {s t : State} (h : s.swapPlanes = .ok t) : t.mem = s.mem := by
  unfold State.swapPlanes at h
  dsimp only at h
  split at h
  · cases h
    rfl
  · split at h
    · cases h
      rfl
    · split at h
      · rename_i hb
        subst h
        obtain ⟨j, -, hj⟩ := List.exists_of_findSome?_eq_some hb
        exact absurd hj State.rowBar_ne_ok
      · cases h
        rfl

theorem execMswap_memWf {s t : State} (h : execMswap s = .next t) (hs : memWf s.mem = true) : memWf t.mem = true := by
  refine State.matIssue_memWf h (fun vs u hu => ?_) hs
  grind [State.raise_memWf, State.swapPlanes_mem, State.advance_mem, State.stall_mem]

theorem execMzero_memWf {s t : State} (h : execMzero s = .next t) (hs : memWf s.mem = true) : memWf t.mem = true := by
  refine State.matIssue_memWf h (fun vs u hu => ?_) hs
  simp [hu]

@[simp] theorem State.matElem_memWf (s : State) (r : ElemRun) (op : MatOp) (hs : memWf s.mem = true) : memWf (s.matElem r op).mem = true := by
  unfold State.matElem
  grind [State.matStep_memWf, State.raiseElem_memWf, State.stepRun_memWf, State.matEnd_mem, State.raise_memWf, State.advance_mem,
    State.writeReg_mem]

theorem execMatrixResume_mem {s t : State} (h : execMatrixResume s = .next t) : t.mem = s.mem := by
  cases h
  grind [State.setMatAt_mem]

theorem execMscl_memWf {d a : Reg} {s t : State} (h : execMscl d a s = .next t) (hs : memWf s.mem = true) : memWf t.mem = true := by
  refine State.issue_memWf h (fun vs u hu => ?_) hs
  grind [State.raise_memWf, State.sendTo_mem, State.holdSlot_mem]

theorem execScaleKeeperOp_mem {who : Who} {op : Nat} {index value : BitVec 8} {wr : Bool} {s t : State}
    (h : execScaleKeeperOp who op index value wr s = .next t) :
    t.mem = s.mem := by
  cases h
  grind [State.send_mem]

@[simp] theorem State.keeperReply_memWf (s : State) (who : Who) (op : Nat) (v : DWord) (hs : memWf s.mem = true) :
    memWf (s.keeperReply who op v).mem = true := by
  unfold State.keeperReply
  grind [State.finishWait_memWf, State.send_mem]

theorem execMsclReply_memWf {who : Who} {op : Nat} {v : DWord} {s t : State} (h : execMsclReply who op v s = .next t)
    (hs : memWf s.mem = true) : memWf t.mem = true := by
  cases h
  grind [State.onCore_memWf, State.keeperReply_memWf]

theorem execMcmd_memWf {d a b : Reg} {s t : State} (h : execMcmd d a b s = .next t) (hs : memWf s.mem = true) : memWf t.mem = true := by
  refine State.issue_memWf h (fun vs u hu => ?_) hs
  grind [State.raise_memWf, State.stall_mem, State.done_memWf, State.advance_mem, State.writeReg_mem, State.sendFrom_mem,
    State.countSend_mem]

@[simp] theorem State.mcmdAnswer_mem (s : State) (m : MatCmd) (code k : Nat) (addr : DWord) : (s.mcmdAnswer m code k addr).mem = s.mem := by
  simp [State.mcmdAnswer]

@[simp] theorem State.nextCmd_mem (s : State) : (s.nextCmd).mem = s.mem := by
  unfold State.nextCmd
  dsimp only
  (repeat' split) <;> try simp
  rename_i h
  simp [State.swapPlanes_mem h]

theorem execMcmdArrival_mem {m : MatCmd} {s t : State} (h : execMcmdArrival m s = .next t) : t.mem = s.mem := by
  cases h
  (repeat' split) <;> simp

@[simp] theorem State.cmdElem_memWf (s : State) (hs : memWf s.mem = true) : memWf (s.cmdElem).mem = true := by
  unfold State.cmdElem
  grind [State.nextCmd_mem, State.mcmdAnswer_mem, State.matStep_memWf, State.paced_mem, State.matEnd_mem]

@[simp] theorem State.cmdResult_memWf (s : State) (who : Who) (tag code k : Nat) (hs : memWf s.mem = true) :
    memWf (s.cmdResult who tag code k).mem = true := by
  unfold State.cmdResult
  (repeat' split) <;> simp [hs]

theorem execMcmdResult_memWf {who : Who} {slot tag code idx : Nat} {s t : State} (h : execMcmdResult who slot tag code idx s = .next t)
    (hs : memWf s.mem = true) : memWf t.mem = true := by
  cases h
  grind [State.onCore_memWf, State.cmdResult_memWf]

/-! ### The operations of Machine/Switch.lean -/

@[simp] theorem State.endSwitch_memWf (s : State) (j : Job) (region stride : Nat) (c : Cmd) (hs : memWf s.mem = true) :
    memWf (s.endSwitch j region stride c).mem = true := by simp [State.endSwitch, hs]

theorem execCoreSwitchOut_memWf {s t : State} (h : execCoreSwitchOut s = .next t) (hs : memWf s.mem = true) : memWf t.mem = true := by
  cases h
  grind [State.vPut_memWf, State.coreTrap_mem, State.endSwitch_memWf, getD_memWf]

theorem execForcedSave_mem {sl : Fin 8} {s t : State} (h : execForcedSave sl s = .next t) : t.mem = s.mem := by
  cases h
  grind [State.displace_mem]

theorem execSwitch_memWf {c : Cmd} {s t : State} (h : execSwitch c s = .next t) (hs : memWf s.mem = true) : memWf t.mem = true := by
  refine State.command_memWf h (fun a u hu => ?_) hs
  (repeat' split) <;> simp [hu]

@[simp] theorem State.moveTables_mem (s : State) (j : Job) (f : Nat → Nat) : (s.moveTables j f).mem = s.mem := rfl

@[simp] theorem State.moveEvents_mem (s : State) (k : Job) : (s.moveEvents k).mem = s.mem := by
  unfold State.moveEvents
  exact (foldl_mem (fun _ _ => State.setDie_mem _ _ _) _ _)

@[simp] theorem State.readyAgain_mem (s : State) : (s.readyAgain).mem = s.mem := by simp +contextual [State.readyAgain]

@[simp] theorem State.restorePad_memWf (s : State) (core : Nat) (l : List Byte) (hs : memWf s.mem = true) :
    memWf (s.restorePad core l).mem = true := by simp +contextual [State.restorePad, hs, foldl_memWf]

theorem execRestore_memWf {c : Cmd} {s t : State} (h : execRestore c s = .next t) (hs : memWf s.mem = true) : memWf t.mem = true := by
  refine State.command_memWf h (fun a u hu => ?_) hs
  dsimp only
  split
  · exact State.finishCmd_memWf _ _ _ hu
  · split
    · exact State.finishCmd_memWf _ _ _ hu
    · split
      · exact State.finishCmd_memWf _ _ _ hu
      · split
        · exact State.finishCmd_memWf _ _ _ hu
        · split
          · exact State.finishCmd_memWf _ _ _ hu
          · refine State.finishCmd_memWf _ _ _ ?_
            rw [State.equalise_mem]
            refine foldl_memWf (fun t x ht => ?_) _ ?_
            · split
              · exact ht
              · rw [State.onCore_mem _ _ _ State.readyAgain_mem, State.modCore_mem]
                exact State.restorePad_memWf _ _ _ ht
            · (repeat' split) <;> simpa [State.modCore_mem] using hu

@[simp] theorem State.moveEntries_mem (s : State) (es : List (Nat × Endpoint)) (target owner : Nat) :
    (s.moveEntries es target owner).mem = s.mem := by
  refine foldl_mem (fun u x => ?_) _ s
  dsimp only
  split <;> simp [State.modCore_mem]

@[simp] theorem State.moveFibre_memWf (s : State) (e : Nat) (f : Fibre) (target n : Nat) (hs : memWf s.mem = true) :
    memWf (s.moveFibre e f target n).mem = true := by
  simp only [State.moveFibre]
  rw [State.onCore_mem _ _ _ fun v => by split <;> simp]
  simp only [State.modJob_mem, State.removeFibre_mem, State.moveEntries_mem, State.modCore_mem]
  exact foldl_memWf (fun u i h => State.spPut_memWf _ _ _ _ h) _ hs

theorem execMigrationPlace_memWf {s t : State} (h : execMigrationPlace s = .next t) (hs : memWf s.mem = true) : memWf t.mem = true := by
  cases h
  grind [State.finishCmd_memWf, State.onCore_memWf, State.withdraw_mem, State.displace_mem, State.equalise_mem, State.moveFibre_memWf]

theorem execMigrate_memWf {c : Cmd} {s t : State} (h : execMigrate c s = .next t) (hs : memWf s.mem = true) : memWf t.mem = true := by
  refine State.command_memWf h (fun a u hu => ?_) hs
  (repeat' split) <;> simp [hu]

@[simp] theorem State.refuseOutside_mem (s : State) (i : Issuer) (a : Access) : (s.refuseOutside i a).mem = s.mem := by
  unfold State.refuseOutside
  split <;> simp

@[simp] theorem State.abandonJob_mem (s : State) (j : Job) : (s.abandonJob j).mem = s.mem := by
  simp +contextual [State.abandonJob, State.modCore_mem]

theorem execAbandon_memWf {c : Cmd} {s t : State} (h : execAbandon c s = .next t) (hs : memWf s.mem = true) : memWf t.mem = true := by
  refine State.command_memWf h (fun a u hu => ?_) hs
  (repeat' split) <;> simp [hu]

/-! ### The operations of Machine/Mgmt.lean -/

@[simp] theorem State.eachCore_mem (s : State) (f : Core → Core) : (s.eachCore f).mem = s.mem := rfl

@[simp] theorem State.setDebug_mem (s : State) (d : Dbg) : (s.setDebug d).mem = s.mem := by
  unfold State.setDebug
  split <;> simp

@[simp] theorem State.setSecurity_mem (s : State) (x : Sec) : (s.setSecurity x).mem = s.mem := rfl

theorem execProvision_memWf {c : Cmd} {s t : State} (h : execProvision c s = .next t) (hs : memWf s.mem = true) : memWf t.mem = true := by
  refine State.command_memWf h (fun a u hu => ?_) hs
  (repeat' split) <;> simp [hu]

theorem execLock_memWf {c : Cmd} {s t : State} (h : execLock c s = .next t) (hs : memWf s.mem = true) : memWf t.mem = true := by
  refine State.command_memWf h (fun a u hu => ?_) hs
  (repeat' split) <;> simp [hu]

theorem execRetire_memWf {c : Cmd} {s t : State} (h : execRetire c s = .next t) (hs : memWf s.mem = true) : memWf t.mem = true := by
  refine State.command_memWf h (fun a u hu => ?_) hs
  extract_lets key t
  split
  · exact State.finishCmd_memWf _ _ _ hu
  · exact State.finishCmd_memWf _ _ _ (by simpa [t] using hu)

theorem execRelease_memWf {c : Cmd} {s t : State} (h : execRelease c s = .next t) (hs : memWf s.mem = true) : memWf t.mem = true := by
  refine State.command_memWf h (fun a u hu => ?_) hs
  (repeat' split) <;> simp [hu]

theorem execSettamper_memWf {c : Cmd} {s t : State} (h : execSettamper c s = .next t) (hs : memWf s.mem = true) : memWf t.mem = true := by
  refine State.command_memWf h (fun a u hu => ?_) hs
  (repeat' split) <;> simp [hu]

theorem execDebugchal_memWf {c : Cmd} {s t : State} (h : execDebugchal c s = .next t) (hs : memWf s.mem = true) : memWf t.mem = true := by
  refine State.command_memWf h (fun a u hu => ?_) hs
  grind [State.finishCmd_memWf, State.vPut_memWf, getD_memWf]

theorem execDebugopen_memWf {c : Cmd} {s t : State} (h : execDebugopen c s = .next t) (hs : memWf s.mem = true) : memWf t.mem = true := by
  refine State.command_memWf h (fun a u hu => ?_) hs
  grind [State.finishCmd_memWf, State.setDebug_mem]

theorem execDebugend_memWf {c : Cmd} {s t : State} (h : execDebugend c s = .next t) (hs : memWf s.mem = true) : memWf t.mem = true := by
  refine State.command_memWf h (fun a u hu => ?_) hs
  (repeat' split) <;> simp [hu]

theorem execDbgset_memWf {c : Cmd} {s t : State} (h : execDbgset c s = .next t) (hs : memWf s.mem = true) : memWf t.mem = true := by
  refine State.command_memWf h (fun a u hu => ?_) hs
  (repeat' split) <;> simp [State.modCore_mem, hu]

@[simp] theorem State.debugGo_mem (s : State) (e : Nat) : (s.debugGo e).1.mem = s.mem := by
  unfold State.debugGo
  grind [State.removeFibre_mem, State.vNote_mem, State.restoreFibre_mem]

theorem execDbggo_memWf {c : Cmd} {s t : State} (h : execDbggo c s = .next t) (hs : memWf s.mem = true) : memWf t.mem = true := by
  refine State.command_memWf h (fun a u hu => ?_) hs
  grind [State.finishCmd_memWf, State.focus_mem, State.retryCmd_mem, State.debugGo_mem]

theorem execAttest_memWf {c : Cmd} {s t : State} (h : execAttest c s = .next t) (hs : memWf s.mem = true) : memWf t.mem = true := by
  refine State.command_memWf h (fun a u hu => ?_) hs
  grind [State.finishCmd_memWf, State.vPut_memWf]

theorem execFwupdate_memWf {c : Cmd} {s t : State} (h : execFwupdate c s = .next t) (hs : memWf s.mem = true) : memWf t.mem = true := by
  refine State.command_memWf h (fun a u hu => ?_) hs
  grind [State.finishCmd_memWf, State.vNote_mem]

@[simp] theorem State.systemPage_memWf (s : State) (x : Nat × Nat) (hs : memWf s.mem = true) : memWf (s.systemPage x).mem = true := memWf_memPut _ _ _ hs

@[simp] theorem State.bootTables_mem (s : State) : (s.bootTables).mem = s.mem := by
  refine foldl_mem (fun t x => ?_) _ s
  dsimp only
  split <;> simp

@[simp] theorem State.bringFrom3_memWf (s : State) (dram : Bool) (hs : memWf s.mem = true) : memWf (s.bringFrom3 dram).mem = true := by
  simp only [State.bringFrom3, State.bootTables_mem]
  refine foldl_memWf (fun t x h => State.systemPage_memWf _ _ h) _ ?_
  dsimp only
  split
  · rfl
  · exact memWf_filter _ _ hs

@[simp] theorem State.endSleep_mem (s : State) : (s.endSleep).mem = s.mem := rfl

@[simp] theorem State.leaveS1_mem (s : State) : (s.leaveS1).mem = s.mem := rfl

@[simp] theorem State.enterS3_memWf (s : State) (hs : memWf s.mem = true) : memWf (s.enterS3).mem = true := memWf_filter _ _ (by simpa using hs)

theorem State.powerOff_memWf (s : State) : memWf s.powerOff.mem = true := rfl

@[simp] theorem State.settlePower_memWf (s : State) (c : Cmd) (hs : memWf s.mem = true) : memWf (s.settlePower c).mem = true := by
  unfold State.settlePower
  split <;> simp [hs]

theorem execBringUp_memWf {image : List Byte} {s t : State} (h : execBringUp image s = .next t) (hs : memWf s.mem = true) :
    memWf t.mem = true := by
  cases h
  grind [State.powerOff_memWf, State.setDebug_mem, State.bringFrom3_memWf]

theorem execSetpstate_memWf {c : Cmd} {s t : State} (h : execSetpstate c s = .next t) (hs : memWf s.mem = true) : memWf t.mem = true := by
  unfold execSetpstate at h
  grind [State.settlePower_memWf, State.command_memWf, State.finishCmd_memWf, State.leaveS1_mem, State.bringFrom3_memWf,
    State.endSleep_mem, State.holdCmd_mem, State.enterS3_memWf, State.powerOff_memWf]

@[simp] theorem State.logTamper_mem (s : State) (cause island : Nat) : (s.logTamper cause island).mem = s.mem := rfl

@[simp] theorem State.tellTamper_mem (s : State) (cause : Nat) : (s.tellTamper cause).mem = s.mem :=
  foldl_mem (fun _ _ => State.onCore_mem _ _ _ fun _ => State.coreTrap_mem _ _ _ _ _) _ s

theorem execTamperEvent_mem {cause island : Nat} {s t : State} (h : execTamperEvent cause island s = .next t) : t.mem = s.mem := by
  cases h
  grind [State.logTamper_mem, State.setSecurity_mem, State.tellTamper_mem]

@[simp] theorem State.moveGroup_mem (s : State) (g : List Nat) (up : Bool) : (s.moveGroup g up).mem = s.mem := rfl

theorem execThermalReduction_mem {island : Nat} {s t : State} (h : execThermalReduction island s = .next t) : t.mem = s.mem := by
  cases h
  (repeat' split) <;> simp

theorem execPowerSample_mem {watts : Nat} {draws : List (Nat × Nat)} {s t : State} (h : execPowerSample watts draws s = .next t) :
    t.mem = s.mem := by
  cases h
  simp

theorem execPowerStep_mem {s t : State} (h : execPowerStep s = .next t) : t.mem = s.mem := by
  cases h
  dsimp only
  split
  · rfl
  · split
    · split <;> simp
    · split
      · exact (State.equalise_mem _).trans (foldl_mem (fun _ _ => State.setSteps_mem _ _ _) _ _)
      · rfl

@[simp] theorem State.scrubTrap_mem (s : State) (off : Nat) : (s.scrubTrap off).mem = s.mem := rfl

@[simp] theorem State.storeTrap_mem (s : State) : (s.storeTrap).mem = s.mem := by simp [State.storeTrap]

@[simp] theorem State.scrubCore_mem (t : State) (off : Nat) (bad : Option Bool) : (t.scrubCore off bad).mem = t.mem := by
  unfold State.scrubCore
  grind [State.storeTrap_mem, State.scrubTrap_mem]

@[simp] theorem State.miscorrect_memWf (s : State) (k g : Nat) (hs : memWf s.mem = true) : memWf (s.miscorrect k g).mem = true := memWf_memPut _ _ _ hs

theorem execScrub_memWf {core off : Nat} {bad : Option Bool} {s t : State} (h : execScrub core off bad s = .next t)
    (hs : memWf s.mem = true) : memWf t.mem = true := by
  cases h
  (repeat' split) <;> simp [hs]

/-! ### The operations of Machine/Routine.lean -/

@[simp] theorem State.routineLend_mem (s : State) : (s.routineLend).mem = s.mem := by
  unfold State.routineLend
  split <;> simp

@[simp] theorem State.endRoutine_memWf (s : State) (q : Req) (p : Page) (held : Held) (sub : Bool) (result : DWord)
    (hs : memWf s.mem = true) : memWf (s.endRoutine q p held sub result).1.mem = true := by
  unfold State.endRoutine
  split
  · exact hs
  · dsimp only
    split
    · rename_i h
      refine (foldl_fst_memWf h (fun r x hr => ?_) hs :)
      split
      · exact hr
      · have hu := State.dramUpdate_memWf r.1 q p (p.pa x.1) x.2.length (fun _ => x.2) hr
        split
        · rename_i h
          rwa [h] at hu
        · exact hr
    · simpa using hs

theorem routineRun_memWf (q : Req) (p : Page) (n : Nat) (s t : State) (held : Held) (sub : Bool) (cycles : Nat) (hs : memWf s.mem = true) :
    memWf (routineRun q p n s t held sub cycles).1.mem = true := by
  induction n generalizing s t held sub cycles with
  | zero => exact hs
  | succ n ih =>
    unfold routineRun
    extract_lets t va inBlock load
    split
    · exact hs
    · split
      · exact hs
      · have hload (sx sz d a off) : memWf (load sx sz d a off).1.mem = true := by
          simp only [load]
          split
          · exact hs
          · have hd := State.dramRead_memWf s q p (p.pa (effective (((t.popReg a).map (·.1)).getD 0) (off.signExtend 64) (sizeBytes sz)).toNat) (sizeBytes sz) hs
            split
            · rename_i h
              rwa [h] at hd
            · rename_i h
              rw [h] at hd
              split
              · exact ih _ _ _ _ _ hd
              · exact hs
        split
        · split
          · exact State.endRoutine_memWf _ _ _ _ _ _ hs
          · exact hs
        · exact hload ..
        · exact hload ..
        · dsimp only
          split
          · exact hs
          · exact ih _ _ _ _ _ hs
        · split
          · exact hs
          · split
            · exact hs
            · split
              · split
                · exact ih _ _ _ _ _ hs
                · exact hs
              · exact hs

theorem bodyLoadable_keepsMem : ActKeepsMem bodyLoadable := fun s q p pa hs => by
  unfold bodyLoadable
  split
  · exact hs
  · exact routineRun_memWf _ _ _ _ _ _ _ _ hs

theorem execLoadableRoutine_memWf {q : Req} {s t : State} (h : execLoadableRoutine q s = .next t) (hs : memWf s.mem = true) :
    memWf t.mem = true := by
  cases h
  split
  · simpa using hs
  · split
    · exact State.servePage_memWf _ _ _ _ bodyLoadable_keepsMem hs
    · simpa using hs

@[simp] theorem State.serve_memWf (s : State) (q : Req) (p : Page) (hs : memWf s.mem = true) : memWf (s.serve q p).mem = true := by
  unfold State.serve
  split
  · exact State.servePage_memWf _ _ _ _ bodyLoadable_keepsMem hs
  · exact State.servePage_memWf _ _ _ _ (fixedBody_keepsMem q) hs

theorem execTableWalk_memWf {q : Req} {s t : State} (h : execTableWalk q s = .next t) (hs : memWf s.mem = true) : memWf t.mem = true := by
  unfold execTableWalk at h
  split at h
  · obtain rfl := Host.Outcome.next.inj h
    simpa using hs
  · obtain rfl := Host.Outcome.next.inj h
    exact State.serve_memWf _ _ _ (by simpa using hs)

theorem execEndMarker_memWf {n : Nat} {s t : State} (h : execEndMarker n s = .next t) (hs : memWf s.mem = true) : memWf t.mem = true := by
  cases h
  split
  · exact hs
  · split
    · simpa using hs
    · rw [State.reply_mem]
      exact foldl_memWf (fun t q ht => State.serve_memWf _ _ _ ht) _ hs

/-! ### The operations of Machine/Seq.lean -/

theorem execXfork_memWf {a : Reg} {s t : State} (h : execXfork a s = .next t) (hs : memWf s.mem = true) : memWf t.mem = true := by
  refine State.issue_memWf h (fun vs u hu => ?_) hs
  grind [State.raise_memWf, State.stall_mem, State.advance_mem, State.setFib_mem]

theorem execXjoin_memWf {d : Reg} {s t : State} (h : execXjoin d s = .next t) (hs : memWf s.mem = true) : memWf t.mem = true := by
  refine State.issue_memWf h (fun vs u hu => ?_) hs
  grind [State.stall_mem, State.setCtx_mem, State.setFib_mem, State.done_memWf]

@[simp] theorem State.setSeq_mem (s : State) (e : Eng) (q : Seq) : (s.setSeq e q).mem = s.mem := rfl

@[simp] theorem State.haltSeq_mem (s : State) (e : Eng) (code : Nat) : (s.haltSeq e code).mem = s.mem := rfl

@[simp] theorem State.nextWord_mem (s : State) (e : Eng) : (s.nextWord e).mem = s.mem := by
  unfold State.nextWord
  grind [State.setSeq_mem]

theorem State.seqWord_memWf (s : State) (e : Eng) (i : Instr) (f : State → Host.Outcome State Fault Refusal)
    (hf : ∀ u t, f u = .next t → memWf u.mem = true → memWf t.mem = true) (hs : memWf s.mem = true) :
    memWf (s.seqWord e i f).mem = true := by
  unfold State.seqWord
  dsimp only
  split
  · rename_i t h
    have ht := hf _ t h hs
    split
    · simpa using hs
    · split
      · exact ht
      · split
        · exact ht
        · simpa using ht
  · exact hs

@[simp] theorem State.seqElem_memWf (s : State) (e : Eng) (r : ElemRun) (hs : memWf s.mem = true) : memWf (s.seqElem e r).mem = true := by
  unfold State.seqElem
  grind [State.setSeq_mem, State.nextWord_mem, State.vecElement_memWf, State.haltSeq_mem, State.matStep_memWf, State.paced_mem,
    State.matEnd_mem]

/-- The instructions that a sequencer admits keep memory in the canonical form. -/
theorem seqExec_memWf {e : Eng} {i : Instr} {regs : List Reg} {f : State → Host.Outcome State Fault Refusal} {s t : State}
    (h : seqExec e i = some (regs, f)) (hf : f s = .next t) (hs : memWf s.mem = true) : memWf t.mem = true := by
  unfold seqExec at h
  split at h
  case h_46 => cases h
  all_goals obtain ⟨-, rfl⟩ := Prod.mk.inj (Option.some.inj h)
  exacts [execCpwa_memWf hf hs, execCpwn_memWf hf hs, execMwld_memWf hf hs, execMswap_memWf hf hs, execMstrm_memWf hf hs,
    execMmul_memWf hf hs, execMzero_memWf hf hs, execMrd_memWf hf hs, State.lanewise_memWf hf hs, State.lanewise_memWf hf hs,
    State.lanewise_memWf hf hs, State.lanewise_memWf hf hs, State.lanewise_memWf hf hs, State.lanewise_memWf hf hs,
    State.lanewise_memWf hf hs, State.lanewise_memWf hf hs, State.lanewise_memWf hf hs, State.lanewise_memWf hf hs,
    State.lanewise_memWf hf hs, State.lanewise_memWf hf hs, State.lanewise_memWf hf hs, State.lanewise_memWf hf hs,
    State.lanewise_memWf hf hs, State.lanewise_memWf hf hs, State.lanewise_memWf hf hs, execVld_memWf hf hs, execVst_memWf hf hs,
    State.vecStart_memWf hf hs, State.vecStart_memWf hf hs, State.vecStart_memWf hf hs, State.vecStart_memWf hf hs,
    State.reduce_memWf hf hs, State.reduce_memWf hf hs, State.reduce_memWf hf hs, State.reduce_memWf hf hs, execVshf_memWf hf hs,
    execVbcast_memWf hf hs, execVext_memWf hf hs, execVins_memWf hf hs, execVcvt_memWf hf hs, State.lanewise_memWf hf hs,
    State.lanewise_memWf hf hs, State.copyInstr_memWf hf hs, State.copyInstr_memWf hf hs, execStage_memWf hf hs]

theorem execSequencerWord_memWf {e : Eng} {s t : State} (h : execSequencerWord e s = .next t) (hs : memWf s.mem = true) :
    memWf t.mem = true := by
  cases h
  dsimp only
  split
  · exact hs
  · split
    · exact State.seqElem_memWf _ _ _ hs
    · split
      · simpa using hs
      · split
        · simpa using hs
        · simpa using hs
        · split
          · simpa using hs
          · split
            · rename_i hf _
              exact State.seqWord_memWf _ _ _ _ (fun u t ht hu => seqExec_memWf hf ht hu) hs
            · simpa using hs

@[simp] theorem State.engCommand_mem (s : State) (k : EngQ) (ops : Nat → Bool) : (s.engCommand k ops).mem = s.mem := by
  unfold State.engCommand
  grind [State.readFifo_mem, State.setSeq_mem]

@[simp] theorem State.commitElem_memWf (s : State) (r : ElemRun) (hs : memWf s.mem = true) : memWf (s.commitElem r).mem = true := by
  unfold State.commitElem
  grind [State.sendtElem_memWf, State.recvtElem_memWf, State.accwElem_memWf, State.accmvElem_memWf, State.matElem_memWf, State.paced_mem,
    State.vecElem_memWf]

theorem execElementCommit_memWf {sl : Fin 8} {s t : State} (h : execElementCommit sl s = .next t) (hs : memWf s.mem = true) :
    memWf t.mem = true := by
  cases h
  grind [State.commitElem_memWf, State.cmdElem_memWf]

/-! ### The operations of Machine/Schedule.lean -/

@[simp] theorem State.noteIssue_mem (s : State) : (s.noteIssue).mem = s.mem := by
  unfold State.noteIssue
  grind

@[simp] theorem State.probeCore_mem (s : State) : (s.probeCore).mem = s.mem := by
  unfold State.probeCore
  split <;> simp

@[simp] theorem State.settleCore_memWf (s : State) (hs : memWf s.mem = true) : memWf (s.settleCore).mem = true := by
  unfold State.settleCore
  refine foldl_memWf (fun t e h => State.replayArrivals_memWf _ _ _ h) _ ?_
  refine foldl_memWf (fun t e h => State.resolveEntry_memWf _ _ h) _ ?_
  exact foldl_memWf (fun t o h => State.retest_memWf _ _ _ h) _ hs

@[simp] theorem State.settle_memWf (s : State) (hs : memWf s.mem = true) : memWf (s.settle).mem = true := by
  unfold State.settle
  dsimp only
  split
  · refine State.onCore_memWf _ _ _ (fun t h => State.settleCore_memWf _ h) (State.retryFrames_memWf _ (State.retryHost_memWf _ _ ?_))
    simpa using hs
  · refine State.retryFrames_memWf _ (State.retryHost_memWf _ _ ?_)
    simpa using hs

@[simp] theorem State.portCycle_memWf (s : State) (hs : memWf s.mem = true) : memWf (s.portCycle).mem = true := by
  simp [State.portCycle, hs]

@[simp] theorem State.patterns_memWf (s : State) (hs : memWf s.mem = true) : memWf (s.patterns).mem = true := by
  unfold State.patterns
  split
  · exact foldl_memWf (fun t c h => State.onCore_memWf _ _ _ (fun u hu => State.portCycle_memWf _ hu) h) _ hs
  · exact hs

@[simp] theorem State.reportReady_mem (s : State) : (s.reportReady).mem = s.mem := by
  unfold State.reportReady
  split <;> simp

@[simp] theorem State.newCycle_memWf (s : State) (hs : memWf s.mem = true) : memWf (s.newCycle).mem = true := by
  unfold State.newCycle
  grind [State.patterns_memWf, State.reportReady_mem, State.tick_mem, State.stampHeld_mem, State.settle_memWf]

@[simp] theorem State.completion_mem (s : State) (e : Ev) : (s.completion e).mem = s.mem := by
  unfold State.completion
  split <;> simp

/-! ### The step -/

/-- Every instruction and every event keeps memory in the canonical form. -/
theorem exec_memWf {i : Instr} {s t : State} (h : exec i s = .next t) (hs : memWf s.mem = true) : memWf t.mem = true := by
  cases i with
  | add | sub | mul | mulh | mulhu | and | or | xor | andn | shl | shr | sra | rot | min | max | minu | maxu | cmpeq | cmpne | cmplt
  | cmpltu | cmple | cmpleu | cmov | clz | ctz | popc | brev | bswap | exts | extz | not | neg | abs | addi | andi | ori | xori | shli
  | shri | srai | roti | cmpeqi | cmplti | cmpltui | lui | addpc | bfx | bfi | wid | addx | cpff | cpts | wmrd | jrd | getst | prgrd
  => exact State.compute_memWf h hs
  | div | divu | rem | remu => exact State.divide_memWf h hs
  | br => exact execBr_memWf h hs
  | bra => exact execBra_memWf h hs
  | call => exact execCall_memWf h hs
  | jr | callr | ret => exact State.jumpReg_memWf h hs
  | loop => exact execLoop_memWf h hs
  | fadd | fsub | fmul | fdiv | fsqrt | fmin | fmax | fabs | fneg | fcmpeq | fcmplt | fcmple | fclass | frcp | ffma | fcvt
  => exact State.floating_memWf h hs
  | ld | lds => exact State.load_memWf h hs
  | st | pst => exact State.store_memWf h hs
  | ldfe | ldff => exact State.feLoad_memWf h hs
  | stfe | stff => exact State.feStore_memWf h hs
  | ship => exact execShip_memWf h hs
  | aadd | aswp | aand | aor | axor | amin | amax | aminu | amaxu | ainc => exact State.atomicOp_memWf h hs
  | acas => exact execAcas_memWf h hs
  | fenceBank => exact execFenceBank_memWf h hs
  | fence => exact execFence_memWf h hs
  | cpy | cpym => exact State.copyInstr_memWf h hs
  | cpwa => exact execCpwa_memWf h hs
  | cpwn => exact execCpwn_memWf h hs
  | stage => exact execStage_memWf h hs
  | tsub => exact execTsub_memWf h hs
  | trel | trelSt => exact State.trel_memWf h hs
  | send => exact execSend_memWf h hs
  | sendt => exact execSendt_memWf h hs
  | recv => exact execRecv_memWf h hs
  | recvt => exact execRecvt_memWf h hs
  | sendx => exact execSendx_memWf h hs
  | recvx => exact execRecvx_memWf h hs
  | probe => exact execProbe_memWf h hs
  | eos => exact execEos_memWf h hs
  | alt => exact execAlt_memWf h hs
  | altt => exact execAltt_memWf h hs
  | bind => exact execBind_memWf h hs
  | unbind => exact execUnbind_memWf h hs
  | chmode => exact execChmode_memWf h hs
  | post => exact execPost_memWf h hs
  | jpat => exact execJpat_memWf h hs
  | jarm => exact execJarm_memWf h hs
  | jdis => exact execJdis_memWf h hs
  | pcfg => exact execPcfg_memWf h hs
  | fork => exact execFork_memWf h hs
  | joinc => exact execJoinc_memWf h hs
  | lnch => exact execLnch_memWf h hs
  | yield => exact execYield_memWf h hs
  | park => exact execPark_memWf h hs
  | wake => exact execWake_memWf h hs
  | setpri => exact execSetpri_memWf h hs
  | setdl => exact execSetdl_memWf h hs
  | setwl => exact execSetwl_memWf h hs
  | rdtime => exact execRdtime_memWf h hs
  | evwait => exact execEvwait_memWf h hs
  | evwaitQev => exact execEvwaitQev_memWf h hs
  | evsig => exact execEvsig_memWf h hs
  | evclr => exact execEvclr_memWf h hs
  | evtst => exact execEvtst_memWf h hs
  | bar => exact execBar_memWf h hs
  | barBrk => exact execBarBrk_memWf h hs
  | vadd | vsub | vmul | vfma | vmin | vmax | vabs | vneg | vcmpEq | vcmpLt | vcmpLe | vsel | vand | vor | vxor | vshl | vshr | vexp2
  | vlog2 =>
    unfold exec at h
    exact State.lanewise_memWf h hs
  | vld => exact execVld_memWf h hs
  | vst => exact execVst_memWf h hs
  | vlds | vsts | vgath | vscat => exact State.vecStart_memWf h hs
  | vredAdd | vredMin | vredMax | vdot => exact State.reduce_memWf h hs
  | vshf => exact execVshf_memWf h hs
  | vbcast => exact execVbcast_memWf h hs
  | vext => exact execVext_memWf h hs
  | vins => exact execVins_memWf h hs
  | vcvt => exact execVcvt_memWf h hs
  | mwld => exact execMwld_memWf h hs
  | mswap => exact execMswap_memWf h hs
  | mstrm => exact execMstrm_memWf h hs
  | mmul => exact execMmul_memWf h hs
  | mzero => exact execMzero_memWf h hs
  | mrd => exact execMrd_memWf h hs
  | mcmd => exact execMcmd_memWf h hs
  | mscl => exact execMscl_memWf h hs
  | accw => exact execAccw_memWf h hs
  | accz => exact execAccz_memWf h hs
  | accrd => exact execAccrd_memWf h hs
  | accmv => exact execAccmv_memWf h hs
  | accset => exact execAccset_memWf h hs
  | xfork => exact execXfork_memWf h hs
  | xjoin => exact execXjoin_memWf h hs
  | prgwr => exact execPrgwr_memWf h hs
  | trap => exact execTrap_memWf h hs
  | eret => exact execEret_memWf h hs
  | bkpt => exact execBkpt_memWf h hs
  | rfwin => exact execRfwin_memWf h hs
  | syncid => exact execSyncid_memWf h hs
  | mfsr => exact execMfsr_memWf h hs
  | mtsr => exact execMtsr_memWf h hs
  | mtsrUtask => exact execMtsrUtask_memWf h hs
  | mtsrDlprobe => exact execMtsrDlprobe_memWf h hs
  | mtsrEjrn => exact execMtsrEjrn_memWf h hs
  | himm | hsch | hlive | hmod | timerArm | timerCancel | qscPush | qhsPush | copyQuery | copyResume | copyCancel | engineQuery
  | engineStop | engineGo | waitLimit | timerExpiry | timeoutExpiry | patternFire | wakeArrival | eventWaitArrival | eventTestArrival
  | eventOverflowRetry | tilePush | tileWriteback | fetchLineFill | shapeCacheFill | shapeCacheInvalidate | admissionResume | rd8 | rd32
  | rd64 | wt8 | wt32 | wt64 | wtm | routineAadd | routineAswp | routineAcas | routineAand | routineAor | routineAxor | routineAmin
  | routineAmax | routineAminu | routineAmaxu | fadd32 | xacc | gath8 | publish | fill64 | svcMigrate | svcInval | svcLoad | svcUnload
  | streamMessage | accessRequest | writeWithEnqueue | collectiveData | collectiveControl | mailboxIn | mailboxLp | mailboxToken
  | mailboxOut | qhsin | registerWrite | doorbell | hostBar4Access | hostAtomicop | hschSpinExpiry | envelopeAcknowledgement =>
    cases h
    simp [hs]
  | dispatch => exact execDispatch_memWf h hs
  | displacement => exact memWf_of_eq (execDisplacement_mem h) hs
  | deadLetterProbe => exact memWf_of_eq (execDeadLetterProbe_mem h) hs
  | deadLetterProbeArrival => exact memWf_of_eq (execDeadLetterProbeArrival_mem h) hs
  | messageArrival => exact execMessageArrival_memWf h hs
  | recvNoticeArrival => exact memWf_of_eq (execRecvNoticeArrival_mem h) hs
  | sendReply => exact execSendReply_memWf h hs
  | creditReturn => exact execCreditReturn_memWf h hs
  | activeMessage => exact execActiveMessage_memWf h hs
  | remoteReply => exact execRemoteReply_memWf h hs
  | fullemptyNotice => exact memWf_of_eq (execFullemptyNotice_mem h) hs
  | fullemptyRetry => exact execFullemptyRetry_memWf h hs
  | splitPhaseReply => exact execSplitPhaseReply_memWf h hs
  | shipReply => exact execShipReply_memWf h hs
  | journalAck => exact memWf_of_eq (execJournalAck_mem h) hs
  | postedStoreRefused => exact execPostedStoreRefused_memWf h hs
  | postArrival => exact execPostArrival_memWf h hs
  | forkChildCreate => exact memWf_of_eq (execForkChildCreate_mem h) hs
  | eventSignalArrival => exact memWf_of_eq (execEventSignalArrival_mem h) hs
  | eventClearArrival => exact memWf_of_eq (execEventClearArrival_mem h) hs
  | eventReply => exact execEventReply_memWf h hs
  | barrierArrival => exact memWf_of_eq (execBarrierArrival_mem h) hs
  | barrierCompletion => exact execBarrierCompletion_memWf h hs
  | copyElement => exact execCopyElement_memWf h hs
  | copyComplete => exact memWf_of_eq (execCopyComplete_mem h) hs
  | copyHalt => exact execCopyHalt_memWf h hs
  | copyResend => exact memWf_of_eq (execCopyResend_mem h) hs
  | scheduledFlitDelivery => exact execScheduledFlitDelivery_memWf h hs
  | mcmdArrival => exact memWf_of_eq (execMcmdArrival_mem h) hs
  | mcmdResult _ slot => exact execMcmdResult_memWf (slot := slot) h hs
  | matrixResume => exact memWf_of_eq (execMatrixResume_mem h) hs
  | sequencerWord => exact execSequencerWord_memWf h hs
  | scaleKeeperOp => exact memWf_of_eq (execScaleKeeperOp_mem h) hs
  | msclReply => exact execMsclReply_memWf h hs
  | trapDelivery => exact memWf_of_eq (execTrapDelivery_mem h) hs
  | urgentTaskStart => exact memWf_of_eq (execUrgentTaskStart_mem h) hs
  | forcedSave => exact memWf_of_eq (execForcedSave_mem h) hs
  | coreSwitchOut => exact execCoreSwitchOut_memWf h hs
  | migrationPlace => exact execMigrationPlace_memWf h hs
  | jobStart => exact execJobStart_memWf h hs
  | jobCompletionCheck => exact execJobCompletionCheck_memWf h hs
  | statusRecordForward => exact memWf_of_eq (execStatusRecordForward_mem h) hs
  | envelopeAdmit => exact memWf_of_eq (execEnvelopeAdmit_mem h) hs
  | clockUpdate => exact memWf_of_eq (execClockUpdate_mem h) hs
  | tsvc => exact execTsvc_memWf h hs
  | loadableRoutine => exact execLoadableRoutine_memWf h hs
  | tableWalk =>
    unfold exec at h
    exact execTableWalk_memWf h hs
  | pageCopyComplete => exact execPageCopyComplete_memWf h hs
  | endMarker => exact execEndMarker_memWf h hs
  | refreshInterval => exact memWf_of_eq (execRefreshInterval_mem h) hs
  | refresh => exact memWf_of_eq (execRefresh_mem h) hs
  | rfwinNotice => exact memWf_of_eq (execRfwinNotice_mem h) hs
  | creditOrAcknowledgement => exact memWf_of_eq (execCreditOrAcknowledgement_mem h) hs
  | accessReply => exact memWf_of_eq (execAccessReply_mem h) hs
  | linkDown => exact memWf_of_eq (execLinkDown_mem h) hs
  | collectiveSubmit => exact execCollectiveSubmit_memWf h hs
  | collectiveComplete => exact execCollectiveComplete_memWf h hs
  | collectiveLimitExpiry => exact memWf_of_eq (execCollectiveLimitExpiry_mem h) hs
  | collectiveRecordExpiry => exact memWf_of_eq (execCollectiveRecordExpiry_mem h) hs
  | notifyWrite => exact execNotifyWrite_memWf h hs
  | switch => exact execSwitch_memWf h hs
  | restore => exact execRestore_memWf h hs
  | migrate => exact execMigrate_memWf h hs
  | abandon => exact execAbandon_memWf h hs
  | urgent => exact execUrgent_memWf h hs
  | setpstate => exact execSetpstate_memWf h hs
  | setcap => exact execSetcap_memWf h hs
  | settamper => exact execSettamper_memWf h hs
  | provision => exact execProvision_memWf h hs
  | lock => exact execLock_memWf h hs
  | retire => exact execRetire_memWf h hs
  | release => exact execRelease_memWf h hs
  | debugchal => exact execDebugchal_memWf h hs
  | debugopen => exact execDebugopen_memWf h hs
  | debugend => exact execDebugend_memWf h hs
  | dbggo => exact execDbggo_memWf h hs
  | attest => exact execAttest_memWf h hs
  | fwupdate => exact execFwupdate_memWf h hs
  | dbgset => exact execDbgset_memWf h hs
  | setclock => exact execSetclock_memWf h hs
  | reccfg => exact execReccfg_memWf h hs
  | counters => exact execCounters_memWf h hs
  | settable => exact execSettable_memWf h hs
  | tamperEvent => exact memWf_of_eq (execTamperEvent_mem h) hs
  | thermalReduction => exact memWf_of_eq (execThermalReduction_mem h) hs
  | powerSample => exact memWf_of_eq (execPowerSample_mem h) hs
  | powerStep => exact memWf_of_eq (execPowerStep_mem h) hs
  | scrub => exact execScrub_memWf h hs
  | bringUp => exact execBringUp_memWf h hs
  | elementCommit => exact execElementCommit_memWf h hs
  | rfwinWindowExpiry => exact memWf_of_eq (execRfwinWindowExpiry_mem h) hs

/-- The instruction whose meaning is that of an event. -/
noncomputable def evInstr : Ev → Instr
  | .timerArm t => .timerArm t
  | .timerCancel => .timerCancel
  | .qscPush w => .qscPush w
  | .qhsPush w => .qhsPush w
  | .copyQuery => .copyQuery
  | .copyResume => .copyResume
  | .copyCancel => .copyCancel
  | .engineQuery q => .engineQuery q
  | .engineStop q => .engineStop q
  | .engineGo q => .engineGo q
  | .dispatch => .dispatch
  | .displacement => .displacement
  | .waitLimit ent => .waitLimit ent
  | .timerExpiry ent => .timerExpiry ent
  | .timeoutExpiry ent => .timeoutExpiry ent
  | .deadLetterProbe ent => .deadLetterProbe ent
  | .deadLetterProbeArrival p => .deadLetterProbeArrival p
  | .messageArrival m => .messageArrival m
  | .recvNoticeArrival ep on => .recvNoticeArrival ep on
  | .sendReply who op code => .sendReply who op code
  | .creditReturn ep => .creditReturn ep
  | .activeMessage f a => .activeMessage f a
  | .remoteReply who op r => .remoteReply who op r
  | .fullemptyNotice who op => .fullemptyNotice who op
  | .fullemptyRetry f a => .fullemptyRetry f a
  | .splitPhaseReply who op r => .splitPhaseReply who op r
  | .shipReply q r => .shipReply q r
  | .journalAck j op => .journalAck j op
  | .postedStoreRefused j op r => .postedStoreRefused j op r
  | .postArrival m => .postArrival m
  | .patternFire => .patternFire
  | .wakeArrival ent job => .wakeArrival ent job
  | .forkChildCreate c => .forkChildCreate c
  | .eventWaitArrival m => .eventWaitArrival m
  | .eventSignalArrival m => .eventSignalArrival m
  | .eventClearArrival m => .eventClearArrival m
  | .eventTestArrival m => .eventTestArrival m
  | .eventReply m test value => .eventReply m test value
  | .eventOverflowRetry m => .eventOverflowRetry m
  | .barrierArrival who op job gang => .barrierArrival who op job gang
  | .barrierCompletion who op broken => .barrierCompletion who op broken
  | .copyElement ch k => .copyElement ch k
  | .copyComplete ch => .copyComplete ch
  | .copyHalt ch k code addr => .copyHalt ch k code addr
  | .copyResend ch => .copyResend ch
  | .scheduledFlitDelivery ch k collide => .scheduledFlitDelivery ch k collide
  | .tilePush ch => .tilePush ch
  | .tileWriteback ch slot => .tileWriteback ch slot
  | .mcmdArrival m => .mcmdArrival m
  | .mcmdResult who slot tag code idx => .mcmdResult who slot tag code idx
  | .matrixResume => .matrixResume
  | .sequencerWord e => .sequencerWord e
  | .scaleKeeperOp who op index value wr => .scaleKeeperOp who op index value wr
  | .msclReply who op v => .msclReply who op v
  | .trapDelivery => .trapDelivery
  | .urgentTaskStart => .urgentTaskStart
  | .forcedSave sl => .forcedSave sl
  | .coreSwitchOut => .coreSwitchOut
  | .migrationPlace => .migrationPlace
  | .fetchLineFill line bytes code => .fetchLineFill line bytes code
  | .shapeCacheFill slot bytes code => .shapeCacheFill slot bytes code
  | .shapeCacheInvalidate slot op => .shapeCacheInvalidate slot op
  | .jobStart die pool => .jobStart die pool
  | .jobCompletionCheck job => .jobCompletionCheck job
  | .statusRecordForward die => .statusRecordForward die
  | .admissionResume page => .admissionResume page
  | .envelopeAdmit pkt => .envelopeAdmit pkt
  | .clockUpdate agent rows => .clockUpdate agent rows
  | .rd8 q => .rd8 q
  | .rd32 q => .rd32 q
  | .rd64 q => .rd64 q
  | .wt8 q => .wt8 q
  | .wt32 q => .wt32 q
  | .wt64 q => .wt64 q
  | .wtm q => .wtm q
  | .routineAadd q => .routineAadd q
  | .routineAswp q => .routineAswp q
  | .routineAcas q => .routineAcas q
  | .routineAand q => .routineAand q
  | .routineAor q => .routineAor q
  | .routineAxor q => .routineAxor q
  | .routineAmin q => .routineAmin q
  | .routineAmax q => .routineAmax q
  | .routineAminu q => .routineAminu q
  | .routineAmaxu q => .routineAmaxu q
  | .fadd32 q => .fadd32 q
  | .xacc q => .xacc q
  | .gath8 q => .gath8 q
  | .publish q => .publish q
  | .fill64 q => .fill64 q
  | .svcMigrate q => .svcMigrate q
  | .svcInval q => .svcInval q
  | .svcLoad q => .svcLoad q
  | .svcUnload q => .svcUnload q
  | .tsvc q => .tsvc q
  | .loadableRoutine q => .loadableRoutine q
  | .tableWalk q => .tableWalk q
  | .pageCopyComplete m => .pageCopyComplete m
  | .endMarker m => .endMarker m
  | .refreshInterval stack => .refreshInterval stack
  | .refresh stack bank => .refresh stack bank
  | .rfwinNotice stack len => .rfwinNotice stack len
  | .creditOrAcknowledgement f => .creditOrAcknowledgement f
  | .streamMessage f => .streamMessage f
  | .accessRequest f => .accessRequest f
  | .accessReply f => .accessReply f
  | .writeWithEnqueue f => .writeWithEnqueue f
  | .collectiveData f down flags => .collectiveData f down flags
  | .collectiveControl f commit down => .collectiveControl f commit down
  | .linkDown link => .linkDown link
  | .collectiveSubmit block who job => .collectiveSubmit block who job
  | .collectiveComplete comm seq => .collectiveComplete comm seq
  | .collectiveLimitExpiry comm seq => .collectiveLimitExpiry comm seq
  | .collectiveRecordExpiry comm seq => .collectiveRecordExpiry comm seq
  | .mailboxIn m w => .mailboxIn m w
  | .mailboxLp m => .mailboxLp m
  | .mailboxToken m => .mailboxToken m
  | .mailboxOut m => .mailboxOut m
  | .qhsin m w => .qhsin m w
  | .registerWrite off w => .registerWrite off w
  | .notifyWrite page reg w fromHost => .notifyWrite page reg w fromHost
  | .doorbell page n => .doorbell page n
  | .hostBar4Access off len data write => .hostBar4Access off len data write
  | .hostAtomicop off op size a b => .hostAtomicop off op size a b
  | .switch c => .switch c
  | .restore c => .restore c
  | .migrate c => .migrate c
  | .abandon c => .abandon c
  | .urgent c => .urgent c
  | .setpstate c => .setpstate c
  | .setcap c => .setcap c
  | .settamper c => .settamper c
  | .provision c => .provision c
  | .lock c => .lock c
  | .retire c => .retire c
  | .release c => .release c
  | .debugchal c => .debugchal c
  | .debugopen c => .debugopen c
  | .debugend c => .debugend c
  | .dbggo c => .dbggo c
  | .attest c => .attest c
  | .fwupdate c => .fwupdate c
  | .dbgset c => .dbgset c
  | .setclock c => .setclock c
  | .reccfg c => .reccfg c
  | .counters c => .counters c
  | .settable c => .settable c
  | .tamperEvent cause island => .tamperEvent cause island
  | .thermalReduction island => .thermalReduction island
  | .powerSample watts draws => .powerSample watts draws
  | .powerStep => .powerStep
  | .scrub core off bad => .scrub core off bad
  | .bringUp image => .bringUp image
  | .hschSpinExpiry sl => .hschSpinExpiry sl
  | .elementCommit sl => .elementCommit sl
  | .envelopeAcknowledgement src dst n => .envelopeAcknowledgement src dst n
  | .rfwinWindowExpiry stack => .rfwinWindowExpiry stack

/-- An event means what the instruction of its name means. -/
theorem execEv_eq_exec (e : Ev) (s : State) : execEv e s = exec (evInstr e) s := by
  cases e <;> rfl

/-- The state in which a turn begins. -/
def NextTurn.state : NextTurn → State
  | .idle s => s
  | .issue s => s
  | .event s _ => s

@[simp] theorem State.takeWork_mem (s : State) (w : Work) : (s.takeWork w).state.mem = s.mem := by
  unfold State.takeWork
  cases w.pkt <;> cases w.ev <;> simp [NextTurn.state]

theorem State.act_mem {s : State} {a : Todo} {r : NextTurn} (h : s.act a = some r) : r.state.mem = s.mem := by
  unfold State.act at h
  cases hk : a.kind with simp only [hk] at h
  | retry i =>
    split at h
    · cases h
      exact State.focus_mem s a.core 0
    · cases h
  | issue =>
    split at h
    · cases h
    · obtain ⟨i, -, rfl⟩ := Option.map_eq_some_iff.1 h
      exact (State.noteIssue_mem _).trans (State.focus_mem s a.core 0)
  | side =>
    split at h
    all_goals
      obtain ⟨w, -, rfl⟩ := Option.map_eq_some_iff.1 h
      exact State.takeWork_mem s w
  | element | sequence | hardware =>
    obtain ⟨e, -, rfl⟩ := Option.map_eq_some_iff.1 h
    exact State.focus_mem s a.core 0

theorem State.firstAct_mem {s : State} {l : List Todo} {r : NextTurn} (h : s.firstAct l = some r) : r.state.mem = s.mem := by
  induction l with
  | nil => cases h
  | cons a rest ih =>
    unfold State.firstAct at h
    split at h
    · rename_i r' hr
      obtain rfl := Option.some.inj h
      simpa using State.act_mem hr
    · exact ih h

theorem State.takeTurn_memWf (s : State) (t : Turn) (rest : List Turn) (hs : memWf s.mem = true) :
    memWf (s.takeTurn t rest).state.mem = true := by
  unfold State.takeTurn
  dsimp only
  have hn := State.newCycle_memWf s hs
  split
  · split
    · exact hs
    · split
      · exact hn
      · simpa [NextTurn.state] using hs
  · split
    · exact hs
    · split
      · split
        · simpa [NextTurn.state] using hs
        · simpa [NextTurn.state] using hs
      · split
        · exact hn
        · simpa [NextTurn.state] using hs

theorem State.nextTurn_memWf (s : State) (hs : memWf s.mem = true) : memWf s.nextTurn.state.mem = true := by
  unfold State.nextTurn
  split
  · split
    · rename_i h
      rw [State.firstAct_mem h]
      exact hs
    · dsimp only
      split
      · exact State.takeTurn_memWf _ _ _ hs
      · exact State.newCycle_memWf _ hs
  · cases h : s.firstAct s.acts with
    | none => exact State.newCycle_memWf s hs
    | some r =>
      rw [Option.getD_some, State.firstAct_mem h]
      exact hs

theorem stepTurn_memWf {r : NextTurn} {t : State} (h : stepTurn r = .next t) (hr : memWf r.state.mem = true) :
    memWf t.mem = true := by
  cases r with
  | idle s =>
    obtain rfl := Host.Outcome.next.inj h
    exact hr
  | event s e => exact exec_memWf ((execEv_eq_exec e s).symm.trans h) hr
  | issue s =>
    have hf := State.fetch_memWf s hr
    simp only [stepTurn] at h
    split at h
    · rename_i hi
      rw [hi] at hf
      refine exec_memWf h ?_
      rw [State.occupying_mem]
      exact hf
    · rename_i hi
      rw [hi] at hf
      obtain rfl := Host.Outcome.next.inj h
      exact hf

/-- Settles O60: the turn begins in a state whose memory is in the canonical form, and every instruction and event keeps that form. -/
theorem stepKeepsMemory : Obligations.StepKeepsMemory := by
  intro s t hs h
  unfold step at h
  split at h
  · cases h
  · exact stepTurn_memWf h (State.nextTurn_memWf s hs)

end Sys2Proof.Machine
end

section
/-! ## The host interface (15 R421 to R423; 10 R317) -/

namespace Sys2Proof.Machine

/-! ### The order of the host's requests -/

theorem exec_of_isHostRequest {i : Instr} {e : Ev} (h : IsHostRequest i e) (s : State) : exec i s = .next (s.hostTurn e) := by
  rcases h with ⟨_, _, rfl, rfl⟩ | ⟨_, rfl, rfl⟩ | ⟨_, rfl, rfl⟩ | ⟨_, rfl, rfl⟩ | ⟨_, _, rfl, rfl⟩ | ⟨_, _, rfl, rfl⟩ |
    ⟨_, _, _, rfl, rfl⟩ | ⟨_, _, _, _, rfl, rfl⟩ | ⟨_, _, _, _, _, rfl, rfl⟩ <;> rfl

theorem State.hostTurn_of_not_verified {s : State} (e : Ev) (h : s.mgmt.verified = false) : s.hostTurn e = s.barsOff e := by
  simp [State.hostTurn, h]

theorem State.hostTurn_of_kept {s : State} (e : Ev) (hv : s.mgmt.verified = true) (hp : s.mgmt.power = .active)
    (hk : s.host.kept ≠ []) : s.hostTurn e = s.keepRequest e := by
  simp [State.hostTurn, State.keepRequest, hv, hp, hk]

theorem State.hostTurn_of_hostOpen {s : State} (e : Ev) (h : s.HostOpen) : s.hostTurn e = (s.hostDo e).getD (s.keepRequest e) := by
  obtain ⟨hv, hk⟩ := h
  simp [State.hostTurn, State.keepRequest, hv, hk]

/-- A request that need not wait takes place at once while none waits. -/
theorem exec_of_hostDo {s t : State} {i : Instr} {e : Ev} (he : exec i s = .next (s.hostTurn e)) (h : s.HostOpen)
    (hd : s.hostDo e = some t) : exec i s = .next t := by
  rw [he, State.hostTurn_of_hostOpen e h, hd, Option.getD_some]

/-- A request that must wait is kept. -/
theorem exec_of_hostDo_none {s : State} {i : Instr} {e : Ev} (he : exec i s = .next (s.hostTurn e)) (h : s.HostOpen)
    (hd : s.hostDo e = none) : exec i s = .next (s.keepRequest e) := by
  rw [he, State.hostTurn_of_hostOpen e h, hd, Option.getD_none]

theorem exec_mailboxIn {s : State} (m : Nat) (w : DWord) (h : s.HostOpen) : exec (.mailboxIn m w) s = .next (s.boxIn m (.word w)) :=
  exec_of_hostDo rfl h rfl

theorem exec_mailboxLp {s : State} (m : Nat) (h : s.HostOpen) : exec (.mailboxLp m) s = .next (s.boxIn m .last) :=
  exec_of_hostDo rfl h rfl

theorem exec_mailboxToken {s : State} (m : Nat) (h : s.HostOpen) : exec (.mailboxToken m) s = .next (s.boxIn m .token) :=
  exec_of_hostDo rfl h rfl

theorem exec_mailboxOut {s : State} (m : Nat) (h : s.HostOpen) : exec (.mailboxOut m) s = .next (s.boxOut m) :=
  exec_of_hostDo rfl h rfl

theorem exec_qhsin {s : State} (m : Nat) (w : DWord) (h : s.HostOpen) : exec (.qhsin m w) s = .next (s.qhsWrite m w) :=
  exec_of_hostDo rfl h rfl

theorem exec_registerWrite {s : State} (off : Nat) (w : DWord) (h : s.HostOpen) :
    exec (.registerWrite off w) s = .next (s.barWrite off w) :=
  exec_of_hostDo rfl h rfl

/-! ### Mailboxes -/

@[simp] theorem State.box_setBox (s : State) (m : Nat) (b : Mailbox) : (s.setBox m b).box m = b := by
  simp [State.box, State.setBox, Tbl.get?_set]

theorem State.boxIn_of_ge {s : State} {m : Nat} (b : Body) (h : 256 ≤ m) : s.boxIn m b = s := by
  simp [State.boxIn, h]

theorem State.boxIn_of_full {s : State} {m : Nat} (b : Body) (h : m < 256) (hf : 64 ≤ (s.box m).inq.length) :
    s.boxIn m b = s.setBox m { s.box m with drop := true } := by
  simp [State.boxIn, h.not_ge, hf]

theorem State.boxIn_of_room {s : State} {m : Nat} (b : Body) (h : m < 256) (hf : (s.box m).inq.length < 64) :
    s.boxIn m b = (s.setBox m { s.box m with inq := (s.box m).inq ++ [b] }).pumpBox m := by
  simp [State.boxIn, h.not_ge, hf.not_ge]

theorem State.pumpBox_of_unbound {s : State} {m : Nat} (h : s.host.bound.get? m = none) : s.pumpBox m = s := by
  simp [State.pumpBox, h]

theorem State.pumpBox_of_no_credit {s : State} {m : Nat} (h : (s.box m).credit = 0) : s.pumpBox m = s := by
  simp only [State.pumpBox]
  split
  · exact if_pos h
  · rfl

theorem State.readBoxFifo_of_sound {s : State} {k : Nat} (h : k ∉ s.host.fifoPoison) : s.readBoxFifo k = (false, s) := by
  simp [State.readBoxFifo, h]

theorem State.pumpBox_of_credit {s : State} {m c e : Nat} {w : Body} {rest : List Body} (hb : s.host.bound.get? m = some (c, e))
    (hi : (s.box m).inq = w :: rest) (hc : (s.box m).credit ≠ 0) (hp : 256 + m ∉ s.host.fifoPoison) :
    s.pumpBox m = (s.setBox m { s.box m with inq := rest, credit := (s.box m).credit - 1 }).sendFrom hostDst c none []
      (some (entryPlace c e))
      (.messageArrival { who := ⟨0, 0⟩, op := 0, src := .ext 2 m, dst := e, body := w, offer := false, job := none }) := by
  simp [State.pumpBox, hb, hi, hc, State.readBoxFifo_of_sound hp]

theorem State.boxIn_of_unbound {s : State} {m : Nat} (b : Body) (hm : m < 256) (hr : (s.box m).inq.length < 64)
    (h : s.host.bound.get? m = none ∨ (s.box m).credit = 0) :
    s.boxIn m b = s.setBox m { s.box m with inq := (s.box m).inq ++ [b] } := by
  rw [State.boxIn_of_room b hm hr]
  rcases h with h | h
  · exact State.pumpBox_of_unbound h
  · exact State.pumpBox_of_no_credit (by simpa using h)

theorem State.boxIn_of_credit {s : State} {m c e : Nat} (b : Body) (hm : m < 256) (hb : s.host.bound.get? m = some (c, e))
    (hi : (s.box m).inq = []) (hc : (s.box m).credit ≠ 0) (hp : 256 + m ∉ s.host.fifoPoison) :
    ∃ u : State,
      s.boxIn m b = u.sendFrom hostDst c none [] (some (entryPlace c e))
        (.messageArrival { who := ⟨0, 0⟩, op := 0, src := .ext 2 m, dst := e, body := b, offer := false, job := none }) ∧
      u.box m = { s.box m with inq := [], credit := (s.box m).credit - 1 } ∧ u.mem = s.mem ∧ u.core = s.core := by
  rw [State.boxIn_of_room b hm (by simp [hi]),
    State.pumpBox_of_credit (s := s.setBox m { s.box m with inq := (s.box m).inq ++ [b] }) (w := b) (rest := []) hb
      (by simp [hi]) (by simpa using hc) hp]
  exact ⟨_, rfl, by simp, rfl, rfl⟩

/-! The registers of mailbox m stand at the offsets 64 m to 64 m + 63 of BAR0 (Table 15-5). -/

theorem boxOffset_div (m : Nat) {k : Nat} (hk : k < 64) : (64 * m + k) / 64 = m := by omega
theorem boxOffset_mod (m : Nat) {k : Nat} (hk : k < 64) : (64 * m + k) % 64 = k := by omega

theorem State.barRead_out (s : State) {m : Nat} (hm : m < 256) : s.barRead (64 * m + 0x10) = (s.box m).head := by
  simp [State.barRead, boxOffset_div, hm.not_ge]

theorem State.barRead_counts (s : State) {m : Nat} (hm : m < 256) : s.barRead (64 * m + 0x18) = (s.box m).counts := by
  simp [State.barRead, boxOffset_div, hm.not_ge]

theorem State.barRead_flags (s : State) {m : Nat} (hm : m < 256) :
    s.barRead (64 * m + 0x20) = BitVec.ofNat 64 ((s.box m).irqen.toNat + (s.box m).drop.toNat * 2) := by
  simp [State.barRead, boxOffset_div, hm.not_ge]

theorem State.barRead_qhsdst (s : State) {m : Nat} (hm : m < 256) : s.barRead (64 * m + 0x28) = (s.box m).qhsdst.setWidth 64 := by
  simp [State.barRead, boxOffset_div, hm.not_ge]

theorem State.barRead_other (s : State) {m k : Nat} (hk : k < 64) (h10 : k ≠ 0x10) (h18 : k ≠ 0x18) (h20 : k ≠ 0x20)
    (h28 : k ≠ 0x28) : s.barRead (64 * m + k) = 0 := by
  simp [State.barRead, boxOffset_mod m hk]

theorem State.barRead_head_of_empty {s : State} {m : Nat} (h : (s.box m).outq = []) : s.barRead (64 * m + 0x10) = 0 := by
  by_cases hm : m < 256
  · simp [State.barRead_out s hm, Mailbox.head, h]
  · simp [State.barRead, boxOffset_div, Nat.not_lt.1 hm]

theorem Mailbox.counts_outcnt (x : Mailbox) (h : x.outq.length ≤ 256) : bits x.counts 0 9 = x.outq.length := by
  simp only [bits, Mailbox.counts, BitVec.toNat_ofNat, Nat.shiftRight_zero]
  omega

theorem Mailbox.counts_infree (x : Mailbox) : bits x.counts 16 7 = 64 - x.inq.length := by
  have hb (b : Bool) : b.toNat ≤ 1 := Bool.toNat_le b
  have h1 := hb (x.outq.head?.any fun u => u.2.2.2 == .last)
  have h2 := hb (x.outq.head?.any fun u => u.2.2.2 == .token)
  simp only [bits, Mailbox.counts, BitVec.toNat_ofNat, Nat.shiftRight_eq_div_pow]
  omega

theorem State.boxOut_of_empty {s : State} {m : Nat} (h : (s.box m).outq = []) :
    s.boxOut m = { s with outside := s.outside ++ [Outside.popped m 0] } := by
  simp [State.boxOut, h, State.barRead_head_of_empty h]

theorem State.wakeSender_of_none {s : State} {m : Nat} (h : ∀ w ∈ s.host.waiting, w.1 ≠ m) : s.wakeSender m = s := by
  have hf : (s.host.waiting.find? fun w => w.1 == m) = none := by simpa using h
  simp [State.wakeSender, hf]

theorem State.sendLetters_of_none {s : State} {m : Nat} (n : Nat) (h : ∀ l ∈ s.host.letters, l.1 ≠ m) :
    State.sendLetters n s m = s := by
  have hf : (s.host.letters.find? fun l => l.1 == m) = none := by simpa using h
  cases n <;> simp [State.sendLetters, hf]

/-- A read of OUT where nothing waits for the space: the head leaves the FIFO, and the host sees it when its parity is right. -/
theorem State.boxOut_of_cons {s : State} {m : Nat} {x : DWord × Nat × Nat × Body} {rest : List (DWord × Nat × Nat × Body)}
    (hm : m < 256) (hq : (s.box m).outq = x :: rest) (hw : ∀ w ∈ s.host.waiting, w.1 ≠ m) (hl : ∀ l ∈ s.host.letters, l.1 ≠ m) :
    s.boxOut m =
      let r := s.readBoxFifo m
      { (r.2.setBox m { s.box m with outq := rest }) with
        outside := s.outside ++ [Outside.popped m (if r.1 then 0 else x.1)] } := by
  have hh : s.barRead (64 * m + 0x10) = x.1 := by simp [State.barRead_out s hm, Mailbox.head, hq]
  have hr : (s.readBoxFifo m).2.host.waiting = s.host.waiting ∧ (s.readBoxFifo m).2.host.letters = s.host.letters ∧
      (s.readBoxFifo m).2.outside = s.outside := by
    unfold State.readBoxFifo
    split <;> exact ⟨rfl, rfl, rfl⟩
  obtain ⟨hrw, hrl, hro⟩ := hr
  simp only [State.boxOut, hq, hh]
  rw [State.wakeSender_of_none (by simpa [State.setBox, hrw] using hw),
    State.sendLetters_of_none _ (by simpa [State.setBox, hrl] using hl)]
  simp [State.setBox, hro]

theorem State.boxOut_of_poisoned {s : State} {m : Nat} {x : DWord × Nat × Nat × Body} {rest : List (DWord × Nat × Nat × Body)}
    (hm : m < 256) (hq : (s.box m).outq = x :: rest) (hw : ∀ w ∈ s.host.waiting, w.1 ≠ m) (hl : ∀ l ∈ s.host.letters, l.1 ≠ m)
    (hp : m ∈ s.host.fifoPoison) :
    ((s.boxOut m).box m).outq = rest ∧ (s.boxOut m).outside = s.outside ++ [Outside.popped m 0] ∧
      (s.boxOut m).mgmt.reports = s.mgmt.reports ++ [(hostDst, m)] := by
  rw [State.boxOut_of_cons hm hq hw hl]
  refine ⟨congrArg Mailbox.outq (State.box_setBox _ m _), ?_, ?_⟩ <;> simp [State.readBoxFifo, State.setBox, hp]

theorem State.qhsWrite_of_ge {s : State} {m : Nat} (w : DWord) (h : 256 ≤ m) : s.qhsWrite m w = s := by
  simp [State.qhsWrite, h]

theorem State.qhsWrite_of_full {s : State} {m : Nat} (w : DWord) (h : m < 256)
    (hf : 4 ≤ (s.coreAt (handleCore ((s.box m).qhsdst.setWidth 64))).qhs.length) :
    s.qhsWrite m w = s.setBox m { s.box m with drop := true } := by
  simp only [State.qhsWrite, h.not_ge, hf, if_false, if_true]

theorem State.qhsWrite_of_room {s : State} {m : Nat} (w : DWord) (h : m < 256)
    (hf : (s.coreAt (handleCore ((s.box m).qhsdst.setWidth 64))).qhs.length < 4) :
    s.qhsWrite m w = s.modCore (handleCore ((s.box m).qhsdst.setWidth 64)) fun y => { y with qhs := y.qhs ++ [w] } := by
  simp only [State.qhsWrite, h.not_ge, hf.not_ge, if_false]

theorem State.barWrite_in (s : State) {m : Nat} (w : DWord) (hm : m < 256) : s.barWrite (64 * m) w = s.boxIn m (.word w) := by
  have hn : 64 * m ≠ 0x01000000 := by omega
  simp [State.barWrite, hn, hm.not_ge]

theorem State.barWrite_marker (s : State) {m : Nat} (w : DWord) (hm : m < 256) :
    s.barWrite (64 * m + 8) w =
      if w.getLsbD 0 then s.boxIn m .last else if w.getLsbD 1 then s.boxIn m .token else s := by
  have hn : 64 * m + 8 ≠ 0x01000000 := by omega
  simp [State.barWrite, hn, boxOffset_div, hm.not_ge]

theorem State.barWrite_flags (s : State) {m : Nat} (w : DWord) (hm : m < 256) :
    s.barWrite (64 * m + 0x20) w = s.setBox m { s.box m with irqen := w.getLsbD 0, drop := (s.box m).drop && !w.getLsbD 1 } := by
  have hn : 64 * m + 0x20 ≠ 0x01000000 := by omega
  simp [State.barWrite, hn, boxOffset_div, hm.not_ge]

theorem State.barWrite_qhsdst (s : State) {m : Nat} (w : DWord) (hm : m < 256) :
    s.barWrite (64 * m + 0x28) w = s.setBox m { s.box m with qhsdst := w.setWidth 23 } := by
  have hn : 64 * m + 0x28 ≠ 0x01000000 := by omega
  simp [State.barWrite, hn, boxOffset_div, hm.not_ge]

theorem State.barWrite_qhsin (s : State) {m : Nat} (w : DWord) (hm : m < 256) : s.barWrite (64 * m + 0x30) w = s.qhsWrite m w := by
  have hn : 64 * m + 0x30 ≠ 0x01000000 := by omega
  simp [State.barWrite, hn, boxOffset_div, hm.not_ge]

/-! ### BAR4 and AtomicOps -/

/-- A passage between two agents looks neither at the stacks nor at memory, and keeps both. -/
theorem State.cross_of_dram (s : State) (hbm : Vector Stack 8) (mem : List Host.Cell) (src dst len : Nat) :
    ({ s with hbm := hbm, mem := mem } : State).cross src dst [] len =
      (s.cross src dst [] len).map fun y => { y with hbm := hbm, mem := mem } := by
  simp only [State.cross]
  split
  · rfl
  · rw [apply_ite (Option.map _)]
    rfl

theorem State.cross_hbm {s t : State} {src dst : Nat} {order : List (Nat × Nat)} {len : Nat}
    (h : s.cross src dst order len = some t) : t.hbm = s.hbm := by
  simp only [State.cross] at h
  split at h
  · rw [← Option.some.inj h]
  · split at h
    · rw [← Option.some.inj h]
    · cases h

/-- The requests of the host have no fibre whose substitutions would be recorded: without a bad granule nothing is substituted. -/
theorem State.substituted_of_sound {s : State} {q : Req} {p : Page} {pa n : Nat} (hq : 18432 ≤ q.who.core)
    (hb : (s.stack q.stack).bad pa n = []) : s.substituted q p pa n = (s, []) := by
  unfold State.substituted
  simp only [hb, List.contains_nil]
  refine List.foldlRecOn (motive := fun r => r = (s, [])) _ _ rfl fun r hr g _ => ?_
  simp [hr, State.noteSubst, hq]

/-- An update of sound granules for the host changes memory and the stacks, nothing else. -/
theorem State.dramUpdate_of_sound {s : State} {q : Req} {p : Page} {pa n : Nat} (f : List Byte → List Byte)
    (hq : 18432 ≤ q.who.core) (hb : (s.stack q.stack).bad pa n = []) :
    ∃ hbm, s.dramUpdate q p pa n f =
      ({ s with hbm := hbm,
                mem := memPut s.mem (dramHome q.stack pa) (f (memBytes s.mem (dramHome q.stack pa) n)) },
       .ok (memBytes s.mem (dramHome q.stack pa) n, false)) := by
  have hb' : ((s.countBad q.stack pa n).stack q.stack).bad pa n = [] := by
    rw [← hb]
    simp [State.countBad, State.stack, State.setStack, Stack.bad]
  have hr : (if p.tol = true then (s.countBad q.stack pa n).substituted q p pa n else (s.countBad q.stack pa n, [])) =
      (s.countBad q.stack pa n, []) := by
    split
    · exact State.substituted_of_sound hq hb'
    · rfl
  unfold State.dramUpdate
  simp only [hb, hr, List.isEmpty_nil, Bool.not_true, Bool.and_false, Bool.false_eq_true, if_false, if_true]
  exact ⟨_, rfl⟩

theorem State.bar4_read {s t : State} {off len : Nat} (data : List Byte) {l : List Byte}
    (h : s.edgeGet hostDst ⟨hostDst, 0⟩ none (s.barAddr off) len = .ok l t) :
    s.bar4 off len data false = some (t.completeHost l false) := by
  simp [State.bar4, h]

theorem State.bar4_write {s t : State} {off : Nat} (len : Nat) {data l : List Byte}
    (h : s.edgePut hostDst ⟨hostDst, 0⟩ none (s.barAddr off) data = .ok l t) : s.bar4 off len data true = some t := by
  simp [State.bar4, h]

theorem State.bar4_read_fault {s t : State} {off len code a : Nat} (data : List Byte)
    (h : s.edgeGet hostDst ⟨hostDst, 0⟩ none (s.barAddr off) len = .fault code a t) :
    s.bar4 off len data false = some (t.completeHost [] true) := by
  simp [State.bar4, h]

theorem State.bar4_write_fault {s t : State} {off code a : Nat} (len : Nat) {data : List Byte}
    (h : s.edgePut hostDst ⟨hostDst, 0⟩ none (s.barAddr off) data = .fault code a t) :
    s.bar4 off len data true = some (t.completeHost [] true) := by
  simp [State.bar4, h]

theorem State.bar4Atomic_of_no_page {s : State} {off size : Nat} {op : AtomOp} (a b : DWord) (h : s.pageOf (s.barAddr off) = none) :
    s.bar4Atomic off op size a b = some (s.completeHost [] true) := by
  simp [State.bar4Atomic, h]

theorem State.bar4Atomic_of_bad_op {s : State} {off size : Nat} {op : AtomOp} (a b : DWord)
    (h : (op ≠ .add ∧ op ≠ .swp ∧ op ≠ .cas) ∨ (size ≠ 4 ∧ size ≠ 8) ∨ s.barAddr off % size ≠ 0) :
    s.bar4Atomic off op size a b = some (s.completeHost [] true) := by
  have hg : ¬(((op == .add || op == .swp || op == .cas) && (size == 4 || size == 8) && s.barAddr off % size == 0) = true) := by
    simp only [Bool.and_eq_true, Bool.or_eq_true, beq_iff_eq]
    tauto
  simp only [State.bar4Atomic, if_neg hg]

theorem State.bar4Atomic_of_readonly {s : State} {off size : Nat} {op : AtomOp} {p : Page} (a b : DWord)
    (hp : s.pageOf (s.barAddr off) = some p) (hro : p.ro = true) : s.bar4Atomic off op size a b = some (s.completeHost [] true) := by
  simp only [State.bar4Atomic, hp]
  split
  · rfl
  · rename_i h
    obtain rfl : p = _ := by
      split at h
      · exact Option.some.inj h
      · cases h
    exact if_pos hro

/-- An AtomicOp of a kind and size that BAR4 takes, on a page that may be written. -/
structure State.TakesAtomic (s : State) (off size : Nat) (op : AtomOp) (p : Page) : Prop where
  kind : op = .add ∨ op = .swp ∨ op = .cas
  width : size = 4 ∨ size = 8
  aligned : s.barAddr off % size = 0
  page : s.pageOf (s.barAddr off) = some p
  writable : p.ro = false

theorem State.bar4Atomic_eq {s : State} {off size : Nat} {op : AtomOp} {p : Page} (a b : DWord) (h : s.TakesAtomic off size op p) :
    s.bar4Atomic off op size a b =
      if s.migrating (s.barAddr off) then none
      else
        (s.cross hostDst (serverDst p.home) [granulePlaces (s.barAddr off) size] 1).bind fun s' =>
          match s'.dramUpdate (engReq p.home ⟨hostDst, 0⟩ none (s.barAddr off)) p (p.pa (s.barAddr off)) size fun old =>
              leBytes (newValue op (8 * size) (leNat old) a.toNat b.toNat) size with
          | (t, .ok (old, _)) => (t.cross (serverDst p.home) hostDst [] 1).map fun t => t.completeHost old false
          | (t, .error _) => some (t.completeHost [] true) := by
  obtain ⟨hop, hsize, hal, hp, hro⟩ := h
  have hg : ((op == .add || op == .swp || op == .cas) && (size == 4 || size == 8) && s.barAddr off % size == 0) = true := by
    simp only [Bool.and_eq_true, Bool.or_eq_true, beq_iff_eq]
    tauto
  simp only [State.bar4Atomic, if_pos hg, hp, hro, Bool.false_eq_true, if_false] <;> rfl

/-- An AtomicOp on sound granules, where the request and its completion may pass: the host sees the old value, memory holds the new. -/
theorem State.bar4Atomic_of_sound {s x y : State} {off size : Nat} {op : AtomOp} {p : Page} (a b : DWord)
    (h : s.TakesAtomic off size op p) (hm : s.migrating (s.barAddr off) = false)
    (hb : (s.stack p.home).bad (p.pa (s.barAddr off)) size = [])
    (hx : s.cross hostDst (serverDst p.home) [granulePlaces (s.barAddr off) size] 1 = some x)
    (hy : x.cross (serverDst p.home) hostDst [] 1 = some y) :
    let home := dramHome p.home (p.pa (s.barAddr off))
    let old := memBytes s.mem home size
    ∃ u : State, s.bar4Atomic off op size a b = some (u.completeHost old false) ∧ u.agents = y.agents ∧
      u.mem = memPut s.mem home (leBytes (newValue op (8 * size) (leNat old) a.toNat b.toNat) size) := by
  intro home old
  have hxb : (x.stack p.home).bad (p.pa (s.barAddr off)) size = [] := by
    rw [← hb, State.stack, State.stack, State.cross_hbm hx]
  have hxm : x.mem = s.mem := State.cross_mem hx
  obtain ⟨hbm, hu⟩ := State.dramUpdate_of_sound (s := x) (q := engReq p.home ⟨hostDst, 0⟩ none (s.barAddr off)) (p := p)
    (fun old => leBytes (newValue op (8 * size) (leNat old) a.toNat b.toNat) size) (show 18432 ≤ hostDst by decide) hxb
  refine ⟨{ y with hbm := hbm, mem := memPut s.mem home (leBytes (newValue op (8 * size) (leNat old) a.toNat b.toNat) size) },
    ?_, rfl, rfl⟩
  rw [State.bar4Atomic_eq a b h, hm, hx, Option.bind_some, hu]
  simp only [hxm, Bool.false_eq_true, if_false]
  rw [State.cross_of_dram, hy]
  rfl

theorem State.bar4Atomic_of_migrating {s : State} {off size : Nat} {op : AtomOp} {p : Page} (a b : DWord)
    (h : s.TakesAtomic off size op p) (hm : s.migrating (s.barAddr off) = true) : s.bar4Atomic off op size a b = none := by
  rw [State.bar4Atomic_eq a b h, if_pos hm]

theorem State.bar4Atomic_of_no_cross {s : State} {off size : Nat} {op : AtomOp} {p : Page} (a b : DWord)
    (h : s.TakesAtomic off size op p) (hx : s.cross hostDst (serverDst p.home) [granulePlaces (s.barAddr off) size] 1 = none) :
    s.bar4Atomic off op size a b = none := by
  rw [State.bar4Atomic_eq a b h, hx]
  exact ite_self _

/-! ### The statement -/

/-- Settles O53: each request of the host acts as its register or window says; the clauses are the lemmas above, one after another. -/
theorem hostInterface : Obligations.HostInterface := by
  refine ⟨?order, fun s => ⟨fun _ _ _ => ⟨rfl, rfl⟩, fun _ _ _ _ _ => rfl, fun _ _ => rfl, fun _ _ => rfl⟩, ?mailboxIn, ?mailboxOut,
    ?registers, ?qhsin, ?writes, ?bar4⟩
  case order =>
    intro s i e he
    rw [exec_of_isHostRequest he]
    refine ⟨fun hv => ?_, fun hv hp hk => ?_, fun h hd => ?_⟩
    · rw [State.hostTurn_of_not_verified e hv]
    · rw [State.hostTurn_of_kept e hv hp hk]
    · rw [State.hostTurn_of_hostOpen e h, hd, Option.getD_none]
  case mailboxIn =>
    intro s m w i b h hi
    have hx : exec i s = .next (s.boxIn m b) := by
      rcases hi with ⟨rfl, rfl⟩ | ⟨rfl, rfl⟩ | ⟨rfl, rfl⟩
      · exact exec_mailboxIn m w h
      · exact exec_mailboxLp m h
      · exact exec_mailboxToken m h
    rw [hx]
    refine ⟨fun hm => ?_, fun hm hf => ?_, fun hm hr => ⟨fun hb => ?_, fun c e hb he hc hp => ?_⟩⟩
    · rw [State.boxIn_of_ge b hm]
    · rw [State.boxIn_of_full b hm hf]
    · rw [State.boxIn_of_unbound b hm hr hb]
    · obtain ⟨u, hu, hbox, hmem, hcore⟩ := State.boxIn_of_credit b hm hb he hc hp
      exact ⟨u, congrArg _ hu, hbox, hmem, hcore⟩
  case mailboxOut =>
    intro s m h
    rw [exec_mailboxOut m h]
    refine ⟨fun he => ?_, fun x rest hm hq hw hl => ⟨fun hp => ?_, fun hp => ?_⟩⟩
    · rw [State.boxOut_of_empty he]
    · rw [State.boxOut_of_cons hm hq hw hl, State.readBoxFifo_of_sound hp]
      rfl
    · exact ⟨_, rfl, State.boxOut_of_poisoned hm hq hw hl hp⟩
  case registers =>
    intro s m k hm hk x
    refine ⟨State.barRead_other s hk, State.barRead_out s hm, fun hi ho => ?_, ?_, State.barRead_qhsdst s hm⟩
    · rw [State.barRead_counts s hm]
      exact ⟨Mailbox.counts_outcnt x ho, Mailbox.counts_infree x⟩
    · rw [State.barRead_flags s hm, Nat.mul_comm]
  case qhsin =>
    intro s m w h c
    rw [exec_qhsin m w h]
    refine ⟨fun hm => ?_, fun hm hf => ?_, fun hm hr => ?_⟩
    · rw [State.qhsWrite_of_ge w hm]
    · rw [State.qhsWrite_of_full w hm hf]
    · rw [State.qhsWrite_of_room w hm hr]
  case writes =>
    intro s w h
    refine ⟨exec_registerWrite _ w h, fun m hm => ⟨?_, fun h0 => ?_, fun h0 h1 => ?_, ?_, ?_, ?_⟩⟩ <;> rw [exec_registerWrite _ w h]
    · rw [exec_mailboxIn m w h, State.barWrite_in s w hm]
    · rw [exec_mailboxLp m h, State.barWrite_marker s w hm, if_pos h0]
    · rw [exec_mailboxToken m h, State.barWrite_marker s w hm, h0, if_neg Bool.false_ne_true, if_pos h1]
    · rw [State.barWrite_flags s w hm]
    · rw [State.barWrite_qhsdst s w hm]
    · rw [exec_qhsin m w h, State.barWrite_qhsin s w hm]
  case bar4 =>
    intro s off len data h va
    have hx {write : Bool} {t : State} (hd : s.bar4 off len data write = some t) :
        exec (.hostBar4Access off len data write) s = .next t := exec_of_hostDo rfl h hd
    refine ⟨fun l t hr => hx (State.bar4_read data hr), fun l t hw => hx (State.bar4_write len hw),
      fun code a t hr => hx (State.bar4_read_fault data hr), fun code a t hw => hx (State.bar4_write_fault len hw), fun op size a b => ?_⟩
    have ha {t : State} (hd : s.bar4Atomic off op size a b = some t) : exec (.hostAtomicop off op size a b) s = .next t :=
      exec_of_hostDo rfl h hd
    have hk (hd : s.bar4Atomic off op size a b = none) :
        exec (.hostAtomicop off op size a b) s = .next (s.keepRequest (.hostAtomicop off op size a b)) := exec_of_hostDo_none rfl h hd
    refine ⟨fun hbad => ha (State.bar4Atomic_of_bad_op a b hbad), fun hp => ha (State.bar4Atomic_of_no_page a b hp),
      fun p hp hro => ha (State.bar4Atomic_of_readonly a b hp hro), fun p hop hsize hal hp hro => ?_⟩
    have ht : s.TakesAtomic off size op p := ⟨hop, hsize, hal, hp, hro⟩
    refine ⟨fun hm => hk (State.bar4Atomic_of_migrating a b ht hm), fun hm hb =>
      ⟨fun hq => hk (State.bar4Atomic_of_no_cross a b ht hq), fun x y hxx hy => ?_⟩⟩
    obtain ⟨u, hu, hag, hmem⟩ := State.bar4Atomic_of_sound a b ht hm hb hxx hy
    exact ⟨u, ha hu, hag, hmem⟩

end Sys2Proof.Machine
end

section
/-! ## Registers and queues (01 R18 to R26; 04 R117) -/

namespace Sys2Proof.Machine

/-! ### The last-result file (01 R19) -/

theorem State.writeReg_p_ctx (s : State) (k : Fin 8) (v : DWord) : (s.writeReg (.p k) v).ctx = { s.ctx with p := s.ctx.p.set k v } := by
  rw [writeReg_p, State.setMe_ctx]

theorem State.writeReg_queue_me {s : State} {d : Reg} (v : DWord) (hd : isQueue d = true) :
    (s.writeReg d v).me.l0 = s.me.l0 ∧ (s.writeReg d v).me.l1 = s.me.l1 := by
  cases d with
  | qtm =>
    show (s.setTimer v).me.l0 = s.me.l0 ∧ (s.setTimer v).me.l1 = s.me.l1
    unfold State.setTimer
    split <;> simp
  | p | s | z | l | id => cases hd
  | qm | qmx | qvx | qcp | qac | qam | qsc | qjn | qev | qhs | qs => exact ⟨rfl, rfl⟩

/-! ### Results under way (04 R117; 01 R20) -/

theorem Core.due_of_all_later {c : Core} {now : Nat} (h : ∀ x ∈ c.late, now < x.due) : c.due now = [] := by
  have hl : (c.late.filter fun x => decide (x.due ≤ now)) = [] := by simpa using h
  simp [Core.due, hl]

/-- A result is not lost to itself. -/
theorem Late.lostTo_self (x : Late) : x.lostTo x = false := by simp [Late.lostTo]

theorem Core.due_single {c : Core} {x : Late} {now : Nat} (h : c.late = [x]) (hx : x.due ≤ now) : c.due now = [x] := by
  simp [Core.due, h, hx, Late.lostTo_self, insertDue]

/-- Of two results that reach one register in the same cycle, the higher-numbered slot's is the one written (01 R20). -/
theorem Core.due_of_lostTo {c : Core} {x y : Late} {now : Nat} (h : c.late = [x, y] ∨ c.late = [y, x]) (hx : x.due ≤ now)
    (hy : y.due ≤ now) (hxy : x.lostTo y = true) (hyx : y.lostTo x = false) : c.due now = [y] := by
  rcases h with h | h <;> simp [Core.due, h, hx, hy, hxy, hyx, Late.lostTo_self, insertDue]

theorem Late.lostTo_of_reg {x y : Late} {n : Fin 32} {v w : DWord} (hd : x.due = y.due) (hr : x.rank < y.rank) (hx : x.what = .reg n v)
    (hy : y.what = .reg n w) : x.lostTo y = true ∧ y.lostTo x = false := by
  simp [Late.lostTo, hd, hr, hx, hy, Nat.le_of_lt hr]

/-- What is due is written, one after the other; the rest stays under way. -/
theorem State.landCore_of_due {s : State} {l : List Late} (hl : s.core.late ≠ []) (h : s.core.due s.coreCycles = l) :
    s.landCore = l.foldl (fun t x => t.landOne x)
      { s with core := { s.core with late := s.core.late.filter fun x => !decide (x.due ≤ s.coreCycles) } } := by
  simp [State.landCore, hl, h]

theorem State.setLate_self {s : State} {l : List Late} (h : s.core.late = l) : { s with core := { s.core with late := l } } = s := by
  subst h
  rfl

theorem State.landCore_of_all_later {s : State} (h : ∀ x ∈ s.core.late, s.coreCycles < x.due) : s.landCore = s := by
  by_cases hl : s.core.late = []
  · exact s.landCore_none hl
  · have hf : (s.core.late.filter fun x => !decide (x.due ≤ s.coreCycles)) = s.core.late :=
      List.filter_eq_self.2 fun x hx => by simpa using h x hx
    rw [State.landCore_of_due hl (Core.due_of_all_later h), hf]
    exact State.setLate_self rfl

/-- The core in turn with nothing under way. -/
def State.noLate (s : State) : State := { s with core := { s.core with late := [] } }

theorem State.landCore_single {s : State} {x : Late} (h : s.core.late = [x]) (hx : x.due ≤ s.coreCycles) :
    s.landCore = s.noLate.landOne x := by
  rw [State.landCore_of_due (by simp [h]) (Core.due_single h hx)]
  simp [h, hx, State.noLate]

theorem State.landCore_two {s : State} {x y : Late} {n : Fin 32} {v w : DWord} (h : s.core.late = [x, y] ∨ s.core.late = [y, x])
    (hx : x.due ≤ s.coreCycles) (hd : x.due = y.due) (hr : x.rank < y.rank) (hxv : x.what = .reg n v) (hyw : y.what = .reg n w) :
    s.landCore = s.noLate.landOne y := by
  obtain ⟨hxy, hyx⟩ := Late.lostTo_of_reg hd hr hxv hyw
  have hy : y.due ≤ s.coreCycles := hd ▸ hx
  rw [State.landCore_of_due (by rcases h with h | h <;> simp [h]) (Core.due_of_lostTo h hx hy hxy hyx)]
  rcases h with h | h <;> simp [h, hx, hy, State.noLate]

theorem State.landOne_reg {s : State} {x : Late} {n : Fin 32} {v : DWord} (h : x.what = .reg n v) :
    s.landOne x = { s with core := { s.core with s := s.core.s.set n v } } := by
  simp [State.landOne, h]

/-- A word pushed by a slot enters its queue (01 R23). -/
theorem State.landOne_push_room {s : State} {x : Late} {r : Reg} {v : DWord} (h : x.what = .push r v)
    (hr : ({ s with sid := Fin.ofNat 8 x.rank } : State).room r 0 = true) :
    s.landOne x = { ({ s with sid := Fin.ofNat 8 x.rank } : State).pushQueue r v with sid := s.sid } := by
  simp only [State.landOne, h, hr, Bool.or_true, if_true]

/-- A word whose queue is full stays under way (01 R23). -/
theorem State.landOne_push_full {s : State} {x : Late} {r : Reg} {v : DWord} (h : x.what = .push r v)
    (hr : ({ s with sid := Fin.ofNat 8 x.rank } : State).room r 0 = false) (hc : isCommand r v = false) :
    s.landOne x = { s with core := { s.core with late := s.core.late ++ [x] } } := by
  simp only [State.landOne, h, hr, hc, Bool.or_self, Bool.false_eq_true, if_false]

/-! ### Reading -/

/-- A queue named twice gives two words, the first for the first name (01 R24). -/
theorem State.popAll_twice {s t u : State} {r : Reg} {x y : DWord} (h : s.popReg r = some (x, t)) (h' : t.popReg r = some (y, u)) :
    s.popAll [r, r] = some ([x, y], u) := by
  simp [State.popAll, h, h']

theorem State.popAll_twice_none {s t : State} {r : Reg} {x : DWord} (h : s.popReg r = some (x, t)) (h' : t.popReg r = none) :
    s.popAll [r, r] = none := by
  simp [State.popAll, h, h']

theorem State.popReg_qs_nil {s : State} {k : Fin 8} (h : s.core.qs[k] = []) : s.popReg (.qs k) = none := by
  simp only [State.popReg, h]

theorem State.popReg_qs_cons {s : State} {k : Fin 8} {x : DWord} {l : List DWord} (h : s.core.qs[k] = x :: l) :
    s.popReg (.qs k) = some (x, { s with core := { s.core with qs := s.core.qs.set k l } }) := by
  simp only [State.popReg, h]

/-- Settles O8: each read and write by the definition of its register, the results under way by the lemmas on landing. -/
theorem registerReads : Obligations.RegisterReads := by
  refine ⟨fun s => ⟨fun _ => rfl, fun _ => rfl, rfl, rfl, rfl, rfl⟩, ?queues, ?writes, ?landing⟩
  case queues =>
    intro s k
    refine ⟨State.popReg_qs_nil, fun x l => State.popReg_qs_cons, fun x y l h => ?_, fun x h => ?_, ?_⟩
    · have h' : ({ s with core := { s.core with qs := s.core.qs.set k (y :: l) } } : State).core.qs[k] = y :: l := by simp
      rw [State.popAll_twice (State.popReg_qs_cons h) (State.popReg_qs_cons h')]
      simp
    · exact State.popAll_twice_none (State.popReg_qs_cons h) (State.popReg_qs_nil (by simp))
    · refine ⟨?_, ?_, ?_, ?_, ?_, ?_, ?_, ?_⟩ <;> intros <;> simp only [State.popReg, *]
  case writes =>
    intro s v
    refine ⟨fun k => ?_, fun k => ?_, ?_, fun d => State.writeReg_queue_me v⟩
    · simp [writeReg_p]
    · simp [writeReg_s]
    · simp [writeReg_z, State.ctx_def]
  case landing =>
    intro s k due i j v w
    refine ⟨fun h => ⟨fun hd => ?_, fun hd => ?_⟩, fun hij hd h => ?_⟩
    · rw [State.landCore_of_all_later (by simpa [h] using hd)]
    · rw [State.landCore_single h hd, State.landOne_reg rfl]
      rfl
    · rw [State.landCore_two (x := ⟨due, i, .reg k v⟩) (y := ⟨due, j, .reg k w⟩) h hd rfl hij rfl rfl, State.landOne_reg rfl]
      rfl

end Sys2Proof.Machine
end

section
/-! ## The turn of a slot (01 R16; 02 R51) -/

namespace Sys2Proof.Machine

/-! ### The step -/

theorem step_of_running {s : State} (h : s.mgmt.halted = false ∨ s.tamperDue = true) : step s = stepTurn s.nextTurn := by
  rcases h with h | h <;> simp [step, h]

theorem step_of_halted {s : State} (h : s.mgmt.halted = true) (ht : s.tamperDue = false) : step s = .fault .moduleHalted := by
  simp [step, h, ht]

theorem stepTurn_issue_run {u t : State} {i : Instr} (h : u.fetch = .run i t) : stepTurn (.issue u) = exec i (t.occupying i) := by
  simp [stepTurn, h]

theorem stepTurn_issue_whole {u t : State} (h : u.fetch = .whole t) : stepTurn (.issue u) = .next t := by
  simp [stepTurn, h]

theorem State.fetch_of_occupied {s : State} (h : s.core.occupied s.sid s.coreCycles = true) : s.fetch = .whole s := by
  simp [State.fetch, h]

/-! ### The order of turns -/

theorem State.nextTurn_of_agenda {s : State} {t : Turn} {rest : List Turn} (h : s.agenda = t :: rest)
    (hf : s.firstAct (s.acts.filter Todo.isRetry) = none) :
    s.nextTurn = if t.pass = 0 then ({ s with acts := [] } : State).takeTurn t rest
      else .idle ({ s with acts := [], agenda := { t with pass := t.pass - 1 } :: rest } : State).newCycle := by
  simp only [State.nextTurn, h, hf]

theorem State.nextTurn_of_retry {s : State} {r : NextTurn} (h : s.agenda ≠ [])
    (hf : s.firstAct (s.acts.filter Todo.isRetry) = some r) : s.nextTurn = r := by
  obtain ⟨t, rest, ha⟩ := List.exists_cons_of_ne_nil h
  simp only [State.nextTurn, ha, hf]

theorem State.nextTurn_of_no_agenda {s : State} (h : s.agenda = []) : s.nextTurn = (s.firstAct s.acts).getD (.idle s.newCycle) := by
  simp only [State.nextTurn, h]

/-- A turn that names no event goes to the slot that 01 R16 chooses, once its core may issue and its slot is free. -/
theorem State.takeTurn_issue {s : State} {t : Turn} (rest : List Turn) (he : t.ev = none) (hp : s.mgmt.power = .active) :
    s.takeTurn t rest =
      let u := ({ s with agenda := rest } : State).focus t.core t.slot
      if (u.core.readySlot t.slot u.coreCycles = true ∧ u.hasIssued = true) ∨ (u.core.idleIssue t.slot = true ∧ u.coreCycles < u.me.ready) then
        .idle s.newCycle
      else .issue ({ u with sid := u.chosen t.slot } : State).noteIssue := by
  simp [State.takeTurn, he, hp]

theorem State.takeTurn_issue_asleep {s : State} {t : Turn} (rest : List Turn) (he : t.ev = none) (hp : s.mgmt.power ≠ .active) :
    s.takeTurn t rest = .idle { s with agenda := rest } := by
  simp [State.takeTurn, he, hp]

/-- An event that needs the clocks is left out while they are stopped (16 R437). -/
theorem State.takeTurn_event_asleep {s : State} {t : Turn} {e : Ev} (rest : List Turn) (he : t.ev = some e) (hp : s.mgmt.power ≠ .active)
    (ha : anyPower e = false) : s.takeTurn t rest = .idle { s with agenda := rest } := by
  simp [State.takeTurn, he, hp, ha]

theorem State.completion_of_none {s : State} {e : Ev} (h : s.completes e = none) : s.completion e = s := by simp [State.completion, h]

/-- An event that comes about by a packet alone takes a packet that may be delivered (10 R314). -/
theorem State.takeTurn_packet {s : State} {t : Turn} {e : Ev} {rest : List Turn} {p : Packet} (he : t.ev = some e)
    (hp : s.mgmt.power = .active ∨ anyPower e = true) (hk : packetOnly e = true)
    (hf : (s.net.find? fun p => p.ev == e && ({ s with agenda := rest } : State).deliverable p) = some p) :
    s.takeTurn t rest = .event ((({ s with agenda := rest } : State).focus t.core t.slot).dropPacket p.num) e := by
  rcases hp with hp | hp <;> simp only [State.takeTurn, he, hp, hk, hf] <;> simp

theorem State.takeTurn_no_packet {s : State} {t : Turn} {e : Ev} {rest : List Turn} (he : t.ev = some e)
    (hp : s.mgmt.power = .active ∨ anyPower e = true) (hk : packetOnly e = true)
    (hf : ∀ p ∈ s.net, p.ev = e → ({ s with agenda := rest } : State).deliverable p = false)
    (hc : ({ s with agenda := rest } : State).completes e = none) :
    s.takeTurn t rest = .idle { s with agenda := rest } := by
  have hn : (s.net.find? fun p => p.ev == e && ({ s with agenda := rest } : State).deliverable p) = none :=
    List.find?_eq_none.2 fun p hp => by simpa using hf p hp
  rcases hp with hp | hp <;> simp only [State.takeTurn, he, hp, hk, hn, State.completion_of_none hc] <;> simp

theorem State.takeTurn_event {s : State} {t : Turn} {e : Ev} (rest : List Turn) (he : t.ev = some e)
    (hp : s.mgmt.power = .active ∨ anyPower e = true) (hk : packetOnly e = false) :
    s.takeTurn t rest =
      let u := ({ s with agenda := rest } : State).focus t.core t.slot
      if u.elementWaits e = true then .idle s.newCycle else .event u e := by
  rcases hp with hp | hp <;> simp [State.takeTurn, he, hp, hk]

/-! ### Every instruction answers a next state -/

theorem State.mtsr_next (s : State) (sr : BitVec 12) (a : Reg) (k : DWord → State → State) : ∃ t, s.mtsr sr a k = .next t := by
  unfold State.mtsr
  split <;> exact ⟨_, rfl⟩

theorem execMtsr_next (sr : BitVec 12) (a : Reg) (s : State) : ∃ t, execMtsr sr a s = .next t := State.mtsr_next s sr a _
theorem execMtsrUtask_next (a : Reg) (s : State) : ∃ t, execMtsrUtask a s = .next t := State.mtsr_next s _ a _
theorem execMtsrDlprobe_next (a : Reg) (s : State) : ∃ t, execMtsrDlprobe a s = .next t := State.mtsr_next s _ a _
theorem execMtsrEjrn_next (a : Reg) (s : State) : ∃ t, execMtsrEjrn a s = .next t := State.mtsr_next s _ a _

theorem execLoop_next (a : Reg) (off : BitVec 16) (s : State) : ∃ t, execLoop a off s = .next t := by
  unfold execLoop
  split <;> exact ⟨_, rfl⟩

theorem execShip_next (q : Reg) (n : BitVec 6) (a b : Reg) (s : State) : ∃ t, execShip q n a b s = .next t := by
  unfold execShip
  split <;> exact ⟨_, rfl⟩

theorem execAcas_next (o : Order) (sz : Size) (d a b : Reg) (s : State) : ∃ t, execAcas o sz d a b s = .next t := by
  unfold execAcas
  split
  · split <;> exact ⟨_, rfl⟩
  · exact ⟨_, rfl⟩

theorem execAltt_next (d a b : Reg) (s : State) : ∃ t, execAltt d a b s = .next t := by
  unfold execAltt
  dsimp only
  split
  · exact ⟨_, rfl⟩
  · split <;> exact ⟨_, rfl⟩

theorem execVcvt_next (dty sty : Ty) (d a : VReg) (s : State) : ∃ t, execVcvt dty sty d a s = .next t := by
  unfold execVcvt
  dsimp only
  split <;> exact ⟨_, rfl⟩

theorem execSetpstate_next (c : Cmd) (s : State) : ∃ t, execSetpstate c s = .next t := by
  unfold execSetpstate
  split <;> exact ⟨_, rfl⟩

/-- Every meaning is a next state; those that choose between ways of naming it have a lemma above. -/
theorem exec_next (i : Instr) (s : State) : ∃ t, exec i s = .next t := by
  cases i with
  | loop a off => exact execLoop_next a off s
  | ship q n a b => exact execShip_next q n a b s
  | acas o sz d a b => exact execAcas_next o sz d a b s
  | altt d a b => exact execAltt_next d a b s
  | vcvt dty sty d a => exact execVcvt_next dty sty d a s
  | mtsr sr a => exact execMtsr_next sr a s
  | mtsrUtask a => exact execMtsrUtask_next a s
  | mtsrDlprobe a => exact execMtsrDlprobe_next a s
  | mtsrEjrn a => exact execMtsrEjrn_next a s
  | setpstate c => exact execSetpstate_next c s
  | _ => exact ⟨_, rfl⟩

/-! ### The fetch of the word at the PC -/

/-- A slot that nothing holds up runs the word at its PC, LEND being read first where the loop record asks for it (02 R51; 04 R141):
v is the state after that read. -/
theorem State.fetch_run {u v : State} {i : Instr} {w : Word} (hc : u.core.halted = false) (hg : u.mgmt.goal = none)
    (ho : u.core.occupied u.sid u.coreCycles = false) (he : u.sid.val < 6 → u.me.ent ≠ none) (hb : 6 ≤ u.sid.val → u.me.busy = true)
    (hp : u.sid.val < 6 → (u.canTake = false ∨ u.me.group ≠ none ∧ u.me.stall = none) ∧ u.atSwitchPoint = false)
    (hw : u.fib.wait = none) (hr : u.me.run = none) (hm : u.mayFetch u.ctx.pc.toNat = true)
    (h0 : u.lendDue = none → v = u) (h1 : ∀ l, u.lendDue = some l → u.readLend l = .ok v)
    (hx : lineWord v.heldLines u.ctx.pc.toNat = some w) (hd : decode w = .ok i)
    (hgr : v.me.group = none → v.groupOutside 5 u.ctx.pc.toNat = none ∧
       ∃ hs t, groupWords v.heldLines 5 u.ctx.pc.toNat = .ok (hs, t) ∧ groupFault hs t (v.sid.val = 7) = none) :
    u.fetch = .run i ((v.useLine (u.ctx.pc.toNat / 64)).prefetch u.ctx.pc.toNat) := by
  have noEmpty : ¬(u.sid.val < 6 && u.me.ent.isNone || !(u.sid.val < 6) && !u.me.busy) = true := by
    by_cases h : u.sid.val < 6
    · simp [h, he h]
    · simp [h, hb (Nat.le_of_not_lt h)]
  have noTrap : ¬(u.sid.val < 6 && u.canTake && (u.me.group.isNone || u.me.stall.isSome || u.me.run.isSome)) = true := by
    by_cases h : u.sid.val < 6
    · rcases (hp h).1 with ht | ⟨hgn, hs⟩
      · simp [ht]
      · simp [hs, hr, hgn]
    · simp [h]
  have noSwitch : ¬(u.sid.val < 6 && (u.atSwitchPoint || u.mgmt.goal.isSome && u.me.atBoundary u.coreCycles)) = true := by
    by_cases h : u.sid.val < 6
    · simp [(hp h).2, hg]
    · simp [h]
  unfold State.fetch
  rw [if_neg (by simp [hc, hg]), if_neg (by simp [ho]), if_neg noEmpty, if_neg noTrap, if_neg noSwitch, if_neg (by simp [hw, hr]),
    if_neg (by simp [hm])]
  rcases hl : u.lendDue with _ | l
  on_goal 1 => obtain rfl := h0 hl
  on_goal 2 => simp only [h1 l hl]
  all_goals
    rcases hgn : v.me.group with _ | a
    · obtain ⟨hout, hs, t, hwords, hfault⟩ := hgr hgn
      simp [hx, hgn, hout, hwords, hfault, hd]
    · simp [hx, hgn, hd]

/-! ### The cycles of an instruction -/

@[simp] theorem State.occupying_lat (s : State) (i : Instr) : (s.occupying i).me.lat = occupancy i := by simp [State.occupying]

/-- Settles O58: the turns by the equations of nextTurn and takeTurn, the issue by that of fetch, the results under way by the lemmas on
landing. -/
theorem stepRunsTheDecodedInstruction : Obligations.StepRunsTheDecodedInstruction := by
  refine ⟨⟨?turns, fun s => step_of_halted, fun e s => ⟨_, execEv_eq_exec e s⟩, ?fetch, ?occupying⟩,
    ⟨fun s r => State.nextTurn_of_retry, ?acts, ?retry, ?agenda⟩, exec_next,
    fun s => State.fetch_of_occupied, fun s => State.landCore_of_all_later, ?one, ?two, ?push, fun _ _ _ => ⟨rfl, rfl, rfl, rfl, rfl, rfl, rfl⟩⟩
  case turns =>
    intro s u h
    rw [step_of_running h]
    refine ⟨fun hn => by rw [hn]; rfl, fun e hn => by rw [hn]; rfl, fun hn => ?_⟩
    rw [hn]
    exact ⟨fun i t => stepTurn_issue_run, fun t => stepTurn_issue_whole⟩
  case fetch =>
    intro u v i w hc hg ho he hb hp hw hr hm h0 h1 hx hd hgr
    exact State.fetch_run hc hg ho he hb hp hw hr hm h0 h1 hx hd hgr
  case occupying => exact fun s i => ⟨State.occupying_lat s i, rfl, rfl, State.occupying_ctx s i, rfl, rfl, rfl⟩
  case acts =>
    intro s ha
    rw [State.nextTurn_of_no_agenda ha]
    exact ⟨fun r hr => by rw [hr]; rfl, fun hr => by rw [hr]; rfl⟩
  case retry =>
    intro s a i hk
    simp only [State.act, hk]
  case agenda =>
    intro s t rest ha hf b
    rw [State.nextTurn_of_agenda ha hf]
    refine ⟨fun hp => if_neg hp, fun hp he => ?_, fun e hp he => ?_, State.focus_cid .., State.focus_sid .., State.focus_cycle ..⟩ <;>
      rw [if_pos hp]
    · refine ⟨State.takeTurn_issue_asleep (s := b) rest he, fun hw => ?_⟩
      rw [State.takeTurn_issue (s := b) rest he hw]
      exact ⟨fun h => if_pos h, fun h => if_neg h⟩
    · refine ⟨State.takeTurn_event_asleep (s := b) rest he, fun hw => ⟨fun hk => ?_, fun hk => ?_⟩⟩
      · exact ⟨fun p => State.takeTurn_packet (s := b) he hw hk, State.takeTurn_no_packet (s := b) he hw hk⟩
      · rw [State.takeTurn_event (s := b) rest he hw hk]
        exact ⟨fun h => if_pos h, fun h => if_neg (by rw [h]; exact Bool.false_ne_true)⟩
  case one =>
    intro s x n v h hx hv
    rw [State.landCore_single h hx, State.landOne_reg hv]
    rfl
  case two =>
    intro s x y n v w h hx hd hr hv hw
    rw [State.landCore_two h hx hd hr hv hw, State.landOne_reg hw]
    rfl
  case push =>
    intro s x r v h hx hv
    rw [State.landCore_single h hx]
    refine ⟨fun hr => State.landOne_push_room hv hr, fun hr hc => ?_⟩
    exact (State.landOne_push_full hv hr hc).trans (State.setLate_self h)

end Sys2Proof.Machine
end

section
/-! ## The gate, and an ALTT whose time has come (01 R24; 06 R201) -/

namespace Sys2Proof.Machine

/-- An ALTT whose gate stalls ends where its time has come: it writes 64 in d and 1 in its time-out register, and does not stall. -/
theorem execAltt_of_expired {s : State} {d a b : Reg} (hb : s.badTime b = false)
    (hg : (s.gate ⟨[a, b], some d, false, false⟩).isStall = true)
    (he : s.expired (s.dueOf 0xFF ((s.popReg b).map fun x => x.1.toNat)) = true) :
    exec (.altt d a b) s = .next (s.altTimesOut (s.clearRsv none) d b) := by
  unfold exec execAltt
  simp only [hb, hg, he, Bool.and_false, Bool.false_eq_true, if_false, and_self, if_true]

@[simp] theorem State.stallRead_ctx (s : State) (rs : List Reg) : (s.stallRead rs).ctx = s.ctx := by
  simp [State.stallRead, State.stallOn, State.ctx_def]

/-- An ALTT p0, qs0, p1 with the time 0 in p1 and no word in qs0. -/
def timedOutAltt : Instr := .altt (.p 0) (.qs 0) (.p 1)
def timedOutOpnds : Opnds := ⟨[.qs 0, .p 1], some (.p 0), false, false⟩

/-- Refutes O10: an ALTT with an empty source queue does not stall where its time-out has come, right after reset with the time 0: its
PC goes on to 4. -/
theorem not_gatesAndFieldFaults : ¬ Obligations.GatesAndFieldFaults := by
  intro h
  obtain ⟨-, -, hstall⟩ := h.1 timedOutAltt timedOutOpnds State.reset rfl (by decide)
  have hx := hstall (by decide) (by decide)
  rw [timedOutAltt, execAltt_of_expired (by decide) (by decide) (by decide)] at hx
  have hpc := congrArg (fun t : State => t.ctx.pc) (Host.Outcome.next.inj hx)
  simp only [State.stallRead_ctx] at hpc
  exact absurd hpc (by decide)

end Sys2Proof.Machine
end

section
/-! ## LOOP, the loop step and hint words (02 R63, R66; 04 R139 to R141) -/

namespace Sys2Proof.Machine

/-! ### Fields of words -/

theorem bits_eq_extractLsb' {n : Nat} (w : BitVec n) (lo len : Nat) : bits w lo len = (w.extractLsb' lo len).toNat :=
  (BitVec.extractLsb'_toNat ..).symm

theorem toNat_append_eq_add {m n : Nat} (x : BitVec m) (y : BitVec n) : (x ++ y).toNat = x.toNat * 2 ^ n + y.toNat := by
  rw [BitVec.toNat_append, ← Nat.shiftLeft_add_eq_or_of_lt y.isLt, Nat.shiftLeft_eq]

/-- A word that decodes is the word of its instruction (02 R51, steps 1 and 2). -/
theorem encode_of_decode {w : Word} {i : Instr} (h : decode w = .ok i) : encode i = some w := by
  unfold decode at h
  split at h
  · cases h
  · split at h
    · rename_i hi
      obtain rfl := Except.ok.inj h
      exact eq_of_beq (Bool.and_eq_true_iff.1 hi).2
    · cases h

theorem loop_offset {w : Word} {a : Reg} {off : BitVec 16} (h : decode w = .ok (.loop a off)) : w.setWidth 16 = off := by
  obtain rfl : mkB 0x13 0 a.code off = w := Option.some.inj (encode_of_decode h)
  exact BitVec.setWidth_append_eq_right

theorem himm_word {x : Word} {p : BitVec 22} (h : decode x = .ok (.himm p)) :
    isHintWord x = true ∧ bits x 22 4 = 0 ∧ BitVec.ofNat 22 x.toNat = p := by
  obtain rfl : mkH 0 p = x := Option.some.inj (encode_of_decode h)
  have hk : (mkH 0 p).extractLsb' 22 4 = 0 := by
    rw [mkH, BitVec.extractLsb'_append_eq_of_le (Nat.le_refl 22)]
    exact BitVec.extractLsb'_append_eq_right
  have ho : (mkH 0 p).extractLsb' 26 6 = 0x3F := by
    rw [mkH, BitVec.extractLsb'_append_eq_of_le (by decide)]
    exact BitVec.extractLsb'_append_eq_left
  refine ⟨?_, ?_, ?_⟩
  · rw [isHintWord, bits_eq_extractLsb', ho]
    rfl
  · rw [bits_eq_extractLsb', hk]
    rfl
  · rw [BitVec.ofNat_toNat]
    exact BitVec.setWidth_append_eq_right

/-! ### LEND (04 R141) -/

theorem himmBefore_of_no_hint {rd : Nat → Option Word} {a : Nat} {x : Word} (n : Nat) (hx : rd (a - 4) = some x) (h : isHintWord x = false) :
    himmBefore rd (n + 1) a = .ok none := by
  simp [himmBefore, hx, h]

theorem himmBefore_of_himm {rd : Nat → Option Word} {a : Nat} {x : Word} {p : BitVec 22} (n : Nat) (hx : rd (a - 4) = some x)
    (h : decode x = .ok (.himm p)) : himmBefore rd (n + 1) a = .ok (some p) := by
  obtain ⟨hint, kind, pay⟩ := himm_word h
  simp [himmBefore, hx, hint, kind, ← pay]

/-- LEND of a slot that has not read it yet: from the words as they stand. -/
theorem State.loopEnd_of_unread {s : State} {l : Nat} (h : s.me.lend = none) (hf : s.mayFetch l = true) (hd : inDram l = true) :
    s.loopEnd l = (lendOf (s.groupWord s.codeWord) l).toOption := by
  simp [State.loopEnd, h, hf, hd]

theorem State.groupWord_of_mayFetch {s : State} {l : Nat} (rd : Nat → Option Word) (hf : s.mayFetch l = true) (hd : inDram l = true) :
    s.groupWord rd l = rd l := by
  simp [State.groupWord, hf, hd]

theorem lendOf_of_no_himm {rd : Nat → Option Word} {l : Nat} {w x : Word} {a : Reg} {off : BitVec 16} (hw : rd l = some w)
    (hd : decode w = .ok (.loop a off)) (hx : rd (l - 4) = some x) (h4 : 4 ≤ l) (h : isHintWord x = false) :
    lendOf rd l = .ok (BitVec.ofNat 48 l + 4 * off.signExtend 48) := by
  obtain ⟨n, hn⟩ : ∃ n, l / 4 = n + 1 := ⟨l / 4 - 1, by omega⟩
  simp only [lendOf, hw, hn, himmBefore_of_no_hint n hx h, loop_offset hd]

theorem lendOf_of_himm {rd : Nat → Option Word} {l : Nat} {w x : Word} {a : Reg} {off : BitVec 16} {p : BitVec 22} (hw : rd l = some w)
    (hd : decode w = .ok (.loop a off)) (hx : rd (l - 4) = some x) (h4 : 4 ≤ l) (h : decode x = .ok (.himm p)) :
    lendOf rd l = .ok (BitVec.ofNat 48 l + 4 * (p ++ off : BitVec 38).signExtend 48) := by
  obtain ⟨n, hn⟩ : ∃ n, l / 4 = n + 1 := ⟨l / 4 - 1, by omega⟩
  simp only [lendOf, hw, hn, himmBefore_of_himm n hx h, loop_offset hd]

/-! ### The loop step (04 R141) -/

/-- A non-hint word at LEND ends its loop's body. -/
def State.atLend (s : State) (c : Ctx) (a : Addr) : Prop :=
  c.p[7].getLsbD 63 = true ∧ s.loopEnd ((c.p[7].extractLsb' 0 46).toNat * 4) = some a

theorem State.stepCtx_of_not_atLend {s : State} {c : Ctx} {a : Addr} (h : ¬ s.atLend c a) : s.stepCtx c a = { c with pc := a + 4 } := by
  unfold State.stepCtx
  refine if_neg ?_
  simpa [State.atLend, bits_eq_extractLsb'] using h

theorem State.stepCtx_of_atLend {s : State} {c : Ctx} {a : Addr} (h : s.atLend c a) :
    s.stepCtx c a = if bits c.p[7] 46 17 > 0 then
        { c with p := c.p.set 7 (c.p[7] - BitVec.ofNat 64 (2 ^ 46)), pc := BitVec.ofNat 48 (bits c.p[7] 0 46 * 4 + 4) }
      else { c with p := c.p.set 7 0, pc := a + 4 } := by
  unfold State.stepCtx
  refine if_pos ?_
  simpa [State.atLend, bits_eq_extractLsb'] using h

/-- The address of the word behind the LOOP word that a loop record names. -/
theorem loopBody_addr (v : DWord) : BitVec.ofNat 48 (bits v 0 46 * 4 + 4) = (v.extractLsb' 0 46 ++ 0#2) + 4 := by
  apply BitVec.eq_of_toNat_eq
  rw [BitVec.toNat_add, toNat_append_eq_add, bits_eq_extractLsb']
  rfl

/-! ### LOOP (04 R139, R140) -/

theorem loopRecord_eq {n : Nat} (hn : n ≤ 131072) (a : Addr) :
    loopRecord n a = 1#1 ++ BitVec.ofNat 17 (n - 1) ++ a.extractLsb' 2 46 := by
  apply BitVec.eq_of_toNat_eq
  have ha := (a.extractLsb' 2 46).isLt
  have hm : (BitVec.ofNat 17 (n - 1)).toNat = n - 1 := by rw [BitVec.toNat_ofNat, Nat.mod_eq_of_lt (by omega)]
  rw [loopRecord, toNat_append_eq_add, toNat_append_eq_add, bits_eq_extractLsb', hm, BitVec.toNat_ofNat, Nat.mod_eq_of_lt (by omega),
    show (1#1).toNat = 1 from rfl]
  omega

theorem exec_loop_of_bad_offset {s : State} (a : Reg) {off : BitVec 16} (h : (s.immB off).toInt < 1) :
    exec (.loop a off) s = .next (s.raise (flt 0x02)) :=
  if_pos (by simpa [BitVec.slt] using h)

theorem exec_loop {s t : State} {a : Reg} {off : BitVec 16} {n : DWord} (h : 1 ≤ (s.immB off).toInt)
    (hr : s.Ready ⟨[a], none, false, false⟩ [n] t) :
    exec (.loop a off) s = .next (if n.toNat > 131072 then s.raise (flt 0x02)
      else if n = 0 then (t.setP7 0).jumpTo (s.target (s.immB off) + 4)
      else (t.setP7 (loopRecord n.toNat s.ctx.pc)).jumpTo (s.ctx.pc + 4)) := by
  have hs : ¬ (s.immB off).slt 1 = true := by simpa [BitVec.slt] using h
  exact (if_neg hs).trans (issue_go hr)

theorem State.setP7_eq (s : State) (v : DWord) :
    s.setP7 v = s.setMe { s.me with fib := { s.fib with ctx := { s.ctx with p := s.ctx.p.set 7 v } }, lend := none } := by
  simp [State.setP7, State.setCtx, State.setFib]

/-- Settles O6: LOOP by the branches of its meaning, LEND from the decoded words, the loop step by its cases. -/
theorem loopsAndHints : Obligations.LoopsAndHints := by
  refine ⟨fun a off s => exec_loop_of_bad_offset a, ?loop, ?setP7, State.jumpTo_ctx, ?lend, ?step,
    fun s => ⟨fun _ => rfl, fun _ => rfl, fun _ _ => rfl, fun _ _ _ _ _ => rfl⟩⟩
  case loop =>
    intro a off s t n hr
    refine ⟨fun h hn => ?_, fun h hn => ?_, fun h hn hle => ?_⟩ <;> rw [exec_loop h hr]
    · rw [if_pos hn]
    · rw [hn, if_neg (by decide), if_pos rfl, State.target, BitVec.mul_comm]
    · rw [if_neg (by omega), if_neg hn, loopRecord_eq hle]
  case setP7 =>
    intro s v
    rw [State.setP7_eq]
    exact ⟨State.setMe_ctx .., by rw [State.setMe_me], by rw [State.setMe_me], rfl, fun k => State.setMe_other s _ k⟩
  case lend =>
    intro s l w x a off hl hf hd hw hdec hx h4
    have hw' : s.groupWord s.codeWord l = some w := by rw [State.groupWord_of_mayFetch _ hf hd, hw]
    rw [State.loopEnd_of_unread hl hf hd]
    exact ⟨fun h => by rw [lendOf_of_no_himm hw' hdec hx h4 h]; rfl, fun p h => by rw [lendOf_of_himm hw' hdec hx h4 h]; rfl⟩
  case step =>
    intro s c a
    refine ⟨State.stepCtx_of_not_atLend, fun h63 hl hk => ?_, fun h63 hl hk => ?_⟩ <;>
      rw [State.stepCtx_of_atLend ⟨h63, hl⟩, bits_eq_extractLsb' c.p[7] 46 17]
    · rw [if_pos (Nat.pos_of_ne_zero fun h => hk (BitVec.eq_of_toNat_eq h)), loopBody_addr]
      rfl
    · rw [hk]
      rfl

end Sys2Proof.Machine
end

section
/-! ## Writing registers, and the frame of the register instructions (01 R19, R23, R26, R29; 04 R115, R117, R138) -/

namespace Sys2Proof.Machine

/-! ### Pushing a word -/

/-- A queue register of the core takes a word where it has room, those on their way counted, and the word is then under way. -/
theorem State.push_takes {s : State} {r : Reg} {v : DWord} {len max : Nat} (hd : s.dstCheck r v = s.roomFor r)
    (hw : s.writeReg r v = s.later (.push r v)) (hr : ∀ k, s.room r k = decide (len + k < max)) :
    (len + s.core.pushes r (s.coreCycles + 1) < max → s.dstCheck r v = .ok ∧
      (s.writeReg r v).core = { s.core with late := s.core.late ++ [⟨s.coreCycles + s.me.lat, s.sid.val, .push r v⟩] }) ∧
    (max ≤ len + s.core.pushes r (s.coreCycles + 1) → s.dstCheck r v = .stall) := by
  rw [hd, hw, State.roomFor, State.hasRoom, hr]
  exact ⟨fun h => ⟨if_pos (by simpa using h), rfl⟩, fun h => if_neg (by simpa using h)⟩

/-- A word that is due enters its queue, or waits while the queue is full. -/
theorem State.landOne_push_enters {s : State} {due : Nat} {i : Fin 8} {r : Reg} {v : DWord} {len max : Nat} {c : Core}
    (hc : isCommand r v = false) (hr : ({ s with sid := i } : State).room r 0 = decide (len < max))
    (hp : (({ s with sid := i } : State).pushQueue r v).core = c) :
    (len < max → (s.landOne ⟨due, i.val, .push r v⟩).core = c) ∧
    (max ≤ len → (s.landOne ⟨due, i.val, .push r v⟩).core =
      { s.core with late := s.core.late ++ [(⟨due, i.val, .push r v⟩ : Late)] }) := by
  have hi : (Fin.ofNat 8 i.val : Fin 8) = i := Fin.ext (Nat.mod_eq_of_lt i.isLt)
  refine ⟨fun h => ?_, fun h => ?_⟩
  · rw [State.landOne_push_room (x := ⟨due, i.val, .push r v⟩) rfl (by rw [hi, hr, decide_eq_true h]), hi]
    exact hp
  · rw [State.landOne_push_full (x := ⟨due, i.val, .push r v⟩) rfl (by rw [hi, hr, decide_eq_false (Nat.not_lt.2 h)]) hc]

/-! ### Timers (01 R26) -/

theorem State.dstCheck_qtm_of_range {s : State} {v : DWord} (h : 2 ^ 40 ≤ v.toNat) : s.dstCheck .qtm v = .fault (flt 0x02) := if_pos h

theorem State.dstCheck_qtm_of_full {s : State} {v : DWord} (hv : v ≠ 0) (h : v.toNat < 2 ^ 40)
    (hf : 4 ≤ s.fib.timers.length + s.fib.expired.length + s.fib.qtm.length) : s.dstCheck .qtm v = .stall :=
  (if_neg (by omega)).trans (if_pos ⟨hv, hf⟩)

theorem State.dstCheck_qtm_of_room {s : State} {v : DWord} (h : v.toNat < 2 ^ 40)
    (hf : v = 0 ∨ s.fib.timers.length + s.fib.expired.length + s.fib.qtm.length < 4) : s.dstCheck .qtm v = .ok := by
  refine (if_neg (by omega)).trans (if_neg ?_)
  rintro ⟨hv, hl⟩
  rcases hf with rfl | hf
  · exact hv rfl
  · omega

theorem State.writeReg_qtm_zero (s : State) : s.writeReg .qtm 0 = s.setFib { s.fib with timers := [], expired := [], qtm := [] } := rfl

theorem State.writeReg_qtm {s : State} {v : DWord} (hv : v ≠ 0) :
    s.writeReg .qtm v = s.setFib { s.fib with timers := s.fib.timers ++ [⟨s.now + v.toNat, s.fib.armCount % 65536⟩],
                                              armCount := s.fib.armCount + 1 } := if_neg hv

/-! ### A plain register written, as one update of the state -/

/-- The registers p0 to p7 after a value is written in a plain register. -/
def ownRegsAfter (d : Reg) (p : Vector DWord 8) (v : DWord) : Vector DWord 8 :=
  match d with
  | .p k => p.set k v
  | _ => p

/-- The results under way after a value is written in a plain register. -/
def State.lateAfter (s : State) (d : Reg) (v : DWord) : List Late :=
  match d with
  | .s k => s.core.late ++ [⟨s.coreCycles + s.me.lat, s.sid.val, .reg k v⟩]
  | _ => s.core.late

theorem State.lateAfter_of_ne (s : State) {d : Reg} (v : DWord) (h : ∀ k, d ≠ .s k) : s.lateAfter d v = s.core.late := by
  cases d with
  | s k => exact absurd rfl (h k)
  | _ => rfl

/-- The core in turn with other results under way. -/
def State.withLate (s : State) (l : List Late) : State := { s with core := { s.core with late := l } }

theorem State.writeReg_plain {s : State} {d : Reg} (hd : d.isPlain = true) (v : DWord) :
    s.writeReg d v = (s.withLate (s.lateAfter d v)).setMe
      { s.me with fib := { s.fib with ctx := { s.ctx with p := ownRegsAfter d s.ctx.p v } }, l1 := s.me.l0, l0 := v } := by
  cases d with
  | p k => exact writeReg_p s k v
  | s k => exact writeReg_s s k v
  | z => exact writeReg_z s v
  | _ => cases hd

theorem ownRegsAfter_getElem {d : Reg} {k : Fin 8} (hk : d ≠ .p k) (p : Vector DWord 8) (v : DWord) :
    (ownRegsAfter d p v)[k] = p[k] := by
  cases d with
  | p j =>
    have hj : (j : Nat) ≠ k := fun h => hk (congrArg Reg.p (Fin.ext h))
    exact Vector.getElem_set_ne j.isLt k.isLt hj
  | _ => rfl

/-! ### The end of a register instruction -/

/-- The state in which a register instruction with destination d completes: its flags sticky, its result in d. -/
def State.regEnd (s : State) (d : Reg) (v : DWord) (fl : BitVec 7) : State := ((s.setCtx (s.ctx.orFlags fl)).writeReg d v).advance

/-- The context whose loop step a register instruction takes. -/
def State.regCtx (s : State) (d : Reg) (v : DWord) (fl : BitVec 7) : Ctx := { s.ctx.orFlags fl with p := ownRegsAfter d s.ctx.p v }

theorem Ctx.orFlags_zero (c : Ctx) : c.orFlags 0 = c := by simp [Ctx.orFlags]

theorem State.setMe_self (s : State) : s.setMe s.me = s := by
  have h : s.core.slots.set s.sid s.me = s.core.slots := Vector.set_getElem_self _
  rw [State.setMe, h]

theorem State.setCtx_self (s : State) : s.setCtx s.ctx = s := s.setMe_self

/-- The flags stand in bits 13 to 19 of the status word (01 Table 1-2). -/
theorem Ctx.orFlags_status_mask (c : Ctx) (fl : BitVec 7) : (c.orFlags fl).status &&& 0xFFF01FFF = c.status &&& 0xFFF01FFF := by
  have h : ∀ fl : BitVec 7, (fl.setWidth 32 <<< 13) &&& 0xFFF01FFF = 0 := by decide
  rw [Ctx.orFlags, BitVec.and_or_distrib_right, h]
  simp

/-- The slot in turn once its result is written. -/
def State.regSlot (s : State) (d : Reg) (v : DWord) (fl : BitVec 7) : Slot :=
  { s.me with fib := { s.fib with ctx := s.regCtx d v fl }, l1 := s.me.l0, l0 := v }

theorem State.writeReg_setCtx_plain {s : State} {d : Reg} (hd : d.isPlain = true) (v : DWord) (fl : BitVec 7) :
    (s.setCtx (s.ctx.orFlags fl)).writeReg d v = (s.withLate (s.lateAfter d v)).setMe (s.regSlot d v fl) := by
  have hl : (s.setCtx (s.ctx.orFlags fl)).lateAfter d v = s.lateAfter d v := by
    cases d <;> simp [State.lateAfter, State.coreCycles, State.cyclesOf, State.islandSixteenths, State.sixteenthsAt, State.stepOf]
  rw [State.writeReg_plain hd, hl, State.setCtx_me, State.setCtx_fib, State.setCtx_ctx]
  exact State.setMe_setMe (s.withLate (s.lateAfter d v)) { s.me with fib := { s.fib with ctx := s.ctx.orFlags fl } } (s.regSlot d v fl)

theorem State.sameCode_of_written (s : State) (l : List Late) (d : Reg) (v : DWord) (fl : BitVec 7) :
    s.SameCode ((s.withLate l).setMe (s.regSlot d v fl)) := by
  constructor <;> simp [State.withLate, State.regSlot, State.job?]

/-- A completion changes the slot in turn and the results under way; the context takes the loop step. -/
theorem State.regEnd_eq {s : State} {d : Reg} (hd : d.isPlain = true) (v : DWord) (fl : BitVec 7) :
    ∃ m : Slot, s.regEnd d v fl = (s.withLate (s.lateAfter d v)).setMe m ∧ m.fib.ctx = s.stepCtx (s.regCtx d v fl) s.ctx.pc := by
  refine ⟨_, (congrArg State.advance (State.writeReg_setCtx_plain hd v fl)).trans
    ((State.advance_eq _).trans (State.setMe_setMe ..)), ?_⟩
  dsimp only
  rw [State.stepCtx_congr (s.sameCode_of_written ..), State.setMe_ctx]
  rfl

/-! ### The register instructions -/

/-- A register instruction computes a value, a floating-point one with flags. -/
theorem exec_of_regOp {i : Instr} {rs : List Reg} {d : Reg} (h : regOpOf i = some (rs, d)) (s : State) :
    (∃ f, exec i s = s.compute rs d f) ∨ (isFloat i = true ∧ ∃ f, exec i s = s.floating rs d f) := by
  cases i with
  | fadd | fsub | fmul | fdiv | fmin | fmax | fcmpeq | fcmplt | fcmple | fsqrt | fabs | fneg | fclass | frcp | ffma | fcvt =>
    cases h
    exact .inr ⟨rfl, _, rfl⟩
  | add | sub | mul | mulh | mulhu | and | or | xor | andn | shl | shr | sra | rot | min | max | minu | maxu | cmpeq | cmpne | cmplt
  | cmpltu | cmple | cmpleu | cmov | clz | ctz | popc | brev | bswap | exts | extz | not | neg | abs | addi | andi | ori | xori | shli
  | shri | srai | roti | cmpeqi | cmplti | cmpltui | lui | addpc | bfx | bfi | wid | addx | cpff | cpts | wmrd =>
    cases h
    exact .inl ⟨_, rfl⟩
  | _ => cases h

theorem Reg.isQueue_of_isPlain {d : Reg} (h : d.isPlain = true) : isQueue d = false := by
  cases d with
  | p | s | z => rfl
  | _ => cases h

/-- With plain operands a register instruction completes, and only a floating-point one sets flags. -/
theorem exec_regOp {i : Instr} {rs : List Reg} {d : Reg} {s : State} (h : regOpOf i = some (rs, d)) (hq : ∀ r ∈ rs, isQueue r = false)
    (hd : d.isPlain = true) (hg : s.gateFault ⟨rs, some d, false, false⟩ = none) :
    ∃ v fl, exec i s = .next (s.regEnd d v fl) ∧ (isFloat i = false → fl = 0) := by
  obtain ⟨vs, hv⟩ := popAll_plain s rs hq
  have hr : s.Ready ⟨rs, some d, false, false⟩ vs s := ⟨hg, hv⟩
  have hdst (v : DWord) : s.dstCheck d v = .ok := dstCheck_plain s d v (Reg.isQueue_of_isPlain hd)
  rcases exec_of_regOp h s with ⟨f, hf⟩ | ⟨hfl, f, hf⟩
  · refine ⟨f vs, 0, ?_, fun _ => rfl⟩
    rw [hf, compute_next hr (hdst _), State.regEnd, Ctx.orFlags_zero, State.setCtx_self]
  · refine ⟨BitVec.ofNat 64 (f vs).1, (f vs).2, ?_, fun hn => absurd (hfl.symm.trans hn) (by decide)⟩
    rw [hf, floating_next hr (hdst _), State.regEnd]

/-- The loop step moves p7 by what p7 holds. -/
theorem State.stepCtx_p7_congr (s : State) {c e : Ctx} (a : Addr) (h : c.p[7] = e.p[7]) : (s.stepCtx c a).p[7] = (s.stepCtx e a).p[7] := by
  by_cases hl : s.atLend c a
  · have hl' : s.atLend e a := by simpa only [State.atLend, h] using hl
    rw [State.stepCtx_of_atLend hl, State.stepCtx_of_atLend hl', h]
    split <;> simp
  · have hl' : ¬ s.atLend e a := by simpa only [State.atLend, h] using hl
    rw [State.stepCtx_of_not_atLend hl, State.stepCtx_of_not_atLend hl', h]

/-- Settles O9: the queues by the room they have, the frame from the one update of the state that a register instruction makes. -/
theorem registerWrites : Obligations.RegisterWrites := by
  refine ⟨fun s v => ⟨fun k => State.push_takes rfl rfl fun _ => rfl, State.push_takes rfl rfl fun _ => rfl,
    State.push_takes rfl rfl fun _ => rfl, State.push_takes rfl rfl fun _ => rfl, State.push_takes rfl rfl fun _ => rfl,
    fun due i => ⟨fun k => State.landOne_push_enters rfl rfl rfl, State.landOne_push_enters rfl rfl rfl,
      State.landOne_push_enters rfl rfl rfl, State.landOne_push_enters rfl rfl rfl, State.landOne_push_enters rfl rfl rfl⟩,
    State.dstCheck_qtm_of_range, ?cancel, ?arm⟩, ?frame⟩
  case cancel =>
    rw [State.writeReg_qtm_zero, State.setFib_fib]
    exact ⟨State.dstCheck_qtm_of_room (by decide) (.inl rfl), rfl, rfl, rfl⟩
  case arm =>
    intro hv hr
    refine ⟨State.dstCheck_qtm_of_full hv hr, fun hl => ⟨State.dstCheck_qtm_of_room hr (.inr hl), ?_⟩⟩
    rw [State.writeReg_qtm hv, State.setFib_fib]
  case frame =>
    intro i rs d s h hq hd hg
    obtain ⟨v, fl, hx, hfl⟩ := exec_regOp h hq hd hg
    obtain ⟨m, hm, hc⟩ := State.regEnd_eq (s := s) hd v fl
    obtain ⟨hp, hpg, hid, hdl, hst⟩ := s.stepCtx_frame (s.regCtx d v fl) s.ctx.pc
    have hctx : (s.regEnd d v fl).ctx = s.stepCtx (s.regCtx d v fl) s.ctx.pc := by rw [hm, State.setMe_ctx, hc]
    refine ⟨s.regEnd d v fl, hx, by rw [hm]; rfl, fun k h7 hk => ?_, fun h7 => ?_, fun hs => ?_, fun k hs => ⟨v, ?_⟩, ?_, ?_, ?_, ?_,
      fun hn => ?_, ?_, fun k hk => ?_, ?_⟩
    · rw [hctx, hp k h7]
      exact ownRegsAfter_getElem hk _ v
    · rw [hctx]
      exact s.stepCtx_p7_congr _ (ownRegsAfter_getElem (k := 7) h7 _ v)
    · rw [hm]
      exact s.lateAfter_of_ne v hs
    · rw [hm, hs]
      rfl
    · rw [hctx, hpg]; rfl
    · rw [hctx, hid]; rfl
    · rw [hctx, hdl]; rfl
    · rw [hctx, hst]
      exact Ctx.orFlags_status_mask s.ctx fl
    · rw [hctx, hst, State.regCtx, hfl hn, Ctx.orFlags_zero]
    · rw [hm]; rfl
    · rw [hm]
      exact State.setMe_other _ m k hk
    · rw [hm]; rfl

end Sys2Proof.Machine
end

section
/-! ## The scheduling instructions (06 R214; 01 R15, R25; 09 R297) -/

namespace Sys2Proof.Machine

/-! ### Fields of numbers -/

theorem bits_eq_div_mod {n : Nat} (w : BitVec n) (lo len : Nat) : bits w lo len = w.toNat / 2 ^ lo % 2 ^ len := by
  rw [bits, Nat.shiftRight_eq_div_pow]

theorem bits_zero {n : Nat} (w : BitVec n) (len : Nat) : bits w 0 len = w.toNat % 2 ^ len := by
  rw [bits_eq_div_mod, Nat.pow_zero, Nat.div_one]

/-- The bits of a word from lo upwards are not all zero. -/
theorem bits_top_ne_zero_iff (w : DWord) {lo len : Nat} (h : lo + len = 64) : bits w lo len ≠ 0 ↔ 2 ^ lo ≤ w.toNat := by
  have hw : w.toNat / 2 ^ lo < 2 ^ len := by
    refine Nat.div_lt_of_lt_mul ?_
    rw [← Nat.pow_add, h]
    exact w.isLt
  rw [bits_eq_div_mod, Nat.mod_eq_of_lt hw, Nat.div_ne_zero_iff]
  exact ⟨fun h => h.2, fun h => ⟨Nat.pos_iff_ne_zero.1 (Nat.two_pow_pos lo), h⟩⟩

theorem bits_top_zero {w : DWord} {lo len : Nat} (h : lo + len = 64) (hw : w.toNat < 2 ^ lo) : ¬ bits w lo len ≠ 0 :=
  fun hb => Nat.not_le.2 hw ((bits_top_ne_zero_iff w h).1 hb)

theorem putBits_of_lt {n : Nat} (w : BitVec n) (lo : Nat) {len v : Nat} (h : v < 2 ^ len) :
    putBits w lo len v = (w &&& ~~~(BitVec.ofNat n ((2 ^ len - 1) <<< lo))) ||| BitVec.ofNat n (v * 2 ^ lo) := by
  rw [putBits, Nat.mod_eq_of_lt h, Nat.shiftLeft_eq v]

theorem getLsbD_putBits {n : Nat} (w : BitVec n) (lo len v i : Nat) :
    (putBits w lo len v).getLsbD i = if lo ≤ i ∧ i < lo + len then decide (i < n) && v.testBit (i - lo) else w.getLsbD i := by
  by_cases hn : i < n
  · have hm : ((2 ^ len - 1) <<< lo).testBit i = decide (lo ≤ i ∧ i < lo + len) := by
      rw [Nat.testBit_shiftLeft, Nat.testBit_two_pow_sub_one, ← Bool.decide_and]
      exact decide_eq_decide.2 (by omega)
    have hv : ((v % 2 ^ len) <<< lo).testBit i = (decide (lo ≤ i ∧ i < lo + len) && v.testBit (i - lo)) := by
      rw [Nat.testBit_shiftLeft, Nat.testBit_mod_two_pow, ← Bool.and_assoc, ← Bool.decide_and]
      congr 1
      exact decide_eq_decide.2 (by omega)
    simp only [putBits, BitVec.getLsbD_or, BitVec.getLsbD_and, BitVec.getLsbD_not, BitVec.getLsbD_ofNat, hm, hv]
    by_cases h : lo ≤ i ∧ i < lo + len <;> simp [hn, h]
  · simp [BitVec.getLsbD_of_ge _ i (Nat.le_of_not_lt hn), hn]

/-- Two fields that stand side by side, written one after the other, are one field. -/
theorem putBits_putBits {n : Nat} (w : BitVec n) (lo m k v : Nat) :
    putBits (putBits w lo m v) (lo + m) k (v / 2 ^ m) = putBits w lo (m + k) v := by
  apply BitVec.eq_of_getLsbD_eq
  intro i hi
  simp only [getLsbD_putBits, Nat.testBit_div_two_pow]
  by_cases h1 : lo + m ≤ i ∧ i < lo + m + k
  · rw [if_pos h1, if_pos (by omega), show i - (lo + m) + m = i - lo by omega]
  · rw [if_neg h1]
    by_cases h2 : lo ≤ i ∧ i < lo + m
    · rw [if_pos h2, if_pos (by omega)]
    · rw [if_neg h2, if_neg (by omega)]

/-! ### YIELD and PARK -/

/-- The slot is given up: a fault for an unpopped word, the end of the work of slots 6 and 7, and in the others k, behind the hold of an
HSCH. -/
def State.giveUp (s k : State) : State :=
  match s.unpoppedFault with
  | some f => s.raise f
  | none => if s.sid.val ≥ 6 then s.endUpper else s.afterSpin k

theorem exec_yield {s : State} (h : s.Ready ⟨[], none, false, false⟩ [] s) :
    exec .yield s = .next (s.giveUp ((s.advance.swapOut 1 0).makeReady (s.me.ent.getD 0))) := issue_go h

theorem exec_park {s : State} (h : s.Ready ⟨[], none, false, false⟩ [] s) (hf : s.frameHeld = none) (hi : s.inlineReturn = none) :
    exec .park s = .next (s.giveUp (s.advance.swapOut 3 0)) := by
  refine (issue_go h).trans (congrArg _ ?_)
  simp only [hf, hi]
  rfl

theorem exec_park_of_held {s t : State} (h : s.Ready ⟨[], none, false, false⟩ [] s) (hf : s.frameHeld = some t) :
    exec .park s = .next t := by
  refine (issue_go h).trans (congrArg _ ?_)
  simp only [hf]

theorem exec_park_of_inline {s t : State} (h : s.Ready ⟨[], none, false, false⟩ [] s) (hf : s.frameHeld = none) (hi : s.inlineReturn = some t) :
    exec .park s = .next t := by
  refine (issue_go h).trans (congrArg _ ?_)
  simp only [hf, hi]

theorem State.giveUp_of_unpopped {s : State} {r : Reg} (h : s.unpoppedReg = some r) (k : State) :
    s.giveUp k = s.raise (fltAt 0x15 (r.code.setWidth 64)) := by
  simp only [State.giveUp, State.unpoppedFault, h]
  rfl

theorem State.giveUp_of_slot6 {s : State} (h : s.unpoppedReg = none) (h6 : s.sid = 6) (k : State) :
    s.giveUp k = s.advance.setMe { s.advance.me with busy := false } := by
  simp [State.giveUp, State.unpoppedFault, h, h6, State.endUpper]

theorem State.giveUp_of_slot7 {s : State} (h : s.unpoppedReg = none) (h7 : s.sid = 7) (k : State) : s.giveUp k = s.advance.endSlot7 := by
  simp [State.giveUp, State.unpoppedFault, h, h7, State.endUpper]

theorem State.giveUp_of_ordinary {s : State} (h : s.unpoppedReg = none) (h6 : s.sid.val < 6) (k : State) : s.giveUp k = s.afterSpin k := by
  simp [State.giveUp, State.unpoppedFault, h, Nat.not_le.2 h6]

theorem spinCycles_eq_zero_iff (n : BitVec 4) : spinCycles n.toNat = 0 ↔ n = 0 := by
  revert n
  decide

/-- The hold of an HSCH begins (09 R297). -/
theorem State.afterSpin_begins {s : State} {n : BitVec 4} (hs : s.me.spin = none) (hh : s.me.hints.spin = some n) (hn : n ≠ 0) (k : State) :
    s.afterSpin k = s.setMe { s.me with stall := some s.now, onQtm := false, spin := some (s.coreCycles + (8 * 2 ^ n.toNat - 8)) } := by
  simp only [State.afterSpin, hs, hh, if_neg ((spinCycles_eq_zero_iff n).not.2 hn)]
  rfl

theorem State.afterSpin_holds {s : State} {c : Nat} (hs : s.me.spin = some c) (hc : s.coreCycles < c) (k : State) : s.afterSpin k = s := by
  simp only [State.afterSpin, hs, if_pos hc]

/-- Without a hold, or at its end, the slot is given up. -/
theorem State.afterSpin_ends {s : State}
    (h : (s.me.spin = none ∧ (s.me.hints.spin = none ∨ s.me.hints.spin = some 0)) ∨ ∃ c, s.me.spin = some c ∧ c ≤ s.coreCycles) (k : State) :
    s.afterSpin k = k := by
  rcases h with ⟨hs, hh | hh⟩ | ⟨c, hs, hc⟩
  · simp only [State.afterSpin, hs, hh]
  · simp only [State.afterSpin, hs, hh]
    exact if_pos rfl
  · simp only [State.afterSpin, hs, if_neg (Nat.not_lt.2 hc)]

/-- The slot-scope queues in the order of their codes, each with whether it holds an unpopped word (01 R25). -/
def State.slotQueues (s : State) : List (Reg × Bool) :=
  [(Reg.qm 0, !s.fib.qm[0].words.isEmpty), (.qm 1, !s.fib.qm[1].words.isEmpty), (.qjn, !s.fib.qjn.isEmpty),
    (.qev, !s.fib.qev.isEmpty), (.qtm, !s.fib.qtm.isEmpty), (.qam, s.fib.qam.head?.any fun w => w.val.isSome)]

theorem State.unpoppedReg_eq (s : State) : s.unpoppedReg = (s.slotQueues.find? fun x => x.2).map Prod.fst := by
  unfold State.unpoppedReg Fibre.unpopped State.slotQueues
  by_cases h0 : s.fib.qm[0].words.isEmpty = true; swap
  · simp [h0]
  by_cases h1 : s.fib.qm[1].words.isEmpty = true; swap
  · simp [h0, h1]
  by_cases h2 : s.fib.qjn.isEmpty = true; swap
  · simp [h0, h1, h2]
  by_cases h3 : s.fib.qev.isEmpty = true; swap
  · simp [h0, h1, h2, h3]
  by_cases h4 : s.fib.qtm.isEmpty = true; swap
  · simp [h0, h1, h2, h3, h4]
  cases hq : s.fib.qam with
  | nil => simp [h0, h1, h2, h3, h4, hq]
  | cons q l => cases h5 : q.val.isSome <;> simp [h0, h1, h2, h3, h4, h5, hq]

/-! ### WAKE, SETPRI, SETDL, SETWL -/

theorem handleCore_of_lt {x : DWord} (h : x.toNat < 2 ^ 23) : handleCore x = x.toNat / 2 ^ 8 % 4096 + 2304 * (x.toNat / 2 ^ 20) := by
  rw [handleCore, bits_eq_div_mod, bits_eq_div_mod]
  omega

theorem State.handleFault_of_range {s : State} {x : DWord} (h : 2 ^ 23 ≤ x.toNat) : s.handleFault x = some (flt 0x02) :=
  if_pos ((bits_top_ne_zero_iff x rfl).2 h)

theorem State.handleFault_of_lt {s : State} {x : DWord} (h : x.toNat < 2 ^ 23) :
    s.handleFault x = if 2303 < x.toNat / 2 ^ 8 % 4096 ∨ s.core.inPart1 (x.toNat / 2 ^ 8 % 4096 + 2304 * (x.toNat / 2 ^ 20)) = false
      then some (fltAt 0x06 x) else none := by
  rw [State.handleFault, if_neg (bits_top_zero rfl h), handleCore_of_lt h, bits_eq_div_mod]
  rfl

/-- WAKE behind its gate: the fault of its handle, else the wait for an acquire, the wake here, or the message that carries it. -/
theorem exec_wake_fault {s t : State} {a : Reg} {x : DWord} {f : Flt} (h : s.Ready ⟨[a], none, false, false⟩ [x] t)
    (hf : s.handleFault x = some f) : exec (.wake a) s = .next (s.raise f) := by
  refine (issue_go h).trans (congrArg _ ?_)
  simp only [arg_zero, hf]

theorem exec_wake {s t : State} {a : Reg} {x : DWord} (h : s.Ready ⟨[a], none, false, false⟩ [x] t) (hf : s.handleFault x = none) :
    exec (.wake a) s = .next (if s.heldByAcquire then s.stall
      else if handleCore x = s.cid then t.advance.wake (bits x 0 8) (s.jobOf s.fib)
      else t.advance.sendFrom s.cid (handleCore x) (some s.self) [] none (.wakeArrival (bits x 0 8) (s.jobOf s.fib))) := by
  refine (issue_go h).trans (congrArg _ ?_)
  simp only [arg_zero, hf]
  rfl

theorem exec_setpri {s t : State} {a : Reg} {x : DWord} (h : s.Ready ⟨[a], none, false, false⟩ [x] t) :
    exec (.setpri a) s = .next (if bits x 3 61 ≠ 0 then s.raise (flt 0x02)
      else if s.sid.val ≠ 7 ∧ bits x 0 3 > s.launchPri then s.raise (flt privilege)
      else (t.setCtx { t.ctx with status := putBits t.ctx.status 7 3 (bits x 0 3) }).advance) := by
  refine (issue_go h).trans (congrArg _ ?_)
  simp only [arg_zero, reservedField]
  rfl

theorem exec_setdl {s t : State} {a : Reg} {x : DWord} (h : s.Ready ⟨[a], none, false, false⟩ [x] t) :
    exec (.setdl a) s = .next (if bits x 48 16 ≠ 0 then s.raise (flt 0x02)
      else (t.setCtx { t.ctx with dl := x.setWidth 48 }).advance) := by
  refine (issue_go h).trans (congrArg _ ?_)
  simp only [arg_zero, reservedField]
  rfl

theorem exec_setwl {s t : State} {a : Reg} {x : DWord} (h : s.Ready ⟨[a], none, false, false⟩ [x] t) :
    exec (.setwl a) s = .next (if bits x 10 54 ≠ 0 then s.raise (flt 0x02)
      else (t.setCtx { t.ctx with status := putBits (putBits t.ctx.status 20 8 (bits x 0 8)) 28 2 (bits x 8 2) }).advance) := by
  refine (issue_go h).trans (congrArg _ ?_)
  simp only [arg_zero, reservedField]
  rfl

/-- The priority as SETPRI writes it (01 Table 1-2). -/
theorem putBits_pri {x : DWord} (h : x.toNat < 2 ^ 3) (st : Word) :
    putBits st 7 3 (bits x 0 3) = (st &&& ~~~0x380) ||| BitVec.ofNat 32 (x.toNat * 128) := by
  rw [bits_zero, Nat.mod_eq_of_lt h, putBits_of_lt st 7 h]
  rfl

/-- The wait limit as SETWL writes it (01 Table 1-2). -/
theorem putBits_waitLimit {x : DWord} (h : x.toNat < 2 ^ 10) (st : Word) :
    putBits (putBits st 20 8 (bits x 0 8)) 28 2 (bits x 8 2) = (st &&& ~~~0x3FF00000) ||| BitVec.ofNat 32 (x.toNat * 2 ^ 20) := by
  have h8 : bits x 8 2 = x.toNat / 2 ^ 8 := by
    rw [bits_eq_div_mod]
    omega
  have h0 : putBits st 20 8 (bits x 0 8) = putBits st 20 8 x.toNat := by
    rw [bits_zero, putBits, putBits, Nat.mod_mod]
  rw [h8, h0, putBits_putBits st 20 8 2, putBits_of_lt st 20 h]
  rfl

/-! ### RDTIME and GETST -/

theorem exec_rdtime {s : State} {d : Reg} (h : s.Ready ⟨[], some d, false, false⟩ [] s) : exec (.rdtime d) s = .next (s.readTime s d) :=
  issue_go h

theorem State.readTime_of_recStall {s : State} (h : s.recStall = true) (t : State) (d : Reg) : s.readTime t d = s.stall := if_pos h

theorem State.readTime_of_live {s t : State} {d : Reg} (h : s.recStall = false) (hr : s.replayed s.self.ent = none)
    (hd : (t.record s.self.ent 5 0xFF (BitVec.ofNat 64 s.now)).dstCheck d (BitVec.ofNat 64 s.now) = .ok) :
    s.readTime t d = ((t.record s.self.ent 5 0xFF (BitVec.ofNat 64 s.now)).writeReg d (BitVec.ofNat 64 s.now)).advance := by
  simp only [State.readTime, h, hr, Bool.false_eq_true, if_false]
  exact done_ok hd

/-- The word of GETST: the status word, and the fibre's handle above it. -/
theorem statusWord_toNat (st : Word) (h : DWord) :
    (st.setWidth 64 ||| (h <<< 32) : DWord).toNat = st.toNat + h.toNat % 2 ^ 32 * 2 ^ 32 := by
  have hst := st.isLt
  rw [BitVec.toNat_or, BitVec.toNat_setWidth, BitVec.toNat_shiftLeft, Nat.shiftLeft_eq, Nat.mod_eq_of_lt (by omega), Nat.or_comm,
    show h.toNat * 2 ^ 32 % 2 ^ 64 = 2 ^ 32 * (h.toNat % 2 ^ 32) by omega, ← Nat.two_pow_add_eq_or_of_lt hst]
  omega

/-- Settles O28, by one equation for each instruction behind its gate, and the numbers of their fields. -/
theorem schedulingInstructions : Obligations.SchedulingInstructions := by
  refine ⟨?giveUp, ?context, ?time⟩
  case giveUp =>
    intro s h plain
    have hpark (hp : plain) : exec .park s = .next (s.giveUp (s.advance.swapOut 3 0)) := exec_park h hp.1 hp.2
    have both {u : State} (hu : ∀ k, s.giveUp k = u) : exec .yield s = .next u ∧ (plain → exec .park s = .next u) :=
      ⟨(exec_yield h).trans (congrArg _ (hu _)), fun hp => (hpark hp).trans (congrArg _ (hu _))⟩
    refine ⟨s.unpoppedReg_eq, fun r hr => both (State.giveUp_of_unpopped hr), fun hn =>
      ⟨fun n h6 hs hh h0 => both fun k => ?begins, fun c h6 hs hc => both fun k => ?holds, fun e h6 he hs => ⟨?yields, fun hp => ?parks⟩,
        fun h6 => both (State.giveUp_of_slot6 hn h6), fun h7 => both (State.giveUp_of_slot7 hn h7)⟩,
      fun t => exec_park_of_held h, fun t => exec_park_of_inline h⟩
    case begins => rw [State.giveUp_of_ordinary hn h6, State.afterSpin_begins hs hh h0]
    case holds => rw [State.giveUp_of_ordinary hn h6, State.afterSpin_holds hs hc]
    case yields =>
      rw [exec_yield h, State.giveUp_of_ordinary hn h6, State.afterSpin_ends hs, he]
      rfl
    case parks => rw [hpark hp, State.giveUp_of_ordinary hn h6, State.afterSpin_ends hs]
  case context =>
    intro a s t x h
    refine ⟨fun hx => exec_wake_fault h (State.handleFault_of_range hx), fun hx => ⟨fun hc => ?badHandle, fun hc hp => ?wake⟩,
      fun hx => ?priRange, fun hx h7 hp => ?priPrivilege, fun hx hp => ?pri, fun hx => ?dlRange, fun hx => ?dl, fun hx => ?wlRange,
      fun hx => ?wl⟩
    case badHandle => exact exec_wake_fault h (by rw [State.handleFault_of_lt hx, if_pos hc])
    case wake =>
      have hf : s.handleFault x = none := by
        rw [State.handleFault_of_lt hx, if_neg]
        rintro (hc' | hp')
        · omega
        · exact absurd (hp.symm.trans hp') (by decide)
      rw [exec_wake h hf, handleCore_of_lt hx, bits_zero]
      exact ⟨fun ha => by rw [if_pos ha], fun ha he => by rw [ha, if_neg Bool.false_ne_true, if_pos he]; rfl,
        fun ha he => by rw [ha, if_neg Bool.false_ne_true, if_neg he]; rfl⟩
    case priRange => rw [exec_setpri h, if_pos ((bits_top_ne_zero_iff x rfl).2 hx)]
    case priPrivilege =>
      rw [exec_setpri h, if_neg (bits_top_zero rfl hx), bits_zero, Nat.mod_eq_of_lt (b := 2 ^ 3) hx, if_pos ⟨fun h => h7 (Fin.ext h), hp⟩]
      rfl
    case pri =>
      rw [exec_setpri h, if_neg (bits_top_zero rfl hx), if_neg, putBits_pri hx]
      rw [bits_zero, Nat.mod_eq_of_lt (b := 2 ^ 3) hx]
      rintro ⟨h7, hp'⟩
      rcases hp with hp | hp
      · exact h7 (congrArg Fin.val hp)
      · omega
    case dlRange => rw [exec_setdl h, if_pos ((bits_top_ne_zero_iff x rfl).2 hx)]
    case dl => rw [exec_setdl h, if_neg (bits_top_zero rfl hx)]
    case wlRange => rw [exec_setwl h, if_pos ((bits_top_ne_zero_iff x rfl).2 hx)]
    case wl => rw [exec_setwl h, if_neg (bits_top_zero rfl hx), putBits_waitLimit hx]
  case time =>
    intro d s h
    refine ⟨fun hr => ?_, fun hr hp hd => ?_, fun v hv hd => ?_⟩
    · rw [exec_rdtime h, State.readTime_of_recStall hr]
    · rw [exec_rdtime h, State.readTime_of_live hr hp hd]
    · obtain rfl : s.ctx.status.setWidth 64 ||| (whoHandle s.self <<< 32) = v := BitVec.eq_of_toNat_eq ((statusWord_toNat ..).trans hv.symm)
      exact compute_next h hd

end Sys2Proof.Machine
end

section
/-! ## Queues that act, timers, wait limits, spins and wakes (01 R23, R26, R36; 06 R214; 09 R297, R298; 13 R367; 16 R443) -/

namespace Sys2Proof.Machine

/-! ### Words written to the queues that act -/

theorem State.pushWord_ok {s : State} {d : Reg} {w : DWord} (h : s.dstCheck d w = .ok) : s.pushWord d w = s.writeReg d w := by
  simp only [State.pushWord, h]

theorem State.pushWord_stall {s : State} {d : Reg} {w : DWord} (h : s.dstCheck d w = .stall) : s.pushWord d w = s.stall := by
  simp only [State.pushWord, h]

theorem State.pushWord_fault {s : State} {d : Reg} {w : DWord} {f : Flt} (h : s.dstCheck d w = .fault f) : s.pushWord d w = s.raise f := by
  simp only [State.pushWord, h]

theorem State.roomFor_of_room {s : State} {r : Reg} (h : s.hasRoom r = true) : s.roomFor r = .ok := if_pos h

theorem State.roomFor_of_full {s : State} {r : Reg} (h : s.hasRoom r = false) : s.roomFor r = .stall :=
  if_neg (by rw [h]; exact Bool.false_ne_true)

/-- A word for qsc has room where each of the queues it is for has. -/
theorem State.room_qsc (s : State) (k : Nat) : s.room .qsc k = true ↔ ∀ c ∈ s.qscTargets, (s.coreAt c).qsc.length + k < 4 := by
  simp [State.room]

theorem State.hasRoom_qsc_of_full {s : State}
    (h : ∃ c ∈ s.qscTargets, 4 ≤ (s.coreAt c).qsc.length + s.core.pushes .qsc (s.coreCycles + 1)) : s.hasRoom .qsc = false := by
  obtain ⟨c, hc, hl⟩ := h
  exact Bool.eq_false_iff.2 fun hr => Nat.not_lt.2 hl ((s.room_qsc _).1 hr c hc)

theorem getLsbD_63_iff (w : DWord) : w.getLsbD 63 = true ↔ 2 ^ 63 ≤ w.toNat := by
  rw [← BitVec.msb_eq_getLsbD_last, BitVec.msb_eq_decide, decide_eq_true_eq]

theorem State.dstCheck_qhs_of_word {s : State} {w : DWord} (h : w.toNat < 2 ^ 63) : s.dstCheck .qhs w = s.roomFor .qhs :=
  if_neg fun hb => Nat.not_le.2 h ((getLsbD_63_iff w).1 hb)

theorem State.dstCheck_qhs_of_command {s : State} {w : DWord} (h : 2 ^ 63 ≤ w.toNat) :
    s.dstCheck .qhs w = if s.sid.val = 7 then .ok else .fault (flt privilege) :=
  if_pos ((getLsbD_63_iff w).2 h)

theorem State.pushScale_sid (s : State) (w : DWord) : (s.pushScale w).sid = s.sid :=
  foldl_keeps State.sid _ (fun t c => by unfold State.modCore; split <;> rfl) _ s

/-- A word of the slot in turn that is due enters its queue where it is a command or finds room (01 R23). -/
theorem State.landOne_own_push {s t : State} {due : Nat} {r : Reg} {w : DWord} (h : (isCommand r w || s.room r 0) = true)
    (hp : s.pushQueue r w = t) (ht : t.sid = s.sid) : s.landOne ⟨due, s.sid.val, .push r w⟩ = t := by
  have hi : (Fin.ofNat 8 s.sid.val : Fin 8) = s.sid := Fin.ext (Nat.mod_eq_of_lt s.sid.isLt)
  have hs : ({ s with sid := Fin.ofNat 8 s.sid.val } : State) = s := by rw [hi]
  simp only [State.landOne, hs, h, hp, if_true]
  rw [← ht]

/-! ### A fibre replaced where it stands -/

theorem Core.slotOf?_setFibre (c : Core) (e : Nat) (f : Fibre) : (c.setFibre e f).slotOf? e = c.slotOf? e := by
  unfold Core.setFibre
  split
  · next i _ =>
    have hj (j : Fin 8) : (c.slots.set i { c.slots[i] with fib := f })[j].ent = c.slots[j].ent := by
      by_cases h : (i : Nat) = j
      · obtain rfl := Fin.ext h
        simp
      · simp [h]
    simp only [Core.slotOf?, hj]
  · rfl

theorem Core.fibre?_setFibre (c : Core) (e : Nat) (f : Fibre) : (c.setFibre e f).fibre? e = some f := by
  have hs := c.slotOf?_setFibre e f
  unfold Core.fibre?
  rw [hs]
  unfold Core.setFibre
  split
  · simp [*]
  · simp [*, Tbl.get?_set]

theorem State.modFibre_eq {s : State} {e : Nat} {f : Fibre} (h : s.core.fibre? e = some f) (g : Fibre → Fibre) :
    s.modFibre e g = { s with core := s.core.setFibre e (g f) } := by
  simp only [State.modFibre, h]

theorem State.fibre?_modFibre {s : State} {e : Nat} {f : Fibre} (h : s.core.fibre? e = some f) (g : Fibre → Fibre) :
    (s.modFibre e g).core.fibre? e = some (g f) := by
  rw [State.modFibre_eq h]
  exact s.core.fibre?_setFibre e (g f)

theorem State.slotOf?_modFibre {s : State} {e : Nat} {f : Fibre} (h : s.core.fibre? e = some f) (g : Fibre → Fibre) :
    (s.modFibre e g).core.slotOf? e = s.core.slotOf? e := by
  rw [State.modFibre_eq h]
  exact s.core.slotOf?_setFibre e (g f)

theorem State.modFibre_jobs (s : State) (e : Nat) (g : Fibre → Fibre) : (s.modFibre e g).jobs = s.jobs := by
  unfold State.modFibre
  split <;> rfl

/-! ### Timers (01 R26) -/

/-- Without a recorder nothing is recorded (16 R441). -/
theorem State.record_of_off {s : State} {e : Nat} {f : Fibre} (h : s.core.fibre? e = some f) (hr : s.recMode f = 0) (kind ep : Nat)
    (value : DWord) (mark : Nat) : s.record e kind ep value mark = s := by
  simp only [State.record, h, hr, if_true]

/-- A fibre's timers go have expired. -/
def Fibre.expire (go : List Timer) (f : Fibre) : Fibre :=
  { f with timers := f.timers.filter fun t => !go.any fun u => u.num == t.num, expired := f.expired ++ go }

/-- The same, with the words of a resident fibre in qtm. -/
def Fibre.afterExpiry (go : List Timer) (resident : Bool) (f : Fibre) : Fibre :=
  if resident then (f.expire go).flushTimers else f.expire go

theorem Fibre.afterExpiry_job (go : List Timer) (resident : Bool) (f : Fibre) : (f.afterExpiry go resident).job = f.job := by
  unfold Fibre.afterExpiry
  split <;> rfl

/-- The fibre's timers expired in its core, before anything is recorded. -/
def State.withExpired (s : State) (e : Nat) (go : List Timer) : State :=
  let s1 := s.modFibre e (Fibre.expire go)
  if (s1.core.slotOf? e).isSome then s1.modFibre e Fibre.flushTimers else s1

theorem State.withExpired_fibre {s : State} {e : Nat} {f : Fibre} (h : s.core.fibre? e = some f) (go : List Timer) :
    (s.withExpired e go).core.fibre? e = some (f.afterExpiry go (s.core.slotOf? e).isSome) := by
  have h1 := State.fibre?_modFibre h (Fibre.expire go)
  have hs := State.slotOf?_modFibre h (Fibre.expire go)
  unfold State.withExpired Fibre.afterExpiry
  dsimp only
  rw [hs]
  split
  · exact State.fibre?_modFibre h1 Fibre.flushTimers
  · exact h1

theorem State.withExpired_jobs (s : State) (e : Nat) (go : List Timer) : (s.withExpired e go).jobs = s.jobs := by
  unfold State.withExpired
  dsimp only
  split
  · rw [State.modFibre_jobs, State.modFibre_jobs]
  · exact State.modFibre_jobs ..

theorem State.expireTimers_eq {s : State} {e : Nat} {f : Fibre} (h : s.core.fibre? e = some f) :
    s.expireTimers e =
      (s.timersDue e f).foldl (fun u t => u.record e kExpiry 0xFF (BitVec.ofNat 64 t.due) 1) (s.withExpired e (s.timersDue e f)) := by
  simp only [State.expireTimers, h]
  rfl

/-- Where nothing is recorded, the timers that are due expire and no more. -/
theorem State.expireTimers_of_off {s : State} {e : Nat} {f : Fibre} (h : s.core.fibre? e = some f) (hr : s.recMode f = 0) :
    s.expireTimers e = s.withExpired e (s.timersDue e f) := by
  rw [State.expireTimers_eq h]
  generalize hg : s.timersDue e f = go
  have hr' : (s.withExpired e go).recMode (f.afterExpiry go (s.core.slotOf? e).isSome) = 0 := by
    rw [State.recMode, Fibre.afterExpiry_job, State.withExpired_jobs]
    exact hr
  have hn (t : Timer) := State.record_of_off (State.withExpired_fibre h go) hr' kExpiry 0xFF (BitVec.ofNat 64 t.due) 1
  clear hg
  suffices ∀ l : List Timer, l.foldl (fun u t => u.record e kExpiry 0xFF (BitVec.ofNat 64 t.due) 1) (s.withExpired e go) = s.withExpired e go from
    this go
  intro l
  induction l with
  | nil => rfl
  | cons t l ih => rw [List.foldl_cons, hn, ih]

/-- The one armed timer of a fibre that records nothing. -/
theorem State.timersDue_single {s : State} {e : Nat} {f : Fibre} {x : Timer} (hx : f.timers = [x]) (hr : s.recMode f = 0) :
    s.timersDue e f = if x.due ≤ s.now then [x] else [] := by
  by_cases h : x.due ≤ s.now <;> simp [State.timersDue, hx, hr, h, insertTimer]

/-! ### Wait limits (01 R36; 13 R367) -/

theorem State.overLimit_iff (s : State) (c : Ctx) (since : Nat) :
    s.overLimit c since = true ↔ c.waitLimit ≠ 0 ∧ c.waitLimit < s.now - since := by
  simp [State.overLimit]

theorem State.overLimit_of_within {s : State} {c : Ctx} {since : Nat} (h : c.waitLimit = 0 ∨ s.now - since ≤ c.waitLimit) :
    s.overLimit c since = false := by
  refine Bool.eq_false_iff.2 fun hl => ?_
  obtain ⟨h0, hlt⟩ := (s.overLimit_iff c since).1 hl
  omega

section Waiting
variable {s : State} {n : Nat} {f : Fibre} {w : Wait} (hf : s.core.fibre? n = some f) (hw : f.wait = some w)
include hf hw

theorem State.limitWait_within (h : s.overLimit f.ctx w.since = false) : s.limitWait n = s := by
  simp [State.limitWait, hf, hw, h]

variable (ht : timed w.kind = false) (hn : n ≠ 257) (hl : w.limitHit = false) (ho : s.overLimit f.ctx w.since = true)
include ht hn hl ho

theorem State.limitWait_remote (h : w.reason = 7) :
    s.limitWait n = s.modFibre n fun x => { x with wait := some { w with limitHit := true } } := by
  simp [State.limitWait, hf, hw, ht, hn, hl, ho, h]

theorem State.limitWait_held (hr : w.reason ≠ 7) (h : s.withdrawable w = false) : s.limitWait n = s := by
  simp [State.limitWait, hf, hw, ht, hn, hl, ho, hr, h]

theorem State.limitWait_withdraws (hr : w.reason ≠ 7) (h : s.withdrawable w = true) :
    s.limitWait n = (((s.eraseOp ⟨s.cid, n⟩ w).unpop n w).faultWait n w
      (fltAt 0x0A (BitVec.ofNat 64 (if f.ctx.state = 2 then w.reason else 0)))).markWithdrawn n := by
  simp [State.limitWait, hf, hw, ht, hn, hl, ho, hr, h, waitLimitCode, stBlocked]
  rfl

end Waiting

/-- The wait limit of a slot that is stalled. -/
theorem State.limitWait_stalled {s : State} {n : Nat} {f : Fibre} {i : Fin 8} {c : Nat} (hf : s.core.fibre? n = some f) (hw : f.wait = none)
    (hi : s.core.slotOf? n = some i) (hc : s.core.slots[i].stall = some c) (hn : n ≠ 257)
    (hu : ({ s with sid := i } : State).uncountedStall = false) :
    s.limitWait n = if s.overLimit f.ctx c = true then (s.asFibre n fun u =>
      u.interruptPg.faultAt (fltAt 0x0A 0) u.interruptPg.ctx.pc u.interruptPg.ctx.pg).markWithdrawn n else s := by
  have hc' : s.core.slots[(i : Nat)].stall = some c := hc
  cases ho : s.overLimit f.ctx c <;> simp [State.limitWait, hf, hw, hi, hc', hn, hu, ho, waitLimitCode]

/-! ### Wakes (06 R214) -/

theorem State.wake_parked {s : State} {n : Nat} {f : Fibre} {job : Option Nat} (hf : s.core.fibre? n = some f) (h3 : f.ctx.state = 3)
    (hj : f.job = job) : s.wake n job = s.makeReady n := by
  simp only [State.wake, hf]
  exact if_pos ⟨h3, hj⟩

theorem State.wake_discarded {s : State} {n : Nat} {f : Fibre} {job : Option Nat} (hf : s.core.fibre? n = some f)
    (h : f.ctx.state ≠ 3 ∨ f.job ≠ job) : s.wake n job = s := by
  simp only [State.wake, hf]
  exact if_neg fun hp => h.elim (· hp.1) (· hp.2)

/-! ### Spins (09 R297, R298) -/

theorem State.endSpin_holds {s : State} {c : Nat} (hs : s.me.spin = some c) (hc : s.coreCycles < c) : s.endSpin = s := by
  cases hw : s.fib.wait <;> simp [State.endSpin, hs, hw, Nat.not_le.2 hc]

theorem State.endSpin_swaps {s : State} {c : Nat} {w : Wait} (hs : s.me.spin = some c) (hc : c ≤ s.coreCycles) (hw : s.fib.wait = some w)
    (h6 : s.sid.val < 6) (hu : s.fib.unpopped = false) : s.endSpin = (s.setPc s.groupPc).swapOut 2 w.reason := by
  simp [State.endSpin, hs, hw, hc, h6, hu, stBlocked]

theorem State.endSpin_goes_on {s : State} {c : Nat} (hs : s.me.spin = some c) (hc : c ≤ s.coreCycles) (hw : s.fib.wait = none) :
    s.endSpin = s.setMe { s.me with stall := none } := by
  simp [State.endSpin, hs, hw, hc]

theorem exec_hschSpinExpiry (sl : Fin 8) (s : State) :
    exec (.hschSpinExpiry sl) s = .next { ({ s with sid := sl } : State).endSpin with sid := s.sid } := rfl

/-- Settles O29: each write by the check of its queue, each event by the lemma of its case. -/
theorem queuesAndTimers : Obligations.QueuesAndTimers := by
  refine ⟨?words, ?fibres, fun s n => ⟨rfl, rfl⟩, ?spins⟩
  case words =>
    intro s w
    refine ⟨fun h => ?_, fun hw hr => ⟨fun hl => ?_, fun hl => ?_⟩, ?_, fun h => ?_, fun h => ?_, fun h => ?_, fun hw h => ?_, fun hw h => ?_,
      fun hw h7 => ?_, fun hw h7 => ?_, fun h => ?_⟩
    · exact congrArg Host.Outcome.next (State.pushWord_fault (State.dstCheck_qtm_of_range h))
    · exact congrArg Host.Outcome.next ((State.pushWord_ok (State.dstCheck_qtm_of_room hr (.inr hl))).trans (State.writeReg_qtm hw))
    · exact congrArg Host.Outcome.next (State.pushWord_stall (State.dstCheck_qtm_of_full hw hr hl))
    · exact congrArg Host.Outcome.next ((State.pushWord_ok (State.dstCheck_qtm_of_room (by decide) (.inl rfl))).trans s.writeReg_qtm_zero)
    · exact congrArg Host.Outcome.next (State.pushWord_ok (d := .qsc) (State.roomFor_of_room ((s.room_qsc _).2 h)))
    · exact congrArg Host.Outcome.next (State.pushWord_stall (d := .qsc) (State.roomFor_of_full (State.hasRoom_qsc_of_full h)))
    · exact State.landOne_own_push (by simp [(s.room_qsc 0).2 h]) rfl (s.pushScale_sid w)
    · exact congrArg Host.Outcome.next (State.pushWord_ok ((State.dstCheck_qhs_of_word hw).trans (State.roomFor_of_room (decide_eq_true h))))
    · exact congrArg Host.Outcome.next (State.pushWord_stall ((State.dstCheck_qhs_of_word hw).trans
        (State.roomFor_of_full (decide_eq_false (Nat.not_le.2 h)))))
    · exact congrArg Host.Outcome.next (State.pushWord_fault ((State.dstCheck_qhs_of_command hw).trans (if_neg fun h => h7 (Fin.ext h))))
    · exact congrArg Host.Outcome.next (State.pushWord_ok ((State.dstCheck_qhs_of_command hw).trans (if_pos (congrArg Fin.val h7))))
    · refine State.landOne_own_push ?_ rfl (State.pushHost_keeps State.sid s w fun _ _ _ _ => rfl)
      rcases h with h | h
      · simp [isCommand, (getLsbD_63_iff w).2 h]
      · simp [State.room, h]
  case fibres =>
    intro s n f hf
    refine ⟨fun x hx _ hr => ?_, fun job h3 hj => ?_, fun job h => ?_, fun w hw ht hn hl => ?_, fun i c hw hi hc hn hu => ?_⟩
    · have hu := State.withExpired_fibre hf (s.timersDue n f)
      rw [← State.expireTimers_of_off hf hr, State.timersDue_single hx hr] at hu
      refine ⟨fun hd hs => ⟨_, rfl, hu.trans ?_⟩, fun hd hs => ⟨_, rfl, hu.trans ?_⟩, fun i hd hs he => ⟨_, rfl, hu.trans ?_⟩⟩
      · simp [hs, Nat.not_le.2 hd, Fibre.afterExpiry, Fibre.expire]
      · simp [hs, hd, hx, Fibre.afterExpiry, Fibre.expire]
      · simp [hs, hd, hx, he, Fibre.afterExpiry, Fibre.expire, Fibre.flushTimers, Timer.word]
    · exact congrArg Host.Outcome.next (State.wake_parked hf h3 hj)
    · exact congrArg Host.Outcome.next (State.wake_discarded hf h)
    · refine ⟨fun h => ?_, fun h0 h => ⟨fun h7 => ?_, fun h7 hc => ?_, fun h7 hc hm => ?_⟩⟩
      · exact congrArg Host.Outcome.next (State.limitWait_within hf hw (State.overLimit_of_within h))
      all_goals have ho := (s.overLimit_iff f.ctx w.since).2 ⟨h0, h⟩
      · exact congrArg Host.Outcome.next (State.limitWait_remote hf hw ht hn hl ho h7)
      · refine congrArg Host.Outcome.next (State.limitWait_held hf hw ht hn hl ho h7 ?_)
        rcases hc with hc | hc <;> simp [State.withdrawable, hc]
      · exact congrArg Host.Outcome.next (State.limitWait_withdraws hf hw ht hn hl ho h7 (by simp [State.withdrawable, h7, hc, hm]))
    · have he := State.limitWait_stalled hf hw hi hc hn hu
      refine ⟨fun h => congrArg Host.Outcome.next (he.trans (if_neg ?_)), fun h0 h => congrArg Host.Outcome.next (he.trans (if_pos ?_))⟩
      · rw [State.overLimit_of_within h]
        exact Bool.false_ne_true
      · exact (s.overLimit_iff f.ctx c).2 ⟨h0, h⟩
  case spins =>
    intro s sl c w u hs
    refine ⟨fun hc => ?_, fun hc h6 hw hu => ?_, fun hc hw => ?_⟩
    · rw [exec_hschSpinExpiry, State.endSpin_holds hs hc]
    · rw [exec_hschSpinExpiry, State.endSpin_swaps hs hc hw h6 hu]
    · rw [exec_hschSpinExpiry, State.endSpin_goes_on hs hc hw]

end Sys2Proof.Machine
end

section
/-! ## Decoding what the encoder writes (02 R45 to R66) -/

namespace Sys2Proof.Machine

/-! ### The fields of a word, from the format that it is built by (02 R47, Table 2-1) -/

/-- A field is read off the number of the word. -/
theorem extractLsb'_eq_of_div_mod {n len lo : Nat} {w : BitVec n} {x : BitVec len} (h : w.toNat / 2 ^ lo % 2 ^ len = x.toNat) :
    w.extractLsb' lo len = x :=
  BitVec.eq_of_toNat_eq (by rw [BitVec.extractLsb'_toNat, Nat.shiftRight_eq_div_pow, h])

theorem getLsbD_eq_of_div_mod {n k : Nat} {w : BitVec n} {b : Bool} (h : w.toNat / 2 ^ k % 2 = (BitVec.ofBool b).toNat) :
    w.getLsbD k = b := by
  rw [BitVec.getLsbD, Nat.testBit_eq_decide_div_mod_eq, h]
  cases b <;> rfl

section
variable (op d a b : BitVec 6) (fn : BitVec 8) (imm : BitVec 14) (off : BitVec 12)

@[simp] theorem fields_mkR :
    fOp (mkR op d a b fn) = op ∧ fD (mkR op d a b fn) = d ∧ fA (mkR op d a b fn) = a ∧ fB (mkR op d a b fn) = b ∧
      fFn (mkR op d a b fn) = fn := by
  and_intros <;> exact extractLsb'_eq_of_div_mod (by simp only [mkR, toNat_append_eq_add]; omega)

@[simp] theorem fields_mkI :
    fOp (mkI op d a imm) = op ∧ fD (mkI op d a imm) = d ∧ fA (mkI op d a imm) = a ∧ fImm (mkI op d a imm) = imm := by
  and_intros <;> exact extractLsb'_eq_of_div_mod (by simp only [mkI, toNat_append_eq_add]; omega)

@[simp] theorem fields_mkU (imm : BitVec 20) : fOp (mkU op d imm) = op ∧ fD (mkU op d imm) = d ∧ fImmU (mkU op d imm) = imm := by
  and_intros <;> exact extractLsb'_eq_of_div_mod (by simp only [mkU, toNat_append_eq_add]; omega)

@[simp] theorem fields_mkB (cc : BitVec 4) (off : BitVec 16) :
    fOp (mkB op cc a off) = op ∧ fCc (mkB op cc a off) = cc ∧ fBa (mkB op cc a off) = a ∧ fOff (mkB op cc a off) = off := by
  and_intros <;> exact extractLsb'_eq_of_div_mod (by simp only [mkB, toNat_append_eq_add]; omega)

@[simp] theorem fields_mkM (sz : BitVec 2) :
    fOp (mkM op d a sz off) = op ∧ fD (mkM op d a sz off) = d ∧ fA (mkM op d a sz off) = a ∧ fGrp (mkM op d a sz off) = sz ∧
      fOff12 (mkM op d a sz off) = off := by
  and_intros <;> exact extractLsb'_eq_of_div_mod (by simp only [mkM, toNat_append_eq_add]; omega)

@[simp] theorem fields_mkH (kind : BitVec 4) (pay : BitVec 22) :
    fOp (mkH kind pay) = 0x3F ∧ fCc (mkH kind pay) = kind ∧ fPay (mkH kind pay) = pay := by
  and_intros <;> exact extractLsb'_eq_of_div_mod (by simp only [mkH, toNat_append_eq_add]; simp; omega)

/-! The selectors and small fields inside fn, an immediate, an offset and a payload: first where they stand, then, for each way in which the
encodings join them, what they are. -/

@[simp] theorem selectors_mkR :
    fLo2 (mkR op d a b fn) = fn.extractLsb' 0 2 ∧ fLo3 (mkR op d a b fn) = fn.extractLsb' 0 3 ∧
      fLo4 (mkR op d a b fn) = fn.extractLsb' 0 4 ∧ fLo6 (mkR op d a b fn) = fn.extractLsb' 0 6 ∧
      fMid2 (mkR op d a b fn) = fn.extractLsb' 2 2 ∧ fFn54 (mkR op d a b fn) = fn.extractLsb' 4 2 ∧
      fFn76 (mkR op d a b fn) = fn.extractLsb' 6 2 ∧ fFnHi (mkR op d a b fn) = fn.extractLsb' 4 4 ∧
      fFnHi5 (mkR op d a b fn) = fn.extractLsb' 3 5 ∧ fFnHi6 (mkR op d a b fn) = fn.extractLsb' 2 6 := by
  and_intros <;>
    exact extractLsb'_eq_of_div_mod (by simp only [mkR, toNat_append_eq_add, BitVec.extractLsb'_toNat, Nat.shiftRight_eq_div_pow]; omega)

@[simp] theorem selectors_mkI :
    fGrp (mkI op d a imm) = imm.extractLsb' 12 2 ∧ fSys (mkI op d a imm) = imm.extractLsb' 8 4 ∧
      fFn (mkI op d a imm) = imm.extractLsb' 0 8 ∧ fOff12 (mkI op d a imm) = imm.extractLsb' 0 12 ∧
      fLo6 (mkI op d a imm) = imm.extractLsb' 0 6 ∧ fMid6 (mkI op d a imm) = imm.extractLsb' 6 6 := by
  and_intros <;>
    exact extractLsb'_eq_of_div_mod (by simp only [mkI, toNat_append_eq_add, BitVec.extractLsb'_toNat, Nat.shiftRight_eq_div_pow]; omega)

@[simp] theorem selectors_mkM (sz : BitVec 2) :
    fLo4 (mkM op d a sz off) = off.extractLsb' 0 4 ∧ fMid6 (mkM op d a sz off) = off.extractLsb' 6 6 := by
  and_intros <;>
    exact extractLsb'_eq_of_div_mod (by simp only [mkM, toNat_append_eq_add, BitVec.extractLsb'_toNat, Nat.shiftRight_eq_div_pow]; omega)
end

@[simp] theorem parts_fn_six_two (x : BitVec 6) (y : BitVec 2) :
    (x ++ y : BitVec 8).extractLsb' 2 6 = x ∧ (x ++ y : BitVec 8).extractLsb' 0 2 = y := by
  and_intros <;> exact extractLsb'_eq_of_div_mod (by simp only [toNat_append_eq_add]; omega)

@[simp] theorem parts_fn_five_three (x : BitVec 5) (y : BitVec 3) :
    (x ++ y : BitVec 8).extractLsb' 3 5 = x ∧ (x ++ y : BitVec 8).extractLsb' 0 3 = y ∧
      (x ++ y : BitVec 8).extractLsb' 4 4 = x.extractLsb' 1 4 ∧ (x ++ y : BitVec 8).extractLsb' 6 2 = x.extractLsb' 3 2 := by
  and_intros <;>
    exact extractLsb'_eq_of_div_mod (by simp only [toNat_append_eq_add, BitVec.extractLsb'_toNat, Nat.shiftRight_eq_div_pow]; omega)

@[simp] theorem parts_fn_four_four (x y : BitVec 4) :
    (x ++ y : BitVec 8).extractLsb' 4 4 = x ∧ (x ++ y : BitVec 8).extractLsb' 0 4 = y ∧
      (x ++ y : BitVec 8).extractLsb' 6 2 = x.extractLsb' 2 2 := by
  and_intros <;>
    exact extractLsb'_eq_of_div_mod (by simp only [toNat_append_eq_add, BitVec.extractLsb'_toNat, Nat.shiftRight_eq_div_pow]; omega)

@[simp] theorem parts_fn_two_six (x : BitVec 2) (y : BitVec 6) : (x ++ y : BitVec 8).extractLsb' 0 6 = y :=
  extractLsb'_eq_of_div_mod (by simp only [toNat_append_eq_add]; omega)

@[simp] theorem parts_fn_two_two_four (x y : BitVec 2) (z : BitVec 4) :
    (x ++ y ++ z : BitVec 8).extractLsb' 6 2 = x ∧ (x ++ y ++ z : BitVec 8).extractLsb' 4 2 = y ∧
      (x ++ y ++ z : BitVec 8).extractLsb' 0 4 = z := by
  and_intros <;> exact extractLsb'_eq_of_div_mod (by simp only [toNat_append_eq_add]; omega)

@[simp] theorem parts_fn_four_two_two (x : BitVec 4) (y z : BitVec 2) :
    (x ++ y ++ z : BitVec 8).extractLsb' 4 4 = x ∧ (x ++ y ++ z : BitVec 8).extractLsb' 2 2 = y ∧
      (x ++ y ++ z : BitVec 8).extractLsb' 0 2 = z := by
  and_intros <;> exact extractLsb'_eq_of_div_mod (by simp only [toNat_append_eq_add]; omega)

@[simp] theorem parts_fn_flags_six (op d a b : BitVec 6) (r s : Bool) (x : BitVec 6) :
    (BitVec.ofBool r ++ BitVec.ofBool s ++ x : BitVec 8).extractLsb' 0 6 = x ∧
      fBit (mkR op d a b (BitVec.ofBool r ++ BitVec.ofBool s ++ x)) 7 = r ∧
      fBit (mkR op d a b (BitVec.ofBool r ++ BitVec.ofBool s ++ x)) 6 = s := by
  refine ⟨extractLsb'_eq_of_div_mod ?_, getLsbD_eq_of_div_mod ?_, getLsbD_eq_of_div_mod ?_⟩ <;>
    simp only [mkR, toNat_append_eq_add] <;> omega

@[simp] theorem parts_imm_two_six_six (x : BitVec 2) (y z : BitVec 6) :
    (x ++ y ++ z : BitVec 14).extractLsb' 12 2 = x ∧ (x ++ y ++ z : BitVec 14).extractLsb' 6 6 = y ∧
      (x ++ y ++ z : BitVec 14).extractLsb' 0 6 = z := by
  and_intros <;> exact extractLsb'_eq_of_div_mod (by simp only [toNat_append_eq_add]; omega)

@[simp] theorem parts_imm_eight_six (x : BitVec 8) (y : BitVec 6) :
    (x ++ y : BitVec 14).extractLsb' 12 2 = x.extractLsb' 6 2 ∧ (x ++ y : BitVec 14).extractLsb' 0 6 = y := by
  and_intros <;>
    exact extractLsb'_eq_of_div_mod (by simp only [toNat_append_eq_add, BitVec.extractLsb'_toNat, Nat.shiftRight_eq_div_pow]; omega)

@[simp] theorem parts_imm_two_twelve (x : BitVec 2) (y : BitVec 12) :
    (x ++ y : BitVec 14).extractLsb' 12 2 = x ∧ (x ++ y : BitVec 14).extractLsb' 0 12 = y := by
  and_intros <;> exact extractLsb'_eq_of_div_mod (by simp only [toNat_append_eq_add]; omega)

@[simp] theorem parts_imm_six_eight (x : BitVec 6) (y : BitVec 8) :
    (x ++ y : BitVec 14).extractLsb' 12 2 = x.extractLsb' 4 2 ∧ (x ++ y : BitVec 14).extractLsb' 8 4 = x.extractLsb' 0 4 ∧
      (x ++ y : BitVec 14).extractLsb' 0 8 = y := by
  and_intros <;>
    exact extractLsb'_eq_of_div_mod (by simp only [toNat_append_eq_add, BitVec.extractLsb'_toNat, Nat.shiftRight_eq_div_pow]; omega)

@[simp] theorem parts_off_six_two_four (x : BitVec 6) (y : BitVec 2) (z : BitVec 4) :
    (x ++ y ++ z : BitVec 12).extractLsb' 6 6 = x ∧ (x ++ y ++ z : BitVec 12).extractLsb' 0 4 = z := by
  and_intros <;> exact extractLsb'_eq_of_div_mod (by simp only [toNat_append_eq_add]; omega)

/-- The selector bit of BFX and BFI (Table 2-8). -/
@[simp] theorem parts_imm_bitField (op d a : BitVec 6) (y z : BitVec 6) :
    fBit (mkI op d a (0#2 ++ y ++ z)) 13 = false ∧ fBit (mkI op d a (2#2 ++ y ++ z)) 13 = true := by
  and_intros <;> exact getLsbD_eq_of_div_mod (by simp only [mkI, toNat_append_eq_add]; simp; omega)

@[simp] theorem parts_payload_hsch (kind : BitVec 4) (spin : BitVec 4) : fLo4 (mkH kind (0#18 ++ spin)) = spin :=
  extractLsb'_eq_of_div_mod (by simp only [mkH, toNat_append_eq_add]; omega)

@[simp] theorem parts_payload_hlive (kind : BitVec 4) (bmap : BitVec 13) (lreg : BitVec 8) :
    fFn (mkH kind (0#1 ++ bmap ++ lreg)) = lreg ∧ fBmap (mkH kind (0#1 ++ bmap ++ lreg)) = bmap := by
  and_intros <;> exact extractLsb'_eq_of_div_mod (by simp only [mkH, toNat_append_eq_add]; omega)

@[simp] theorem parts_payload_hmod (kind : BitVec 4) (wide sat satv : Bool) (rm : BitVec 3) (rmv : Bool) :
    let w := mkH kind (0#15 ++ BitVec.ofBool wide ++ BitVec.ofBool sat ++ BitVec.ofBool satv ++ rm ++ BitVec.ofBool rmv)
    fBit w 0 = rmv ∧ fRm w = rm ∧ fBit w 4 = satv ∧ fBit w 5 = sat ∧ fBit w 6 = wide := by
  refine ⟨getLsbD_eq_of_div_mod ?_, extractLsb'_eq_of_div_mod ?_, getLsbD_eq_of_div_mod ?_, getLsbD_eq_of_div_mod ?_,
    getLsbD_eq_of_div_mod ?_⟩ <;> simp only [mkH, toNat_append_eq_add] <;> omega

/-! ### Codes and what they name (02 R48, R49, R53, R54) -/

@[simp] theorem Reg.ofCode_code (r : Reg) : Reg.ofCode r.code = r := by
  cases r with
  | p i | l i | qm i | qs i | s i => revert i; decide
  | _ => rfl

@[simp] theorem vreg_vc (v : VReg) : vreg (vc v) = v := by revert v; decide

@[simp] theorem Size.ofCode_code (sz : Size) : Size.ofCode sz.code = sz := by cases sz <;> rfl

@[simp] theorem Order.ofCode_code (o : Order) : Order.ofCode o.code = o := by cases o <;> rfl

@[simp] theorem Ty.ofCode_code (t : Ty) : Ty.ofCode t.code = some t := by cases t <;> rfl

/-- A field of two bits holds the scalar floating types only (R53). -/
@[simp] theorem Ty.ofCode2_code2_eq_iff (t : Ty) : Ty.ofCode2 t.code2 = t ↔ t.isFp = true := by cases t <;> decide

/-- A field of three bits holds the types of whole lanes only (08 R246). -/
theorem Ty.ofCode_code3 {t : Ty} (h : t.isLane = true) : Ty.ofCode (0#1 ++ t.code3) = some t := by revert h; cases t <;> decide

theorem Ty.isLane_of_isInt {t : Ty} (h : t.isInt = true) : t.isLane = true := by simp [Ty.isLane, h]

@[simp] theorem withTy_code (t : Ty) (k : Ty → Instr) : withTy t.code k = .ok (k t) := by simp [withTy]

theorem withTy_code3 {t : Ty} (h : t.isLane = true) (k : Ty → Instr) : withTy (0#1 ++ t.code3) k = .ok (k t) := by
  simp [withTy, Ty.ofCode_code3 h]

@[simp] theorem registers_of_fields (w : Word) :
    rd w = Reg.ofCode (fD w) ∧ ra w = Reg.ofCode (fA w) ∧ rb w = Reg.ofCode (fB w) ∧ rba w = Reg.ofCode (fBa w) ∧
      vd w = vreg (fD w) ∧ va w = vreg (fA w) ∧ vb w = vreg (fB w) := ⟨rfl, rfl, rfl, rfl, rfl, rfl, rfl⟩

/-! ### The row that the word of an instruction selects (02 R50, R55 to R63) -/

/-- The word of a well-formed instruction selects the row of that instruction. -/
def Selects (i : Instr) : Prop := i.wf = true → ∀ w, encode i = some w → select w = .ok i

theorem selects_of_word {i : Instr} {w : Word} (hw : encode i = some w) (h : i.wf = true → select w = .ok i) : Selects i := by
  intro hwf v hv
  rw [hw, Option.some.injEq] at hv
  exact hv ▸ h hwf

theorem selects_of_noWord {i : Instr} (h : encode i = none) : Selects i := by simp [Selects, h]


theorem selects_integer (d a b : Reg) :
    Selects (.add d a b) ∧ Selects (.sub d a b) ∧ Selects (.mul d a b) ∧ Selects (.mulh d a b) ∧ Selects (.mulhu d a b) ∧
    Selects (.div d a b) ∧ Selects (.divu d a b) ∧ Selects (.rem d a b) ∧ Selects (.remu d a b) ∧ Selects (.and d a b) ∧
    Selects (.or d a b) ∧ Selects (.xor d a b) ∧ Selects (.andn d a b) ∧ Selects (.shl d a b) ∧ Selects (.shr d a b) ∧
    Selects (.sra d a b) ∧ Selects (.rot d a b) ∧ Selects (.min d a b) ∧ Selects (.max d a b) ∧ Selects (.minu d a b) ∧
    Selects (.maxu d a b) ∧ Selects (.cmpeq d a b) ∧ Selects (.cmpne d a b) ∧ Selects (.cmplt d a b) ∧ Selects (.cmpltu d a b) ∧
    Selects (.cmple d a b) ∧ Selects (.cmpleu d a b) ∧ Selects (.cmov d a b) := by
  and_intros <;> exact selects_of_word rfl fun _ => by simp [select, select01]

theorem selects_oneOperand :
    (∀ d a, Selects (.clz d a) ∧ Selects (.ctz d a) ∧ Selects (.popc d a) ∧ Selects (.brev d a) ∧ Selects (.bswap d a) ∧
      Selects (.not d a) ∧ Selects (.neg d a) ∧ Selects (.abs d a)) ∧
    (∀ sz d a, Selects (.exts sz d a) ∧ Selects (.extz sz d a)) := by
  simp only [forall_and]
  and_intros <;> intros <;> exact selects_of_word rfl fun _ => by simp [select, select02]

theorem selects_immediate :
    (∀ d a imm, Selects (.addi d a imm) ∧ Selects (.andi d a imm) ∧ Selects (.ori d a imm) ∧ Selects (.xori d a imm) ∧
      Selects (.cmpeqi d a imm) ∧ Selects (.cmplti d a imm) ∧ Selects (.cmpltui d a imm)) ∧
    (∀ d a e, Selects (.shli d a e) ∧ Selects (.shri d a e) ∧ Selects (.srai d a e) ∧ Selects (.roti d a e)) ∧
    (∀ d imm, Selects (.lui d imm) ∧ Selects (.addpc d imm)) := by
  simp only [forall_and]
  and_intros <;> intros <;> exact selects_of_word rfl fun _ => by
    simp [select, select03, select04, select05, select06, select07, select08, select09, select0A, select0B, select0C]

theorem selects_bitField :
    (∀ d a pos wm1, Selects (.bfx d a pos wm1) ∧ Selects (.bfi d a pos wm1)) ∧
    (∀ d n, Selects (.wid d n)) ∧
    (∀ d a b n, Selects (.addx d a b n)) := by
  simp only [forall_and]
  and_intros <;> intros <;> exact selects_of_word rfl fun _ => by simp [select, select0D, select0E]

theorem selects_branch (cc : Cond) (a : Reg) (off : BitVec 16) : Selects (.br cc a off) :=
  selects_of_word rfl fun _ => by cases cc <;> simp [select, select10, Cond.code]

theorem selects_transfer :
    (∀ off, Selects (.bra off)) ∧
    (∀ d imm, Selects (.call d imm)) ∧
    (∀ a, Selects (.jr a) ∧ Selects (.ret a)) ∧
    (∀ d a, Selects (.callr d a)) ∧
    (∀ a off, Selects (.loop a off)) := by
  simp only [forall_and]
  and_intros <;> intros <;> exact selects_of_word rfl fun _ => by simp [select, select10, select11, select12, select13]

theorem selects_float (t : Ty) :
    (∀ d a b, Selects (.fadd t d a b) ∧ Selects (.fsub t d a b) ∧ Selects (.fmul t d a b) ∧ Selects (.fdiv t d a b) ∧
      Selects (.fmin t d a b) ∧ Selects (.fmax t d a b) ∧ Selects (.fcmpeq t d a b) ∧ Selects (.fcmplt t d a b) ∧
      Selects (.fcmple t d a b)) ∧
    (∀ d a, Selects (.fsqrt t d a) ∧ Selects (.fabs t d a) ∧ Selects (.fneg t d a) ∧ Selects (.fclass t d a) ∧
      Selects (.frcp t d a)) ∧
    (∀ d a b c, Selects (.ffma t d a b c)) := by
  simp only [forall_and]
  and_intros <;> intros <;> exact selects_of_word rfl fun hwf => by
    have ht : t.isFp = true := (Bool.and_eq_true_iff.mp hwf).2
    simp [select, select14, select15, ht]

theorem selects_conversion :
    (∀ t u d a, Selects (.fcvt t u d a)) ∧
    (∀ t u d a, Selects (.vcvt t u d a)) ∧
    (∀ t d a, Selects (.vexp2 t d a) ∧ Selects (.vlog2 t d a)) := by
  simp only [forall_and]
  and_intros <;> intros <;> exact selects_of_word rfl fun _ => by simp [select, select16, select35]

theorem selects_access :
    (∀ sz d a off, Selects (.ld sz d a off) ∧ Selects (.lds sz d a off) ∧ Selects (.st sz d a off) ∧ Selects (.pst sz d a off)) ∧
    (∀ d a off, Selects (.ldfe d a off) ∧ Selects (.ldff d a off) ∧ Selects (.stfe d a off) ∧ Selects (.stff d a off)) ∧
    (∀ d e a b, Selects (.ship d e a b)) := by
  simp only [forall_and]
  and_intros <;> intros <;> exact selects_of_word rfl fun _ => by
    simp [select, select18, select19, select1A, select1B, select1C, select1D]

theorem selects_atomic :
    (∀ o sz d a b, Selects (.aadd o sz d a b) ∧ Selects (.aswp o sz d a b) ∧ Selects (.acas o sz d a b) ∧
      Selects (.aand o sz d a b) ∧ Selects (.aor o sz d a b) ∧ Selects (.axor o sz d a b) ∧ Selects (.amin o sz d a b) ∧
      Selects (.amax o sz d a b) ∧ Selects (.aminu o sz d a b) ∧ Selects (.amaxu o sz d a b)) ∧
    (∀ o sz d a, Selects (.ainc o sz d a)) := by
  simp only [forall_and]
  and_intros <;> intros <;> exact selects_of_word rfl fun _ => by simp [select, select1E]

theorem selects_fenceBank (a : Reg) : Selects (.fenceBank a) :=
  selects_of_word rfl fun _ => by simp [select, select1F]

theorem selects_fence (c : Scope) : Selects (.fence c) :=
  selects_of_word rfl fun _ => by cases c <;> simp [select, select1F, Scope.code]

theorem selects_copy :
    (∀ d a b e sh rr, Selects (.cpy d a b e sh rr) ∧ Selects (.cpym d a b e sh rr)) ∧
    (∀ d a, Selects (.cpwa d a) ∧ Selects (.cpwn d a) ∧ Selects (.cpff d a) ∧ Selects (.cpts d a)) ∧
    (∀ e, Selects (.stage e)) ∧
    (∀ d e, Selects (.wmrd d e)) ∧
    (∀ d a b, Selects (.tsub d a b)) ∧
    (∀ a b, Selects (.trel a b) ∧ Selects (.trelSt a b)) := by
  simp only [forall_and]
  and_intros <;> intros <;> exact selects_of_word rfl fun _ => by simp [select, select20, select21, select22, select23, select24]

theorem selects_channel :
    (∀ e a, Selects (.send e a) ∧ Selects (.sendt e a) ∧ Selects (.bind e a) ∧ Selects (.chmode e a)) ∧
    (∀ d e, Selects (.recv d e) ∧ Selects (.probe d e)) ∧
    (∀ d e a, Selects (.recvt d e a) ∧ Selects (.sendx d e a) ∧ Selects (.recvx d e a)) ∧
    (∀ e, Selects (.eos e) ∧ Selects (.unbind e)) ∧
    (∀ d a, Selects (.alt d a)) ∧
    (∀ d a b, Selects (.altt d a b)) := by
  simp only [forall_and]
  and_intros <;> intros <;> exact selects_of_word rfl fun _ => by simp [select, select28, select29, select2A]

theorem selects_port :
    (∀ d e a, Selects (.post d e a)) ∧
    (∀ e a, Selects (.jpat e a) ∧ Selects (.pcfg e a)) ∧
    (∀ e, Selects (.jarm e) ∧ Selects (.jdis e)) ∧
    (∀ d e, Selects (.jrd d e)) := by
  simp only [forall_and]
  and_intros <;> intros <;> exact selects_of_word rfl fun _ => by simp [select, select2B]

theorem selects_scheduling :
    (∀ d a b, Selects (.fork d a b)) ∧
    (∀ d, Selects (.joinc d) ∧ Selects (.rdtime d) ∧ Selects (.getst d)) ∧
    (∀ d a, Selects (.lnch d a) ∧ Selects (.evtst d a) ∧ Selects (.bar d a)) ∧
    Selects .yield ∧ Selects .park ∧
    (∀ a, Selects (.wake a) ∧ Selects (.setpri a) ∧ Selects (.setdl a) ∧ Selects (.setwl a) ∧ Selects (.evwait a) ∧
      Selects (.evwaitQev a) ∧ Selects (.evsig a) ∧ Selects (.evclr a) ∧ Selects (.barBrk a)) := by
  simp only [forall_and]
  and_intros <;> intros <;> exact selects_of_word rfl fun _ => by simp [select, select2C, select2D, select2E, select2F]

theorem selects_lanes (t : Ty) :
    (∀ d a b, Selects (.vadd t d a b) ∧ Selects (.vsub t d a b) ∧ Selects (.vmul t d a b) ∧ Selects (.vfma t d a b) ∧
      Selects (.vmin t d a b) ∧ Selects (.vmax t d a b) ∧ Selects (.vcmpEq t d a b) ∧ Selects (.vcmpLt t d a b) ∧
      Selects (.vcmpLe t d a b) ∧ Selects (.vsel t d a b)) ∧
    (∀ d a, Selects (.vabs t d a) ∧ Selects (.vneg t d a)) := by
  simp only [forall_and]
  and_intros <;> intros <;> exact selects_of_word rfl fun hwf => by
    have ht : t.isLane = true := hwf
    simp [select, select30, withTy_code3 ht]

theorem selects_laneBits (t : Ty) (d a b : VReg) :
    Selects (.vand t d a b) ∧ Selects (.vor t d a b) ∧ Selects (.vxor t d a b) ∧ Selects (.vshl t d a b) ∧
    Selects (.vshr t d a b) := by
  and_intros <;> exact selects_of_word rfl fun hwf => by
    have ht : t.isInt = true := hwf
    simp [select, select30, withTy_code3 (Ty.isLane_of_isInt ht)]

theorem selects_vector :
    (∀ d a off, Selects (.vld d a off) ∧ Selects (.vst d a off)) ∧
    (∀ t d a b, Selects (.vlds t d a b) ∧ Selects (.vsts t d a b)) ∧
    (∀ t d a b, Selects (.vgath t d a b) ∧ Selects (.vscat t d a b)) ∧
    (∀ t d a, Selects (.vredAdd t d a) ∧ Selects (.vredMin t d a) ∧ Selects (.vredMax t d a)) ∧
    (∀ t d a b, Selects (.vdot t d a b)) ∧
    (∀ t d a b, Selects (.vshf t d a b)) ∧
    (∀ t d a, Selects (.vbcast t d a)) ∧
    (∀ d a n, Selects (.vext d a n)) ∧
    (∀ d a n, Selects (.vins d a n)) := by
  simp only [forall_and]
  and_intros <;> intros <;> exact selects_of_word rfl fun _ => by simp [select, select31, select32, select33, select34]

theorem selects_matrix :
    (∀ a, Selects (.mwld a) ∧ Selects (.accz a) ∧ Selects (.xfork a)) ∧
    Selects .mswap ∧ Selects .mzero ∧
    (∀ a b, Selects (.mstrm a b) ∧ Selects (.accmv a b) ∧ Selects (.accset a b)) ∧
    (∀ d a b, Selects (.mmul d a b) ∧ Selects (.mcmd d a b)) ∧
    (∀ d a, Selects (.mrd d a) ∧ Selects (.mscl d a)) ∧
    (∀ t a b, Selects (.accw t a b)) ∧
    (∀ t d a, Selects (.accrd t d a)) ∧
    (∀ d, Selects (.xjoin d)) := by
  simp only [forall_and]
  and_intros <;> intros <;> exact selects_of_word rfl fun _ => by simp [select, select36, select37, select38, select39]

theorem selects_system :
    (∀ d, Selects (.prgrd d)) ∧
    (∀ a, Selects (.prgwr a) ∧ Selects (.rfwin a) ∧ Selects (.mtsrUtask a) ∧ Selects (.mtsrDlprobe a) ∧ Selects (.mtsrEjrn a)) ∧
    (∀ code, Selects (.trap code) ∧ Selects (.bkpt code)) ∧
    Selects .eret ∧ Selects .syncid ∧
    (∀ d sr, Selects (.mfsr d sr)) := by
  simp only [forall_and]
  and_intros <;> intros <;> exact selects_of_word rfl fun _ => by simp [select, select3A, select3C]

/-- MTSR of a register that no row of its own names (Table 2-14). -/
theorem selects_mtsr (sr : BitVec 12) (a : Reg) : Selects (.mtsr sr a) := by
  refine selects_of_word rfl fun hwf => ?_
  have h : (((SysReg.ofNum sr).isSome && sr != 0x011#12) && sr != 0x013#12 && sr != 0x025#12) = true := hwf
  simp only [Bool.and_eq_true, bne_iff_ne] at h
  obtain ⟨⟨⟨-, h11⟩, h13⟩, h25⟩ := h
  simp [select, select3C, h11, h13, h25]

theorem selects_hint :
    (∀ p, Selects (.himm p)) ∧ (∀ spin, Selects (.hsch spin)) ∧ (∀ lreg bmap, Selects (.hlive lreg bmap)) ∧
    (∀ rmv rm satv sat wide, Selects (.hmod rmv rm satv sat wide)) := by
  and_intros <;> intros <;> exact selects_of_word rfl fun _ => by simp [select, select3F]

/-- The rows of chapter 02 one family after another; an event has no word. -/
theorem selects (i : Instr) : Selects i := by
  cases i with
  | add | sub | mul | mulh | mulhu | div | divu | rem | remu | and | or | xor | andn | shl | shr | sra | rot | min | max
    | minu | maxu | cmpeq | cmpne | cmplt | cmpltu | cmple | cmpleu | cmov => simp only [selects_integer]
  | clz | ctz | popc | brev | bswap | exts | extz | not | neg | abs => simp only [selects_oneOperand]
  | addi | andi | ori | xori | shli | shri | srai | roti | cmpeqi | cmplti | cmpltui | lui | addpc => simp only [selects_immediate]
  | bfx | bfi | wid | addx => simp only [selects_bitField]
  | br => exact selects_branch _ _ _
  | bra | call | jr | callr | ret | loop => simp only [selects_transfer]
  | fadd | fsub | fmul | fdiv | fsqrt | fmin | fmax | fabs | fneg | fcmpeq | fcmplt | fcmple | fclass | frcp | ffma => simp only [selects_float]
  | fcvt | vcvt | vexp2 | vlog2 => simp only [selects_conversion]
  | ld | lds | st | ldfe | ldff | stfe | stff | pst | ship => simp only [selects_access]
  | aadd | aswp | acas | aand | aor | axor | amin | amax | aminu | amaxu | ainc => simp only [selects_atomic]
  | fenceBank => exact selects_fenceBank _
  | fence => exact selects_fence _
  | cpy | cpym | cpwa | cpwn | cpff | cpts | stage | wmrd | tsub | trel | trelSt => simp only [selects_copy]
  | send | sendt | recv | recvt | sendx | recvx | probe | eos | alt | altt | bind | unbind | chmode => simp only [selects_channel]
  | post | jpat | jarm | jdis | jrd | pcfg => simp only [selects_port]
  | fork | joinc | lnch | yield | park | wake | setpri | setdl | setwl | rdtime | getst | evwait | evwaitQev | evsig | evclr
    | evtst | bar | barBrk => simp only [selects_scheduling]
  | vadd | vsub | vmul | vfma | vmin | vmax | vabs | vneg | vcmpEq | vcmpLt | vcmpLe | vsel => simp only [selects_lanes]
  | vand | vor | vxor | vshl | vshr => simp only [selects_laneBits]
  | vld | vst | vlds | vsts | vgath | vscat | vredAdd | vredMin | vredMax | vdot | vshf | vbcast | vext | vins => simp only [selects_vector]
  | mwld | mswap | mstrm | mmul | mzero | mrd | mcmd | mscl | accw | accz | accrd | accmv | accset | xfork | xjoin => simp only [selects_matrix]
  | prgrd | prgwr | trap | eret | bkpt | rfwin | syncid | mfsr | mtsrUtask | mtsrDlprobe | mtsrEjrn => simp only [selects_system]
  | mtsr => exact selects_mtsr _ _
  | himm | hsch | hlive | hmod => simp only [selects_hint]
  | _ => exact selects_of_noWord rfl

/-! ### The statements -/

/-- The word of an instruction selects its own row, and the check of the reserved fields compares the row's word with itself. -/
theorem decode_of_encode {i : Instr} {w : Word} (hwf : i.wf = true) (hw : encode i = some w) : decode w = .ok i := by
  simp [decode, selects i hwf w hw, hwf, hw]

/-- Settles O59, by the row that each instruction's word selects. -/
theorem decodeEncode : Obligations.DecodeEncode := by
  unfold Obligations.DecodeEncode
  exact fun _ _ => decode_of_encode

/-- Settles O57: each word is the word of its instruction; the one refused selects no row. -/
theorem decodedWords : Obligations.DecodedWords := by
  unfold Obligations.DecodedWords
  refine ⟨?_, ?_, ?_, ?_, ?_, ?_, ?_, ?_, ?_, rfl, ?_, ?_, ?_⟩ <;> exact decode_of_encode rfl rfl

end Sys2Proof.Machine
end

section
/-! ## Immediates, bit fields, identifier fields, scaled addresses (02 R66; 04 R120, R123 to R128) -/

namespace Sys2Proof.Machine

/-! ### An instruction that only computes -/

theorem compute_value {s t : State} {reads : List Reg} {d : Reg} {f : List DWord → DWord} {vs : List DWord} {v : DWord}
    (h : s.Ready ⟨reads, some d, false, false⟩ vs t) (hv : f vs = v) (hd : t.dstCheck d v = .ok) :
    s.compute reads d f = .next ((t.writeReg d v).advance) := by
  subst hv
  exact compute_next h hd

theorem computes0_of_compute {i : Instr} {d : Reg} {f : State → DWord} {g : State → List DWord → DWord}
    (hi : ∀ s, exec i s = s.compute [] d (g s)) (hg : ∀ s, g s [] = f s) : Computes0 i d f :=
  fun s hr hd => (hi s).trans (compute_value hr (hg s) hd)

theorem computes1_of_compute {i : Instr} {d a : Reg} {f : State → DWord → DWord} {g : State → List DWord → DWord}
    (hi : ∀ s, exec i s = s.compute [a] d (g s)) (hg : ∀ s x, g s [x] = f s x) : Computes1 i d a f :=
  fun s x _ hr hd => (hi s).trans (compute_value hr (hg s x) hd)

theorem computes2_of_compute {i : Instr} {d a b : Reg} {f : DWord → DWord → DWord} {g : List DWord → DWord}
    (hi : ∀ s, exec i s = s.compute [a, b] d g) (hg : ∀ x y, g [x, y] = f x y) : Computes2 i d a b f :=
  fun s x y _ hr hd => (hi s).trans (compute_value hr (hg x y) hd)

/-! ### Immediates (02 R66) -/

theorem State.immI_plain {s : State} (imm : BitVec 14) (h : s.me.hints.himm = none) : s.immI imm = imm.signExtend 64 := by
  simp only [State.immI, h]

theorem State.immI_widened {s : State} {p : BitVec 22} (imm : BitVec 14) (h : s.me.hints.himm = some p) :
    s.immI imm = (p ++ imm).signExtend 64 := by
  simp only [State.immI, h]

theorem State.immU_plain {s : State} (imm : BitVec 20) (h : s.me.hints.himm = none) : s.immU imm = imm.signExtend 64 := by
  simp only [State.immU, h]

theorem State.immU_widened {s : State} {p : BitVec 22} (imm : BitVec 20) (h : s.me.hints.himm = some p) :
    s.immU imm = (p ++ imm).signExtend 64 := by
  simp only [State.immU, h]

/-! ### Comparisons, shifts and fields of words -/

theorem truth_decide (p : Prop) [Decidable p] : truth (decide p) = if p then 1 else 0 := by simp [truth]

theorem truth_beq (x y : DWord) : truth (x == y) = if x = y then 1 else 0 := by rw [Bool.beq_eq_decide_eq, truth_decide]

theorem truth_slt (x y : DWord) : truth (x.slt y) = if x.toInt < y.toInt then 1 else 0 := by
  rw [BitVec.slt_eq_decide, truth_decide]

theorem truth_ult (x y : DWord) : truth (x.ult y) = if x.toNat < y.toNat then 1 else 0 := by
  rw [BitVec.ult_eq_decide, truth_decide]

theorem sshiftRight_eq_ofInt_div (x : DWord) (n : Nat) : x.sshiftRight n = BitVec.ofInt 64 (x.toInt / 2 ^ n) := by
  rw [BitVec.sshiftRight, Int.shiftRight_eq_div_pow]
  norm_cast

theorem rotateLeft_eq_or (x : DWord) {n : Nat} (h : n < 64) : x.rotateLeft n = x <<< n ||| x >>> (64 - n) := by
  rw [BitVec.rotateLeft_def, Nat.mod_eq_of_lt h]

theorem shiftLeft_eq_mul_ofNat (x : DWord) (n : Nat) : x <<< n = x * BitVec.ofNat 64 (2 ^ n) := by
  rw [BitVec.shiftLeft_eq_mul_twoPow]
  exact congrArg (x * ·) (BitVec.eq_of_toNat_eq (by rw [BitVec.toNat_twoPow, BitVec.toNat_ofNat]))

theorem getLsbD_fieldMask {last pos k : Nat} (hk : k < 64) :
    (fieldMask (last + 1) pos).getLsbD k = decide (pos ≤ k ∧ k ≤ pos + last) := by
  rw [fieldMask, BitVec.getLsbD_shiftLeft, BitVec.getLsbD_ofNat, Nat.testBit_two_pow_sub_one, Bool.eq_iff_iff]
  simp only [Bool.and_eq_true, Bool.not_eq_true', decide_eq_true_eq, decide_eq_false_iff_not]
  omega

/-- The low bits of one word set in another from a position on, bit by bit. -/
theorem insert_fieldMask (x y : DWord) (last pos : Nat) :
    (y &&& ~~~fieldMask (last + 1) pos) ||| ((x <<< pos) &&& fieldMask (last + 1) pos) =
      BitVec.ofFnLE fun i : Fin 64 => if pos ≤ i.val ∧ i.val ≤ pos + last then x.getLsbD (i.val - pos) else y.getLsbD i.val := by
  apply BitVec.eq_of_getLsbD_eq
  intro k hk
  rw [BitVec.getLsbD_or, BitVec.getLsbD_and, BitVec.getLsbD_and, BitVec.getLsbD_not, BitVec.getLsbD_shiftLeft, getLsbD_fieldMask hk,
    BitVec.getLsbD_ofFnLE, dif_pos hk]
  by_cases h : pos ≤ k ∧ k ≤ pos + last
  · simp [hk, h, Nat.not_lt.2 h.1]
  · simp [hk, h]

theorem idField_eq (widths : List Nat) (id : DWord) (k : Nat) :
    idField widths id k = BitVec.ofNat 64 (id.toNat / 2 ^ (widths.take k).sum % 2 ^ (widths.getD k 0)) :=
  congrArg _ (bits_eq_div_mod ..)

theorem exec_cmov (d a b : Reg) (s : State) :
    exec (.cmov d a b) s = s.compute [a, b, d] d fun v => if arg v 0 ≠ 0 then arg v 1 else arg v 2 := rfl

/-! ### The statement -/

/-- Settles O4: each instruction computes, and the model's shifts, masks and comparisons are those of the statement. -/
theorem immediateAndAddressResults : Obligations.ImmediateAndAddressResults := by
  unfold Obligations.ImmediateAndAddressResults
  refine ⟨⟨?immI, ?immU, ?imm14, ?shifts, ?imm20, ?fields⟩, ?cmov, ?wid, ?addx⟩
  case immI => exact fun s imm => ⟨State.immI_plain imm, fun p => State.immI_widened imm⟩
  case immU => exact fun s imm => ⟨State.immU_plain imm, fun p => State.immU_widened imm⟩
  case imm14 =>
    intro d a imm
    exact ⟨computes1_of_compute (fun _ => rfl) fun _ _ => rfl, computes1_of_compute (fun _ => rfl) fun _ _ => rfl,
      computes1_of_compute (fun _ => rfl) fun _ _ => rfl, computes1_of_compute (fun _ => rfl) fun _ _ => rfl,
      computes1_of_compute (fun _ => rfl) fun _ _ => truth_beq .., computes1_of_compute (fun _ => rfl) fun _ _ => truth_slt ..,
      computes1_of_compute (fun _ => rfl) fun _ _ => truth_ult ..⟩
  case shifts =>
    intro d a n
    exact ⟨computes1_of_compute (fun _ => rfl) fun _ _ => rfl, computes1_of_compute (fun _ => rfl) fun _ _ => rfl,
      computes1_of_compute (fun _ => rfl) fun _ _ => sshiftRight_eq_ofInt_div ..,
      computes1_of_compute (fun _ => rfl) fun _ _ => rotateLeft_eq_or _ n.isLt⟩
  case imm20 =>
    intro d imm
    exact ⟨computes0_of_compute (fun _ => rfl) fun _ => shiftLeft_eq_mul_ofNat _ 14, computes0_of_compute (fun _ => rfl) fun _ => rfl⟩
  case fields =>
    intro d a pos wm1
    exact ⟨computes1_of_compute (fun _ => rfl) fun _ _ => congrArg _ (bits_eq_div_mod ..),
      computes2_of_compute (fun _ => rfl) fun x y => insert_fieldMask x y ..⟩
  case cmov =>
    intro d a b s t x y z h
    rw [exec_cmov]
    exact ⟨fun hx => compute_value h (if_pos hx), fun hx => compute_value h (if_neg (not_not.2 hx))⟩
  case wid =>
    intro d k
    refine computes0_of_compute (fun _ => rfl) fun s => ?_
    cases hj : s.fib.job.bind s.jobs.get? with
    | none => simp only [State.job?, hj]
    | some j => simp only [State.job?, hj, idField_eq]
  case addx =>
    intro d a b n
    exact computes2_of_compute (fun _ => rfl) fun x y => congrArg (x + ·) (shiftLeft_eq_mul_ofNat y n.toNat)

end Sys2Proof.Machine
end

section
/-! ## Matrix instructions, their elements and the accumulation step (08 R257 to R267; 03 R106 to R108) -/

namespace Sys2Proof.Machine

/-! ### The gate of the unit (R257) -/

theorem matIssue_go {s t : State} {o : Opnds} {vs : List DWord} {k : List DWord → State → State} (h : s.Ready o vs t)
    (hm : s.matHeld = false) (ha : s.heldByAcquire = false) : s.matIssue o k = .next (k vs t) := by
  rw [State.matIssue, issue_go h, hm, ha]
  rfl

theorem matIssue_held {s t : State} {o : Opnds} {vs : List DWord} {k : List DWord → State → State} (h : s.Ready o vs t)
    (hw : s.matHeld = true ∨ s.heldByAcquire = true) : s.matIssue o k = .next s.stall := by
  rw [State.matIssue, issue_go h, if_pos (Bool.or_eq_true_iff.2 hw)]

theorem State.sid_eq_seven {s : State} : s.sid.val = 7 ↔ s.sid = 7 := (Fin.ext_iff (b := 7)).symm

/-! ### Slot 7 takes the unit (R265 to R267) -/

theorem State.takeUnit_user {s : State} (h : s.sid ≠ 7) (lost : Bool) : s.takeUnit lost = s :=
  if_pos (mt State.sid_eq_seven.1 h)

/-- The core as its slot 7 takes the unit, the slot's own mark apart. -/
def Core.taken (c : Core) (paused lost : Bool) : Core :=
  { c with pausing := c.pausing || (c.matWork && !paused), loaded7 := c.loaded7 || (c.matWork && lost),
           shadow := if lost then { c.shadow with lost := true } else c.shadow }

section
variable {s : State} (h : s.sid = 7) (lost : Bool)
include h

theorem State.takeUnit_seven : s.takeUnit lost = ({ s with core := s.core.taken s.me.paused lost } : State).setMe
    (if s.core.matWork then { s.me with paused := true } else s.me) := by
  rw [State.takeUnit, if_neg (not_not.2 (State.sid_eq_seven.2 h))]
  cases lost <;> rfl

theorem State.takeUnit_seven_me : (s.takeUnit lost).me = if s.core.matWork then { s.me with paused := true } else s.me := by
  rw [State.takeUnit_seven h, State.setMe_me]

theorem State.takeUnit_seven_active : (s.takeUnit lost).core.active = s.core.active := by rw [State.takeUnit_seven h]; rfl

theorem State.takeUnit_seven_shadow :
    (s.takeUnit lost).core.shadow = if lost then { s.core.shadow with lost := true } else s.core.shadow := by
  rw [State.takeUnit_seven h]
  rfl

theorem State.takeUnit_seven_pausing :
    (s.takeUnit lost).core.pausing = (s.core.pausing || (s.core.matWork && !s.me.paused)) := by
  rw [State.takeUnit_seven h]
  rfl

theorem State.takeUnit_seven_loaded7 : (s.takeUnit lost).core.loaded7 = (s.core.loaded7 || (s.core.matWork && lost)) := by
  rw [State.takeUnit_seven h]
  rfl

end

/-! ### The start of an instruction (R258 to R264) -/

theorem State.raiseMacro_first {s : State} (h : s.ctx.pg = 0) (f : Flt) : s.raiseMacro f = s.raise f := if_pos (.inl h)

/-- The handles of an instruction have no reserved bit, and name the records shs. -/
def State.Found (s : State) (hs : List DWord) (shs : List Shape) : Prop :=
  (∀ h ∈ hs, h.toNat < 2 ^ 32) ∧ s.resolveAll s.shapeJob (hs.map fun h => h.toNat) = .ok shs

/-- The run that an instruction begins with, s before the pops and t after them: the unit taken, the first commit due at the unit's pace
unless paused work still commits, the slot stalled. -/
def State.matRun (s t : State) (i : Instr) (op : MatOp) (vals : List DWord) (shs : List Shape) (n : Nat) : State :=
  let r := { ElemRun.start i n 0 with vals := vals, shapes := shs, bfmt := s.formats }
  let w := (t.takeUnit (op == .mwld)).startRun n r State.advance
  let u := if w.core.pauses then w else w.setMatAt (s.matFirst (decide (s.sid.val ≠ 7)) r)
  if u.me.run.isSome then u.setMe { u.me with stall := some (s.me.stall.getD s.now) } else u

/-- The working plane of the slot in turn. -/
def State.workPlane (s : State) : Plane := if s.sid = 7 then s.core.shadow else s.core.active

theorem State.plane_eq_workPlane (s : State) : s.plane (s.sid.val = 7) = s.workPlane := by
  simp only [State.plane, State.workPlane, State.sid_eq_seven, decide_eq_true_eq]

theorem State.Found.reserved {s : State} {hs : List DWord} {shs : List Shape} (hf : s.Found hs shs) :
    (hs.any fun h => bits h 32 32 != 0) = false := by
  simpa only [List.any_eq_false, bne_iff_ne] using fun h hm => bits_top_zero rfl (hf.1 h hm)

theorem State.Found.resolved {s : State} {hs : List DWord} {shs : List Shape} (hf : s.Found hs shs) :
    s.resolveAll s.shapeJob (hs.map fun h => bits h 0 32) = .ok shs := by
  obtain ⟨hlt, hres⟩ := hf
  rw [List.map_congr_left fun h hm => (bits_zero h 32).trans (Nat.mod_eq_of_lt (hlt h hm)), hres]

section
variable {s : State} {hs : List DWord} {shs : List Shape} {op : MatOp} (hpg : s.ctx.pg = 0) (hf : s.Found hs shs)
include hpg hf

theorem State.matStart_planned {n : Nat} (h : s.matPlan op s.workPlane shs = .ok n) (t : State) (i : Instr) (vals : List DWord) :
    s.matStart t i op hs vals = s.matRun t i op vals shs n := by
  have hstart : s.macroStart n = some 0 := if_pos hpg
  simp only [State.matStart, hf.reserved, hf.resolved, State.plane_eq_workPlane, h, hstart]
  rfl

theorem State.matStart_refused {f : Flt} (h : s.matPlan op s.workPlane shs = .error f) (t : State) (i : Instr) (vals : List DWord) :
    s.matStart t i op hs vals = s.raise f := by
  simp only [State.matStart, hf.reserved, hf.resolved, State.plane_eq_workPlane, h, State.raiseMacro_first hpg]
  rfl

end

section
variable {s t : State} {o : Opnds} {vs : List DWord} {k : List DWord → State → State} {i : Instr} {op : MatOp} {hs vals : List DWord}
  {shs : List Shape} (hr : s.Ready o vs t) (hm : s.matHeld = false) (ha : s.heldByAcquire = false) (hpg : s.ctx.pg = 0)
  (hf : s.Found hs shs) (hk : k vs t = s.matStart t i op hs vals)
include hr hm ha hpg hf hk

theorem matIssue_planned {n : Nat} (h : s.matPlan op s.workPlane shs = .ok n) :
    s.matIssue o k = .next (s.matRun t i op vals shs n) := by
  rw [matIssue_go hr hm ha, hk, State.matStart_planned hpg hf h]

theorem matIssue_refused {f : Flt} (h : s.matPlan op s.workPlane shs = .error f) : s.matIssue o k = .next (s.raise f) := by
  rw [matIssue_go hr hm ha, hk, State.matStart_refused hpg hf h]

end

theorem execMwld_reserved {s t : State} {a : Reg} {x : DWord} (hr : s.Ready ⟨[a], none, false, true⟩ [x] t) (hm : s.matHeld = false)
    (ha : s.heldByAcquire = false) (hpg : s.ctx.pg = 0) (hx : mwldReserved x = true) :
    execMwld a s = .next (s.raise (flt reservedField)) := by
  rw [execMwld, matIssue_go hr hm ha, arg_zero, if_pos hx, State.raiseMacro_first hpg]

/-- MWLD's handle is the low half of its operand. -/
theorem mwld_start {x : DWord} (hx : mwldReserved x = false) (s t : State) (a : Reg) :
    (if mwldReserved (arg [x] 0) then s.raiseMacro (flt reservedField)
      else s.matStart t (.mwld a) .mwld [BitVec.ofNat 64 (bits (arg [x] 0) 0 32)] [arg [x] 0]) =
      s.matStart t (.mwld a) .mwld [BitVec.ofNat 64 (x.toNat % 2 ^ 32)] [x] := by
  rw [arg_zero, hx, bits_zero]
  rfl

/-! ### MSWAP and MZERO (R260, R263) -/

/-- No access to the columns of the rows of a record that an operation walks is in the way. -/
theorem rowBars_none {n : Nat} {f : Nat → Option MatOut} (h : ∀ j < n, f j = none) : (List.range n).findSome? f = none :=
  List.findSome?_eq_none_iff.2 fun j hj => h j (List.mem_range.1 hj)

theorem State.swapPlanes_kept {s : State} (h : s.core.shadow.lost = false) :
    s.swapPlanes = .ok { s with core := { s.core with active := s.core.shadow, shadow := s.core.active } } := by
  simp only [State.swapPlanes, h]
  rfl

theorem State.swapPlanes_reloaded {s : State} {r : Shape} {ks : Bool} {tb : Nat} (hl : s.core.shadow.lost = true)
    (hsrc : s.core.shadow.src = some (r, ks, tb)) (hrow : ∀ j < r.rows, s.rowBar s.core.bfmt r j 0 r.cols (!ks) true = none) :
    s.swapPlanes = .ok { s with core := { s.core with
      active := { s.loadAll s.core.bfmt r ks tb 0 r.cols with src := some (r, ks, tb) }, shadow := s.core.active } } := by
  simp only [State.swapPlanes, hl, hsrc, rowBars_none hrow]
  rfl

section
variable {s : State} (hr : s.Ready ⟨[], none, false, false⟩ [] s) (hm : s.matHeld = false) (ha : s.heldByAcquire = false)
include hr hm ha

theorem execMswap_seven (h : s.sid = 7) : execMswap s = .next (s.raise (flt channelState)) := by
  rw [execMswap, matIssue_go hr hm ha, if_pos (State.sid_eq_seven.2 h)]

theorem execMswap_user {t : State} (h : s.sid ≠ 7) (hp : s.swapPlanes = .ok t) : execMswap s = .next t.advance := by
  rw [execMswap, matIssue_go hr hm ha, if_neg (mt State.sid_eq_seven.1 h), hp]

theorem execMzero_user (h : s.sid ≠ 7) :
    execMzero s = .next ({ s with core := { s.core with active := s.core.active.cleared } } : State).advance := by
  rw [execMzero, matIssue_go hr hm ha, State.takeUnit_user h, decide_eq_false (mt State.sid_eq_seven.1 h)]
  rfl

theorem execMzero_seven (h : s.sid = 7) :
    execMzero s = .next ((s.takeUnit false).setPlane true s.core.shadow.cleared).advance := by
  rw [execMzero, matIssue_go hr hm ha, decide_eq_true (State.sid_eq_seven.2 h)]
  rfl

end

/-! ### The end of an element (01 R27, R28) -/

theorem State.stepRun_more {s : State} {r : ElemRun} (h : r.k + 1 < r.n) (fin : State → State) :
    s.stepRun r fin = s.setMe { s.me with run := some { r with k := r.k + 1 }, ready := s.coreCycles + 1 } := if_pos h

theorem State.stepRun_last {s : State} {r : ElemRun} (h : r.k + 1 = r.n) (fin : State → State) :
    s.stepRun r fin = fin (s.setMe { s.me with run := none, fib := { s.fib with snap := none, ctx := { s.ctx with pg := 0 } } }) := by
  rw [State.stepRun, if_neg (by omega), State.setCtx, State.setFib, State.setMe_setMe, State.setMe_me, State.setMe_fib]

/-! ### Elements of slots 0 to 6 (R257) -/

theorem State.matElem_held {s : State} (h : s.sid ≠ 7) (hh : s.core.held7 = true) (r : ElemRun) (op : MatOp) : s.matElem r op = s := by
  have hu : decide (s.sid.val ≠ 7) = true := decide_eq_true (mt State.sid_eq_seven.1 h)
  simp only [State.matElem, hu, hh]
  rfl

section
variable {s : State} {r : ElemRun} {op : MatOp} (h : s.sid ≠ 7) (hh : s.core.held7 = false) (hd : ∀ d a, r.ins ≠ .mrd d a)
include h hh hd

/-- Of the instructions with elements only MRD has a destination. -/
theorem State.matElem_ok {t : State} (ht : s.matStep op true r = .ok t) :
    s.matElem r op = t.stepRun { r with vec := 1 } fun u => (u.matEnd op true r).advance := by
  have hu : decide (s.sid.val ≠ 7) = true := decide_eq_true (mt State.sid_eq_seven.1 h)
  simp only [State.matElem, hu, hh, ht, Bool.and_false]
  rfl

theorem State.matElem_fault {f : Flt} (hf : s.matStep op true r = .fault f) : s.matElem r op = s.raiseElem f r.k := by
  have hu : decide (s.sid.val ≠ 7) = true := decide_eq_true (mt State.sid_eq_seven.1 h)
  simp only [State.matElem, hu, hh, hf, Bool.and_false]
  rfl

end

section
variable {r : ElemRun} {a b c : Shape} (s : State) (user : Bool)

theorem State.matStep_mwld (h : r.shapes = [a]) : s.matStep .mwld user r = s.mwldElem user r a := by simp only [State.matStep, h]

theorem State.matStep_mstrm (h : r.shapes = [a, b]) : s.matStep .mstrm user r = s.mstrmElem (!user) r a b := by
  simp only [State.matStep, h]

theorem State.matStep_mmul (h : r.shapes = [a, b, c]) : s.matStep .mmul user r = s.mmulElem (!user) r a b c := by
  simp only [State.matStep, h]

theorem State.matStep_mrd (h : r.shapes = [a]) : s.matStep .mrd user r = s.mrdElem (!user) r a := by simp only [State.matStep, h]

end

/-! ### MWLD (R259) -/

/-- The shadow plane with which MWLD of a record begins: its format and size, and zeros. -/
def Plane.opened (p : Plane) (a : Shape) : Plane :=
  { p with fmt := typeCode a.fmt, k := a.cols, n := a.rows, w := List.replicate a.rows (List.replicate a.cols 0),
           scale := List.replicate a.rows (List.replicate (if isBlock a.fmt then a.cols / 32 else 0) 0), lost := false }

/-- A plane with column j and its scales set. -/
def Plane.withColumn (p : Plane) (j : Nat) (c : List DWord × List Byte) : Plane :=
  { p with w := p.w.set j c.1, scale := p.scale.set j c.2 }

/-- The shadow plane after element k of a run of MWLD over a record. -/
def State.columnLoaded (s : State) (r : ElemRun) (a : Shape) : Plane :=
  (if r.k = 0 then s.core.shadow.opened a else s.core.shadow).withColumn r.k (s.loadColumn r.bfmt a r.ks r.tbase r.k 0 a.cols)

theorem State.mwldElem_user {s : State} {r : ElemRun} {a : Shape} (h : s.rowBar r.bfmt a r.k 0 a.cols (!r.ks) true = none) :
    s.mwldElem true r a = .ok (s.setPlane true (s.columnLoaded r a)) := by
  simp only [State.mwldElem, h, Bool.not_true, Bool.and_false]
  rfl

section
variable {s : State} {r : ElemRun} {a : Shape} {x : Reg} (h : s.sid ≠ 7) (hh : s.core.held7 = false) (hi : r.ins = .mwld x)
  (hs : r.shapes = [a]) (hb : s.rowBar r.bfmt a r.k 0 a.cols (!r.ks) true = none)
include h hh hi hs hb

theorem State.matElem_mwld : s.matElem r .mwld =
    (s.setPlane true (s.columnLoaded r a)).stepRun { r with vec := 1 } fun u => (u.matEnd .mwld true r).advance :=
  State.matElem_ok h hh (by simp [hi]) ((s.matStep_mwld true hs).trans (State.mwldElem_user hb))

theorem State.matElem_mwld_more (hk : r.k + 1 < r.n) : s.matElem r .mwld = (s.setPlane true (s.columnLoaded r a)).setMe
    { s.me with run := some { r with vec := 1, k := r.k + 1 }, ready := s.coreCycles + 1 } :=
  (State.matElem_mwld h hh hi hs hb).trans (State.stepRun_more (r := { r with vec := 1 }) hk _)

theorem State.matElem_mwld_last (hk : r.k + 1 = r.n) : s.matElem r .mwld =
    ((s.setPlane true { s.columnLoaded r a with src := some (a, r.ks, r.tbase) }).setMe
      { s.me with run := none, fib := { s.fib with snap := none, ctx := { s.ctx with pg := 0 } } }).advance := by
  rw [State.matElem_mwld h hh hi hs hb, State.stepRun_last (r := { r with vec := 1 }) hk]
  simp only [State.matEnd, hs]
  rfl

end

/-! ### MSTRM (R261) -/

theorem State.mstrmElem_fault {s : State} {r : ElemRun} {x : Shape} {f : Flt} (h : s.wholeRow r.bfmt x r.k true = some (.fault f))
    (shadow : Bool) (y : Shape) : s.mstrmElem shadow r x y = .fault f := by
  simp only [State.mstrmElem, h]

theorem State.mstrmElem_free {s : State} {r : ElemRun} {x y : Shape} (hx : s.wholeRow r.bfmt x r.k true = none)
    (hy : s.wholeRow r.bfmt y r.k false = none) (shadow : Bool) : s.mstrmElem shadow r x y =
      .ok (s.putRow y r.k (s.streamRow r.bfmt (s.plane shadow) x r.k 0 x.cols fun _ => 0)) := by
  simp only [State.mstrmElem, hx, hy]

/-! ### MMUL (R262) -/

section
variable {s : State} {r : ElemRun} {a b c : Shape} {i k0 n : Nat} (hi : r.k % a.rows = i) (hk : r.k / a.rows * planeDepth b.fmt = k0)
  (hn : min (planeDepth b.fmt) (b.cols - k0) = n) (ha : s.rowBar r.bfmt a i k0 n true true = none)
  (hc : s.wholeRow r.bfmt c i true = none) (shadow : Bool)
include hi hk hn ha hc

/-- A row whose plane is loaded. -/
theorem State.mmulElem_loaded (h0 : i ≠ 0) (hv : r.vec ≠ 0) : s.mmulElem shadow r a b c =
    .ok (s.putRow c i (s.streamRow r.bfmt (s.plane shadow) a i k0 n fun j => (s.rowCodes c i).getD j 0)) := by
  have hload : decide (i = 0 ∨ r.vec = 0) = false := decide_eq_false (not_or.2 ⟨h0, hv⟩)
  simp only [State.mmulElem, hi, hk, hn, hload, ha, hc]
  rfl

/-- The first row of a chunk loads it. -/
theorem State.mmulElem_loads (h0 : i = 0) (hb : ∀ j < b.rows, s.rowBar r.bfmt b j k0 n true true = none) :
    s.mmulElem shadow r a b c =
      let u := s.setPlane shadow { s.loadAll r.bfmt b false 0 k0 n with src := (s.plane shadow).src, lost := (s.plane shadow).lost }
      .ok (u.putRow c i (u.streamRow r.bfmt (u.plane shadow) a i k0 n fun j => (s.rowCodes c i).getD j 0)) := by
  have hload : decide (i = 0 ∨ r.vec = 0) = true := decide_eq_true (.inl h0)
  simp only [State.mmulElem, hi, hk, hn, hload, ha, hc, if_true, rowBars_none hb]
  rfl

end

/-! ### MRD (R264) -/

theorem State.mrdElem_same {s : State} {r : ElemRun} {a : Shape} {shadow : Bool} (hf : a.fmt = bankCode (s.plane shadow).fmt)
    (h0 : a.fmt ≠ 0) (hblk : isBlock a.fmt = false) (hb : s.wholeRow r.bfmt a r.k false = none) : s.mrdElem shadow r a =
      .ok (s.spWrite s.cid (rowOff a r.k) (leBytes (pack (bankBits a.fmt) (((s.plane shadow).column r.k).map fun v => v.1))
        (rowBytes a.fmt a.cols))) := by
  simp only [State.mrdElem, tileRow, ← hf, h0, hblk, hb]
  simp

/-! ### The accumulation step (03 R106 to R108) -/

theorem patternOf_eq_emod (n : Nat) (v : Int) : patternOf n v = (v % 2 ^ n).toNat := by
  rw [patternOf, BitVec.toNat_ofInt]
  norm_cast

theorem clampInt_ne_iff (v : Int) : clampInt 32 v ≠ v ↔ v < -2 ^ 31 ∨ 2 ^ 31 ≤ v := by
  unfold clampInt
  omega

theorem intStep_fst (acc : Nat) (ps : List Fp) :
    (intStep acc ps).1 = (((BitVec.ofNat 32 acc).toInt + (ps.map Fp.int).sum) % 2 ^ 32).toNat := patternOf_eq_emod 32 _

theorem intStep_snd (acc : Nat) (ps : List Fp) : let t := (BitVec.ofNat 32 acc).toInt + (ps.map Fp.int).sum
    (intStep acc ps).2 = ⟨if t < -2 ^ 31 ∨ 2 ^ 31 ≤ t then 1 else 0, 0, 0⟩ := by
  intro t
  have ht : (intStep acc ps).2 = ⟨(decide (clampInt 32 t ≠ t)).toNat, 0, 0⟩ := rfl
  by_cases h : t < -2 ^ 31 ∨ 2 ^ 31 ≤ t
  · rw [ht, decide_eq_true ((clampInt_ne_iff t).2 h), if_pos h]
    rfl
  · rw [ht, decide_eq_false (mt (clampInt_ne_iff t).1 h), if_neg h]
    rfl

theorem matElement_nil (out fa fb acc : Nat) : matElement out fa fb [] acc = (acc, Counts.zero) := rfl

/-! ### The statement -/

/-- Settles O35: the checks and the elements of each instruction, then the sums. -/
theorem matrixInstructions : Obligations.MatrixInstructions := by
  unfold Obligations.MatrixInstructions
  refine ⟨⟨?start, ?held, ?planes, ?unit⟩, ?elements, ⟨?int, ?float, ?none⟩⟩
  case start =>
    intro a b d s t x y z shs n hm ha hpg run found p
    refine ⟨fun hr => ⟨fun hx => execMwld_reserved hr hm ha hpg hx, fun hx hf => ?_⟩, fun hr hf => ?_, fun hr hf => ?_, fun hr hf => ?_⟩
    · exact ⟨matIssue_planned hr hm ha hpg hf (mwld_start hx s t a), fun f => matIssue_refused hr hm ha hpg hf (mwld_start hx s t a)⟩
    · exact ⟨matIssue_planned hr hm ha hpg hf rfl, fun f => matIssue_refused (i := .mstrm a b) (vals := []) hr hm ha hpg hf rfl⟩
    · exact ⟨matIssue_planned hr hm ha hpg hf rfl, fun f => matIssue_refused (i := .mmul d a b) (vals := []) hr hm ha hpg hf rfl⟩
    · exact ⟨matIssue_planned hr hm ha hpg hf rfl, fun f => matIssue_refused (i := .mrd d a) (vals := []) hr hm ha hpg hf rfl⟩
  case held =>
    intro a b d s t vs hw
    exact ⟨fun hr => matIssue_held hr hw, fun hr => matIssue_held hr hw, fun hr => matIssue_held hr hw, fun hr => matIssue_held hr hw,
      fun hr => ⟨matIssue_held hr hw, matIssue_held hr hw⟩⟩
  case planes =>
    intro s hr hm ha
    exact ⟨execMswap_seven hr hm ha, fun h hl => execMswap_user hr hm ha h (State.swapPlanes_kept hl),
      fun r ks tb h hl hsrc hrow => execMswap_user hr hm ha h (State.swapPlanes_reloaded hl hsrc hrow),
      execMzero_user hr hm ha, execMzero_seven hr hm ha⟩
  case unit =>
    intro s lost u
    refine ⟨fun h => State.takeUnit_user h lost, fun h => ?_⟩
    refine ⟨s.takeUnit_mem lost, State.takeUnit_seven_active h lost, fun hw => ?_, fun hw => ?_, State.takeUnit_seven_shadow h lost⟩
    · simp [u, State.takeUnit_seven_me h, State.takeUnit_seven_pausing h, hw]
    · simp +contextual [u, State.takeUnit_seven_me h, State.takeUnit_seven_pausing h, State.takeUnit_seven_loaded7 h, hw]
  case elements =>
    intro s r a b c x y w h
    refine ⟨fun op hh => State.matElem_held h hh r op, ?mwld, ?mstrm, ?mmul, ?mrd, ?fault⟩
    case mwld =>
      intro hi hs hh hb
      exact ⟨State.matElem_mwld_more h hh hi hs hb, State.matElem_mwld_last h hh hi hs hb⟩
    case mstrm =>
      intro _ hs _ ha hb
      exact ⟨_, (s.matStep_mstrm true hs).trans (State.mstrmElem_free ha hb false), State.addExc_mem ..⟩
    case mmul =>
      intro _ hs _ i k0 n add ha hc
      rw [s.matStep_mmul true hs]
      exact ⟨State.mmulElem_loaded rfl rfl rfl ha hc false, State.mmulElem_loads rfl rfl rfl ha hc false⟩
    case mrd => exact fun _ hs _ hf h0 hblk hb => (s.matStep_mrd true hs).trans (State.mrdElem_same hf h0 hblk hb)
    case fault =>
      intro f hi hs hh hb
      exact State.matElem_fault h hh (by simp [hi]) ((s.matStep_mstrm true hs).trans (State.mstrmElem_fault hb false b))
  case int => exact fun acc ps => ⟨intStep_fst acc ps, intStep_snd acc ps⟩
  case float => exact fun f acc ps => rfl
  case none => exact matElement_nil

end Sys2Proof.Machine
end

section
/-! ## Integer instructions of three registers (04 R118, R119) -/

namespace Sys2Proof.Machine

/-! ### Sums, products and shifts of words (R118) -/

theorem sub_eq_ofInt (x y : DWord) : x - y = BitVec.ofInt 64 (x.toInt - y.toInt) :=
  BitVec.eq_of_toInt_eq (by rw [BitVec.toInt_sub, BitVec.toInt_ofInt])

theorem mul_eq_ofNat (x y : DWord) : x * y = BitVec.ofNat 64 (x.toNat * y.toNat) :=
  BitVec.eq_of_toNat_eq (by rw [BitVec.toNat_mul, BitVec.toNat_ofNat])

/-- The high half of a signed number of 128 bits. -/
theorem ofInt_div_eq_extractLsb' (z : Int) : BitVec.ofInt 64 (z / 2 ^ 64) = (BitVec.ofInt 128 z).extractLsb' 64 64 := by
  apply BitVec.eq_of_toNat_eq
  rw [BitVec.extractLsb'_toNat, Nat.shiftRight_eq_div_pow, BitVec.toNat_ofInt, BitVec.toNat_ofInt]
  omega

/-- The high half of an unsigned number of 128 bits. -/
theorem ofNat_div_eq_extractLsb' (n : Nat) : BitVec.ofNat 64 (n / 2 ^ 64) = (BitVec.ofNat 128 n).extractLsb' 64 64 := by
  apply BitVec.eq_of_toNat_eq
  rw [BitVec.extractLsb'_toNat, Nat.shiftRight_eq_div_pow, BitVec.toNat_ofNat, BitVec.toNat_ofNat]
  omega

theorem count6_eq_mod (y : DWord) : count6 y = y.toNat % 64 := bits_zero y 6

theorem count6_eq_extractLsb' (y : DWord) : count6 y = (y.extractLsb' 0 6).toNat := bits_eq_extractLsb' y 0 6

theorem count6_lt (y : DWord) : count6 y < 64 := count6_eq_mod y ▸ Nat.mod_lt _ (by decide)

/-! ### Minima, maxima and comparisons of words (R118) -/

theorem sMin_eq_ofInt (x y : DWord) : sMin x y = BitVec.ofInt 64 (min x.toInt y.toInt) := by
  rcases lt_or_ge y.toInt x.toInt with h | h
  · simp [sMin, BitVec.slt_eq_decide, h, min_eq_right h.le]
  · simp [sMin, BitVec.slt_eq_decide, h]

theorem sMax_eq_ofInt (x y : DWord) : sMax x y = BitVec.ofInt 64 (max x.toInt y.toInt) := by
  rcases lt_or_ge x.toInt y.toInt with h | h
  · simp [sMax, BitVec.slt_eq_decide, h, max_eq_right h.le]
  · simp [sMax, BitVec.slt_eq_decide, h]

theorem uMin_eq_ofNat (x y : DWord) : uMin x y = BitVec.ofNat 64 (min x.toNat y.toNat) := by
  rcases lt_or_ge y.toNat x.toNat with h | h
  · simp [uMin, BitVec.ult_eq_decide, h, min_eq_right h.le]
  · simp [uMin, BitVec.ult_eq_decide, h]

theorem uMax_eq_ofNat (x y : DWord) : uMax x y = BitVec.ofNat 64 (max x.toNat y.toNat) := by
  rcases lt_or_ge x.toNat y.toNat with h | h
  · simp [uMax, BitVec.ult_eq_decide, h, max_eq_right h.le]
  · simp [uMax, BitVec.ult_eq_decide, h]

theorem truth_bne (x y : DWord) : truth (x != y) = if x = y then 0 else 1 := by
  rw [bne, Bool.beq_eq_decide_eq, ← decide_not, truth_decide, ite_not]

theorem truth_sle (x y : DWord) : truth (x.sle y) = if x.toInt ≤ y.toInt then 1 else 0 := by
  rw [BitVec.sle_eq_decide, truth_decide]

theorem truth_ule (x y : DWord) : truth (x.ule y) = if x.toNat ≤ y.toNat then 1 else 0 := by
  rw [BitVec.ule_eq_decide, truth_decide]

/-- Settles O1: each instruction computes, and the model's words, shifts and comparisons are those of the statement. -/
theorem integerResults : Obligations.IntegerResults := by
  unfold Obligations.IntegerResults
  refine ⟨fun d a b => ⟨?add, ?sub, ?mul, ?mulh, ?mulhu, ?and, ?or, ?xor, ?andn, ?shl, ?shr, ?sra, ?rot⟩,
    fun d a b => ⟨?min, ?max, ?minu, ?maxu, ?cmpeq, ?cmpne, ?cmplt, ?cmpltu, ?cmple, ?cmpleu⟩⟩
  case add => exact ⟨rfl, computes2_of_compute (fun _ => rfl) BitVec.add_def⟩
  case sub => exact ⟨rfl, computes2_of_compute (fun _ => rfl) sub_eq_ofInt⟩
  case mul => exact ⟨rfl, computes2_of_compute (fun _ => rfl) mul_eq_ofNat⟩
  case mulh => exact ⟨rfl, computes2_of_compute (fun _ => rfl) fun x y => ofInt_div_eq_extractLsb' (x.toInt * y.toInt)⟩
  case mulhu => exact ⟨rfl, computes2_of_compute (fun _ => rfl) fun x y => ofNat_div_eq_extractLsb' (x.toNat * y.toNat)⟩
  case and => exact ⟨rfl, computes2_of_compute (fun _ => rfl) fun _ _ => rfl⟩
  case or => exact ⟨rfl, computes2_of_compute (fun _ => rfl) fun _ _ => rfl⟩
  case xor => exact ⟨rfl, computes2_of_compute (fun _ => rfl) fun _ _ => rfl⟩
  case andn => exact ⟨rfl, computes2_of_compute (fun _ => rfl) fun _ _ => rfl⟩
  case shl => exact ⟨rfl, computes2_of_compute (fun _ => rfl) fun x y => congrArg (x <<< ·) (count6_eq_extractLsb' y)⟩
  case shr => exact ⟨rfl, computes2_of_compute (fun _ => rfl) fun x y => congrArg (x >>> ·) (count6_eq_extractLsb' y)⟩
  case sra =>
    exact ⟨rfl, computes2_of_compute (fun _ => rfl) fun x y => count6_eq_mod y ▸ sshiftRight_eq_ofInt_div x (count6 y)⟩
  case rot => exact ⟨rfl, computes2_of_compute (fun _ => rfl) fun x y => count6_eq_mod y ▸ rotateLeft_eq_or x (count6_lt y)⟩
  case min => exact ⟨rfl, computes2_of_compute (fun _ => rfl) sMin_eq_ofInt⟩
  case max => exact ⟨rfl, computes2_of_compute (fun _ => rfl) sMax_eq_ofInt⟩
  case minu => exact ⟨rfl, computes2_of_compute (fun _ => rfl) uMin_eq_ofNat⟩
  case maxu => exact ⟨rfl, computes2_of_compute (fun _ => rfl) uMax_eq_ofNat⟩
  case cmpeq => exact ⟨rfl, computes2_of_compute (fun _ => rfl) truth_beq⟩
  case cmpne => exact ⟨rfl, computes2_of_compute (fun _ => rfl) truth_bne⟩
  case cmplt => exact ⟨rfl, computes2_of_compute (fun _ => rfl) truth_slt⟩
  case cmpltu => exact ⟨rfl, computes2_of_compute (fun _ => rfl) truth_ult⟩
  case cmple => exact ⟨rfl, computes2_of_compute (fun _ => rfl) truth_sle⟩
  case cmpleu => exact ⟨rfl, computes2_of_compute (fun _ => rfl) truth_ule⟩

/-! ### Divisions (R119) -/

theorem sdiv_eq_ofInt (x y : DWord) : x.sdiv y = BitVec.ofInt 64 (x.toInt.tdiv y.toInt) :=
  BitVec.eq_of_toInt_eq (by rw [BitVec.toInt_sdiv, BitVec.toInt_ofInt])

theorem srem_eq_ofInt (x y : DWord) : x.srem y = BitVec.ofInt 64 (x.toInt.tmod y.toInt) := by
  rw [← BitVec.toInt_srem, BitVec.ofInt_toInt]

/-- A zero divisor faults in the state before any pop. -/
theorem divide_zero {s t : State} {d a b : Reg} {x : DWord} (h : s.Ready ⟨[a, b], some d, false, false⟩ [x, 0] t)
    (f : DWord → DWord → DWord) : s.divide d a b f = .next (s.faultAt (flt 0x12) s.groupPc 0) := by
  rw [State.divide, issue_go h]
  rfl

/-- Every other division completes. -/
theorem divide_nonzero {s t : State} {d a b : Reg} {x y v : DWord} (h : s.Ready ⟨[a, b], some d, false, false⟩ [x, y] t)
    (hy : y ≠ 0) {f : DWord → DWord → DWord} (hf : f x y = v) (hd : t.dstCheck d v = .ok) :
    s.divide d a b f = .next ((t.writeReg d v).advance) := by
  subst hf
  rw [State.divide, issue_go h, arg_zero, arg_one, if_neg hy, done_ok hd]

/-- Settles O2: each division by the two outcomes of a division, with the quotient and the remainder of the statement. -/
theorem divisionResults : Obligations.DivisionResults := by
  unfold Obligations.DivisionResults
  intro d a b s t x y h
  refine ⟨fun hy i hi => ?zero, fun hy => ⟨?div, ?divu, ?rem, ?remu⟩⟩
  case zero =>
    subst hy
    simp only [List.mem_cons, List.not_mem_nil, or_false] at hi
    rcases hi with rfl | rfl | rfl | rfl <;> exact divide_zero h _
  case div => exact divide_nonzero h hy (sdiv_eq_ofInt x y)
  case divu => exact divide_nonzero h hy BitVec.udiv_def
  case rem => exact divide_nonzero h hy (srem_eq_ofInt x y)
  case remu => exact divide_nonzero h hy BitVec.umod_def

end Sys2Proof.Machine
end

section
/-! ## Integer instructions of one register (04 R121, R122) -/

namespace Sys2Proof.Machine

/-! ### Counts of bits -/

theorem leadZeros_zero (n : Nat) : leadZeros 0#64 n = n := by
  induction n with
  | zero => rfl
  | succ n ih => simp [leadZeros, ih]

/-- The zeros above the highest one bit, of the low n bits. -/
theorem leadZeros_eq_sub {w : DWord} (h0 : w ≠ 0) {n : Nat} (hn : w.toNat < 2 ^ n) : leadZeros w n = n - 1 - w.toNat.log2 := by
  have h0 : w.toNat ≠ 0 := fun h => h0 (BitVec.eq_of_toNat_eq h)
  induction n with
  | zero => omega
  | succ n ih =>
    rw [leadZeros, BitVec.getLsbD]
    rcases lt_or_ge w.toNat (2 ^ n) with h | h
    · have hl : w.toNat.log2 < n := (Nat.log2_lt h0).2 h
      rw [Nat.testBit_lt_two_pow h, if_neg Bool.false_ne_true, ih h]
      omega
    · have hl : w.toNat.log2 = n := (Nat.log2_eq_iff h0).2 ⟨h, hn⟩
      rw [← hl, Nat.testBit_log2 h0, if_pos rfl]
      omega

theorem leadZeros_eq (w : DWord) : BitVec.ofNat 64 (leadZeros w 64) = if w = 0 then 64 else BitVec.ofNat 64 (63 - w.toNat.log2) := by
  by_cases h : w = 0
  · rw [if_pos h, h]
    exact congrArg (BitVec.ofNat 64) (leadZeros_zero 64)
  · rw [if_neg h, leadZeros_eq_sub h w.isLt]

theorem trailZeros_eq_range' (w : DWord) (i n : Nat) :
    trailZeros w i n = ((List.range' i n).takeWhile fun k => !w.getLsbD k).length := by
  induction n generalizing i with
  | zero => rfl
  | succ n ih =>
    rw [trailZeros, List.range'_succ, List.takeWhile_cons, ih]
    cases w.getLsbD i <;> rfl

theorem trailZeros_eq (w : DWord) : trailZeros w 0 64 = ((List.range 64).takeWhile fun k => !w.getLsbD k).length := by
  rw [trailZeros_eq_range', List.range_eq_range']

theorem oneBits_eq_countP (w : DWord) (n : Nat) : oneBits w n = (List.range n).countP fun k => w.getLsbD k := by
  induction n with
  | zero => rfl
  | succ n ih =>
    rw [oneBits, ih, List.range_succ, List.countP_append, List.countP_singleton, Nat.add_comm]
    cases w.getLsbD n <;> rfl

/-! ### Bits and bytes in the opposite order -/

theorem eq_ofFnLE {x : DWord} {f : Fin 64 → Bool} (h : ∀ i : Fin 64, x.getLsbD i = f i) : x = BitVec.ofFnLE f := by
  apply BitVec.eq_of_getLsbD_eq
  intro k hk
  rw [BitVec.getLsbD_ofFnLE, dif_pos hk]
  exact h ⟨k, hk⟩

theorem getLsbD_reverse_eq (x : DWord) (i : Fin 64) : x.reverse.getLsbD i = x.getLsbD (63 - i) := by
  rw [BitVec.getLsbD_reverse, BitVec.getMsbD_eq_getLsbD, decide_eq_true i.isLt, Bool.true_and]

/-- Bit i of a little-endian number is bit i % 8 of its byte i / 8. -/
theorem testBit_leNat (l : List Byte) (i : Nat) : (leNat l).testBit i = (l.getD (i / 8) 0).getLsbD (i % 8) := by
  induction l generalizing i with
  | nil => simp [leNat]
  | cons b l ih =>
    rw [leNat, Nat.add_comm, Nat.testBit_two_pow_mul_add (i := 8) _ b.isLt, ih]
    split
    · rw [Nat.div_eq_of_lt ‹i < 8›, Nat.mod_eq_of_lt ‹i < 8›, List.getD_cons_zero]
      rfl
    · rw [Nat.div_eq_sub_div (by decide) (Nat.not_lt.1 ‹¬i < 8›), List.getD_cons_succ, Nat.mod_eq_sub_mod (Nat.not_lt.1 ‹¬i < 8›)]

theorem getD_leBytes (v : Nat) {n k : Nat} (h : k < n) : (leBytes v n).getD k 0 = BitVec.ofNat 8 (v / 256 ^ k) := by
  induction n generalizing v k with
  | zero => omega
  | succ n ih =>
    cases k with
    | zero => simp [leBytes]
    | succ k => rw [leBytes, List.getD_cons_succ, ih _ (by omega), Nat.div_div_eq_div_mul, Nat.pow_succ']

theorem getLsbD_byteSwap (x : DWord) (i : Fin 64) : (byteSwap x).getLsbD i = x.getLsbD (8 * (7 - i / 8) + i % 8) := by
  rw [byteSwap, leWord, BitVec.getLsbD_ofNat, decide_eq_true i.isLt, Bool.true_and, testBit_leNat]
  have hr : (leBytes x.toNat 8).reverse.getD (i / 8) 0 = BitVec.ofNat 8 (x.toNat / 256 ^ (7 - i.val / 8)) := by
    rw [← getD_leBytes x.toNat (n := 8) (by omega), List.getD_eq_getElem?_getD, List.getElem?_reverse (by rw [leBytes_length]; omega),
      leBytes_length, ← List.getD_eq_getElem?_getD]
  rw [hr, BitVec.getLsbD_ofNat, decide_eq_true (Nat.mod_lt _ (by decide)), Bool.true_and, show 256 = 2 ^ 8 from rfl, ← Nat.pow_mul,
    Nat.testBit_div_two_pow, Nat.add_comm]
  rfl

/-! ### Extensions and the absolute value -/

theorem sizeWidth_eq (sz : Size) : Size.width sz = 8 * sz.bytes := by cases sz <;> rfl

theorem setWidth_signExtend_eq (sz : Size) (x : DWord) :
    (x.setWidth (Size.width sz)).signExtend 64 = (x.extractLsb' 0 (8 * sz.bytes)).signExtend 64 := by
  rw [sizeWidth_eq, BitVec.setWidth_eq_extractLsb' (by cases sz <;> decide)]

theorem setWidth_setWidth_eq_ofNat (x : DWord) (n : Nat) : (x.setWidth n).setWidth 64 = BitVec.ofNat 64 (x.toNat % 2 ^ n) :=
  BitVec.eq_of_toNat_eq (by rw [BitVec.toNat_setWidth, BitVec.toNat_setWidth, BitVec.toNat_ofNat])

theorem ofInt_abs (x : DWord) : (if x.msb then -x else x) = BitVec.ofInt 64 |x.toInt| := by
  rw [BitVec.msb_eq_toInt]
  rcases lt_or_ge x.toInt 0 with h | h
  · rw [decide_eq_true h, if_pos rfl, abs_of_neg h, BitVec.ofInt_neg, BitVec.ofInt_toInt]
  · rw [decide_eq_false h.not_gt, if_neg Bool.false_ne_true, abs_of_nonneg h, BitVec.ofInt_toInt]

/-! ### The words of major 0x02 -/

theorem bits_of_extractLsb' {n lo len : Nat} {w : BitVec n} {x : BitVec len} (h : w.extractLsb' lo len = x) : bits w lo len = x.toNat := by
  rw [bits_eq_extractLsb', h]

theorem select_of_decode {w : Word} {i : Instr} (h : decode w = .ok i) : select w = .ok i := by
  unfold decode at h
  split at h
  · cases h
  · split at h
    · rwa [← Except.ok.inj h]
    · cases h

theorem select_of_major02 {w : Word} (h : bits w 26 6 = 0x02) : select w = select02 w := by
  have h : (fOp w).toNat = 2 := (bits_eq_extractLsb' w 26 6).symm.trans h
  simp only [select, h]

theorem select02_unassigned {w : Word} (h : 10 ≤ bits w 0 4) : select02 w = .error .illegalOp := by
  have h : 10 ≤ (fLo4 w).toNat := h.trans_eq (bits_eq_extractLsb' w 0 4)
  unfold select02
  split
  · rfl
  · split
    case h_11 => rfl
    all_goals omega

/-- The word of an instruction of major 0x02: b and fn[7:6] are zero, and so is the size of all but EXTS and EXTZ. -/
theorem word_of_select02 {w : Word} {i : Instr} (hs : select02 w = .ok i) (hw : encode i = some w) :
    ∃ (d a : BitVec 6) (fn : BitVec 8), w = mkR 0x02 d a 0 fn ∧ fn.extractLsb' 6 2 = 0 ∧
      (fn.extractLsb' 4 2 = 0 ∨ fn.extractLsb' 0 4 = 5 ∨ fn.extractLsb' 0 4 = 6) := by
  unfold select02 at hs
  split at hs
  · cases hs
  · split at hs <;> cases hs <;> exact ⟨_, _, _, (Option.some.inj hw).symm, by simp⟩

/-- A word of major 0x02 with a reserved field decodes to no instruction. -/
theorem decode_ne_of_reserved02 {w : Word} (hop : bits w 26 6 = 0x02)
    (h : bits w 6 2 ≠ 0 ∨ bits w 8 6 ≠ 0 ∨ (bits w 4 2 ≠ 0 ∧ bits w 0 4 ≠ 5 ∧ bits w 0 4 ≠ 6)) (i : Instr) : decode w ≠ .ok i := by
  intro hi
  obtain ⟨d, a, fn, rfl, h76, h54⟩ := word_of_select02 ((select_of_major02 hop).symm.trans (select_of_decode hi)) (encode_of_decode hi)
  obtain ⟨-, -, -, hb, -⟩ := fields_mkR 2 d a 0 fn
  obtain ⟨-, -, hop4, -, -, hsz, htop, -, -, -⟩ := selectors_mkR 2 d a 0 fn
  rcases h with h | h | ⟨hne, hne5, hne6⟩
  · exact h (bits_of_extractLsb' (htop.trans h76))
  · exact h (bits_of_extractLsb' hb)
  · rcases h54 with h0 | h5 | h6
    · exact hne (bits_of_extractLsb' (hsz.trans h0))
    · exact hne5 (bits_of_extractLsb' (hop4.trans h5))
    · exact hne6 (bits_of_extractLsb' (hop4.trans h6))

/-- Settles O3: each instruction computes, its value by the recursion of the count or bit by bit; the words by the rows that they select. -/
theorem oneOperandResults : Obligations.OneOperandResults := by
  unfold Obligations.OneOperandResults
  refine ⟨fun d a => ⟨?clz, ?ctz, ?popc, ?brev, ?bswap, fun sz => ?exts, fun sz => ?extz, ?not, ?neg, ?abs⟩,
    fun w hw => ⟨fun _ ho => ?unassigned, fun hr i hi => ?reserved⟩⟩
  case clz => exact ⟨rfl, computes1_of_compute (fun _ => rfl) fun _ => leadZeros_eq⟩
  case ctz => exact ⟨rfl, computes1_of_compute (fun _ => rfl) fun _ x => congrArg _ (trailZeros_eq x)⟩
  case popc => exact ⟨rfl, computes1_of_compute (fun _ => rfl) fun _ x => congrArg _ (oneBits_eq_countP x 64)⟩
  case brev => exact ⟨rfl, computes1_of_compute (fun _ => rfl) fun _ x => eq_ofFnLE (getLsbD_reverse_eq x)⟩
  case bswap => exact ⟨rfl, computes1_of_compute (fun _ => rfl) fun _ x => eq_ofFnLE (getLsbD_byteSwap x)⟩
  case exts => exact ⟨rfl, computes1_of_compute (fun _ => rfl) fun _ => setWidth_signExtend_eq sz⟩
  case extz => exact ⟨rfl, computes1_of_compute (fun _ => rfl) fun _ x => sizeWidth_eq sz ▸ setWidth_setWidth_eq_ofNat x (Size.width sz)⟩
  case not => exact ⟨rfl, computes1_of_compute (fun _ => rfl) fun _ _ => rfl⟩
  case neg => exact ⟨rfl, computes1_of_compute (fun _ => rfl) fun _ x => BitVec.zero_sub x⟩
  case abs => exact ⟨rfl, computes1_of_compute (fun _ => rfl) fun _ => ofInt_abs⟩
  case unassigned => rw [decode, select_of_major02 hw, select02_unassigned ho]
  case reserved => exact decode_ne_of_reserved02 hw hr i hi

end Sys2Proof.Machine
end

section
/-! ## Branches, jumps and calls (04 R135 to R137) -/

namespace Sys2Proof.Machine

/-- The condition that a branch on c tests, of the signed value of its register (R135). -/
def condTest (c : Cond) (z : Int) : Bool :=
  match c with
  | .eqz => decide (z = 0)
  | .nez => decide (z ≠ 0)
  | .ltz => decide (z < 0)
  | .gez => decide (0 ≤ z)
  | .gtz => decide (0 < z)
  | .lez => decide (z ≤ 0)

theorem condHolds_eq (c : Cond) (x : DWord) : condHolds c x = condTest c x.toInt := by
  have hz : x = 0 ↔ x.toInt = 0 := BitVec.toInt_inj.symm
  have hs : x.msb = decide (x.toInt < 0) := BitVec.msb_eq_toInt
  rw [Bool.eq_iff_iff]
  cases c <;>
    simp only [condHolds, condTest, hs, hz, beq_iff_eq, bne_iff_ne, Bool.and_eq_true, Bool.or_eq_true, Bool.not_eq_true',
      decide_eq_true_eq, decide_eq_false_iff_not, ne_eq] <;> omega

theorem target_eq (s : State) (off : DWord) : s.target off = s.ctx.pc + off.setWidth 48 * 4 :=
  congrArg (s.ctx.pc + ·) (BitVec.mul_comm ..)

section
variable {s t : State} {a : Reg} {d : Option Reg} {x : DWord} (h : s.Ready ⟨[a], d, false, false⟩ [x] t)
include h

/-- A register transfer to a multiple of 4: the link, if any, and then the transfer. -/
theorem jumpReg_aligned (hx : x.toNat % 4 = 0) :
    s.jumpReg d a = .next ((d.elim t fun r => t.writeReg r s.linkOf).jumpTo (x.setWidth 48)) := by
  have hb : ¬ bits x 0 2 ≠ 0 := not_not.2 ((bits_zero x 2).trans hx)
  rw [State.jumpReg, issue_go h, arg_zero, if_neg hb]
  cases d <;> rfl

/-- One to another target faults in the state before any pop. -/
theorem jumpReg_misaligned (hx : x.toNat % 4 ≠ 0) : s.jumpReg d a = .next (s.raise (fltAt 0x04 x)) := by
  have hb : bits x 0 2 ≠ 0 := fun hb => hx ((bits_zero x 2).symm.trans hb)
  rw [State.jumpReg, issue_go h, arg_zero, if_pos hb]
  rfl

end

theorem exec_br {s t : State} {a : Reg} {x : DWord} (h : s.Ready ⟨[a], none, false, false⟩ [x] t) (c : Cond) (off : BitVec 16) :
    exec (.br c a off) s = .next (if condTest c x.toInt then t.jumpTo (s.ctx.pc + (s.immB off).setWidth 48 * 4) else t.advance) := by
  have hi : exec (.br c a off) s = s.issue ⟨[a], none, false, false⟩ fun v u =>
      if condHolds c (arg v 0) then u.jumpTo (s.target (s.immB off)) else u.advance := rfl
  rw [hi, issue_go h, arg_zero, condHolds_eq, target_eq]

/-- Settles O5: each transfer behind its gate, the register transfers by whether the target is a multiple of 4. -/
theorem transferResults : Obligations.TransferResults := by
  unfold Obligations.TransferResults
  refine ⟨?br, ?bra, ?call, ?jr, ?callr⟩
  case br =>
    intro c a off s t x h
    rw [exec_br h]
    cases c <;> rfl
  case bra =>
    intro off s h
    exact (issue_go h).trans (congrArg (fun p => Host.Outcome.next (s.jumpTo p)) (target_eq ..))
  case call =>
    intro d imm s h
    exact (issue_go h).trans (congrArg (fun p => Host.Outcome.next ((s.writeReg d s.linkOf).jumpTo p)) (target_eq ..))
  case jr =>
    intro d a s t x h
    exact ⟨fun hx => ⟨jumpReg_aligned h hx, jumpReg_aligned h hx⟩, fun hx => ⟨jumpReg_misaligned h hx, jumpReg_misaligned h hx⟩⟩
  case callr =>
    intro d a s t x h
    exact ⟨jumpReg_aligned h, jumpReg_misaligned h⟩

end Sys2Proof.Machine
end

section
/-! ## Scalar floating point (04 R129 to R134) -/

namespace Sys2Proof.Machine

theorem floats_of_floating {i : Instr} {reads : List Reg} {d : Reg} {f : State → List DWord → Nat × BitVec 7}
    (hi : ∀ s, exec i s = s.floating reads d (f s)) : Floats i reads d f :=
  fun s _ _ hr hd => (hi s).trans (floating_next hr hd)

/-- Settles O7: the meaning of each instruction is the floating-point operation of its operands. -/
theorem floatResults : Obligations.FloatResults := by
  unfold Obligations.FloatResults
  intro t d a b c
  and_intros <;> intros <;> exact floats_of_floating fun _ => rfl

end Sys2Proof.Machine
end

section
/-! ## What the counts of a job, the pops of operands and a change of a core leave (01 R24, R44) -/

namespace Sys2Proof.Machine

/-! ### Counts: only the table of jobs changes -/

theorem State.modJob_eq (s : State) (j : Option Nat) (f : Job → Job) : ∃ l, s.modJob j f = { s with jobs := l } := by
  unfold State.modJob
  split
  · exact ⟨_, rfl⟩
  · exact ⟨s.jobs, rfl⟩

@[simp] theorem State.modJob_core (s : State) (j : Option Nat) (f : Job → Job) : (s.modJob j f).core = s.core := by
  obtain ⟨l, h⟩ := s.modJob_eq j f
  rw [h]
@[simp] theorem State.modJob_cid (s : State) (j : Option Nat) (f : Job → Job) : (s.modJob j f).cid = s.cid := by
  obtain ⟨l, h⟩ := s.modJob_eq j f
  rw [h]
@[simp] theorem State.modJob_sid (s : State) (j : Option Nat) (f : Job → Job) : (s.modJob j f).sid = s.sid := by
  obtain ⟨l, h⟩ := s.modJob_eq j f
  rw [h]
@[simp] theorem State.modJob_hbm (s : State) (j : Option Nat) (f : Job → Job) : (s.modJob j f).hbm = s.hbm := by
  obtain ⟨l, h⟩ := s.modJob_eq j f
  rw [h]
@[simp] theorem State.modJob_net (s : State) (j : Option Nat) (f : Job → Job) : (s.modJob j f).net = s.net := by
  obtain ⟨l, h⟩ := s.modJob_eq j f
  rw [h]

@[simp] theorem State.countSend_core (s : State) (j : Option Nat) (die : Nat) : (s.countSend j die).core = s.core := s.modJob_core j _
@[simp] theorem State.countSend_cid (s : State) (j : Option Nat) (die : Nat) : (s.countSend j die).cid = s.cid := s.modJob_cid j _
@[simp] theorem State.countSend_sid (s : State) (j : Option Nat) (die : Nat) : (s.countSend j die).sid = s.sid := s.modJob_sid j _
@[simp] theorem State.countSend_hbm (s : State) (j : Option Nat) (die : Nat) : (s.countSend j die).hbm = s.hbm := s.modJob_hbm j _
@[simp] theorem State.countSend_net (s : State) (j : Option Nat) (die : Nat) : (s.countSend j die).net = s.net := s.modJob_net j _
@[simp] theorem State.countConsume_core (s : State) (j : Option Nat) (die : Nat) : (s.countConsume j die).core = s.core := s.modJob_core j _
@[simp] theorem State.countConsume_cid (s : State) (j : Option Nat) (die : Nat) : (s.countConsume j die).cid = s.cid := s.modJob_cid j _
@[simp] theorem State.countConsume_sid (s : State) (j : Option Nat) (die : Nat) : (s.countConsume j die).sid = s.sid := s.modJob_sid j _
@[simp] theorem State.countConsume_hbm (s : State) (j : Option Nat) (die : Nat) : (s.countConsume j die).hbm = s.hbm := s.modJob_hbm j _

/-! ### Pops -/

theorem State.popReg_cid {s t : State} {r : Reg} {v : DWord} (h : s.popReg r = some (v, t)) : t.cid = s.cid := by
  cases r <;> simp only [State.popReg] at h <;> (repeat' split at h) <;> simp at h <;> (obtain ⟨-, rfl⟩ := h; simp)

theorem State.popAll_cid {s t : State} {rs : List Reg} {vs : List DWord} (h : s.popAll rs = some (vs, t)) : t.cid = s.cid := by
  induction rs generalizing s vs with
  | nil =>
    simp only [State.popAll] at h
    grind
  | cons r rs ih =>
    simp only [State.popAll] at h
    grind [State.popReg_cid]

theorem State.Ready.cid {s t : State} {o : Opnds} {vs : List DWord} (h : s.Ready o vs t) : t.cid = s.cid := State.popAll_cid h.2
theorem State.Ready.mem {s t : State} {o : Opnds} {vs : List DWord} (h : s.Ready o vs t) : t.mem = s.mem := State.popAll_mem h.2

end Sys2Proof.Machine
end

section
/-! ## Accesses of the own scratchpad: the checks, the bank, the end of an instruction (05 R145 to R168) -/

namespace Sys2Proof.Machine

theorem sizeBytes_eq_bytes (sz : Size) : sizeBytes sz = sz.bytes := by cases sz <;> rfl

theorem sizeBytes_le (sz : Size) : sz.bytes ≤ 8 := by cases sz <;> decide

theorem leNat_lt (l : List Byte) : leNat l < 256 ^ l.length := by
  induction l with
  | nil => decide
  | cons b l ih =>
    have hb := b.isLt
    rw [leNat, List.length_cons, Nat.pow_succ]
    omega

/-! ### The waiters of a word (R155) -/

theorem State.serveFirst_none {s : State} {o : Nat} {l : List (Issuer × Access)} (h : ∀ w ∈ l, w.2.addr.toNat % 65536 ≠ o) :
    s.serveFirst o l = none := by
  induction l with
  | nil => rfl
  | cons w l ih =>
    rw [State.serveFirst, if_neg fun hw => h w (List.mem_cons_self ..) hw.1, ih fun x hx => h x (List.mem_cons_of_mem _ hx)]

/-- Where no waiter stands at a word, its re-test changes nothing. -/
theorem State.retest_of_noWaiter {s : State} {o : Nat} (h : s.noWaiter o) (n : Nat) : State.retest n s o = s := by
  cases n with
  | zero => rfl
  | succ n => rw [State.retest, State.serveFirst_none h]

@[simp] theorem State.setMe_waiters (s : State) (m : Slot) : (s.setMe m).core.waiters = s.core.waiters := rfl
@[simp] theorem State.later_waiters (s : State) (w : LateWrite) : (s.later w).core.waiters = s.core.waiters := rfl
@[simp] theorem State.advance_waiters (s : State) : s.advance.core.waiters = s.core.waiters := by rw [State.advance_eq, State.setMe_waiters]

@[simp] theorem State.writeReg_waiters (s : State) (d : Reg) (v : DWord) : (s.writeReg d v).core.waiters = s.core.waiters := by
  unfold State.writeReg State.setTimer
  split <;> (try split) <;> rfl

@[simp] theorem State.reserveQam_waiters (s : State) (ea : DWord) (acq : Bool) (k : WaitKind) (v : Option DWord) (job : Option Nat) :
    (s.reserveQam ea acq k v job).core.waiters = s.core.waiters := rfl

@[simp] theorem State.endsIn_waiters (s : State) (d : Reg) (ea : DWord) (acq : Bool) (k : WaitKind) (v : DWord) :
    (s.endsIn d ea acq k v).core.waiters = s.core.waiters := by
  unfold State.endsIn
  split <;> simp

@[simp] theorem State.endsIn_mem (s : State) (d : Reg) (ea : DWord) (acq : Bool) (k : WaitKind) (v : DWord) :
    (s.endsIn d ea acq k v).mem = s.mem := by
  unfold State.endsIn
  split <;> simp

/-! ### A scratchpad that has changed -/

/-- s with other memory, and other full/empty bits and errors in the core in turn. -/
def State.withPad (s : State) (m : List Host.Cell) (full poison : List Nat) : State :=
  { s with mem := m, core := { s.core with full := full, poison := poison } }

theorem State.modCore_own {s : State} {c : Nat} (hc : s.cid = c) (f : Core → Core) : s.modCore c f = { s with core := f s.core } :=
  if_pos hc.symm

theorem State.coreAt_own {s : State} {c : Nat} (hc : s.cid = c) : s.coreAt c = s.core := if_pos hc.symm

theorem State.coreAt_other {s : State} {c : Nat} (hc : s.cid ≠ c) : s.coreAt c = (s.others.get? c).getD Core.reset :=
  if_neg fun h => hc h.symm

theorem State.spWrite_own {s : State} {c : Nat} (hc : s.cid = c) (o : Nat) (l : List Byte) :
    s.spWrite c o l = s.withPad (memPut s.mem (spHome c o) l) s.core.full (s.core.heal o l.length).poison :=
  State.modCore_own (s := s.spPut c o l) hc _

theorem State.setFull_own {s : State} {c : Nat} (hc : s.cid = c) (o : Nat) (v : Bool) :
    (s.modCore c fun x => x.setFull o v) = s.withPad s.mem (s.core.setFull o v).full s.core.poison :=
  State.modCore_own hc _

@[simp] theorem State.withPad_withPad (s : State) (m n : List Host.Cell) (f g p q : List Nat) :
    (s.withPad m f p).withPad n g q = s.withPad n g q := rfl
@[simp] theorem State.withPad_self (s : State) : s.withPad s.mem s.core.full s.core.poison = s := rfl
@[simp] theorem State.withPad_cid (s : State) (m : List Host.Cell) (f p : List Nat) : (s.withPad m f p).cid = s.cid := rfl
@[simp] theorem State.withPad_mem (s : State) (m : List Host.Cell) (f p : List Nat) : (s.withPad m f p).mem = m := rfl
@[simp] theorem State.withPad_fib (s : State) (m : List Host.Cell) (f p : List Nat) : (s.withPad m f p).fib = s.fib := rfl
@[simp] theorem State.withPad_waiters (s : State) (m : List Host.Cell) (f p : List Nat) :
    (s.withPad m f p).core.waiters = s.core.waiters := rfl

/-- What a destination asks does not depend on the scratchpad. -/
@[simp] theorem State.withPad_dstCheck (s : State) (m : List Host.Cell) (f p : List Nat) (d : Reg) (v : DWord) :
    (s.withPad m f p).dstCheck d v = s.dstCheck d v := by
  have hq (c : Nat) : ((s.withPad m f p).coreAt c).qsc = (s.coreAt c).qsc := by
    by_cases hc : s.cid = c
    · rw [State.coreAt_own hc, State.coreAt_own (s := s.withPad m f p) hc]
      rfl
    · rw [State.coreAt_other hc, State.coreAt_other (s := s.withPad m f p) hc]
      rfl
  have hr : (s.withPad m f p).roomFor .qsc = s.roomFor .qsc := by
    simp only [State.roomFor, State.hasRoom, State.room, hq]
    rfl
  cases d
  case qsc => exact hr
  all_goals rfl

theorem State.withPad_takes (s : State) (m : List Host.Cell) (f p : List Nat) (d : Reg) (v : DWord) :
    (s.withPad m f p).takes d v ↔ s.takes d v := by
  simp [State.takes]

/-! ### One access at the own bank -/

section
variable {s : State} {c o : Nat} {a : Access} (hc : s.cid = c)
include hc

theorem State.atBank_load (hk : a.kind = .load) (hp : s.core.poisoned o (accSpan a) = false) :
    s.atBank c o a = .done [leWord (s.spBytes c o (accSpan a))] s false := by
  simp [State.atBank, hk, State.coreAt_own hc, hp]

end

theorem State.atBank_store {s : State} {c o : Nat} {a : Access} (hk : a.kind = .store) :
    s.atBank c o a = .done [] (s.spWrite c o (leBytes a.a.toNat (accSpan a))) false := by
  simp [State.atBank, hk]

/-! ### The checks (R146) -/

theorem State.LocalAt.checkAccess {s : State} {a : Access} {align o : Nat} {refuses : Region → Option Nat} (h : s.LocalAt a align o)
    (hr : refuses (.own o) = none) : s.checkAccess a.addr (accSpan a) align refuses = .ok (.own o) := by
  obtain ⟨hreg, halign, hbank, hpart, -, -⟩ := h
  simp [State.checkAccess, hreg, hr, halign, Nat.not_lt.2 hbank, hpart]

theorem State.LocalAt.accessStall {s : State} {a : Access} {align o : Nat} (h : s.LocalAt a align o) (hf : accFrom a = 0) :
    s.core.accessStall s.cid o a = false := by
  obtain ⟨-, -, -, -, -, hstall⟩ := h
  simpa [Core.accessStall, hf] using hstall

theorem State.LocalAt.heldByAcquire {s : State} {a : Access} {align o : Nat} (h : s.LocalAt a align o) : s.heldByAcquire = false := by
  obtain ⟨-, -, -, -, hheld, -⟩ := h
  exact hheld

section
variable {s : State} {ea : DWord} {n align : Nat} {refuses : Region → Option Nat}

theorem State.checkAccess_none (h : regionOf s.cid ea = .none) : s.checkAccess ea n align refuses = .error (fltAt 0x13 ea) := by
  simp [State.checkAccess, h, translation]

theorem State.checkAccess_own_misaligned {o : Nat} (h : regionOf s.cid ea = .own o) (hr : refuses (.own o) = none) (ha : ea.toNat % align ≠ 0) :
    s.checkAccess ea n align refuses = .error (fltAt 0x04 ea) := by
  simp [State.checkAccess, h, hr, ha, misalign]

theorem State.checkAccess_own_bank {o : Nat} (h : regionOf s.cid ea = .own o) (hr : refuses (.own o) = none) (ha : ea.toNat % align = 0)
    (hb : 8192 < o % 8192 + n) : s.checkAccess ea n align refuses = .error (fltAt 0x05 ea) := by
  simp [State.checkAccess, h, hr, ha, hb, bankBounds]

theorem State.checkAccess_own_part {o : Nat} (h : regionOf s.cid ea = .own o) (hr : refuses (.own o) = none) (ha : ea.toNat % align = 0)
    (hb : o % 8192 + n ≤ 8192) (hp : s.core.inPart0 o n = false) : s.checkAccess ea n align refuses = .error (fltAt 0x06 ea) := by
  simp [State.checkAccess, h, hr, ha, Nat.not_lt.2 hb, hp, partitionBounds]

theorem State.checkAccess_peer_misaligned {c o : Nat} (h : regionOf s.cid ea = .peer c o) (hr : refuses (.peer c o) = none)
    (ha : ea.toNat % align ≠ 0) : s.checkAccess ea n align refuses = .error (fltAt 0x04 ea) := by
  simp [State.checkAccess, h, hr, ha, misalign]

theorem State.checkAccess_peer_part {c o : Nat} (h : regionOf s.cid ea = .peer c o) (hr : refuses (.peer c o) = none)
    (ha : ea.toNat % align = 0) (hp : s.core.inPart1 c = false) : s.checkAccess ea n align refuses = .error (fltAt 0x06 ea) := by
  simp [State.checkAccess, h, hr, ha, hp, partitionBounds]

end

/-! ### An access whose operands are read -/

section
variable {s t : State} {reads : List Reg} {vs : List DWord} {a : Access} {k : WaitKind} {path : Path} {rel acq : Bool} {align : Nat}
  {refuses : Region → Option Nat}

/-- What a release waits for is empty where the fibre has nothing outstanding. -/
theorem State.releaseFree (hrel : rel = true → s.outstanding = []) : (if rel = true then s.outstanding else []).isEmpty = true := by
  split
  · rw [hrel ‹_›]; rfl
  · rfl

theorem State.accessOf_fault {f : Flt} (h : s.checkAccess a.addr (accSpan a) align refuses = .error f) :
    s.accessOf t reads vs a k path rel acq align refuses = s.raise f := by
  simp [State.accessOf, h]

variable {o : Nat} (hl : s.LocalAt a align o) (hr : refuses (.own o) = none) (hf : accFrom a = 0)
  (hrel : rel = true → s.outstanding = []) (hq : path = .split → t.fib.qam.length < 4)
include hl hr hf hrel hq

/-- An access that its bank completes ends with what the bank gives. -/
theorem State.accessOf_done {ws : List DWord} {u : State} {flip : Bool} (hb : t.atBank s.cid o a = .done ws u flip) :
    s.accessOf t reads vs a k path rel acq align refuses =
      if path = .split then State.retest 33 (u.reserveQam a.addr acq k (some (splitValue k ws)) none).advance o
      else s.bankDone u k ws o := by
  have hroom : ¬ (path = .split ∧ t.fib.qam.length ≥ 4) := fun h => Nat.not_le.2 (hq h.1) h.2
  simp only [State.accessOf, hl.checkAccess hr, hl.heldByAcquire, if_neg hroom, hl.accessStall hf, State.releaseFree hrel, hb, Bool.not_true, Bool.false_eq_true, if_false]

end

/-- An access that delivers its value to d, or to qam for d = qam. -/
theorem State.accessOf_ends {s t : State} {reads : List Reg} {vs : List DWord} {a : Access} {k : WaitKind} {path : Path} {rel acq : Bool}
    {align : Nat} {refuses : Region → Option Nat} {o : Nat} (hl : s.LocalAt a align o) (hr : refuses (.own o) = none) (hf : accFrom a = 0)
    (hrel : rel = true → s.outstanding = []) {ws : List DWord} {m : List Host.Cell} {f p : List Nat} {flip : Bool}
    (hb : t.atBank s.cid o a = .done ws (t.withPad m f p) flip) {d : Reg} {v : DWord} (hpath : path = .split ↔ d = .qam)
    (hres : resultOf k ws = some (d, v)) (hside : ∀ u : State, u.sideResult k ws = u) (ht : t.takes d v) :
    s.accessOf t reads vs a k path rel acq align refuses = State.retest 33 ((t.withPad m f p).endsIn d a.addr acq k v) o := by
  have hv : splitValue k ws = v := by simp [splitValue, hres]
  by_cases hd : d = .qam
  · have hroom : t.fib.qam.length < 4 := by simpa [State.takes, hd] using ht
    rw [State.accessOf_done hl hr hf hrel (fun _ => hroom) hb, if_pos (hpath.2 hd), hv, State.endsIn, if_pos hd]
  · have hcheck : t.dstCheck d v = .ok := by simpa [State.takes, hd] using ht
    rw [State.accessOf_done hl hr hf hrel (fun h => absurd (hpath.1 h) hd) hb, if_neg fun h => hd (hpath.1 h), State.endsIn, if_neg hd]
    simp [State.bankDone, hside, hres, hcheck]

end Sys2Proof.Machine
end

section
/-! ## Loads and stores of the own scratchpad (05 R145, R146, R149, R156) -/

namespace Sys2Proof.Machine

/-- The access of a plain load at an address, and of a plain store of v. -/
def loadOf (sz : Size) (ea : DWord) : Access := { noAccess with addr := ea, size := sz }
def storeOf (sz : Size) (ea v : DWord) : Access := { noAccess with kind := .store, addr := ea, size := sz, a := v }

theorem accSpan_loadOf (sz : Size) (ea : DWord) : accSpan (loadOf sz ea) = sz.bytes := sizeBytes_eq_bytes sz
theorem accSpan_storeOf (sz : Size) (ea v : DWord) : accSpan (storeOf sz ea v) = sz.bytes := sizeBytes_eq_bytes sz

theorem pathOf_split_iff (d : Reg) : pathOf d = .split ↔ d = .qam := by
  unfold pathOf
  split <;> simp_all

/-! ### Each instruction is one access, once its operands are read -/

section
variable {s t : State} {sz : Size} {d a : Reg} {off : BitVec 12} {x v : DWord}

theorem State.load_go (h : s.Ready ⟨[a], splitDst d, false, false⟩ [x] t) (sx : Bool) :
    s.load sx sz d a off =
      .next (s.accessOf t [] [] (loadOf sz (x + s.immM off * BitVec.ofNat 64 sz.bytes)) (.load d sz sx) (pathOf d) false false sz.bytes plainRefuses) := by
  rw [State.load, issue_go h]
  simp only [sizeBytes_eq_bytes]
  rfl

theorem State.store_go (h : s.Ready ⟨[a, d], none, false, false⟩ [x, v] t) (path : Path) :
    s.store path sz d a off =
      .next (s.accessOf t [] [] (storeOf sz (x + s.immM off * BitVec.ofNat 64 sz.bytes) v) .store path false false sz.bytes plainRefuses) := by
  rw [State.store, issue_go h]
  simp only [sizeBytes_eq_bytes]
  rfl

end

/-! ### Loads -/

/-- n bytes fit in 8 n bits: their value, taken as a word, keeps its low 8 n bits alone. -/
theorem setWidth_leWord {l : List Byte} {n : Nat} (hl : l.length = n) (hn : n ≤ 8) :
    ((leWord l).setWidth (8 * n)).setWidth 64 = leWord l := by
  have hlt : leNat l < 2 ^ (8 * n) := by
    have := leNat_lt l
    rwa [hl, show (256 : Nat) = 2 ^ 8 from rfl, ← Nat.pow_mul] at this
  have h64 : 2 ^ (8 * n) ≤ 2 ^ 64 := Nat.pow_le_pow_right (by decide) (by omega)
  apply BitVec.eq_of_toNat_eq
  simp only [leWord, BitVec.toNat_setWidth, BitVec.toNat_ofNat]
  rw [Nat.mod_eq_of_lt (a := leNat l) (by omega), Nat.mod_eq_of_lt hlt, Nat.mod_eq_of_lt (by omega)]

/-- The value that a load delivers of the bytes it reads. -/
def loaded (sx : Bool) (sz : Size) (l : List Byte) : DWord :=
  if sx then ((leWord l).setWidth (8 * sz.bytes)).signExtend 64 else leWord l

theorem resultOf_load (d : Reg) (sz : Size) (sx : Bool) {l : List Byte} (hl : l.length = sz.bytes) :
    resultOf (.load d sz sx) [leWord l] = some (d, loaded sx sz l) := by
  rw [resultOf, sizeBytes_eq_bytes]
  cases sx
  · simp [loaded, setWidth_leWord hl (sizeBytes_le sz)]
  · simp [loaded]

/-- A load of the own scratchpad delivers the bytes at its address. -/
theorem State.load_local {s t : State} {sz : Size} {d a : Reg} {off : BitVec 12} {x : DWord} {o : Nat} (sx : Bool)
    (h : s.Ready ⟨[a], splitDst d, false, false⟩ [x] t)
    (hl : s.LocalAt (loadOf sz (x + s.immM off * BitVec.ofNat 64 sz.bytes)) sz.bytes o) (hp : t.core.poisoned o sz.bytes = false)
    (ht : t.takes d (loaded sx sz (memBytes t.mem (spHome s.cid o) sz.bytes))) :
    s.load sx sz d a off = .next (State.retest 33 (t.endsIn d (x + s.immM off * BitVec.ofNat 64 sz.bytes) false (.load d sz sx)
      (loaded sx sz (memBytes t.mem (spHome s.cid o) sz.bytes))) o) := by
  have hspan := accSpan_loadOf sz (x + s.immM off * BitVec.ofNat 64 sz.bytes)
  have hb := State.atBank_load h.cid (o := o) (a := loadOf sz (x + s.immM off * BitVec.ofNat 64 sz.bytes)) rfl (hspan ▸ hp)
  rw [State.load_go h, State.accessOf_ends hl rfl rfl (by simp) hb (pathOf_split_iff d) (hspan ▸ resultOf_load d sz sx (memBytes_length ..)) (fun _ => rfl) ht]
  rfl

/-! ### Stores -/

/-- A store to the own scratchpad writes its bytes, waited for or posted. -/
theorem State.store_local {s t : State} {sz : Size} {d a : Reg} {off : BitVec 12} {x v : DWord} {o : Nat} {path : Path} (hpath : path ≠ .split)
    (h : s.Ready ⟨[a, d], none, false, false⟩ [x, v] t)
    (hl : s.LocalAt (storeOf sz (x + s.immM off * BitVec.ofNat 64 sz.bytes) v) sz.bytes o) :
    s.store path sz d a off = .next (State.retest 33 ((t.spWrite s.cid o (leBytes v.toNat sz.bytes)).advance) o) := by
  rw [State.store_go h, State.accessOf_done hl rfl rfl (by simp) (fun hp => absurd hp hpath) (State.atBank_store rfl), if_neg hpath, accSpan_storeOf]
  rfl

/-- Where no waiter stands at the word, a store changes its bytes alone, and no p0. -/
theorem State.store_frame {s t : State} {sz : Size} {v : DWord} {o : Nat} (hc : t.cid = s.cid) (hm : t.mem = s.mem) (hw : t.noWaiter o) :
    let u := State.retest 33 ((t.spWrite s.cid o (leBytes v.toNat sz.bytes)).advance) o
    memBytes u.mem (spHome s.cid o) sz.bytes = leBytes v.toNat sz.bytes ∧
      (∀ b, (b < spHome s.cid o ∨ spHome s.cid o + sz.bytes ≤ b) → memGet u.mem b = memGet s.mem b) ∧ u.ctx.p[0] = t.ctx.p[0] := by
  have hidle : ((t.spWrite s.cid o (leBytes v.toNat sz.bytes)).advance).noWaiter o := by
    simpa [State.noWaiter, State.spWrite_own hc] using hw
  have hlen := leBytes_length sz.bytes v.toNat
  dsimp only
  rw [State.retest_of_noWaiter hidle, State.advance_ctx, State.advance_mem, State.spWrite_own hc, State.withPad_mem]
  refine ⟨?_, fun b hb => ?_, ?_⟩
  · exact (congrArg _ hlen.symm).trans (memBytes_memPut _ _ _)
  · rw [memGet_memPut_out _ _ _ _ (hlen.symm ▸ hb), hm]
  · obtain ⟨hp, -⟩ := State.stepCtx_frame (t.withPad (memPut t.mem (spHome s.cid o) (leBytes v.toNat sz.bytes)) t.core.full _) t.ctx t.ctx.pc
    exact hp 0 (by decide)

/-! ### Faults -/

/-- The faults of the four instructions at an effective address, in their order (R146). -/
theorem State.plainFaults {s : State} {i : Instr} {ea : DWord} {n align : Nat}
    (h : ∀ f, s.checkAccess ea n align plainRefuses = .error f → exec i s = .next (s.raise f)) :
    (regionOf s.cid ea = .none → exec i s = .next (s.raise (fltAt 0x13 ea))) ∧
    (∀ o, regionOf s.cid ea = .own o →
      (ea.toNat % align ≠ 0 → exec i s = .next (s.raise (fltAt 0x04 ea))) ∧
      (ea.toNat % align = 0 → 8192 < o % 8192 + n → exec i s = .next (s.raise (fltAt 0x05 ea))) ∧
      (ea.toNat % align = 0 → o % 8192 + n ≤ 8192 → s.core.inPart0 o n = false → exec i s = .next (s.raise (fltAt 0x06 ea)))) ∧
    (∀ c o, regionOf s.cid ea = .peer c o →
      (ea.toNat % align ≠ 0 → exec i s = .next (s.raise (fltAt 0x04 ea))) ∧
      (ea.toNat % align = 0 → s.core.inPart1 c = false → exec i s = .next (s.raise (fltAt 0x06 ea)))) :=
  ⟨fun hr => h _ (State.checkAccess_none hr),
    fun _ hr => ⟨fun ha => h _ (State.checkAccess_own_misaligned hr rfl ha), fun ha hb => h _ (State.checkAccess_own_bank hr rfl ha hb),
      fun ha hb hp => h _ (State.checkAccess_own_part hr rfl ha hb hp)⟩,
    fun _ _ hr => ⟨fun ha => h _ (State.checkAccess_peer_misaligned hr rfl ha), fun ha hp => h _ (State.checkAccess_peer_part hr rfl ha hp)⟩⟩

theorem State.load_fault {s t : State} {sz : Size} {d a : Reg} {off : BitVec 12} {x : DWord} {f : Flt} (sx : Bool)
    (h : s.Ready ⟨[a], splitDst d, false, false⟩ [x] t)
    (hf : s.checkAccess (x + s.immM off * BitVec.ofNat 64 sz.bytes) sz.bytes sz.bytes plainRefuses = .error f) :
    s.load sx sz d a off = .next (s.raise f) := by
  rw [State.load_go h, State.accessOf_fault]
  rwa [accSpan_loadOf]

theorem State.store_fault {s t : State} {sz : Size} {d a : Reg} {off : BitVec 12} {x v : DWord} {f : Flt} (path : Path)
    (h : s.Ready ⟨[a, d], none, false, false⟩ [x, v] t)
    (hf : s.checkAccess (x + s.immM off * BitVec.ofNat 64 sz.bytes) sz.bytes sz.bytes plainRefuses = .error f) :
    s.store path sz d a off = .next (s.raise f) := by
  rw [State.store_go h, State.accessOf_fault]
  rwa [accSpan_storeOf]

/-! ### The statement -/

/-- Settles O14: each of the four is one access, which the bank performs or the checks refuse. -/
theorem localAccesses : Obligations.LocalAccesses := by
  unfold Obligations.LocalAccesses
  refine ⟨?_, ?_, ?_⟩
  · intro sz d a off s t x o hready ea hl hp w v gives
    have frame (sx : Bool) (r : DWord) (hw : t.noWaiter o) : (State.retest 33 (t.endsIn d ea false (.load d sz sx) r) o).mem = s.mem := by
      rw [State.retest_of_noWaiter (by simpa [State.noWaiter] using hw), State.endsIn_mem, hready.mem]
    exact ⟨fun ht => ⟨State.load_local false hready hl hp ht, frame _ _⟩, fun ht => ⟨State.load_local true hready hl hp ht, frame _ _⟩⟩
  · intro sz d a off s t x v o hready hl u
    exact ⟨State.store_local (by decide) hready hl, State.store_local (by decide) hready hl,
      State.store_frame (hready.cid) (hready.mem)⟩
  · intro sz d a off s t x v ea bad
    exact ⟨fun hready => ⟨State.plainFaults fun _ => State.store_fault .wait hready, State.plainFaults fun _ => State.store_fault .post hready⟩,
      fun hready => ⟨State.plainFaults fun _ => State.load_fault false hready, State.plainFaults fun _ => State.load_fault true hready⟩⟩

end Sys2Proof.Machine
end

section
/-! ## Full/empty forms and atomics of the own scratchpad (05 R154, R164, R165, R168) -/

namespace Sys2Proof.Machine

/-! ### At the bank -/

section
variable {t : State} {c o : Nat} {a : Access} (hc : t.cid = c)
include hc

theorem State.atBank_ldfe (hk : a.kind = .ldfe) (hf : t.core.full.contains o = true) (hp : t.core.poisoned o 8 = false) :
    t.atBank c o a = .done [t.spWord c o] (t.modCore c fun x => x.setFull o false) true := by
  simp_all [State.atBank, State.coreAt_own hc, accSpan, Core.isFull]

theorem State.atBank_ldff (hk : a.kind = .ldff) (hf : t.core.full.contains o = true) (hp : t.core.poisoned o 8 = false) :
    t.atBank c o a = .done [t.spWord c o] t false := by
  simp_all [State.atBank, State.coreAt_own hc, accSpan, Core.isFull]

theorem State.atBank_ldfe_wait (hk : a.kind = .ldfe) (hf : t.core.full.contains o = false) : t.atBank c o a = .wait := by
  simp_all [State.atBank, State.coreAt_own hc, Core.isFull]

theorem State.atBank_stfe (hk : a.kind = .stfe) (hf : t.core.full.contains o = false) :
    t.atBank c o a = .done [] ((t.spWrite c o (leBytes a.a.toNat 8)).modCore c fun x => x.setFull o true) true := by
  simp_all [State.atBank, State.coreAt_own hc, Core.isFull]

theorem State.atBank_stfe_wait (hk : a.kind = .stfe) (hf : t.core.full.contains o = true) : t.atBank c o a = .wait := by
  simp_all [State.atBank, State.coreAt_own hc, Core.isFull]

theorem State.atBank_stff (hk : a.kind = .stff) :
    t.atBank c o a = .done [] ((t.spWrite c o (leBytes a.a.toNat 8)).modCore c fun x => x.setFull o true) (!t.core.isFull o) := by
  simp [State.atBank, hk, State.coreAt_own hc]

theorem State.atBank_atomic {op : AtomOp} (hk : a.kind = .atomic op) (hp : t.core.poisoned o (accSpan a) = false) (hn : t.core.counterAt o = none) :
    t.atBank c o a =
      let old := leNat (t.spBytes c o (accSpan a))
      .done [BitVec.ofNat 64 old]
        (t.spWrite c o (leBytes (newValue op (8 * accSpan a) old a.a.toNat a.b.toNat) (accSpan a))) false := by
  simp [State.atBank, hk, State.coreAt_own hc, hp, hn]

theorem State.atBank_cas16 (hk : a.kind = .cas16) (hp : t.core.poisoned o 16 = false) (hn : t.core.counterAt o = none)
    (hn8 : t.core.counterAt (o + 8) = none) :
    t.atBank c o a =
      .done [t.spWord c o, t.spWord c (o + 8)]
        (if t.spWord c o = a.a ∧ t.spWord c (o + 8) = a.b then t.spWrite c o (wordBytes [a.c, a.e]) else t) false := by
  simp [State.atBank, hk, State.coreAt_own hc, accSpan, hp, hn, hn8]

end

/-! ### An access that must wait -/

section
variable {s t : State} {reads : List Reg} {vs : List DWord} {a : Access} {k : WaitKind} {path : Path} {rel acq : Bool} {align : Nat}
  {refuses : Region → Option Nat} {o : Nat} (hl : s.LocalAt a align o) (hr : refuses (.own o) = none) (hf : accFrom a = 0)
  (hrel : rel = true → s.outstanding = []) (hb : t.atBank s.cid o a = .wait)
include hl hr hf hrel hb

/-- Where it blocks, the words that it popped stay with its wait. -/
theorem State.accessOf_waits (hpath : path ≠ .split) :
    s.accessOf t reads vs a k path rel acq align refuses =
      (t.block ((t.newWait k 4 none 0 (some a)).popped reads vs)).recordWaiter ⟨t.self, t.nextId, .wait, t.myJob⟩ a := by
  have hroom : ¬ (path = .split ∧ t.fib.qam.length ≥ 4) := fun h => hpath h.1
  simp only [State.accessOf, hl.checkAccess hr, hl.heldByAcquire, if_neg hroom, hl.accessStall hf, State.releaseFree hrel, hb, Bool.not_true, Bool.false_eq_true,
    if_false, if_neg hpath]

/-- Towards qam it takes an entry without its word. -/
theorem State.accessOf_waits_split (hpath : path = .split) (hq : t.fib.qam.length < 4) :
    s.accessOf t reads vs a k path rel acq align refuses =
      ((t.reserveQam a.addr acq k none none).advance).recordWaiter ⟨t.self, t.nextId, .qam, t.myJob⟩ a := by
  have hroom : ¬ (path = .split ∧ t.fib.qam.length ≥ 4) := fun h => Nat.not_le.2 hq h.2
  simp only [State.accessOf, hl.checkAccess hr, hl.heldByAcquire, if_neg hroom, hl.accessStall hf, State.releaseFree hrel, hb, Bool.not_true, Bool.false_eq_true,
    if_false, if_pos hpath]

end

/-! ### The full/empty forms -/

/-- The access of a full/empty form. -/
def feOf (k : AccKind) (ea v : DWord) : Access := { noAccess with kind := k, addr := ea, a := v }

section
variable {s t : State} {d a : Reg} {off : BitVec 12} {x v : DWord} {o : Nat}

theorem State.feLoad_go (k : AccKind) (h : s.Ready ⟨[a], splitDst d, false, false⟩ [x] t) :
    s.feLoad k d a off =
      .next (s.accessOf t [a] [x] (feOf k (x + off.signExtend 64 * 8) 0) (.fe k d (x + off.signExtend 64 * 8) 0) (pathOf d) false true 8 feRefuses) := by
  rw [State.feLoad, issue_go h]
  rfl

theorem State.feStore_go (k : AccKind) (h : s.Ready ⟨[a, d], none, false, false⟩ [x, v] t) :
    s.feStore k d a off =
      .next (s.accessOf t [a, d] [x, v] (feOf k (x + off.signExtend 64 * 8) v) (.fe k .z (x + off.signExtend 64 * 8) v) .wait true false 8 feRefuses) := by
  rw [State.feStore, issue_go h]
  rfl

/-- LDFE of a full word takes it and leaves it empty. -/
theorem State.ldfe_full (h : s.Ready ⟨[a], splitDst d, false, false⟩ [x] t) (hl : s.LocalAt (feOf .ldfe (x + off.signExtend 64 * 8) 0) 8 o)
    (hf : t.core.full.contains o = true) (hp : t.core.poisoned o 8 = false) (ht : t.takes d (t.spWord s.cid o)) :
    s.feLoad .ldfe d a off =
      .next (State.retest 33 ((t.modCore s.cid fun c => c.setFull o false).endsIn d (x + off.signExtend 64 * 8) true
        (.fe .ldfe d (x + off.signExtend 64 * 8) 0) (t.spWord s.cid o)) o) := by
  have hb := State.atBank_ldfe h.cid (a := feOf .ldfe (x + off.signExtend 64 * 8) 0) rfl hf hp
  rw [State.setFull_own h.cid] at hb
  rw [State.feLoad_go .ldfe h, State.accessOf_ends hl rfl rfl (by simp) hb (pathOf_split_iff d) rfl (fun _ => rfl) ht, State.setFull_own h.cid]
  rfl

/-- LDFF of a full word leaves it full. -/
theorem State.ldff_full (h : s.Ready ⟨[a], splitDst d, false, false⟩ [x] t) (hl : s.LocalAt (feOf .ldff (x + off.signExtend 64 * 8) 0) 8 o)
    (hf : t.core.full.contains o = true) (hp : t.core.poisoned o 8 = false) (ht : t.takes d (t.spWord s.cid o)) :
    s.feLoad .ldff d a off =
      .next (State.retest 33 (t.endsIn d (x + off.signExtend 64 * 8) true (.fe .ldff d (x + off.signExtend 64 * 8) 0) (t.spWord s.cid o)) o) := by
  have hb := State.atBank_ldff h.cid (a := feOf .ldff (x + off.signExtend 64 * 8) 0) rfl hf hp
  rw [State.feLoad_go .ldff h, State.accessOf_ends hl rfl rfl (by simp) hb (pathOf_split_iff d) rfl (fun _ => rfl) ht]
  rfl

/-- STFE and STFF write the word and leave it full, where their bank lets them. -/
theorem State.feStore_done {k : AccKind} {flip : Bool} (h : s.Ready ⟨[a, d], none, false, false⟩ [x, v] t)
    (hl : s.LocalAt (feOf k (x + off.signExtend 64 * 8) v) 8 o) (hf : accFrom (feOf k (x + off.signExtend 64 * 8) v) = 0)
    (hout : s.outstanding = []) (hk : resultOf (.fe k .z (x + off.signExtend 64 * 8) v) [] = none)
    (hb : t.atBank s.cid o (feOf k (x + off.signExtend 64 * 8) v) =
      .done [] ((t.spWrite s.cid o (leBytes v.toNat 8)).modCore s.cid fun c => c.setFull o true) flip) :
    s.feStore k d a off =
      .next (State.retest 33 (((t.spWrite s.cid o (leBytes v.toNat 8)).modCore s.cid fun c => c.setFull o true).advance) o) := by
  rw [State.feStore_go k h, State.accessOf_done hl rfl hf (fun _ => hout) (by simp) hb, if_neg (by decide)]
  simp only [State.bankDone, hk]
  rfl

end

/-! ### Atomics -/

/-- The access of an atomic on one word. -/
def atomicOf (op : AtomOp) (sz : Size) (ea y z : DWord) : Access := { noAccess with kind := .atomic op, addr := ea, size := sz, a := y, b := z }

theorem accSpan_atomicOf (op : AtomOp) (sz : Size) (ea y z : DWord) : accSpan (atomicOf op sz ea y z) = sz.bytes := sizeBytes_eq_bytes sz

theorem State.atomPath_split_iff (s : State) (o : Order) (d : Reg) (ea : DWord) : s.atomPath o d ea = .split ↔ d = .qam := by
  unfold State.atomPath
  split
  · simp_all
  · split <;> simp_all

/-- An atomic on a word of the own scratchpad, no counter port's: the word takes its new value, d the old one. -/
theorem State.atomicOp_local {s t : State} {op : AtomOp} {ord : Order} {sz : Size} {d a : Reg} {bs : List Reg} {vs : List DWord} {o : Nat}
    (h : s.Ready ⟨a :: bs, splitDst d, false, false⟩ vs t) (hrel : isRel ord = true → s.outstanding = [])
    (hl : s.LocalAt (atomicOf op sz (arg vs 0) (arg vs 1) (arg vs 2)) sz.bytes o) (hp : t.core.poisoned o sz.bytes = false)
    (hn : t.core.counterAt o = none) (ht : t.takes d (BitVec.ofNat 64 (leNat (memBytes t.mem (spHome s.cid o) sz.bytes)))) :
    s.atomicOp op ord sz d a bs =
      let old := leNat (memBytes t.mem (spHome s.cid o) sz.bytes)
      .next (State.retest 33 ((t.spWrite s.cid o (leBytes (newValue op (8 * sz.bytes) old (arg vs 1).toNat (arg vs 2).toNat) sz.bytes)).endsIn d
        (arg vs 0) (isAcq ord) (.atomic d sz) (BitVec.ofNat 64 old)) o) := by
  have hb := State.atBank_atomic h.cid (a := atomicOf op sz (arg vs 0) (arg vs 1) (arg vs 2)) rfl (accSpan_atomicOf .. ▸ hp) hn
  rw [accSpan_atomicOf] at hb
  simp only [State.spWrite_own h.cid] at hb ⊢
  rw [State.atomicOp, issue_go h, sizeBytes_eq_bytes]
  exact congrArg _ (State.accessOf_ends hl rfl rfl hrel hb (s.atomPath_split_iff ord d (arg vs 0)) rfl (fun _ => rfl) ht)

/-- ACAS with WIDE on sixteen bytes of the own scratchpad, no counter ports': they are swapped where they are the pair asked for, and the old
pair is written at d. -/
theorem State.wideCas_local {s t : State} {ord : Order} {d a b : Reg} {x y0 y1 z0 z1 : DWord} {o : Nat}
    (h : s.Ready ⟨[a, b, pairNext b, d, pairNext d], some d, false, false⟩ [x, y0, y1, z0, z1] t) (hrel : isRel ord = true → s.outstanding = [])
    (hd : d ≠ .qam) (hl : s.LocalAt { noAccess with kind := .cas16, addr := x, a := y0, b := y1, c := z0, e := z1 } 16 o)
    (hp : t.core.poisoned o 16 = false) (hn : t.core.counterAt o = none) (hn8 : t.core.counterAt (o + 8) = none) :
    s.wideCas ord d a b =
      let u := if t.spWord s.cid o = y0 ∧ t.spWord s.cid (o + 8) = y1 then t.spWrite s.cid o (wordBytes [z0, z1]) else t
      .next (State.retest 33 ((u.writePair d (t.spWord s.cid o) (t.spWord s.cid (o + 8))).advance) o) := by
  have hpath : s.atomPath ord d x ≠ .split := fun hs => hd ((s.atomPath_split_iff ord d x).1 hs)
  have hb := State.atBank_cas16 h.cid (a := { noAccess with kind := .cas16, addr := x, a := y0, b := y1, c := z0, e := z1 }) rfl hp hn hn8
  rw [State.wideCas, issue_go h]
  exact congrArg _ ((State.accessOf_done hl rfl rfl hrel (fun hs => absurd hs hpath) hb).trans (if_neg hpath))

/-! Table 5-4 in the numbers of the statement. -/

theorem signedOf_eq (n w : Nat) : signedOf n w = if 2 * (w % 2 ^ n) < 2 ^ n then ((w % 2 ^ n : Nat) : Int) else (w % 2 ^ n : Nat) - ((2 ^ n : Nat) : Int) := by
  simp [signedOf, BitVec.toInt]

theorem newValue_minu (n old b c : Nat) : newValue .minu n old b c = Min.min (b % 2 ^ n) old := by
  simp only [newValue]
  split <;> omega

theorem newValue_maxu (n old b c : Nat) : newValue .maxu n old b c = Max.max (b % 2 ^ n) old := by
  simp only [newValue]
  split <;> omega

/-! ### The statement -/

/-- Settles O15: each form is one access, which its bank performs or makes wait. -/
theorem fullEmptyAndAtomics : Obligations.FullEmptyAndAtomics := by
  unfold Obligations.FullEmptyAndAtomics
  refine ⟨?_, ?_, ?_⟩
  · intro d a off s t x v o ea
    refine ⟨?_, fun h hl hout => ⟨fun hf => ?_, ?_, fun hf => ?_⟩⟩
    · intro h hl w
      refine ⟨fun hf hp ht => ?_, fun hf hd => ?_, fun hf hd hq => ?_⟩
      · exact ⟨State.ldfe_full h hl hf hp ht, State.ldff_full h hl hf hp ht⟩
      · exact (State.feLoad_go .ldfe h).trans (congrArg _ (State.accessOf_waits hl rfl rfl (by simp) (State.atBank_ldfe_wait h.cid rfl hf)
          fun hs => hd ((pathOf_split_iff d).1 hs)))
      · exact (State.feLoad_go .ldfe h).trans (congrArg _ (State.accessOf_waits_split hl rfl rfl (by simp) (State.atBank_ldfe_wait h.cid rfl hf)
          ((pathOf_split_iff d).2 hd) hq))
    · exact State.feStore_done h hl rfl hout rfl (State.atBank_stfe h.cid rfl hf)
    · exact State.feStore_done (k := .stff) h hl rfl hout rfl (State.atBank_stff h.cid rfl)
    · exact (State.feStore_go .stfe h).trans (congrArg _ (State.accessOf_waits hl rfl rfl (fun _ => hout) (State.atBank_stfe_wait h.cid rfl hf)
        (by decide)))
  · intro ord sz d a b s t x y z at_ hrel old M sg goes
    have go {op : AtomOp} {bs : List Reg} {vs : List DWord} {i : Instr} {new : Nat} (hi : exec i s = s.atomicOp op ord sz d a bs)
        (h : s.Ready ⟨a :: bs, splitDst d, false, false⟩ vs t) (h0 : arg vs 0 = x) (h1 : arg vs 1 = y) (h2 : arg vs 2 = z)
        (hnew : newValue op (8 * sz.bytes) old y.toNat z.toNat = new) : goes i op new := by
      subst h0 h1 h2 hnew
      exact fun hl hp hn ht => hi.trans (State.atomicOp_local h hrel hl hp hn ht)
    refine ⟨fun h hz => ?_, fun h hy hz => ?_, fun h hwide => ?_⟩
    · have onTwo {op : AtomOp} {i : Instr} {new : Nat} (hi : exec i s = s.atomicOp op ord sz d a [b])
          (hnew : newValue op (8 * sz.bytes) old y.toNat z.toNat = new) := go hi h rfl rfl hz.symm hnew
      exact ⟨onTwo rfl rfl, onTwo rfl rfl, onTwo rfl rfl, onTwo rfl rfl, onTwo rfl rfl, onTwo rfl (by simp only [newValue, signedOf_eq]; rfl),
        onTwo rfl (by simp only [newValue, signedOf_eq]; rfl), onTwo rfl (newValue_minu ..), onTwo rfl (newValue_maxu ..)⟩
    · exact go rfl h rfl hy.symm hz.symm rfl
    · refine go ?_ h rfl rfl rfl rfl
      change execAcas ord sz d a b s = _
      rw [execAcas, if_neg (by simp [hwide])]
  · intro ord d a b s t x y0 y1 z0 z1 at_ hrel hwide hpair hd h hl hp hn hn8 w0 w1 u
    change execAcas ord .b8 d a b s = _
    rw [execAcas, if_pos hwide, if_pos hpair]
    exact State.wideCas_local h hrel hd hl hp hn hn8

end Sys2Proof.Machine
end

section
/-! ## The commands of qcp (05 R181, Table 5-6) -/

namespace Sys2Proof.Machine

/-- The state with the command at the head of qcp answered: the word of channel c, with a code, follows the results, and the commands
behind the head remain. -/
def State.answerCopy (s : State) (rest : List (DWord × Nat)) (c code : Nat) : State :=
  { s with core := { s.core with qcp := ⟨rest, s.core.qcp.res ++ [copyResult (s.channel c) c code]⟩ } }

/-- The state without the parity error of the head of the command FIFO of the copy engine. -/
def State.copyFifoRead (s : State) : State := { s with core := { s.core with fifoPoison := s.core.fifoPoison.filter fun k => k != 3 } }

/-- The code that answers a command word of a slot (Table 5-6): bad parity, a reserved field, another slot than 7, a channel that has not
halted, in that order. -/
def copyCode (bad : Bool) (w : DWord) (slot : Nat) (halted : Bool) : Nat :=
  if bad then memPoison
  else if 2 < w.toNat % 16 ∨ 128 ≤ w.toNat then reservedField
  else if w.toNat % 16 ≠ 0 ∧ slot ≠ 7 then privilege
  else if w.toNat % 16 ≠ 0 ∧ halted = false then queueMisuse
  else 0

/-- The channel after a CANCEL (R181). -/
def Channel.cancelled (x : Channel) : Channel :=
  { x with busy := false, halted := false, code := 0, above := [], flight := [], pend := [], bad := none, full := [], back := [] }

/-- What an accepted command does to channel c. -/
def State.copyAct (s : State) (op c : Nat) : State :=
  match op with
  | 1 => s.setChannel c (s.channel c).resumed
  | 2 => ((s.endArrival c).setChannel c (s.channel c).cancelled).countConsume (s.channel c).job s.die
  | _ => s

/-- Without a parity error the head is read as it stands. -/
theorem State.copyFifoRead_sound {s : State} (h : 3 ∉ s.core.fifoPoison) : s.copyFifoRead = s := by
  have : s.core.fifoPoison.filter (fun k => k != 3) = s.core.fifoPoison :=
    List.filter_eq_self.2 fun k hk => by simpa using fun he : k = 3 => h (he ▸ hk)
  rw [State.copyFifoRead, this]

/-- The head of the command FIFO, with room for its result: what is asked for is answered with the code of the word, after its act where
the code is 0. -/
theorem State.copyCommand_eq {s : State} {w : DWord} {slot : Nat} {rest : List (DWord × Nat)} {ops : Nat → Bool}
    (hq : s.core.qcp.cmds = (w, slot) :: rest) (hr : s.core.qcp.res.length < 4) (ho : ops (w.toNat % 16) = true) :
    s.copyCommand ops =
      let c := w.toNat / 16 % 8
      let code := copyCode (s.core.fifoPoison.contains 3) w slot (s.channel c).halted
      (if code ≠ 0 then s.copyFifoRead else s.copyFifoRead.copyAct (w.toNat % 16) c).answerCopy rest c code := by
  unfold State.copyCommand
  have hop : bits w 0 4 = w.toNat % 16 := bits_zero w 4
  have hc : bits w 4 3 = w.toNat / 16 % 8 := bits_eq_div_mod w 4 3
  have hres : bits w 7 57 ≠ 0 ↔ 128 ≤ w.toNat := bits_top_ne_zero_iff w rfl
  simp only [hq, hop, hc, hres, ho, Nat.not_le.2 hr, gt_iff_lt, decide_false, Bool.not_true,
    Bool.or_self, Bool.false_eq_true, if_false]
  rfl

theorem copyCode_bad (w : DWord) (slot : Nat) (halted : Bool) : copyCode true w slot halted = 0x0E := rfl

theorem copyCode_reserved {w : DWord} (slot : Nat) (halted : Bool) (h : 2 < w.toNat % 16 ∨ 128 ≤ w.toNat) :
    copyCode false w slot halted = 0x02 := by
  simp [copyCode, h, reservedField]

theorem copyCode_query {w : DWord} (slot : Nat) (halted : Bool) (h : w.toNat < 128) (ho : w.toNat % 16 = 0) :
    copyCode false w slot halted = 0 := by
  simp [copyCode, ho, Nat.not_le.2 h]

theorem copyCode_act {w : DWord} (slot : Nat) (halted : Bool) (h : w.toNat < 128) (ho : w.toNat % 16 = 1 ∨ w.toNat % 16 = 2) :
    copyCode false w slot halted = if slot ≠ 7 then 0x03 else if halted = false then 0x15 else 0 := by
  have h2 : ¬ 2 < w.toNat % 16 := by omega
  have h0 : w.toNat % 16 ≠ 0 := by omega
  simp [copyCode, h2, h0, Nat.not_le.2 h, privilege, queueMisuse]

section
variable {s : State} {w : DWord} {slot : Nat} {rest : List (DWord × Nat)} {ops : Nat → Bool}
  (hq : s.core.qcp.cmds = (w, slot) :: rest) (hr : s.core.qcp.res.length < 4) (ho : ops (w.toNat % 16) = true)
include hq hr ho

theorem State.copyCommand_refused {code : Nat} (h0 : code ≠ 0)
    (hcode : copyCode (s.core.fifoPoison.contains 3) w slot (s.channel (w.toNat / 16 % 8)).halted = code) :
    s.copyCommand ops = s.copyFifoRead.answerCopy rest (w.toNat / 16 % 8) code := by
  simp only [State.copyCommand_eq hq hr ho, hcode, if_pos h0]

theorem State.copyCommand_accepted
    (hcode : copyCode (s.core.fifoPoison.contains 3) w slot (s.channel (w.toNat / 16 % 8)).halted = 0) :
    s.copyCommand ops = (s.copyFifoRead.copyAct (w.toNat % 16) (w.toNat / 16 % 8)).answerCopy rest (w.toNat / 16 % 8) 0 := by
  simp only [State.copyCommand_eq hq hr ho, hcode, ne_eq, not_true_eq_false, if_false]

end

/-- A cancelled channel is free. -/
theorem State.copyAct_cancel_busy (s : State) (c : Nat) : ((s.copyAct 2 c).core.channels[Fin.ofNat 8 c]).busy = false := by
  simp [State.copyAct, State.setChannel, Channel.cancelled]

section
variable {s : State} {w : DWord} {slot : Nat} {rest : List (DWord × Nat)} {code : Nat}
  (hq : s.core.qcp.cmds = (w, slot) :: rest) (hr : s.core.qcp.res.length < 4)
include hq hr

/-- A word with bad parity is answered so, whatever it asks for. -/
theorem State.copyCommand_bad {ops : Nat → Bool} (hbad : 3 ∈ s.core.fifoPoison) (ho : ops (w.toNat % 16) = true) :
    s.copyCommand ops = s.copyFifoRead.answerCopy rest (w.toNat / 16 % 8) 0x0E :=
  State.copyCommand_refused hq hr ho (by decide) (by rw [List.contains_iff_mem.2 hbad, copyCode_bad])

variable (hsound : 3 ∉ s.core.fifoPoison)
include hsound

theorem State.copyCommand_sound_refused {ops : Nat → Bool} (ho : ops (w.toNat % 16) = true) (h0 : code ≠ 0)
    (hcode : copyCode false w slot (s.channel (w.toNat / 16 % 8)).halted = code) :
    s.copyCommand ops = s.answerCopy rest (w.toNat / 16 % 8) code := by
  have hb : s.core.fifoPoison.contains 3 = false := by simpa using hsound
  rw [State.copyCommand_refused hq hr ho h0 (hb ▸ hcode), State.copyFifoRead_sound hsound]

theorem State.copyCommand_sound_accepted {ops : Nat → Bool} (ho : ops (w.toNat % 16) = true)
    (hcode : copyCode false w slot (s.channel (w.toNat / 16 % 8)).halted = 0) :
    s.copyCommand ops = (s.copyAct (w.toNat % 16) (w.toNat / 16 % 8)).answerCopy rest (w.toNat / 16 % 8) 0 := by
  have hb : s.core.fifoPoison.contains 3 = false := by simpa using hsound
  rw [State.copyCommand_accepted hq hr ho (hb ▸ hcode), State.copyFifoRead_sound hsound]

/-! RESUME and CANCEL, k = 1 and 2: what refuses them, in its order, and their act. -/

theorem State.copyCommand_act_reserved {k : Nat} (ho : w.toNat % 16 = k) (h : 128 ≤ w.toNat) :
    s.copyCommand (fun op => op == k) = s.answerCopy rest (w.toNat / 16 % 8) 0x02 :=
  State.copyCommand_sound_refused hq hr hsound (by simpa using ho) (by decide) (copyCode_reserved _ _ (.inr h))

variable {k : Nat} (hk : k = 1 ∨ k = 2) (ho : w.toNat % 16 = k) (h : w.toNat < 128)
include hk ho h

theorem State.copyCommand_act_privilege (hslot : slot ≠ 7) :
    s.copyCommand (fun op => op == k) = s.answerCopy rest (w.toNat / 16 % 8) 0x03 :=
  State.copyCommand_sound_refused hq hr hsound (by simpa using ho) (by decide) (by rw [copyCode_act _ _ h (ho ▸ hk), if_pos hslot])

theorem State.copyCommand_act_misuse (hslot : slot = 7) (hx : (s.channel (w.toNat / 16 % 8)).halted = false) :
    s.copyCommand (fun op => op == k) = s.answerCopy rest (w.toNat / 16 % 8) 0x15 :=
  State.copyCommand_sound_refused hq hr hsound (by simpa using ho) (by decide)
    (by rw [copyCode_act _ _ h (ho ▸ hk), if_neg (not_not.2 hslot), if_pos hx])

theorem State.copyCommand_act_runs (hslot : slot = 7) (hx : (s.channel (w.toNat / 16 % 8)).halted = true) :
    s.copyCommand (fun op => op == k) = (s.copyAct k (w.toNat / 16 % 8)).answerCopy rest (w.toNat / 16 % 8) 0 := by
  rw [State.copyCommand_sound_accepted hq hr hsound (by simpa using ho)
    (by rw [copyCode_act _ _ h (ho ▸ hk), if_neg (not_not.2 hslot), hx]; rfl), ho]

end

/-- Settles O19: each command is the one at the head of the FIFO, answered with the code of its word. -/
theorem copyCommands : Obligations.CopyCommands := by
  unfold Obligations.CopyCommands
  intro s w slot rest hq hr
  have asked {k : Nat} (ho : w.toNat % 16 = k) : (w.toNat % 16 == k) = true := by simpa using ho
  have queried (ho : w.toNat % 16 = 0 ∨ 2 < w.toNat % 16) : (w.toNat % 16 == 0 || decide (w.toNat % 16 > 2)) = true := by simpa using ho
  refine ⟨fun hbad => ⟨fun ho => ?_, fun ho => ?_, fun ho => ?_⟩, fun hsound => ?_⟩
  · exact congrArg _ (State.copyCommand_bad hq hr hbad (queried ho))
  · exact congrArg _ (State.copyCommand_bad (ops := fun op => op == 1) hq hr hbad (asked ho))
  · exact congrArg _ (State.copyCommand_bad (ops := fun op => op == 2) hq hr hbad (asked ho))
  have query_reserved (ho : w.toNat % 16 = 0 ∨ 2 < w.toNat % 16) (h : 2 < w.toNat % 16 ∨ 128 ≤ w.toNat) :=
    State.copyCommand_sound_refused (ops := fun op => op == 0 || decide (op > 2)) hq hr hsound (queried ho) (by decide)
      (copyCode_reserved slot _ h)
  have query_runs (ho : w.toNat % 16 = 0) (h : w.toNat < 128) :
      s.copyCommand (fun op => op == 0 || decide (op > 2)) = s.answerCopy rest (w.toNat / 16 % 8) 0 := by
    rw [State.copyCommand_sound_accepted hq hr hsound (queried (.inl ho)) (copyCode_query _ _ h ho), ho]
    rfl
  refine ⟨fun h => congrArg _ (query_reserved (.inr h) (.inl h)), fun h => ⟨fun ho => ?_, fun ho => ?_, fun ho => ?_⟩,
    fun h => ⟨fun ho => ?_, fun ho hslot => ?_, fun ho hslot hx => ?_, fun ho hslot hx => ?_, fun ho hslot => ?_,
      fun ho hslot hx => ?_, fun ho hslot hx =>
        ⟨(s.copyAct 2 (w.toNat / 16 % 8)).answerCopy rest (w.toNat / 16 % 8) 0, ?_, State.copyAct_cancel_busy s _, rfl⟩⟩⟩
  · exact congrArg _ (query_reserved (.inl ho) (.inr h))
  · exact congrArg _ (State.copyCommand_act_reserved hq hr hsound ho h)
  · exact congrArg _ (State.copyCommand_act_reserved hq hr hsound ho h)
  · exact congrArg _ (query_runs ho h)
  · exact congrArg _ (State.copyCommand_act_privilege hq hr hsound (.inl rfl) ho h hslot)
  · exact congrArg _ (State.copyCommand_act_misuse hq hr hsound (.inl rfl) ho h hslot hx)
  · exact congrArg _ (State.copyCommand_act_runs hq hr hsound (.inl rfl) ho h hslot hx)
  · exact congrArg _ (State.copyCommand_act_privilege hq hr hsound (.inr rfl) ho h hslot)
  · exact congrArg _ (State.copyCommand_act_misuse hq hr hsound (.inr rfl) ho h hslot hx)
  · exact congrArg _ (State.copyCommand_act_runs hq hr hsound (.inr rfl) ho h hslot hx)

end Sys2Proof.Machine
end

section
/-! ## Accesses elsewhere, fences and SHIP (05 R145, R151 to R153, R156, R160, R171 to R173; 14 R384) -/

namespace Sys2Proof.Machine

/-! ### An access that leaves the core -/

/-- The state with a write to the host window noted, behind which a flush read is due (10 R316). -/
def State.noteWrite (t : State) (r : Region) (k : AccKind) : State :=
  if r = .host ∧ writesHost k = true then t.setFib { t.fib with unflushed := true } else t

theorem State.noteWrite_load (t : State) (r : Region) : t.noteWrite r .load = t := if_neg fun h => absurd h.2 (by decide)

theorem State.noteWrite_store (t : State) (r : Region) :
    t.noteWrite r .store = if r = .host then t.setFib { t.fib with unflushed := true } else t := by
  simp [State.noteWrite, writesHost]

@[simp] theorem State.noteWrite_mem (t : State) (r : Region) (k : AccKind) : (t.noteWrite r k).mem = t.mem := by
  unfold State.noteWrite
  split <;> rfl

section
variable {s t : State} {reads : List Reg} {vs : List DWord} {a : Access} {k : WaitKind} {path : Path} {acq : Bool} {align : Nat}
  {refuses : Region → Option Nat} {r : Region} (hr : ∀ o, r ≠ .own o) (hc : s.checkAccess a.addr (accSpan a) align refuses = .ok r)
  (hh : s.heldByAcquire = false)
include hr hc hh

theorem State.accessOf_asks_wait :
    s.accessOf t reads vs a k .wait false acq align refuses =
      let u := t.noteWrite r a.kind
      (u.block (((u.newWait k 7 none 0 (some a)).popped reads vs).counted t.myJob)).launch r ⟨u.self, u.nextId, .wait, t.myJob⟩ a [] := by
  simp only [State.accessOf, hc, hh]
  cases r
  case own o => exact absurd rfl (hr o)
  all_goals rfl

theorem State.accessOf_asks_split (hq : t.fib.qam.length < 4) :
    s.accessOf t reads vs a k .split false acq align refuses =
      let u := t.noteWrite r a.kind
      ((u.reserveQam a.addr acq k none t.myJob).advance).launch r ⟨u.self, u.nextId, .qam, t.myJob⟩ a [] := by
  simp only [State.accessOf, hc, hh, true_and, ge_iff_le, if_neg (Nat.not_le.2 hq)]
  cases r
  case own o => exact absurd rfl (hr o)
  all_goals rfl

theorem State.accessOf_asks_post {j : Nat} (hj : s.core.freeJournal? = some j) :
    s.accessOf t reads vs a k .post false acq align refuses =
      let u := t.noteWrite r a.kind
      ((u.addJournal j a).quick.advance).launch r ⟨u.self, u.nextId, .journal j, t.myJob⟩ a [] := by
  simp only [State.accessOf, hc, hh, hj]
  cases r
  case own o => exact absurd rfl (hr o)
  all_goals rfl

theorem State.accessOf_asks_full (hj : s.core.freeJournal? = none) :
    s.accessOf t reads vs a k .post false acq align refuses = s.stall := by
  simp only [State.accessOf, hc, hh, hj]
  cases r
  case own o => exact absurd rfl (hr o)
  all_goals rfl

/-- Memory is as before: the access is performed elsewhere. -/
theorem State.accessOf_asks_mem (hm : t.mem = s.mem) : (s.accessOf t reads vs a k path false acq align refuses).mem = s.mem := by
  cases path with
  | wait => simp [State.accessOf_asks_wait hr hc hh, hm]
  | split =>
    by_cases hq : t.fib.qam.length < 4
    · simp [State.accessOf_asks_split hr hc hh hq, hm]
    · simp [State.accessOf, hc, hh, Nat.not_lt.1 hq]
  | post =>
    cases hj : s.core.freeJournal? with
    | none => simp [State.accessOf_asks_full hr hc hh hj]
    | some j => simp [State.accessOf_asks_post hr hc hh hj, hm]

end

/-! The four plain instructions, once their operands are read and the address is found elsewhere. -/

section
variable {s t : State} {sz : Size} {d a : Reg} {off : BitVec 12} {x v : DWord} {r : Region} (hr : ∀ o, r ≠ .own o)
  (hh : s.heldByAcquire = false)
include hr hh

/-- A load asks for its bytes with one packet, waited for in the instruction or in qam. -/
theorem State.load_elsewhere (hc : s.checkAccess (x + s.immM off * BitVec.ofNat 64 sz.bytes) sz.bytes sz.bytes plainRefuses = .ok r)
    (h : s.Ready ⟨[a], splitDst d, false, false⟩ [x] t) (sx : Bool) :
    let ld := loadOf sz (x + s.immM off * BitVec.ofNat 64 sz.bytes)
    (d ≠ .qam → s.load sx sz d a off = .next (((t.block ((t.newWait (.load d sz sx) 7 none 0 (some ld)).counted t.myJob)).launch r
      ⟨t.self, t.nextId, .wait, t.myJob⟩ ld []))) ∧
    (d = .qam → t.fib.qam.length < 4 → s.load sx sz d a off = .next (((t.reserveQam ld.addr false (.load d sz sx) none t.myJob).advance).launch r
      ⟨t.self, t.nextId, .qam, t.myJob⟩ ld [])) ∧
    ∀ u, s.load sx sz d a off = .next u → u.mem = s.mem := by
  intro ld
  have hld : s.checkAccess ld.addr (accSpan ld) sz.bytes plainRefuses = .ok r := (accSpan_loadOf sz _).symm ▸ hc
  refine ⟨fun hd => ?_, fun hd hq => ?_, fun u hu => ?_⟩
  · have hp : pathOf d = .wait := by cases d <;> simp_all [pathOf]
    rw [State.load_go h, hp, State.accessOf_asks_wait hr hld hh, show t.noteWrite r ld.kind = t from t.noteWrite_load r]
    rfl
  · subst hd
    rw [State.load_go h, show pathOf .qam = .split from rfl, State.accessOf_asks_split hr hld hh hq, show t.noteWrite r ld.kind = t from t.noteWrite_load r]
  · rw [State.load_go h] at hu
    cases hu
    exact State.accessOf_asks_mem hr hld hh h.mem

/-- A store sends its bytes with one packet, waited for or posted. -/
theorem State.store_elsewhere (hc : s.checkAccess (x + s.immM off * BitVec.ofNat 64 sz.bytes) sz.bytes sz.bytes plainRefuses = .ok r)
    (h : s.Ready ⟨[a, d], none, false, false⟩ [x, v] t) :
    let st := storeOf sz (x + s.immM off * BitVec.ofNat 64 sz.bytes) v
    let u := t.noteWrite r .store
    s.store .wait sz d a off = .next ((u.block ((u.newWait .store 7 none 0 (some st)).counted t.myJob)).launch r
      ⟨u.self, u.nextId, .wait, t.myJob⟩ st []) ∧
    (∀ j, s.core.freeJournal? = some j →
      s.store .post sz d a off = .next (((u.addJournal j st).quick.advance).launch r ⟨u.self, u.nextId, .journal j, t.myJob⟩ st [])) ∧
    (s.core.freeJournal? = none → s.store .post sz d a off = .next s.stall) ∧
    ∀ path w, s.store path sz d a off = .next w → w.mem = s.mem := by
  intro st u
  have hst : s.checkAccess st.addr (accSpan st) sz.bytes plainRefuses = .ok r := (accSpan_storeOf sz _ v).symm ▸ hc
  refine ⟨?_, fun j hj => ?_, fun hj => ?_, fun path w hw => ?_⟩
  · rw [State.store_go h, State.accessOf_asks_wait hr hst hh]
    rfl
  · rw [State.store_go h, State.accessOf_asks_post hr hst hh hj]
    rfl
  · rw [State.store_go h, State.accessOf_asks_full hr hst hh hj]
  · rw [State.store_go h] at hw
    cases hw
    exact State.accessOf_asks_mem hr hst hh h.mem

end

/-! ### Fences -/

/-- A fence behind its gate: what it waits for, then the flush read of .sys. -/
theorem execFence_eq {s : State} (h : s.Ready ⟨[], none, false, false⟩ [] s) (c : Scope) :
    execFence c s = .next (if !(s.fenced c).isEmpty then s.stall
      else if c = .sys ∧ s.fib.flush.isSome = true then s.stall
      else if c = .sys ∧ s.fib.unflushed = true then (s.startFlush s.self).stall
      else s.advance) := issue_go h

/-- What a fence does: it waits for what its scope holds and, with .sys, for the flush read, which it issues where a write calls for one. -/
theorem execFence_cases {s : State} (h : s.Ready ⟨[], none, false, false⟩ [] s) (c : Scope) :
    (s.fenced c ≠ [] → execFence c s = .next s.stall) ∧ (s.fenced c = [] → c ≠ .sys → execFence c s = .next s.advance) ∧
    (s.fenced .sys = [] → s.fib.flush = none → s.fib.unflushed = false → execFence .sys s = .next s.advance) ∧
    (s.fib.flush.isSome = true → execFence .sys s = .next s.stall) ∧
    (s.fenced .sys = [] → s.fib.flush = none → s.fib.unflushed = true → execFence .sys s = .next (s.startFlush s.self).stall) := by
  simp only [execFence_eq h]
  refine ⟨fun hf => ?_, fun hf hc => ?_, fun hf hn hu => ?_, fun hn => ?_, fun hf hn hu => ?_⟩
  · simp [hf]
  · simp [hf, hc]
  · simp [hf, hn, hu]
  · simp [hn]
  · simp [hf, hn, hu]

/-- The bank that an address names: its core and its number there. -/
def bankNamed (self : Nat) (w : DWord) : Option (Nat × Nat) :=
  match regionOf self w with
  | .own off => some (self, off / 8192)
  | .peer c off => some (c, off / 8192)
  | _ => none

/-- Whether the fibre in turn has a posted or split-phase access to a bank that is not performed. -/
def State.bankPending (s : State) (b : Nat × Nat) : Bool :=
  (s.core.journal.any fun e => e.ent == s.self.ent && bankNamed s.cid e.addr == some b) ||
    s.fib.qam.any fun e => e.val.isNone && bankNamed s.cid e.addr == some b

/-- FENCE.bank once its operand is read: s before the pop, t after it. -/
def State.fenceBankEnd (s t : State) (x : DWord) : State :=
  match bankNamed s.cid x with
  | none => s.raise (fltAt translation x)
  | some b => if s.bankPending b then s.stall else t.advance

section
variable {s t : State} {a : Reg} {x : DWord} (h : s.Ready ⟨[a], none, false, false⟩ [x] t)
include h

theorem execFenceBank_eq : execFenceBank a s = .next (s.fenceBankEnd t x) := by
  rw [execFenceBank, issue_go h]
  rfl

theorem execFenceBank_none (hb : bankNamed s.cid x = none) : execFenceBank a s = .next (s.raise (fltAt 0x13 x)) := by
  rw [execFenceBank_eq h, State.fenceBankEnd, hb]
  rfl

theorem execFenceBank_free {b : Nat × Nat} (hb : bankNamed s.cid x = some b)
    (hj : ∀ e ∈ s.core.journal, e.ent = s.self.ent → bankNamed s.cid e.addr ≠ some b)
    (hq : ∀ e ∈ s.fib.qam, e.val = none → bankNamed s.cid e.addr ≠ some b) : execFenceBank a s = .next t.advance := by
  rw [execFenceBank_eq h, State.fenceBankEnd, hb]
  exact congrArg _ (if_neg (by simpa [State.bankPending] using ⟨hj, hq⟩))

theorem execFenceBank_busy {b : Nat × Nat} (hb : bankNamed s.cid x = some b)
    (hw : (∃ e ∈ s.core.journal, e.ent = s.self.ent ∧ bankNamed s.cid e.addr = some b) ∨
      ∃ e ∈ s.fib.qam, e.val = none ∧ bankNamed s.cid e.addr = some b) : execFenceBank a s = .next s.stall := by
  rw [execFenceBank_eq h, State.fenceBankEnd, hb]
  exact congrArg _ (if_pos (by simpa [State.bankPending] using hw))

end

/-! ### SHIP -/

/-- A packet that is sent stands in the network, in one form or another. -/
theorem State.sendRange_packet (s : State) (src dst : Nat) (who : Option Who) (after : List Nat) (order : List (Nat × Nat)) (ev : Ev) :
    ∃ p ∈ (s.sendRange src dst who after order ev).net, p.ev = ev ∧ p.dst = dst := by
  unfold State.sendRange
  dsimp only
  split
  · exact ⟨_, List.mem_append_right _ (List.mem_singleton_self _), rfl, rfl⟩
  · split
    · exact ⟨_, List.mem_append_right _ (List.mem_singleton_self _), rfl, rfl⟩
    · exact ⟨_, List.mem_append_right _ (List.mem_singleton_self _), rfl, rfl⟩

@[simp] theorem State.sendRange_fib (s : State) (src dst : Nat) (who : Option Who) (after : List Nat) (order : List (Nat × Nat)) (ev : Ev) :
    (s.sendRange src dst who after order ev).fib = s.fib := by
  unfold State.sendRange
  dsimp only
  split
  · rfl
  · split <;> rfl

@[simp] theorem State.touchHome_fib (s : State) (va : Nat) : (s.touchHome va).fib = s.fib := by
  unfold State.touchHome
  split <;> rfl

@[simp] theorem State.countSend_fib (s : State) (j : Option Nat) (die : Nat) : (s.countSend j die).fib = s.fib := by
  simp [State.fib, State.me]

@[simp] theorem State.advance_qm (s : State) : s.advance.fib.qm = s.fib.qm := by
  rw [State.advance_eq, State.setMe_fib]
  cases s.me.hints.live <;> rfl

/-! SHIP as its instruction is modelled, in named parts: n is the routine, x, y and z the operands, g the tag; s is the state before the
pops, t after them. -/

/-- The bytes of a scratch operand, of one that is good. -/
def State.shipBytes (s : State) (rd : Option (DWord × Nat)) : List Byte :=
  match rd.filter fun _ => s.scratchStatus rd == 0 with
  | some (w, c) => s.spBytes s.cid (w.toNat % 65536) c
  | none => []

/-- The bytes of a scratch operand. -/
def State.operandBytes (s : State) (rd : Option (DWord × Nat)) : List Byte :=
  match rd with
  | some (w, c) => s.spBytes s.cid (w.toNat % 65536) c
  | none => []

/-- The DRAM bytes that the request touches. -/
def State.shipTouched (s : State) (n : Nat) (x y : DWord) : List (Nat × Nat) :=
  shipTouches n x.toNat y.toNat (s.shipBytes (scratchRead n y))

/-- The status of the scratch operands, of what is read first. -/
def State.shipStatus (s : State) (n : Nat) (y z : DWord) : Nat :=
  if s.scratchStatus (scratchRead n y) ≠ 0 then s.scratchStatus (scratchRead n y) else s.scratchStatus (scratchWrite n y z)

/-- Whether the operand that is read is uncorrectable. -/
def State.shipPoison (s : State) (rd : Option (DWord × Nat)) : Bool :=
  match rd with
  | some (w, c) => s.core.poisoned (w.toNat % 65536) c
  | none => false

/-- The queue with the tag taken. -/
def State.shipQueue (t : State) (k : Fin 2) (g : Nat) : Qm := { t.fib.qm[k] with tags := t.fib.qm[k].tags ++ [(g, t.nextId, false)] }

/-- The instruction completes, its queue as m says. -/
def State.shipAdvance (t : State) (k : Fin 2) (m : Qm) : State :=
  ({ (t.setFib { t.fib with qm := t.fib.qm.set k m }) with nextId := t.nextId + 1 } : State).advance

/-- The request. -/
def State.shipReq (s t : State) (k : Fin 2) (n g : Nat) (x y z : DWord) : Req :=
  { stack := (s.route x.toNat).1, routine := n, priv := s.sid.val == 7, w32 := false, w128 := false, tag := g,
    queue := k, origin := 0, who := t.self, op := t.nextId, via := .wait, jent := 0, hops := 0, hinted := (s.route x.toNat).2,
    va := x.setWidth 48, a := y, b := z, payload := s.shipBytes (scratchRead n y), job := t.myJob }

/-- The end of a SHIP that has its tag. -/
def State.shipTagged (s t : State) (k : Fin 2) (n g : Nat) (x y z : DWord) : State :=
  if s.shipStatus n y z ≠ 0 then
    t.shipAdvance k (pushReply (t.shipQueue k g) g (headerWord g false (s.shipStatus n y z) n (x.setWidth 48)) 0)
  else if s.shipPoison (scratchRead n y) then s.raise (accessFlt memPoison y)
  else
    (((t.shipAdvance k (t.shipQueue k g)).touchHome x.toNat).countSend t.myJob s.die).sendRange s.cid (serverDst (s.route x.toNat).1) none []
      ((s.shipTouched n x y).map fun p => granulePlaces p.1 p.2) (routineEv (s.shipReq t k n g x y z))

/-- SHIP behind its gate. -/
def State.shipEnd (s t : State) (k : Fin 2) (n : Nat) (x y z : DWord) : State :=
  if regionOf s.cid x ≠ .dram then s.raise (fltAt translation x)
  else if s.sid.val ≠ 7 ∧ ((s.shipTouched n x y).any fun p => s.inTrapRegion p.1 p.2) = true then s.raise (fltAt privilege x)
  else if s.heldByAcquire then s.stall
  else match freeTag? t.fib.qm[k] with
    | none => s.stall
    | some g => s.shipTagged t k n g x y z

section
variable {s t : State} {k : Fin 2} {n : BitVec 6} {a b : Reg} {x y z : DWord} (h : s.Ready ⟨[a, b, pairNext b], none, false, false⟩ [x, y, z] t)

include h in
theorem execShip_eq : execShip (.qm k) n a b s = .next (s.shipEnd t k n.toNat x y z) := by
  simp only [execShip, qmIndex]
  rw [issue_go h]
  rfl

variable {n : Nat}

theorem State.shipEnd_outside (hr : regionOf s.cid x ≠ .dram) : s.shipEnd t k n x y z = s.raise (fltAt 0x13 x) := if_pos hr

theorem State.shipEnd_noTag (hr : regionOf s.cid x = .dram) (h7 : s.sid = 7) (hh : s.heldByAcquire = false) (ht : freeTag? t.fib.qm[k] = none) :
    s.shipEnd t k n x y z = s.stall := by
  rw [State.shipEnd, if_neg (not_not.2 hr), if_neg fun h => h.1 (congrArg Fin.val h7), hh, ht]
  rfl

/-- A request whose bytes keep out of the trap region, where slot 7 did not make it, takes the lowest free tag. -/
theorem State.shipEnd_tagged (hr : regionOf s.cid x = .dram)
    (htrap : s.sid = 7 ∨ ∀ p ∈ s.shipTouched n x y, s.inTrapRegion p.1 p.2 = false) (hh : s.heldByAcquire = false) {g : Nat}
    (ht : freeTag? t.fib.qm[k] = some g) : s.shipEnd t k n x y z = s.shipTagged t k n g x y z := by
  have hout : ¬ (s.sid.val ≠ 7 ∧ ((s.shipTouched n x y).any fun p => s.inTrapRegion p.1 p.2) = true) := by
    rintro ⟨h7, hany⟩
    obtain ⟨p, hp, hin⟩ := List.any_eq_true.1 hany
    rcases htrap with h | h
    · exact h7 (congrArg Fin.val h)
    · simp [h p hp] at hin
  rw [State.shipEnd, if_neg (not_not.2 hr), if_neg hout, hh, ht]
  rfl

end

/-- A good scratch operand gives its bytes. -/
theorem State.shipBytes_good {s : State} (rd : Option (DWord × Nat)) (h : s.scratchStatus rd = 0) :
    s.shipBytes rd = s.operandBytes rd := by
  cases rd with
  | none => rfl
  | some p =>
    simp only [State.shipBytes, h]
    rfl

/-- An operand that is poisoned nowhere stops no request. -/
theorem State.shipPoison_false {s : State} (rd : Option (DWord × Nat))
    (h : ∀ w c, rd = some (w, c) → s.core.poisoned (w.toNat % 65536) c = false) : s.shipPoison rd = false := by
  cases rd with
  | none => rfl
  | some p => exact h _ _ rfl

@[simp] theorem State.shipAdvance_mem (t : State) (k : Fin 2) (m : Qm) : (t.shipAdvance k m).mem = t.mem := by
  simp [State.shipAdvance]

@[simp] theorem State.shipAdvance_net (t : State) (k : Fin 2) (m : Qm) : (t.shipAdvance k m).net = t.net := by
  rw [State.shipAdvance, State.advance_eq]
  rfl

@[simp] theorem State.shipAdvance_qm (t : State) (k : Fin 2) (m : Qm) : (t.shipAdvance k m).fib.qm[k] = m := by
  have hfib : ({ t.setFib { t.fib with qm := t.fib.qm.set k m } with nextId := t.nextId + 1 } : State).fib =
      { t.fib with qm := t.fib.qm.set k m } := State.setFib_fib t _
  rw [State.shipAdvance, State.advance_qm, hfib]
  simp

/-! The end of a SHIP with its tag: a status in place of a request, or the request on its way. -/

section
variable {s t : State} {k : Fin 2} {n g : Nat} {x y z : DWord}

theorem State.shipTagged_badScratch (hst : s.scratchStatus (scratchRead n y) ≠ 0) :
    (s.shipTagged t k n g x y z).net = t.net ∧ (s.shipTagged t k n g x y z).mem = t.mem ∧
      (s.shipTagged t k n g x y z).fib.qm[k].words =
        t.fib.qm[k].words ++ [⟨headerWord g false (s.scratchStatus (scratchRead n y)) n (x.setWidth 48), none⟩, ⟨0, some g⟩] := by
  have hs : s.shipStatus n y z = s.scratchStatus (scratchRead n y) := if_pos hst
  rw [State.shipTagged, hs, if_pos hst, State.shipAdvance_net, State.shipAdvance_mem, State.shipAdvance_qm]
  exact ⟨rfl, rfl, rfl⟩

theorem State.shipTagged_good (hr : s.scratchStatus (scratchRead n y) = 0) (hw : s.scratchStatus (scratchWrite n y z) = 0)
    (hp : s.shipPoison (scratchRead n y) = false) :
    (s.shipTagged t k n g x y z).fib.qm[k].tags = t.fib.qm[k].tags ++ [(g, t.nextId, false)] ∧
      (∃ p ∈ (s.shipTagged t k n g x y z).net, p.ev = routineEv (s.shipReq t k n g x y z) ∧ p.dst = serverDst (s.route x.toNat).1) ∧
      (s.shipTagged t k n g x y z).mem = t.mem := by
  have hs : s.shipStatus n y z = 0 := by simp [State.shipStatus, hr, hw]
  rw [State.shipTagged, hs, if_neg (by simp), hp, if_neg (by simp)]
  refine ⟨?_, State.sendRange_packet .., by simp⟩
  simp only [State.sendRange_fib, State.countSend_fib, State.touchHome_fib, State.shipAdvance_qm]
  rfl

end

/-! ### The statement -/

/-- Settles O16: each access is one packet, each fence one look at what is outstanding, each SHIP one request or its refusal. -/
theorem remoteAccessesAndFences : Obligations.RemoteAccessesAndFences := by
  unfold Obligations.RemoteAccessesAndFences
  refine ⟨?_, ?_, ?_, ?_⟩
  · intro sz d a off s t x v r ea ld st hr hh hc asks t' keeps
    have ht' : t.noteWrite r st.kind = t' := t.noteWrite_store r
    refine ⟨fun h => ?_, fun h => ?_⟩
    · obtain ⟨hw, hq, hm⟩ := State.load_elsewhere hr hh hc h false
      obtain ⟨hw', hq', hm'⟩ := State.load_elsewhere hr hh hc h true
      exact ⟨⟨hw, hq⟩, ⟨hw', hq'⟩, hm, hm'⟩
    · obtain ⟨hw, hj, hfull, hm⟩ := State.store_elsewhere hr hh hc h
      exact ⟨ht' ▸ hw, ht' ▸ hj, hfull, hm .wait, hm .post⟩
  · intro s t a x c
    refine ⟨fun h => ?_, rfl, rfl, fun h => ?_⟩
    · exact execFence_cases h c
    · exact ⟨execFenceBank_none h, fun _ => execFenceBank_free h, fun _ => execFenceBank_busy h⟩
  · intro q n a b s hq hg
    change execShip q n a b s = _
    simp only [execShip, hq]
    exact issue_go ⟨hg, rfl⟩
  · intro k n a b s t x y z h
    refine ⟨fun hr => ?_, fun hr h7 hh => ⟨fun ht => ?_, fun g ht hst => ?_⟩, ?_⟩
    · exact (execShip_eq h).trans (congrArg _ (State.shipEnd_outside hr))
    · exact (execShip_eq h).trans (congrArg _ (State.shipEnd_noTag hr h7 hh ht))
    · exact ⟨_, (execShip_eq h).trans (congrArg _ (State.shipEnd_tagged hr (.inl h7) hh ht)), State.shipTagged_badScratch hst⟩
    · intro rd data hr htrap hh g ht hst hwr hp
      have hdata : s.shipBytes rd = data := State.shipBytes_good rd hst
      obtain ⟨htags, hpkt, hmem⟩ := State.shipTagged_good (t := t) (k := k) (g := g) (x := x) hst hwr (State.shipPoison_false rd hp)
      exact ⟨_, s.shipReq t k n.toNat g x y z, (execShip_eq h).trans (congrArg _ (State.shipEnd_tagged hr (by rwa [State.shipTouched, hdata]) hh ht)),
        rfl, rfl, rfl, rfl, rfl, rfl, rfl, rfl, hdata, htags, hpkt, hmem⟩

end Sys2Proof.Machine
end

section
/-! ## TSUB, TREL and the tiles of a subscription (05 R186 to R188) -/

namespace Sys2Proof.Machine

/-! ### The channels of the core, under the updates of an instruction that completes -/

theorem State.channel_setChannel (s : State) (c : Nat) (x : Channel) : (s.setChannel c x).core.channels[Fin.ofNat 8 c] = x := by
  simp [State.setChannel]

@[simp] theorem State.setMe_channels (s : State) (m : Slot) : (s.setMe m).core.channels = s.core.channels := rfl
@[simp] theorem State.later_channels (s : State) (w : LateWrite) : (s.later w).core.channels = s.core.channels := rfl
@[simp] theorem State.advance_channels (s : State) : s.advance.core.channels = s.core.channels := by rw [State.advance_eq, State.setMe_channels]

@[simp] theorem State.writeReg_channels (s : State) (d : Reg) (v : DWord) : (s.writeReg d v).core.channels = s.core.channels := by
  unfold State.writeReg State.setTimer
  split <;> (try split) <;> rfl

/-- A register that is no queue takes any value. -/
theorem State.dstCheck_notQueue (s : State) {d : Reg} (v : DWord) (hd : isQueue d = false) : s.dstCheck d v = .ok := by
  cases d <;> simp_all [State.dstCheck, isQueue]

/-! ### Which tiles meet a range -/

/-- The lowest of count addresses that lie a stride apart. -/
def lowestTile (va stride : Int) (count : Nat) : Int := if stride < 0 then va + ((count : Int) - 1) * stride else va

/-- The addresses of the tiles, counted from the lowest one up. -/
theorem exists_tile_iff {va stride : Int} {count : Nat} (p : Int → Prop) :
    (∃ j : Nat, j < count ∧ p (va + j * stride)) ↔ ∃ i : Nat, i < count ∧ p (lowestTile va stride count + i * stride.natAbs) := by
  unfold lowestTile
  split
  next hneg =>
    have habs : (stride.natAbs : Int) = -stride := by omega
    have mirror (j : Nat) (hj : j < count) : va + (count - 1) * stride + ((count - 1 - j : Nat) : Int) * stride.natAbs = va + j * stride := by
      rw [habs, show ((count - 1 - j : Nat) : Int) = count - 1 - j by omega]
      ring
    constructor
    · rintro ⟨j, hj, hp⟩
      exact ⟨count - 1 - j, by omega, (mirror j hj).symm ▸ hp⟩
    · rintro ⟨i, hi, hp⟩
      refine ⟨count - 1 - i, by omega, ?_⟩
      rwa [← mirror _ (by omega), show count - 1 - (count - 1 - i) = i by omega]
  next hpos => rw [show (stride.natAbs : Int) = stride by omega]

/-- Of addresses a distance apart, the first that ends past lo is the one that decides whether any meets the range. -/
theorem exists_step_meets_iff {first d size lo hi : Int} {count : Nat} (hd : 0 < d) :
    (∃ i : Nat, i < count ∧ first + i * d < hi ∧ lo < first + i * d + size) ↔
      max 0 ((lo - size - first) / d + 1) < count ∧ first + max 0 ((lo - size - first) / d + 1) * d < hi := by
  have past (i : Int) : lo < first + i * d + size ↔ (lo - size - first) / d + 1 ≤ i := by
    rw [Int.add_one_le_iff, Int.ediv_lt_iff_lt_mul hd]
    constructor <;> intro h <;> linarith
  constructor
  · rintro ⟨i, hi, hlow, hpast⟩
    have hle : max 0 ((lo - size - first) / d + 1) ≤ i := max_le (by omega) ((past i).1 hpast)
    have := Int.mul_le_mul_of_nonneg_right hle hd.le
    exact ⟨by omega, by linarith⟩
  · rintro ⟨hlt, hlow⟩
    have hnat := Int.toNat_of_nonneg (le_max_left 0 ((lo - size - first) / d + 1))
    refine ⟨(max 0 ((lo - size - first) / d + 1)).toNat, by omega, ?_, ?_⟩
    · rwa [hnat]
    · rw [hnat]
      exact (past _).2 (le_max_right ..)

theorem tilesMeet_iff {va stride : Int} {count size lo hi : Nat} (hc : 0 < count) :
    tilesMeet va stride count size lo hi = true ↔ ∃ j : Nat, j < count ∧ va + j * stride < hi ∧ lo < va + j * stride + size := by
  rw [exists_tile_iff fun t => t < hi ∧ (lo : Int) < t + size]
  by_cases hs : stride = 0
  · subst hs
    simp only [tilesMeet, lowestTile, lt_irrefl, if_false, Int.natAbs_zero, if_true, Bool.and_eq_true, decide_eq_true_eq, Nat.cast_zero, mul_zero,
      add_zero, exists_and_right]
    exact ⟨fun h => ⟨⟨0, hc⟩, h⟩, fun h => h.2⟩
  · rw [exists_step_meets_iff (by omega)]
    simp only [tilesMeet, Int.natAbs_eq_zero, hs, if_false, Bool.and_eq_true, decide_eq_true_eq]
    rfl

/-! ### The descriptor of a subscription (Table 5-9) -/

/-- The number in n bytes of a list, from byte o on. -/
def bytesField (l : List Byte) (o n : Nat) : Nat := leNat ((l.drop o).take n)

theorem bytesField_head {v n : Nat} (l : List Byte) (hv : v < 256 ^ n) : bytesField (leBytes v n ++ l) 0 n = v := by
  rw [bytesField, List.drop_zero, List.take_left' (leBytes_length n v), leNat_leBytes, Nat.mod_eq_of_lt hv]

theorem bytesField_tail (v k : Nat) (l : List Byte) {o n : Nat} (ho : k ≤ o) : bytesField (leBytes v k ++ l) o n = bytesField l (o - k) n := by
  rw [bytesField, List.drop_append, leBytes_length, List.drop_eq_nil_of_le (by rwa [leBytes_length]), List.nil_append, bytesField]

/-- A descriptor with its reserved fields 0. -/
def tileDescriptor (ring size n tag va stride : Nat) : List Byte :=
  leBytes ring 2 ++ (leBytes size 2 ++ (leBytes n 1 ++ (leBytes tag 1 ++ (leBytes 0 2 ++ (leBytes va 8 ++ (leBytes stride 8 ++ leBytes 0 8))))))

section
variable {ring size n tag va stride : Nat}

theorem tileDescriptor_ring (h : ring < 65536) : bytesField (tileDescriptor ring size n tag va stride) 0 2 = ring := bytesField_head _ h

theorem tileDescriptor_size (h : size < 65536) : bytesField (tileDescriptor ring size n tag va stride) 2 2 = size := by
  rw [tileDescriptor, bytesField_tail _ _ _ (by decide)]
  exact bytesField_head _ h

theorem tileDescriptor_count (h : n < 256) : bytesField (tileDescriptor ring size n tag va stride) 4 1 = n := by
  simp only [tileDescriptor, bytesField_tail, Nat.reduceLeDiff, Nat.reduceSub]
  exact bytesField_head _ h

theorem tileDescriptor_tag (h : tag < 256) : bytesField (tileDescriptor ring size n tag va stride) 5 1 = tag := by
  simp only [tileDescriptor, bytesField_tail, Nat.reduceLeDiff, Nat.reduceSub]
  exact bytesField_head _ h

theorem tileDescriptor_reserved : bytesField (tileDescriptor ring size n tag va stride) 6 2 = 0 := by
  simp only [tileDescriptor, bytesField_tail, Nat.reduceLeDiff, Nat.reduceSub]
  exact bytesField_head _ (by decide)

theorem tileDescriptor_va (h : va < 2 ^ 64) : bytesField (tileDescriptor ring size n tag va stride) 8 8 = va := by
  simp only [tileDescriptor, bytesField_tail, Nat.reduceLeDiff, Nat.reduceSub]
  exact bytesField_head _ h

theorem tileDescriptor_stride (h : stride < 2 ^ 64) : bytesField (tileDescriptor ring size n tag va stride) 16 8 = stride := by
  simp only [tileDescriptor, bytesField_tail, Nat.reduceLeDiff, Nat.reduceSub]
  exact bytesField_head _ h

theorem tileDescriptor_tail : bytesField (tileDescriptor ring size n tag va stride) 24 8 = 0 := by
  simp only [tileDescriptor, bytesField_tail, Nat.reduceLeDiff, Nat.reduceSub]
  decide

end

theorem subReserved_eq (l : List Byte) (count : DWord) :
    subReserved l count =
      (bytesField l 0 2 % 32 != 0 || bytesField l 2 2 % 32 != 0 || decide (bytesField l 2 2 < 32) || decide (bytesField l 2 2 > 8192) ||
        decide (bytesField l 4 1 < 1) || decide (bytesField l 4 1 > 16) || decide (bytesField l 5 1 > 63) || bytesField l 6 2 != 0 ||
        bytesField l 8 8 % 32 != 0 || bytesField l 16 8 % 32 != 0 || bytesField l 24 8 != 0 || count == 0 || decide (count.toNat > 2 ^ 32)) := rfl

/-- A descriptor within the limits of its fields passes, with a count of tiles that is neither 0 nor too great. -/
theorem subReserved_tileDescriptor {ring size n tag va stride : Nat} {count : DWord} (hring : ring < 65536) (hring32 : ring % 32 = 0)
    (hlow : 32 ≤ size) (hhigh : size ≤ 8192) (hsize32 : size % 32 = 0) (hn : 1 ≤ n) (hn16 : n ≤ 16) (htag : tag < 64) (hva : va < 2 ^ 64)
    (hva32 : va % 32 = 0) (hstride : stride < 2 ^ 64) (hstride32 : stride % 32 = 0) (hc : count ≠ 0) (hc32 : count.toNat ≤ 2 ^ 32) :
    subReserved (tileDescriptor ring size n tag va stride) count = false := by
  rw [subReserved_eq, tileDescriptor_ring hring, tileDescriptor_size (by omega), tileDescriptor_count (by omega), tileDescriptor_tag (by omega),
    tileDescriptor_reserved, tileDescriptor_va hva, tileDescriptor_stride hstride, tileDescriptor_tail]
  have hpos : count ≠ 0#64 := hc
  simp [hring32, hsize32, hva32, hstride32, hpos]
  omega

/-! ### TSUB -/

/-- The subscription that a descriptor and a count ask for. -/
def State.subscription (s : State) (l : List Byte) (count : DWord) : Channel :=
  { Channel.reset with since := s.nextId, busy := true, subscr := true, tag := bytesField l 5 1, pc := s.ctx.pc, who := s.self, job := s.myJob,
                       dst := bytesField l 0 2, elems := count.toNat, slotb := bytesField l 2 2, nslot := bytesField l 4 1, va := bytesField l 8 8,
                       stride := (leWord ((l.drop 16).take 8)).toInt }

/-- The subscription begins: the tag bit of its channel clears, and the number of the channel is the result. -/
def State.subscribe (s t : State) (d : Reg) (x : Channel) : State :=
  let u : State := { t with core := { t.core with tags := t.core.tags &&& ~~~(tagMask x.tag false) } }
  s.done ((u.setChannel (x.tag % 8) x).countSend x.job s.die) d (BitVec.ofNat 64 (x.tag % 8))

/-- Whether a tile at an address lies in the DRAM window. -/
def inTileWindow (size : Nat) (t : Int) : Bool := decide (0x100000000000 ≤ t) && decide (t + size ≤ 0x200000000000)

/-- TSUB once its descriptor is read: s before the pops, t after them. -/
def State.tsubEnd (s t : State) (d : Reg) (l : List Byte) (count : DWord) : State :=
  let x := s.subscription l count
  if subReserved l count then s.raise (flt reservedField)
  else if (List.range x.nslot).any (fun k => decide ((x.dst + k * x.slotb) % 8192 + x.slotb > 8192)) then
    s.raise (fltAt bankBounds (BitVec.ofNat 64 x.dst))
  else if !s.core.inPart0 x.dst (x.nslot * x.slotb) then s.raise (fltAt partitionBounds (BitVec.ofNat 64 x.dst))
  else if !(inTileWindow x.slotb (x.tileVa 0)) || !(inTileWindow x.slotb (x.tileVa (x.elems - 1))) then
    s.raise (fltAt translation (leWord ((l.drop 8).take 8)))
  else if s.sid.val ≠ 7 ∧ s.tilesInTrap x = true then s.raise (fltAt privilege (leWord ((l.drop 8).take 8)))
  else if s.heldByAcquire || s.channelHeld (x.tag % 8) then s.stall
  else s.subscribe t d x

section
variable {s t : State} {d a b : Reg} {ea count : DWord} (h : s.Ready ⟨[a, b], some d, false, false⟩ [ea, count] t)
include h

theorem execTsub_outside (hr : ∀ o, regionOf s.cid ea ≠ .own o) : execTsub d a b s = .next (s.raise (fltAt 0x13 ea)) := by
  rw [execTsub, issue_go h]
  simp only [arg, List.getD_cons_zero]
  rfl

/-- A descriptor that may be read. -/
theorem execTsub_own {o : Nat} (hr : regionOf s.cid ea = .own o) (ho : o % 8 = 0) (hb : o % 8192 + 32 ≤ 8192) (hp : s.core.inPart0 o 32 = true)
    (hc : s.core.poisoned o 32 = false) : execTsub d a b s = .next (s.tsubEnd t d (memBytes s.mem (spHome s.cid o) 32) count) := by
  rw [execTsub, issue_go h]
  simp only [arg, List.getD_cons_zero, hr, ho, hp, hc, Nat.not_lt.2 hb, gt_iff_lt, ne_eq, not_true_eq_false, if_false, Bool.not_true, Bool.false_eq_true]
  rfl

end

/-- The channel of a subscription whose fields are these. -/
def State.ringChannel (s : State) (ring size n tag va : Nat) (stride count : DWord) : Channel :=
  { Channel.reset with since := s.nextId, busy := true, subscr := true, tag := tag, pc := s.ctx.pc, who := s.self, job := s.myJob,
                       dst := ring, elems := count.toNat, slotb := size, nslot := n, va := va, stride := stride.toInt }

/-- The subscription that a good descriptor asks for. -/
theorem State.subscription_tileDescriptor (s : State) {ring size n tag va : Nat} {stride count : DWord} (hring : ring < 65536) (hsize : size < 65536)
    (hn : n < 256) (htag : tag < 256) (hva : va < 2 ^ 64) :
    s.subscription (tileDescriptor ring size n tag va stride.toNat) count =
      s.ringChannel ring size n tag va stride count := by
  have hstride : leWord (((tileDescriptor ring size n tag va stride.toNat).drop 16).take 8) = stride := by
    change BitVec.ofNat 64 (bytesField _ 16 8) = stride
    rw [tileDescriptor_stride stride.isLt, BitVec.ofNat_toNat, BitVec.setWidth_eq]
  rw [State.subscription, tileDescriptor_ring hring, tileDescriptor_size hsize, tileDescriptor_count hn, tileDescriptor_tag htag, tileDescriptor_va hva,
    hstride]
  rfl

/-- A subscription that passes its checks waits for its channel and for a pending acquire, and then begins. -/
theorem State.tsubEnd_checked {s t : State} {d : Reg} {l : List Byte} {count : DWord} {x : Channel} (hx : s.subscription l count = x)
    (hl : subReserved l count = false) (hbank : ∀ k < x.nslot, (x.dst + k * x.slotb) % 8192 + x.slotb ≤ 8192)
    (hpart : s.core.inPart0 x.dst (x.nslot * x.slotb) = true) (hlo : inTileWindow x.slotb (x.tileVa 0) = true)
    (hhi : inTileWindow x.slotb (x.tileVa (x.elems - 1)) = true) (htrap : s.sid = 7 ∨ s.tilesInTrap x = false) :
    s.tsubEnd t d l count = if s.heldByAcquire || s.channelHeld (x.tag % 8) then s.stall else s.subscribe t d x := by
  have hbanks : ((List.range x.nslot).any fun k => decide ((x.dst + k * x.slotb) % 8192 + x.slotb > 8192)) = false := by
    simpa using hbank
  have hout : ¬ (s.sid.val ≠ 7 ∧ s.tilesInTrap x = true) := by
    rintro ⟨h7, htrue⟩
    rcases htrap with h | h
    · exact h7 (congrArg Fin.val h)
    · simp [h] at htrue
  simp only [State.tsubEnd, hx, hl, hbanks, hpart, hlo, hhi, Bool.false_eq_true, if_false, Bool.not_true, Bool.or_false, if_neg hout]

theorem State.subscribe_channel (s t : State) {d : Reg} (x : Channel) (hd : isQueue d = false) :
    (s.subscribe t d x).core.channels[Fin.ofNat 8 (x.tag % 8)] = x := by
  rw [State.subscribe, done_ok (State.dstCheck_notQueue _ _ hd)]
  simp only [State.advance_channels, State.writeReg_channels, State.countSend_core]
  exact State.channel_setChannel ..

/-! ### TREL and the moves of a tile -/

/-- A channel with slot k released, and, of TREL.st, with its tile f to go back. -/
def Channel.released (x : Channel) (k : Nat) (f : Nat × Nat) (store : Bool) : Channel :=
  { x with full := x.full.filter fun y => y.1 != k, back := if store then x.back ++ [f] else x.back }

section
variable {s t : State} {a b : Reg} {c k : DWord} (h : s.Ready ⟨[a, b], none, false, false⟩ [c, k] t)
include h

/-- TREL of a full slot of a running subscription. -/
theorem State.trel_full (hc : c.toNat < 8) {f : Nat × Nat} (hb : (s.channel c.toNat).busy = true) (hs : (s.channel c.toNat).subscr = true)
    (hk : k.toNat < (s.channel c.toNat).nslot) (hf : ((s.channel c.toNat).full.find? fun f => f.1 == k.toNat) = some f) (store : Bool) :
    s.trel a b store = .next ((t.setChannel c.toNat ((s.channel c.toNat).released k.toNat f store)).advance) := by
  have hlow : bits c 0 3 = c.toNat := (bits_zero ..).trans (Nat.mod_eq_of_lt hc)
  rw [State.trel, issue_go h, Channel.released]
  simp only [arg, List.getD_cons_zero, List.getD_cons_succ, hlow, if_neg (bits_top_zero (w := c) (lo := 3) (len := 61) rfl hc), hb, hs, ge_iff_le,
    Nat.not_le.2 hk, and_false, true_and, if_false, if_true, hf]

theorem State.trel_reserved (hc : 8 ≤ c.toNat) (store : Bool) : s.trel a b store = .next (s.raise (flt 0x02)) := by
  rw [State.trel, issue_go h]
  exact congrArg _ (if_pos ((bits_top_ne_zero_iff c (lo := 3) (len := 61) rfl).2 hc))

end

theorem State.pushTile_ok {s v t : State} {ch : Fin 8} {l : List Byte} {x : Channel} (hx : s.core.channels[ch] = x) (hb : x.busy = true)
    (hh : x.halted = false) (hs : x.subscr = true) (hn : x.next < x.elems) (h0 : x.nslot ≠ 0) (hsaved : s.core.saved = false)
    (hfree : ∀ f ∈ x.full ++ x.back, f.1 ≠ x.next % x.nslot) (hp : s.engPass x (x.tileVa x.next).toNat x.slotb false = some v)
    (hg : v.engGet x.who x.job (x.tileVa x.next).toNat x.slotb = .ok l t) :
    s.pushTile ch.val = (t.spWrite s.cid (x.dst + x.next % x.nslot * x.slotb) l).setChannel ch.val
      { x with full := x.full ++ [(x.next % x.nslot, x.next)], next := x.next + 1, wm := x.next + 1 } := by
  have hch : s.channel ch.val = x := by simpa [State.channel] using hx
  have hfull : (x.full.any fun f => f.1 == x.next % x.nslot) = false := by simpa using fun f g hf => hfree (f, g) (List.mem_append_left _ hf)
  have hback : (x.back.any fun f => f.1 == x.next % x.nslot) = false := by simpa using fun f g hf => hfree (f, g) (List.mem_append_right _ hf)
  simp [State.pushTile, hch, hb, hh, hs, hn, h0, hsaved, hfull, hback, hp, hg]

theorem State.writeTile_ok {s v t : State} {ch : Fin 8} {k : Nat} {f : Nat × Nat} {r : List Byte} {x : Channel}
    (hx : s.core.channels[ch] = x) (hb : x.busy = true) (hh : x.halted = false) (hf : (x.back.find? fun f => f.1 == k) = some f) (hc : s.core.poisoned (x.dst + k * x.slotb) x.slotb = false)
    (hp : s.engPass x (x.tileVa f.2).toNat x.slotb true = some v)
    (hg : v.engPut x.who x.job (x.tileVa f.2).toNat (memBytes s.mem (spHome s.cid (x.dst + k * x.slotb)) x.slotb) = .ok r t) :
    s.writeTile ch.val k = t.setChannel ch.val { x with back := x.back.filter fun y => y.1 != k } := by
  have hch : s.channel ch.val = x := by simpa [State.channel] using hx
  have hbytes : s.spBytes s.cid (x.dst + k * x.slotb) x.slotb = memBytes s.mem (spHome s.cid (x.dst + k * x.slotb)) x.slotb := rfl
  simp [State.writeTile, hch, hb, hh, hf, hc, hp, hbytes, hg]

/-! ### The statement -/

/-- Settles O20: the descriptor passes field by field, the first tile past the start of a range decides whether any meets it, and TREL and the
moves of a tile are what their model says of a slot. -/
theorem tileRings : Obligations.TileRings := by
  unfold Obligations.TileRings
  refine ⟨?_, fun _ _ _ _ _ _ => tilesMeet_iff, ?_, ?_⟩
  · intro d a b s t ea count h
    refine ⟨execTsub_outside h, ?_⟩
    intro o ring size n tag va stride hr ho hbank hpart hpoison hmem hring hring32 hlow hhigh hsize32 hn hn16 htag hva hva32 hstride32 hc hc32 hslots
      hring0 lo hi hlo hlo' hhi hhi' htrap hd
    have hl : memBytes s.mem (spHome s.cid o) 32 = tileDescriptor ring size n tag va stride.toNat := by
      rw [hmem]
      simp only [tileDescriptor, List.append_assoc]
      rfl
    have hx := State.subscription_tileDescriptor s (stride := stride) (count := count) hring (show size < 65536 by omega) (show n < 256 by omega)
      (show tag < 256 by omega) hva
    have hlow' : inTileWindow size (Channel.tileVa (s.ringChannel ring size n tag va stride count) 0) = true := by
      have h0 : Channel.tileVa (s.ringChannel ring size n tag va stride count) 0 = lo := by simp [Channel.tileVa, State.ringChannel, lo]
      simp [inTileWindow, h0, hlo, hlo']
    have hhigh' : inTileWindow size (Channel.tileVa (s.ringChannel ring size n tag va stride count) (count.toNat - 1)) = true := by
      have h1 : Channel.tileVa (s.ringChannel ring size n tag va stride count) (count.toNat - 1) = hi := rfl
      simp [inTileWindow, h1, hhi, hhi']
    have htrap' : s.sid = 7 ∨ s.tilesInTrap (s.ringChannel ring size n tag va stride count) = false := by
      rwa [State.tilesInTrap, bits_eq_extractLsb']
    have hend := State.tsubEnd_checked (t := t) (d := d) hx
      (subReserved_tileDescriptor hring hring32 hlow hhigh hsize32 hn hn16 htag hva hva32 stride.isLt hstride32 hc hc32) hslots hring0 hlow' hhigh' htrap'
    change (_ → execTsub d a b s = _) ∧ (_ → _ → ∃ u, execTsub d a b s = .next u ∧ _)
    rw [execTsub_own h hr ho hbank hpart hpoison, hl, hend]
    refine ⟨fun hstall => ?_, fun hacq hch => ⟨_, congrArg _ (if_neg ?_), ?_⟩⟩
    · exact congrArg _ (if_pos (by simpa [State.ringChannel] using hstall))
    · simpa [hacq, State.ringChannel] using hch
    · intro x
      have hxc : x = s.ringChannel ring size n tag va stride count := State.subscribe_channel s t _ hd
      rw [hxc]
      exact ⟨rfl, rfl, rfl, rfl, rfl, rfl, rfl, rfl, rfl, rfl⟩
  · intro a b s t c k h
    refine ⟨fun hc => ⟨State.trel_reserved h hc false, State.trel_reserved h hc true⟩, ?_⟩
    intro hc x hb hs f hk hf
    exact ⟨State.trel_full h hc hb hs hk hf false, State.trel_full h hc hb hs hk hf true⟩
  · intro ch s x hb hh
    refine ⟨fun hs hn h0 hsaved hfree v l t hp hg => ?_, fun k f hf hc v u t hp hg => ?_⟩
    · exact congrArg Host.Outcome.next (State.pushTile_ok rfl hb hh hs hn h0 hsaved hfree hp hg)
    · exact congrArg Host.Outcome.next (State.writeTile_ok rfl hb hh hf hc hp hg)

end Sys2Proof.Machine
end

section
/-! ## What a completion reads, and what leaves it (04 R141; 05 R178, R179, R184) -/

namespace Sys2Proof.Machine

/-! ### The loop step after counts of messages, tags and channels have changed -/

/-- The code image of a job. -/
def Job.image (j : Job) : Nat × Nat := (j.codebase, j.codelen)

/-- What the completion of an instruction reads: the context, and what LEND is read from. Of the job it is the code image alone. -/
structure State.SameIssue (s t : State) : Prop where
  ctx : t.ctx = s.ctx
  mem : t.mem = s.mem
  hbm : t.hbm = s.hbm
  lines : t.core.lines = s.core.lines
  line : t.me.line = s.me.line
  lend : t.me.lend = s.me.lend
  sid : t.sid = s.sid
  job : t.fib.job = s.fib.job
  images : ∀ k, (t.jobs.get? k).map Job.image = (s.jobs.get? k).map Job.image

namespace State.SameIssue
variable {s t u : State}

theorem refl (s : State) : s.SameIssue s := ⟨rfl, rfl, rfl, rfl, rfl, rfl, rfl, rfl, fun _ => rfl⟩

theorem trans (h : s.SameIssue t) (h' : t.SameIssue u) : s.SameIssue u :=
  ⟨h'.ctx.trans h.ctx, h'.mem.trans h.mem, h'.hbm.trans h.hbm, h'.lines.trans h.lines, h'.line.trans h.line, h'.lend.trans h.lend,
    h'.sid.trans h.sid, h'.job.trans h.job, fun k => (h'.images k).trans (h.images k)⟩

theorem mayFetch (h : s.SameIssue t) (a : Nat) : t.mayFetch a = s.mayFetch a := by
  have himage : t.job?.map Job.image = s.job?.map Job.image := by
    simp only [State.job?, h.job]
    cases s.fib.job with
    | none => rfl
    | some k => exact h.images k
  simp only [State.mayFetch, h.sid]
  cases hs : s.job? <;> cases ht : t.job? <;> simp_all [Job.image]

theorem codeWord (h : s.SameIssue t) : t.codeWord = s.codeWord := by
  funext a
  simp only [State.codeWord, State.heldLines, h.lines, h.line, State.vBytes_congr h.mem h.hbm]

theorem stepCtx (h : s.SameIssue t) (c : Ctx) (a : Addr) : t.stepCtx c a = s.stepCtx c a := by
  have hg : t.groupWord t.codeWord = s.groupWord s.codeWord := by
    funext x
    simp only [State.groupWord, h.codeWord, h.mayFetch]
  have hl : t.loopEnd = s.loopEnd := by
    funext x
    simp only [State.loopEnd, h.lend, hg, h.mayFetch]
  simp only [State.stepCtx, hl]

/-- The completion leaves the same context. -/
theorem advance (h : s.SameIssue t) : t.advance.ctx = s.advance.ctx := by
  rw [State.advance_ctx, State.advance_ctx, h.ctx, h.stepCtx]

end State.SameIssue

/-! A state with other jobs of the same images, or with another core that keeps its slots and lines. -/

theorem State.SameIssue.of_modJob (s : State) (k : Option Nat) {f : Job → Job} (hf : ∀ j, (f j).image = j.image) : s.SameIssue (s.modJob k f) := by
  unfold State.modJob
  split
  · next x n hx =>
    have hn : s.jobs.get? n = some x := hx
    refine ⟨rfl, rfl, rfl, rfl, rfl, rfl, rfl, rfl, fun i => ?_⟩
    simp only [Tbl.get?_set]
    split
    · subst_vars
      simp [hn, hf]
    · rfl
  · exact .refl s

theorem State.SameIssue.of_countSend (s : State) (k : Option Nat) (die : Nat) : s.SameIssue (s.countSend k die) := .of_modJob s k fun _ => rfl
theorem State.SameIssue.of_countConsume (s : State) (k : Option Nat) (die : Nat) : s.SameIssue (s.countConsume k die) := .of_modJob s k fun _ => rfl

theorem State.SameIssue.of_slot (s : State) {c : Core} (hc : c.slots[s.sid].fib.ctx = s.me.fib.ctx) (hj : c.slots[s.sid].fib.job = s.me.fib.job)
    (hl : c.slots[s.sid].line = s.me.line) (he : c.slots[s.sid].lend = s.me.lend) (hlines : c.lines = s.core.lines) :
    s.SameIssue { s with core := c } :=
  ⟨hc, rfl, rfl, hlines, hl, he, rfl, hj, fun _ => rfl⟩

theorem State.SameIssue.of_core (s : State) {c : Core} (hs : c.slots = s.core.slots) (hl : c.lines = s.core.lines) :
    s.SameIssue { s with core := c } := by
  have hme : c.slots[s.sid] = s.me := by rw [hs]; rfl
  exact .of_slot s (by rw [hme]) (by rw [hme]) (by rw [hme]) (by rw [hme]) hl

/-! ### What sends and waits leave of a core -/

@[simp] theorem State.sendRange_core (s : State) (src dst : Nat) (who : Option Who) (after : List Nat) (order : List (Nat × Nat)) (ev : Ev) :
    (s.sendRange src dst who after order ev).core = s.core := by
  unfold State.sendRange
  dsimp only
  split
  · rfl
  · split <;> rfl

@[simp] theorem State.sendArrival_core (s : State) (who : Who) (op : Nat) (j : Job) (g : Nat) : (s.sendArrival who op j g).core = s.core :=
  State.sendRange_core ..

theorem State.SameIssue.of_sendArrival (s : State) (who : Who) (op : Nat) (j : Job) (g : Nat) : s.SameIssue (s.sendArrival who op j g) := by
  unfold State.sendArrival State.send State.sendFrom State.sendRange
  dsimp only
  split
  · exact ⟨rfl, rfl, rfl, rfl, rfl, rfl, rfl, rfl, fun _ => rfl⟩
  · split <;> exact ⟨rfl, rfl, rfl, rfl, rfl, rfl, rfl, rfl, fun _ => rfl⟩

/-- A change of a fibre stands in a slot or in the run queue: nothing else of the core changes. -/
theorem Core.setFibre_places (c : Core) (e : Nat) (f : Fibre) : ∃ l q, c.setFibre e f = { c with slots := l, runq := q } := by
  unfold Core.setFibre
  split
  · exact ⟨_, c.runq, rfl⟩
  · exact ⟨c.slots, _, rfl⟩

theorem State.modFibre_places (s : State) (e : Nat) (f : Fibre → Fibre) :
    ∃ l q, s.modFibre e f = { s with core := { s.core with slots := l, runq := q } } := by
  unfold State.modFibre
  split
  · obtain ⟨l, q, h⟩ := s.core.setFibre_places e (f ‹_›)
    exact ⟨l, q, by rw [h]⟩
  · exact ⟨s.core.slots, s.core.runq, rfl⟩

/-- The fibre in turn keeps its context and its job under a change that keeps them in every fibre. -/
theorem State.SameIssue.of_modFibre (s : State) (e : Nat) {f : Fibre → Fibre} (hc : ∀ x, (f x).ctx = x.ctx) (hj : ∀ x, (f x).job = x.job) :
    s.SameIssue (s.modFibre e f) := by
  unfold State.modFibre
  split
  · next x hx =>
    unfold Core.fibre? at hx
    unfold Core.setFibre
    split at hx
    · next i hi =>
      cases hx
      have hslot : (s.core.slots.set i { s.core.slots[i] with fib := f s.core.slots[i].fib })[s.sid] = s.me ∨
          (s.core.slots.set i { s.core.slots[i] with fib := f s.core.slots[i].fib })[s.sid] = { s.me with fib := f s.me.fib } := by
        by_cases his : i = s.sid
        · subst his
          exact .inr (by simp [State.me])
        · have hne : i.val ≠ s.sid.val := fun h => his (Fin.ext h)
          exact .inl (by simp [State.me, hne])
      rcases hslot with h | h
      · exact .of_slot s (by rw [h]) (by rw [h]) (by rw [h]) (by rw [h]) rfl
      · exact .of_slot s (by rw [h, hc]) (by rw [h, hj]) (by rw [h]) (by rw [h]) rfl
    · next hi =>
      exact .of_core s rfl rfl
  · exact .refl s

/-! ### Tags -/

/-- What tags that are set leave: each member that waited for one changes its wait and sends its arrival, one after the other. -/
theorem State.tagsSet_keeps {p : State → Prop} (hmod : ∀ u e w, p u → p (u.modFibre e fun x => { x with wait := w }))
    (hsend : ∀ u who op j g, p u → p (u.sendArrival who op j g)) {s : State} (hs : p s) (tags : DWord) : p (s.tagsSet tags) := by
  refine List.foldlRecOn (motive := p) _ _ hs fun u hu e _ => ?_
  split
  · exact hu
  · split
    · split
      · exact hsend _ _ _ _ _ (hmod _ _ _ hu)
      · exact hu
    · exact hu

theorem State.SameIssue.of_setTags (s : State) (mask : DWord) : s.SameIssue (s.setTags mask) :=
  State.tagsSet_keeps (p := s.SameIssue) (fun u e _ h => h.trans (.of_modFibre u e (fun _ => rfl) fun _ => rfl))
    (fun u who op j g h => h.trans (.of_sendArrival u who op j g)) (.of_core s (c := { s.core with tags := s.core.tags ||| mask }) rfl rfl) mask

/-- Of the core, only fibres change when tags are set. -/
theorem State.tagsSet_core (s : State) (tags : DWord) :
    (s.tagsSet tags).core.channels = s.core.channels ∧ (s.tagsSet tags).core.tags = s.core.tags := by
  refine State.tagsSet_keeps (p := fun u => u.core.channels = s.core.channels ∧ u.core.tags = s.core.tags) (fun u e w h => ?_)
    (fun u who op j g h => ?_) ⟨rfl, rfl⟩ tags
  · obtain ⟨l, q, hu⟩ := u.modFibre_places e fun x => { x with wait := w }
    rw [hu]
    exact h
  · rwa [State.sendArrival_core]

@[simp] theorem State.setTags_channels (s : State) (mask : DWord) : (s.setTags mask).core.channels = s.core.channels := (State.tagsSet_core _ mask).1
@[simp] theorem State.setTags_tags (s : State) (mask : DWord) : (s.setTags mask).core.tags = s.core.tags ||| mask := (State.tagsSet_core _ mask).2

end Sys2Proof.Machine
end

section
/-! ## A trap leaves the channels of its core (05 R180; 13 R367) -/

namespace Sys2Proof.Machine

theorem State.modCore_channels (s : State) (c : Nat) {f : Core → Core} (hf : ∀ x, (f x).channels = x.channels) :
    (s.modCore c f).core.channels = s.core.channels := by
  unfold State.modCore
  split
  · exact hf _
  · rfl

@[simp] theorem Core.setFibre_channels (c : Core) (e : Nat) (f : Fibre) : (c.setFibre e f).channels = c.channels := by
  obtain ⟨l, q, h⟩ := c.setFibre_places e f
  rw [h]

@[simp] theorem State.modFibre_channels (s : State) (e : Nat) (f : Fibre → Fibre) : (s.modFibre e f).core.channels = s.core.channels := by
  obtain ⟨l, q, h⟩ := s.modFibre_places e f
  rw [h]

@[simp] theorem State.onFibre_channels (s : State) (w : Who) (f : Fibre → Fibre) : (s.onFibre w f).core.channels = s.core.channels :=
  s.modCore_channels _ fun c => by split <;> simp

@[simp] theorem State.dropPost_channels (s : State) (core op : Nat) : (s.dropPost core op).core.channels = s.core.channels :=
  s.modCore_channels _ fun _ => rfl

@[simp] theorem State.cull_channels (s : State) (f : Packet → Bool) : (s.cull f).core.channels = s.core.channels := rfl

/-! ### A change made as another fibre -/

theorem State.borrow_channels (s : State) (e : Nat) (f : Fibre) : (s.borrow e f).core.channels = s.core.channels := by
  unfold State.borrow
  split <;> rfl

theorem State.giveBack_channels (s u : State) (e : Nat) : (s.giveBack u e).core.channels = u.core.channels := by
  unfold State.giveBack
  split <;> rfl

theorem State.asFibre_channels (s : State) (e : Nat) {g : State → State} (hg : ∀ u, (g u).core.channels = u.core.channels) :
    (s.asFibre e g).core.channels = s.core.channels := by
  unfold State.asFibre
  split
  · rw [State.giveBack_channels, hg, State.borrow_channels]
  · rfl

/-! ### The withdrawal of an operation -/

@[simp] theorem State.unpopReg_channels (s : State) (x : Reg × DWord) : (s.unpopReg x).core.channels = s.core.channels := by
  unfold State.unpopReg
  split <;> rfl

@[simp] theorem State.unpop_channels (s : State) (e : Nat) (w : Wait) : (s.unpop e w).core.channels = s.core.channels := by
  unfold State.unpop
  split
  · rfl
  · refine s.asFibre_channels e fun u => ?_
    unfold State.putBack
    induction w.undo with
    | nil => rfl
    | cons x l ih => rw [List.foldr_cons, State.unpopReg_channels, ih]

@[simp] theorem State.eraseOp_channels (s : State) (who : Who) (w : Wait) : (s.eraseOp who w).core.channels = s.core.channels := by
  unfold State.eraseOp
  grind [State.cull_channels, State.modCore_channels, State.onFibre_channels, State.dropPost_channels, State.countConsume_core, Core.modEndpoint]

@[simp] theorem State.withdraw_channels (s : State) (e : Nat) : (s.withdraw e).core.channels = s.core.channels := by
  unfold State.withdraw
  split <;> simp

/-! ### Taking a trap -/

theorem State.forget_channels (s : State) : s.forget.core.channels = s.core.channels := by
  unfold State.forget
  split <;> rfl

theorem State.interruptPg_channels (s : State) : s.interruptPg.core.channels = s.core.channels := by
  unfold State.interruptPg
  split <;> rfl

theorem State.swapOut_channels (s : State) (st reason : Nat) : (s.swapOut st reason).core.channels = s.core.channels := by
  unfold State.swapOut
  split <;> rfl

theorem State.takeAsync_channels (s : State) (t : Trap) (wdrawn : Bool) : (s.takeAsync t wdrawn).core.channels = s.core.channels := by
  unfold State.takeAsync
  dsimp only
  rw [State.swapOut_channels]
  exact (State.interruptPg_channels _).trans s.forget_channels

theorem State.takePend_channels (s : State) (e : Nat) : (s.takePend e).core.channels = s.core.channels := by
  have htake (t : Trap) (rest : List Trap) (wd : Bool) (u : State) :
      ((u.setFib { u.fib with pend := rest }).takeAsync t wd).core.channels = u.core.channels := State.takeAsync_channels ..
  unfold State.takePend
  split
  · rfl
  · split
    · rfl
    · split
      · rfl
      · split
        · rfl
        · split
          · split
            · rfl
            · exact s.asFibre_channels e (htake _ _ _)
          · split
            · exact (State.asFibre_channels _ e (htake _ _ _)).trans (s.withdraw_channels e)
            · rfl

/-- A trap against a fibre other than those of slots 6 and 7. -/
theorem State.raiseAsync_channels {s : State} {e : Nat} {t : Trap} (he : e < 256) : (s.raiseAsync e t).core.channels = s.core.channels := by
  have hpend : (s.asyncTrap e t).core.channels = s.core.channels := s.modFibre_channels e _
  rw [State.raiseAsync, if_neg (by omega), if_neg (by omega)]
  dsimp only
  split
  · split
    · exact hpend
    · exact (State.takePend_channels _ e).trans hpend
  · exact hpend

theorem State.raiseAsync_mem {s : State} {e : Nat} {t : Trap} (he : e < 256) : (s.raiseAsync e t).mem = s.mem := by
  rw [State.raiseAsync, if_neg (by omega), if_neg (by omega)]
  dsimp only
  split
  · split <;> simp
  · simp

theorem State.coreTrap_channels (s : State) (code : Nat) (eaddr eidx : DWord) (extra : List DWord) :
    (s.coreTrap code eaddr eidx extra).core.channels = s.core.channels := by
  unfold State.coreTrap
  split <;> rfl

/-! ### A halt -/

/-- The channel halts at an element; what the trap does besides keeps the channels and memory. -/
theorem State.haltCopy_frame (s : State) (c k code : Nat) (addr : DWord) :
    (s.haltCopy c k code addr).core.channels = (s.setChannel c
        { s.channel c with halted := true, code := code, haltAt := k, above := [], flight := [], pend := [], bad := none }).core.channels ∧
      (s.haltCopy c k code addr).mem = s.mem := by
  unfold State.haltCopy
  dsimp only
  split
  · exact ⟨State.coreTrap_channels .., State.coreTrap_mem ..⟩
  · next he =>
    have he' : (s.channel c).who.ent < 256 := Nat.not_le.1 he
    exact ⟨State.raiseAsync_channels he', State.raiseAsync_mem he'⟩

@[simp] theorem State.haltCopy_mem (s : State) (c k code : Nat) (addr : DWord) : (s.haltCopy c k code addr).mem = s.mem :=
  (s.haltCopy_frame c k code addr).2

theorem State.haltCopy_channel (s : State) (ch : Fin 8) (k code : Nat) (addr : DWord) :
    (s.haltCopy ch.val k code addr).core.channels[ch] =
      { s.core.channels[ch] with halted := true, code := code, haltAt := k, above := [], flight := [], pend := [], bad := none } := by
  have h := (s.haltCopy_frame ch.val k code addr).1
  simp [h, State.setChannel, State.channel]

end Sys2Proof.Machine
end

section
/-! ## STAGE (05 R184; 11 R327) -/

namespace Sys2Proof.Machine

/-! ### What the parts of STAGE leave -/

/-- A fetch changes what stands fetched alone. -/
theorem State.fetchEntry_places (s : State) (k : Nat) : ∃ l, s.fetchEntry k = { s with core := { s.core with staged := l } } := by
  unfold State.fetchEntry
  split
  · exact ⟨s.core.staged, rfl⟩
  · dsimp only
    split
    · exact ⟨_, rfl⟩
    · exact ⟨_, rfl⟩

theorem State.SameIssue.of_fetchEntry (s : State) (k : Nat) : s.SameIssue (s.fetchEntry k) := by
  obtain ⟨l, h⟩ := s.fetchEntry_places k
  rw [h]
  exact .of_core s rfl rfl

theorem State.SameIssue.of_beginCopy (s : State) (p : CopyPlan) (dst src : DWord) (tag : Nat) (rr : Bool) (sched : Option (Nat × Nat)) (pc : Addr) :
    s.SameIssue (s.beginCopy p dst src tag rr sched pc) := by
  have hset (t : State) (c : Nat) (x : Channel) : t.SameIssue (t.setChannel c x) := .of_core t rfl rfl
  have htags : s.SameIssue { s with core := { s.core with tags := s.core.tags &&& ~~~tagMask tag rr } } := .of_core s rfl rfl
  unfold State.beginCopy
  dsimp only
  split
  · exact ((((htags.trans (hset _ _ _)).trans (.of_countSend ..)).trans (hset _ _ _)).trans (.of_countConsume ..)).trans (.of_setTags ..)
  · exact (htags.trans (hset _ _ _)).trans (.of_countSend ..)

/-- The channel of a copy that begins with bytes to move. -/
theorem State.beginCopy_channel {s : State} {p : CopyPlan} {dst src : DWord} {tag : Nat} {rr : Bool} {sched : Option (Nat × Nat)} {pc : Addr}
    (hp : p.layout.bytes ≠ 0) :
    let x := (s.beginCopy p dst src tag rr sched pc).core.channels[Fin.ofNat 8 (tag % 8)]
    x.busy = true ∧ x.tag = tag ∧ x.layout = p.layout ∧ x.src = src.toNat ∧ x.next = 0 := by
  simp [State.beginCopy, hp, State.setChannel, Channel.reset]

/-! ### STAGE in named parts: k is the schedule, l its entry that stands fetched -/

def stageTag (l : List Byte) : Nat := (l.getD 20 0).toNat % 64
def stageDst (l : List Byte) : DWord := leWord (l.take 8)
def stageSrc (l : List Byte) : DWord := leWord ((l.drop 8).take 8)

/-- The checks of an entry. -/
def State.stagePlan (s : State) (l : List Byte) : Except Flt CopyPlan :=
  s.planCopy (stageDst l) (stageSrc l) (leNat ((l.drop 16).take 4) % 2 ^ 25) (stageTag l) false none

/-- The order in which its elements go, where the fabric has one. -/
def State.stageSched (s : State) (k : Nat) (l : List Byte) (p : CopyPlan) : Option (Nat × Nat) :=
  let own := match regionOf s.cid (stageSrc l) with
    | .own _ => true
    | _ => false
  if (own && (padOf s.cid (regionOf s.cid (stageDst l))).isSome && p.layout.conv.isNone) = true then some (k, s.core.pos k) else none

/-- POS of a schedule moves on from pos. -/
def State.countStage (t : State) (k pos : Nat) : State :=
  { t with core := { t.core with stagecnt := putBits t.core.stagecnt (8 * k) 8 (pos + 1),
                                 exhausted := if pos = 255 then t.core.exhausted ||| BitVec.ofNat 8 (2 ^ k) else t.core.exhausted } }

/-- The entry is issued as a copy, and the next one is fetched. -/
def State.stageCopy (s : State) (k : Nat) (l : List Byte) (p : CopyPlan) : State :=
  (s.beginCopy p (stageDst l) (stageSrc l) (stageTag l) false (s.stageSched k l p) s.ctx.pc).countStage k (s.core.pos k)

def State.stageBegin (s : State) (k : Nat) (l : List Byte) (p : CopyPlan) : State := ((s.stageCopy k l p).fetchEntry k).advance

/-- STAGE with its entry. -/
def State.stageEntry (s : State) (k : Nat) (l : List Byte) : State :=
  if entryReserved l then s.raise (flt reservedField)
  else
    match s.stagePlan l with
    | .error f => s.raise f
    | .ok p => if s.heldByAcquire || s.channelHeld (stageTag l % 8) then s.stall else s.stageBegin k l p

section
variable {n : BitVec 6} {s : State} {j : Job} {e : Nat} (h : s.Ready ⟨[], none, false, false⟩ [] s)
  (hjob : s.core.job = some e) (hj : s.jobs.get? e = some j)
include h hjob hj

theorem execStage_end (hpos : s.core.pos (n.toNat % 8) ≥ (j.sched.getD (n.toNat % 8) (0, 0, 0)).2.2) :
    execStage n s = .next (s.raise (flt 0x02)) := by
  rw [execStage, issue_go h]
  simp only [hjob, Option.bind_some, hj, if_pos (Or.inl hpos)]
  rfl

variable (hpos : s.core.pos (n.toNat % 8) < (j.sched.getD (n.toNat % 8) (0, 0, 0)).2.2) (hex : s.core.exhausted.getLsbD (n.toNat % 8) = false)
include hpos hex

theorem execStage_unfetched (hs : s.core.staged.get? (n.toNat % 8) = none) : execStage n s = .next (s.fetchEntry (n.toNat % 8)).stall := by
  have hend : ¬ (s.core.pos (n.toNat % 8) ≥ (j.sched.getD (n.toNat % 8) (0, 0, 0)).2.2 ∨ s.core.exhausted.getLsbD (n.toNat % 8) = true) :=
    not_or.2 ⟨Nat.not_le.2 hpos, by simp [hex]⟩
  rw [execStage, issue_go h]
  simp only [hjob, Option.bind_some, hj, if_neg hend, hs]

theorem execStage_fetched {l : List Byte} (hs : s.core.staged.get? (n.toNat % 8) = some l) (hl : l.length = 24) :
    execStage n s = .next (s.stageEntry (n.toNat % 8) l) := by
  have hend : ¬ (s.core.pos (n.toNat % 8) ≥ (j.sched.getD (n.toNat % 8) (0, 0, 0)).2.2 ∨ s.core.exhausted.getLsbD (n.toNat % 8) = true) :=
    not_or.2 ⟨Nat.not_le.2 hpos, by simp [hex]⟩
  match l with
  | a :: b :: rest =>
    rw [execStage, issue_go h]
    simp only [hjob, Option.bind_some, hj, if_neg hend, hs]
    rfl

end

section
variable {s : State} {k : Nat} {l : List Byte}

theorem State.stageEntry_reserved (hl : entryReserved l = true) : s.stageEntry k l = s.raise (flt 0x02) := if_pos hl

variable {p : CopyPlan} (hl : entryReserved l = false) (hp : s.stagePlan l = .ok p)
include hl hp

theorem State.stageEntry_held (hh : s.heldByAcquire = true ∨ s.channelHeld (stageTag l % 8) = true) : s.stageEntry k l = s.stall := by
  simp only [State.stageEntry, hl, hp]
  simpa using fun h1 h2 => absurd hh (by simp [h1, h2])

theorem State.stageEntry_begins (hh : s.heldByAcquire = false) (hc : s.channelHeld (stageTag l % 8) = false) :
    s.stageEntry k l = s.stageBegin k l p := by
  simp [State.stageEntry, hl, hp, hh, hc]

end

/-! ### The copy that an entry asks for -/

theorem State.SameIssue.of_countStage (t : State) (k pos : Nat) : t.SameIssue (t.countStage k pos) := .of_core t rfl rfl

theorem State.SameIssue.of_stage (s : State) (k : Nat) (l : List Byte) (p : CopyPlan) :
    s.SameIssue ((s.stageCopy k l p).fetchEntry k) :=
  ((State.SameIssue.of_beginCopy ..).trans (.of_countStage ..)).trans (.of_fetchEntry ..)

theorem State.stageBegin_pc (s : State) (k : Nat) (l : List Byte) (p : CopyPlan) : (s.stageBegin k l p).ctx.pc = s.advance.ctx.pc :=
  congrArg Ctx.pc (State.SameIssue.of_stage s k l p).advance

theorem State.stageBegin_mem (s : State) (k : Nat) (l : List Byte) (p : CopyPlan) : (s.stageBegin k l p).mem = s.mem :=
  (State.advance_mem _).trans (State.SameIssue.of_stage s k l p).mem

theorem bits_putBits {n lo len : Nat} (w : BitVec n) (v : Nat) (h : lo + len ≤ n) : bits (putBits w lo len v) lo len = v % 2 ^ len := by
  have hext : (putBits w lo len v).extractLsb' lo len = BitVec.ofNat len v := by
    ext i hi
    have hin : lo + i < n := by omega
    rw [BitVec.getElem_extractLsb', getLsbD_putBits, if_pos ⟨Nat.le_add_right .., Nat.add_lt_add_left hi lo⟩]
    simp [hin, hi, BitVec.getElem_eq_testBit_toNat]
  rw [bits_of_extractLsb' hext, BitVec.toNat_ofNat]

@[simp] theorem State.advance_stagecnt (s : State) : s.advance.core.stagecnt = s.core.stagecnt := by
  rw [State.advance_eq]
  rfl

theorem State.stageBegin_pos {s : State} {k : Nat} {l : List Byte} {p : CopyPlan} (hk : k < 8) (h : s.core.pos k < 255) :
    (s.stageBegin k l p).core.pos k = s.core.pos k + 1 := by
  obtain ⟨x, hx⟩ := (s.stageCopy k l p).fetchEntry_places k
  rw [Core.pos, State.stageBegin, State.advance_stagecnt, hx]
  exact (bits_putBits _ _ (by omega)).trans (Nat.mod_eq_of_lt (by omega))

theorem State.stageBegin_channel {s : State} {k : Nat} {l : List Byte} {p : CopyPlan} (hp : p.layout.bytes ≠ 0) :
    let x := (s.stageBegin k l p).core.channels[Fin.ofNat 8 (stageTag l % 8)]
    x.busy = true ∧ x.tag = stageTag l ∧ x.layout = p.layout ∧ x.src = (stageSrc l).toNat ∧ x.next = 0 := by
  obtain ⟨x, hx⟩ := (s.stageCopy k l p).fetchEntry_places k
  rw [State.stageBegin, State.advance_channels, hx]
  exact State.beginCopy_channel hp

end Sys2Proof.Machine
end

section
/-! ## The steps of a copy channel (05 R178 to R180, R182; 11 R328, R329; 13 R377) -/

namespace Sys2Proof.Machine

/-! ### An element whose bytes pass into the own scratchpad -/

@[simp] theorem State.spWrite_mem (s : State) (core off : Nat) (l : List Byte) : (s.spWrite core off l).mem = memPut s.mem (spHome core off) l :=
  State.modCore_mem ..

/-- Bytes that are not converted go where they are put alone. -/
theorem State.putPad_plain_mem (s : State) (core off : Nat) (w : Option Word) (l : List Byte) (n : Counts) :
    (s.putPad core off w (l, none, n)).mem = memPut s.mem (spHome core off) l := by
  simp only [State.putPad, State.spWrite_mem]

theorem State.markArrival_getD_mem (s : State) (c ch lo hi wm : Nat) : ((s.markArrival c ch lo hi wm).getD s).mem = s.mem := by
  cases h : s.markArrival c ch lo hi wm with
  | none => rfl
  | some t => exact State.markArrival_mem h

/-- The watermark at the side where a copy is written: at a peer, in its arrival record. -/
def State.moveMark (s : State) (r : Region) (c : Nat) (x : Channel) (wm : Nat) : State :=
  match r with
  | .peer p off => (s.markArrival p c off (off + x.layout.dstSpan) (off + (wm - x.dst))).getD s
  | _ => s

@[simp] theorem State.moveMark_mem (s : State) (r : Region) (c : Nat) (x : Channel) (wm : Nat) : (s.moveMark r c x wm).mem = s.mem := by
  unfold State.moveMark
  split
  · exact State.markArrival_getD_mem ..
  · rfl

/-- The channel with element k complete, of a copy that ascends. -/
def Channel.marked (x : Channel) (k : Nat) : Channel :=
  let r := absorb (x.above.length + 1) x.next (k :: x.above)
  { x with next := r.1, above := r.2, wm := if x.enq then x.dst else x.layout.markAfter x.dst r.1 }

theorem State.markElem_up {s : State} {c : Nat} (k : Nat) (h : (s.channel c).down = false) :
    s.markElem c k =
      let x := s.channel c
      let r := if x.receivers.isEmpty then regionOf s.cid (BitVec.ofNat 64 x.dst) else .none
      let t := (s.setChannel c (x.marked k)).moveMark r c x (x.marked k).wm
      match x.bad with
      | some b => if b.1 = (x.marked k).next then t.haltCopy c b.1 b.2.1 b.2.2 else t
      | none => t := by
  have hup : ¬ (s.channel c).down = true := by simp [h]
  exact if_neg hup

@[simp] theorem State.markElem_mem (s : State) (c k : Nat) : (s.markElem c k).mem = s.mem := by
  cases h : (s.channel c).down with
  | true => simp [State.markElem, h]
  | false =>
    rw [State.markElem_up k h]
    dsimp only
    split
    · split
      · rw [State.haltCopy_mem, State.moveMark_mem, State.setChannel_mem]
      · rw [State.moveMark_mem, State.setChannel_mem]
    · rw [State.moveMark_mem, State.setChannel_mem]

/-- An element of a copy that converts nothing, with its destination in the own scratchpad. -/
theorem State.writeElem_own_mem {s : State} {c k off : Nat} {l : List Byte} (hconv : (s.channel c).layout.conv = none)
    (hr : regionOf s.cid (BitVec.ofNat 64 ((s.channel c).dst + ((s.channel c).layout.elem k).2.2.1)) = .own off) :
    (s.writeElem c k l).mem = memPut s.mem (spHome s.cid off) l := by
  simp only [State.writeElem, hr, hconv, State.sourceFree_mem, State.markElem_mem]
  exact State.putPad_plain_mem ..

/-- An element whose source bytes have come. -/
theorem State.copyElem_read {s u : State} {c k : Nat} {l : List Byte} (hgo : (s.channel c).mayGo k = true) (henq : (s.channel c).enq = false)
    (hrec : (s.channel c).receivers = [])
    (hsrc : s.copySource (s.channel c) ((s.channel c).src + ((s.channel c).layout.elem k).1) ((s.channel c).layout.elem k).2.1 = .inl (.ok l u)) :
    s.copyElem c k = u.copyPut s c k l := by
  simp [State.copyElem, hgo, henq, hsrc, hrec]

theorem State.copyElem_waits {s : State} {c k : Nat} (hgo : (s.channel c).mayGo k = false) : s.copyElem c k = s := by
  simp [State.copyElem, hgo]

theorem State.copyPut_passes {s u v : State} {c k : Nat} {l : List Byte}
    (hp : s.engPass (s.channel c) ((s.channel c).dst + ((s.channel c).layout.elem k).2.2.1) ((s.channel c).layout.elem k).2.2.2 true = some v) :
    s.copyPut u c k l = v.writeElem c k l := by
  simp only [State.copyPut, hp]

/-! ### Flits in the order of an entry -/

/-- The flit that the order of its entry names next. -/
def Channel.due (x : Channel) : Nat := if x.down then x.elems - 1 - x.next else x.next

/-- The collision that a flit of a channel meets is reported, each entry's at its sender. -/
def State.meets (s : State) (ch : Fin 8) (collide : Option Nat) : State :=
  match collide with
  | some p =>
    if (p / 8 = s.cid ∧ p % 8 = ch.val) ∨ (s.coreAt (p / 8)).scheduled (p % 8) = false then s
    else (s.collides ch.val (p / 8)).onCore (p / 8) fun t => t.collides (p % 8) s.cid
  | none => s

theorem State.meets_other {s : State} {ch : Fin 8} {p : Nat} (hp : p / 8 ≠ s.cid) (hs : (s.coreAt (p / 8)).scheduled (p % 8) = true) :
    s.meets ch (some p) = (s.collides ch.val (p / 8)).onCore (p / 8) fun t => t.collides (p % 8) s.cid := if_neg (by simp [hp, hs])

theorem execScheduledFlitDelivery_eq {s : State} {ch : Fin 8} {q : Nat × Nat} (hq : s.core.channels[ch].sched = some q) (k : Nat)
    (collide : Option Nat) :
    execScheduledFlitDelivery ch k collide s =
      .next (if !s.core.channels[ch].busy || s.core.channels[ch].halted || k != s.core.channels[ch].due then s
        else (s.meets ch collide).copyElem ch.val k) := by
  simp only [execScheduledFlitDelivery, hq]
  rfl

/-- A flit that is due goes, behind the report of the collision it has met. -/
theorem execScheduledFlitDelivery_due {s : State} {ch : Fin 8} {k : Nat} {q : Nat × Nat} (hq : s.core.channels[ch].sched = some q)
    (hb : s.core.channels[ch].busy = true) (hh : s.core.channels[ch].halted = false) (hk : k = s.core.channels[ch].due) (collide : Option Nat) :
    execScheduledFlitDelivery ch k collide s = .next ((s.meets ch collide).copyElem ch.val k) := by
  simp only [execScheduledFlitDelivery_eq hq, hb, hh, ← hk, bne_self_eq_false]
  rfl

theorem execScheduledFlitDelivery_early {s : State} {ch : Fin 8} {k : Nat} {q : Nat × Nat} (hq : s.core.channels[ch].sched = some q)
    (hk : k ≠ s.core.channels[ch].due) (collide : Option Nat) : execScheduledFlitDelivery ch k collide s = .next s := by
  simp only [execScheduledFlitDelivery_eq hq, bne_iff_ne.2 hk, Bool.or_true, if_true]

/-! ### A collision -/

/-- A trap that no access of the journal has raised joins the end of the queue. -/
theorem Core.pendIn_last {c : Core} {t : Trap} (h : c.journalSeq t = none) (l : List Trap) : c.pendIn t l = l ++ [t] := by
  induction l with
  | nil => rfl
  | cons x l ih => simp only [Core.pendIn, h, ih, List.cons_append]

theorem State.collides_again {s : State} {c other : Nat} (h : (s.channel c).collided = true) : s.collides c other = s := by
  unfold State.collides
  dsimp only
  split
  · exact if_pos h
  · rfl

theorem State.collides_first {s : State} {c other n pos : Nat} (hs : (s.channel c).sched = some (n, pos)) (hother : other < 2 ^ 15)
    (h : (s.channel c).collided = false) (hfull : s.core.trapsFull = false) :
    (s.collides c other).core.traps = s.core.traps ++
      [{ code := 0x10, async := true, arg := 0, ent := none, slot := 0, epc := 0, epg := 0, eaddr := BitVec.ofNat 64 (n % 8 + other * 2 ^ 16),
         eidx := BitVec.ofNat 64 pos, jent := none, chan := false, wdrawn := false, lost := false, extra := [] }] := by
  have hfull' (x : Channel) : (s.setChannel c x).core.trapsFull = false := hfull
  simp only [State.collides, hs, h, State.coreTrap, hfull', Bool.false_eq_true, false_and, if_false, Nat.mod_eq_of_lt hother]
  exact Core.pendIn_last rfl _

/-! ### The end of a copy -/

/-- Every element of the channel is complete, and nothing of it is under way. -/
def Channel.finished (x : Channel) : Bool :=
  x.busy && !x.halted && x.next == x.elems && x.flight.isEmpty && x.pend.isEmpty && x.full.isEmpty && x.back.isEmpty

/-- The channel is free and the tags are set. -/
def State.endCopy (s : State) (ch : Fin 8) : State :=
  let x := s.core.channels[ch]
  let wm := if x.subscr then x.wm else if x.enq then x.dst + x.layout.bytes else x.layout.markAfter x.dst x.elems
  ((((s.endArrival ch.val).setChannel ch.val { x with busy := false, wm := wm }).countConsume x.job s.die).setTags (tagMask x.tag (x.rr && !x.subscr)))

theorem execCopyComplete_eq (s : State) (ch : Fin 8) :
    execCopyComplete ch s = .next (if s.core.channels[ch].finished then
      if s.toHost s.core.channels[ch] && s.core.channels[ch].flush.isNone then s.flushChannel ch.val
      else if s.toHost s.core.channels[ch] && s.core.channels[ch].flush.any (fun f => !f.2) then s
      else s.endCopy ch
    else s) := rfl

theorem State.endCopy_mem (s : State) (ch : Fin 8) : (s.endCopy ch).mem = s.mem := by simp [State.endCopy]

theorem State.endCopy_busy (s : State) (ch : Fin 8) : (s.endCopy ch).core.channels[ch].busy = false := by
  simp [State.endCopy, State.setChannel]

theorem or_and_right_self (a m : DWord) : (a ||| m) &&& m = m := by
  ext i hi
  simp +contextual

theorem State.endCopy_tags (s : State) (ch : Fin 8) :
    (s.endCopy ch).core.tags &&& tagMask s.core.channels[ch].tag (s.core.channels[ch].rr && !s.core.channels[ch].subscr) =
      tagMask s.core.channels[ch].tag (s.core.channels[ch].rr && !s.core.channels[ch].subscr) := by
  rw [State.endCopy, State.setTags_tags]
  exact or_and_right_self ..

/-! ### An element that cannot be done, and refused elements -/

theorem execCopyHalt_running {s : State} {ch : Fin 8} {k code : Nat} {addr : DWord} (hb : s.core.channels[ch].busy = true)
    (hh : s.core.channels[ch].halted = false) (hk : s.core.channels[ch].has k = false) (hlt : k < s.core.channels[ch].elems) :
    execCopyHalt ch k code addr s = .next (s.failElem ch.val k code addr) := by
  simp only [execCopyHalt, hb, hh, hk, hlt]
  rfl

theorem State.channel_val (s : State) (ch : Fin 8) : s.channel ch.val = s.core.channels[ch] := by simp [State.channel]

theorem execCopyResend_back {s : State} {ch : Fin 8} (hb : s.core.channels[ch].busy = true) (hh : s.core.channels[ch].halted = false)
    (h : if s.core.channels[ch].receivers = [] then ∀ c o, regionOf s.cid (BitVec.ofNat 64 s.core.channels[ch].dst) = .peer c o → s.away c = false
      else ∀ c ∈ s.core.channels[ch].receivers, s.away c = false) :
    execCopyResend ch s = .next (s.setChannel ch.val { s.core.channels[ch] with pend := [] }) := by
  simp only [execCopyResend, hb, hh, Bool.not_false, Bool.true_and]
  refine congrArg _ (if_pos ?_)
  rw [Bool.not_eq_true']
  split at h
  · next hr =>
    simp only [hr, List.isEmpty_nil, if_true]
    split
    · exact h _ _ ‹_›
    · rfl
  · next hr =>
    rw [if_neg (by simpa using hr)]
    simpa using h

end Sys2Proof.Machine
end

section
/-! ## Copy channels: the statement (05 R178 to R180, R182, R184) -/

namespace Sys2Proof.Machine

section
variable {s : State} {ch : Fin 8}

/-- A copy that is finished ends, but that one to the host window first waits for its flush read. -/
theorem execCopyComplete_finished (h : s.core.channels[ch].finished = true) :
    (s.toHost s.core.channels[ch] = false ∨ (∃ op, s.core.channels[ch].flush = some (op, true)) →
      execCopyComplete ch s = .next (s.endCopy ch)) ∧
    (s.toHost s.core.channels[ch] = true → s.core.channels[ch].flush = none → execCopyComplete ch s = .next (s.flushChannel ch.val)) ∧
    (∀ op, s.toHost s.core.channels[ch] = true → s.core.channels[ch].flush = some (op, false) → execCopyComplete ch s = .next s) := by
  rw [execCopyComplete_eq, if_pos h]
  refine ⟨fun hend => ?_, fun hhost hf => ?_, fun op hhost hf => ?_⟩
  · rcases hend with hhost | ⟨op, hf⟩
    · rw [hhost]
      rfl
    · rw [hf]
      simp
  · rw [hhost, hf]
    rfl
  · rw [hhost, hf]
    rfl

theorem execCopyComplete_unfinished
    (h : s.core.channels[ch].busy = false ∨ s.core.channels[ch].halted = true ∨ s.core.channels[ch].next ≠ s.core.channels[ch].elems) :
    execCopyComplete ch s = .next s := by
  have hf : s.core.channels[ch].finished = false := by
    rcases h with h | h | h
    · simp only [Channel.finished, h, Bool.false_and]
    · simp only [Channel.finished, h, Bool.not_true, Bool.and_false, Bool.false_and]
    · simp only [Channel.finished, beq_false_of_ne h, Bool.and_false, Bool.false_and]
  rw [execCopyComplete_eq, hf]
  rfl

end

/-- An element that cannot be done halts the channel where the copy has reached it, and is kept where elements below it are under way. -/
theorem State.failElem_cases {s : State} {ch : Fin 8} {k code : Nat} {addr : DWord} :
    ((k = s.core.channels[ch].next ∨ s.core.channels[ch].down = true ∨ s.core.channels[ch].overlap = true) →
      s.failElem ch.val k code addr = s.haltCopy ch.val k code addr) ∧
    (k ≠ s.core.channels[ch].next → s.core.channels[ch].down = false → s.core.channels[ch].overlap = false → s.core.channels[ch].bad = none →
      s.failElem ch.val k code addr = s.setChannel ch.val { s.core.channels[ch] with bad := some (k, code, addr) }) := by
  rw [State.failElem, State.channel_val]
  refine ⟨fun h => if_pos h, fun hk hd ho hb => ?_⟩
  rw [if_neg (by simp only [hk, hd, ho]; decide), if_pos (by rw [hb]; rfl)]

/-- An element of no scheduled entry goes in any order. -/
theorem execCopyElement_free {s : State} {ch : Fin 8} {k : Nat} (h : s.core.channels[ch].sched = none) :
    execCopyElement ch k s = .next (s.copyElem ch.val k) := by
  simp only [execCopyElement, h]
  rfl

/-- Settles O18: STAGE is its entry once that stands fetched, and each step of a channel is what its model says of the channel's fields. -/
theorem copyProgress : Obligations.CopyProgress := by
  unfold Obligations.CopyProgress
  refine ⟨?_, ?_⟩
  · intro n s j e l p h hjob hj k r tag
    refine ⟨execStage_end h hjob hj, fun hpos hex => ⟨execStage_unfetched h hjob hj hpos hex, fun hs hl => ?_⟩⟩
    have hstage := execStage_fetched h hjob hj hpos hex hs hl
    refine ⟨fun hres => hstage.trans (congrArg _ (State.stageEntry_reserved hres)), fun hres hp => ⟨fun hheld => ?_, fun hacq hch => ?_⟩⟩
    · exact hstage.trans (congrArg _ (State.stageEntry_held hres hp hheld))
    · exact ⟨_, hstage.trans (congrArg _ (State.stageEntry_begins hres hp hacq hch)), State.stageBegin_pc .., State.stageBegin_mem ..,
        State.stageBegin_pos (Nat.mod_lt _ (by decide)), State.stageBegin_channel⟩
  · intro ch k s x
    have hx : s.channel ch.val = x := s.channel_val ch
    refine ⟨fun hsched => ⟨fun hgo => ?_, fun l u hgo henq hrec hsrc => ?_⟩, ?_,
      fun n pos other hs hother => ⟨fun hc => ?_, fun hc hfull => ?_⟩, fun hb hh hn hfl hpe hfu hba => ?_, execCopyComplete_unfinished, fun code addr hb hh hk hlt => ?_,
      fun hb hh hback => execCopyResend_back hb hh hback⟩
    · exact (execCopyElement_free hsched).trans (congrArg _ (State.copyElem_waits (hx ▸ hgo)))
    · rw [← hx] at hgo henq hrec hsrc
      refine ⟨(execCopyElement_free hsched).trans (congrArg _ (State.copyElem_read hgo henq hrec hsrc)), fun v off hp _ hr hconv => ?_⟩
      rw [State.copyPut_passes hp]
      exact State.writeElem_own_mem hconv hr
    · intro q hq hb hh due
      exact ⟨fun hk => execScheduledFlitDelivery_due hq hb hh hk none, fun hk => execScheduledFlitDelivery_early hq hk none,
        fun p hk hother hsch => (execScheduledFlitDelivery_due hq hb hh hk (some p)).trans
          (congrArg (fun u => Host.Outcome.next (u.copyElem ch.val k)) (State.meets_other hother hsch))⟩
    · exact State.collides_again (hx ▸ hc)
    · exact State.collides_first (hx ▸ hs) hother (hx ▸ hc) hfull
    · have hfin : x.finished = true := by simp [Channel.finished, hb, hh, hn, hfl, hpe, hfu, hba]
      obtain ⟨hend, hflush, hwait⟩ := execCopyComplete_finished hfin
      exact ⟨fun h => ⟨_, hend h, s.endCopy_mem ch, s.endCopy_busy ch, s.endCopy_tags ch⟩, hflush, hwait⟩
    · have hrun := execCopyHalt_running (code := code) (addr := addr) hb hh hk hlt
      obtain ⟨hhalt, hkeep⟩ := s.failElem_cases (ch := ch) (k := k) (code := code) (addr := addr)
      refine ⟨fun h => hrun.trans (congrArg _ (hhalt h)), fun h hd ho hbad => hrun.trans (congrArg _ (hkeep h hd ho hbad)), ?_⟩
      intro u
      have hu : u.core.channels[ch] = _ := s.haltCopy_channel ch k code addr
      rw [hu]
      exact ⟨rfl, rfl, rfl, s.haltCopy_mem ch.val k code addr⟩

end Sys2Proof.Machine
end

section
/-! ## A copy by a record of partial blocks (05 R175, R176; 11 R337) -/

namespace Sys2Proof.Machine

/-- A copy by a record whose columns are no whole blocks is refused before its plan is made. -/
theorem exec_cpy_partialBlocks {s t : State} {d a n : Reg} {tag : BitVec 6} {rr : Bool} {src len dst : DWord} {r : Shape}
    (h : s.Ready ⟨[a, n, d], none, false, false⟩ [src, len, dst] t) (hr : s.resolve len = .ok r) (hb : isBlock r.fmt = true)
    (hc : r.cols % 32 ≠ 0) : exec (.cpy d a n tag true rr) s = .next (s.raiseMacro (flt reservedField)) := by
  change s.copyInstr false d a n tag.toNat true rr = _
  rw [State.copyInstr, issue_go h]
  simp [State.withShape, arg_one, hr, hb, hc]

/-- A record of one row of 16 elements of block format 7, of which 32 make a block. -/
def halfBlock : Shape := ⟨0, 7, 0, 1, 16, 8⟩

/-- Core 0 with that record in its cache, at slot 0 of the table of its job, and an empty PART0. -/
def halfBlockCached : State :=
  { State.reset with
    core := { State.reset.core with
      job := some 0, part0 := 0,
      shapes := [(0, List.replicate 6 0 ++ [7, 0, 0, 0] ++ leBytes halfBlock.rows 2 ++ leBytes halfBlock.cols 2 ++ [0, 0] ++
        leBytes halfBlock.stride 4 ++ List.replicate 12 0)] }
    jobs := [(0, { probeJob with shapecnt := 1 })] }

theorem halfBlockCached_resolve : halfBlockCached.resolve 0 = .ok halfBlock := rfl

/-- The checks of R175 find the ranges of that copy outside the partition. -/
theorem halfBlockCached_planCopy : halfBlockCached.planCopy 0 0 0 0 false (some halfBlock) = .error (fltAt partitionBounds 0) := rfl

/-- Refutes O17: a record of half a block raises RESERVED_FIELD before the checks of R175, which find PARTITION_BOUNDS. -/
theorem not_copyInstructions : ¬ Obligations.CopyInstructions := by
  unfold Obligations.CopyInstructions
  intro h
  have hready : halfBlockCached.Ready ⟨[.z, .z, .z], none, false, false⟩ [0, 0, 0] halfBlockCached := ⟨by decide, rfl⟩
  obtain ⟨-, -, hfault, -⟩ := h.1 .z .z .z 0 true false halfBlockCached halfBlockCached 0 0 0 (some halfBlock) hready
    (fun hsh => absurd hsh (by decide)) (fun _ => ⟨halfBlock, rfl, halfBlockCached_resolve⟩)
  have hnext := hfault _ halfBlockCached_planCopy
  rw [exec_cpy_partialBlocks hready halfBlockCached_resolve (by decide) (by decide)] at hnext
  have hcodes := congrArg (fun t : State => t.core.traps.map Trap.code) (Host.Outcome.next.inj hnext)
  exact absurd hcodes (by decide)

end Sys2Proof.Machine
end

section
/-! ## A reply to no operation (05 R148; 10 R316) -/

namespace Sys2Proof.Machine

/-- Core 0 with the run-queue entries 5 and 3, listed in that order. -/
def twoWaiting : State := { State.reset with core := { State.reset.core with runq := [(5, Fibre.reset), (3, Fibre.reset)] } }

/-- A reply that ends no wait, no copy's request and no flush read of a fibre still writes the fibre back where it stands. -/
theorem exec_remoteReply_unasked {s : State} {who : Who} {op : Nat} {r : Result} (hc : who.core = s.cid) (hn : who.core < 20000)
    (hw : s.waitOf who.ent op = none) :
    exec (.remoteReply who op r) s = .next ((s.flightReply op r).flushed who.ent op) := by
  change execRemoteReply who op r s = _
  simp only [execRemoteReply, State.onCore, if_neg (Nat.not_le.2 hn), if_pos hc, hw]

/-- Refutes O39: the entry of the fibre that a reply names is written again even where nothing changes, and a written entry takes its
place in the order of the keys; entries listed in another order do not stand as they were. -/
theorem not_replies : ¬ Obligations.Replies := by
  unfold Obligations.Replies
  intro h
  obtain ⟨-, -, hidle, -⟩ := h.1 twoWaiting ⟨0, 3⟩ 0 ⟨0, 0, false, []⟩ rfl (by decide)
  have hnext := (hidle (by decide) (by decide)).1 (by decide)
  rw [exec_remoteReply_unasked rfl (by decide) (by decide)] at hnext
  have hkeys := congrArg (fun t : State => t.core.runq.map Prod.fst) (Host.Outcome.next.inj hnext)
  exact absurd hkeys (by decide)

end Sys2Proof.Machine
end

section
/-! ## The refusal of an addition at its owner (05 R146, R167; 11 R333) -/

namespace Sys2Proof.Machine

/-- An addition to an accumulator cell of core 0 that begins at the odd offset 1. -/
def oddAddition : Access := { noAccess with kind := .accw, addr := 0x010000000001 }

/-- A refusal for a counter names the 8-byte word of its access, whatever the kind but a 16-byte swap. -/
theorem State.refusedAt_counter (s : State) (core off : Nat) (a : Access) (h : a.kind ≠ .cas16) :
    s.refusedAt core off a counterUnderflow = a.addr &&& ~~~(7 : DWord) := by
  simp [State.refusedAt, h]

/-- Refutes O40: the owner checks no alignment, so an addition to an accumulator cell may begin at offset 1; a refusal of it for a
counter would name offset 0, the word, and not the address of the access. -/
theorem not_ownerAccesses : ¬ Obligations.OwnerAccesses := by
  unfold Obligations.OwnerAccesses
  intro h
  obtain ⟨-, -, hsound⟩ :=
    h.1 State.reset ⟨⟨1, 0⟩, 0, .wait, none⟩ oddAddition 1 (by decide) (by decide) (by decide) (by decide) (by decide) (by decide) (by decide)
  obtain ⟨-, -, hnames, -⟩ := hsound (by decide)
  have haddr := hnames counterUnderflow (.inl rfl)
  rw [State.refusedAt_counter _ _ _ _ (by decide)] at haddr
  exact absurd haddr (by decide)

end Sys2Proof.Machine
end

section
/-! ## Dispatch, displacement and dead-letter probes (06 R220; 12 R351 to R353) -/

namespace Sys2Proof.Machine

/-! ### The lowest free slot and the best of a list -/

theorem mem_ordinary_iff (i : Fin 8) : i ∈ ordinary ↔ i.val < 6 := by
  revert i
  decide

theorem pairwise_ordinary : ordinary.Pairwise (· < ·) := by decide

/-- What a search of the ordinary slots finds is the lowest that fits. -/
theorem find?_ordinary {p : Fin 8 → Bool} {i : Fin 8} (h : ordinary.find? p = some i) : p i = true ∧ i.val < 6 ∧ ∀ j < i, p j = false := by
  obtain ⟨hi, front, back, hsplit, hfront⟩ := List.find?_eq_some_iff_append.1 h
  have hi6 : i.val < 6 := (mem_ordinary_iff i).1 (List.mem_of_find?_eq_some h)
  refine ⟨hi, hi6, fun j hj => ?_⟩
  have hmem : j ∈ front ++ i :: back := hsplit ▸ (mem_ordinary_iff j).2 (by omega)
  rcases List.mem_append.1 hmem with hj' | hj'
  · simpa using hfront j hj'
  · have hrest : (i :: back).Pairwise (· < ·) := (List.pairwise_append.1 (hsplit ▸ pairwise_ordinary)).2.1
    rcases List.mem_cons.1 hj' with rfl | hj'
    · exact absurd hj (lt_irrefl _)
    · exact absurd hj (lt_asymm ((List.pairwise_cons.1 hrest).1 j hj'))

/-- The slot that a dispatch fills is free, its swap-out is over, and no lower one is so. -/
theorem Core.freeSlot?_eq_some {c : Core} {now : Nat} {i : Fin 8} (h : c.freeSlot? now = some i) :
    i.val < 6 ∧ c.slots[i].ent = none ∧ c.slots[i].ready ≤ now ∧ ∀ j < i, c.slots[j].ent ≠ none ∨ now < c.slots[j].ready := by
  obtain ⟨hi, hi6, hlow⟩ := find?_ordinary h
  rw [Bool.and_eq_true, Option.isNone_iff_eq_none, decide_eq_true_eq] at hi
  refine ⟨hi6, hi.1, hi.2, fun j hj => ?_⟩
  rcases Bool.and_eq_false_iff.1 (hlow j hj) with h | h
  · exact .inl fun hn => absurd (hn ▸ h) Bool.noConfusion
  · exact .inr (Nat.not_le.1 (of_decide_eq_false h))

/-- The best of a list, taken one against the next, is a member of it. -/
theorem foldl_better_mem {α : Type} (better : α → α → Bool) (l : List α) (x : α) :
    l.foldl (fun a b => if better b a then b else a) x ∈ x :: l :=
  List.foldlRecOn (motive := (· ∈ x :: l)) l _ List.mem_cons_self fun a ha b hb => by
    split
    · exact List.mem_cons_of_mem _ hb
    · exact ha

/-! ### The selection -/

theorem State.mem_readyFibres {s : State} {e : Nat} {f : Fibre} (h : (e, f) ∈ s.readyFibres) :
    (e, f) ∈ s.core.runq ∧ f.ctx.state = 1 ∧ f.readyAt ≤ s.coreCycles := by
  obtain ⟨hrun, hfit⟩ := List.mem_filter.1 h
  simp only [Bool.and_eq_true, decide_eq_true_eq, beq_iff_eq] at hfit
  obtain ⟨⟨⟨⟨⟨-, hstate⟩, hcycle⟩, -⟩, -⟩, -⟩ := hfit
  exact ⟨hrun, hstate, hcycle⟩

/-- The fibre selected is a READY one, of a class that no READY fibre exceeds. -/
theorem State.selected?_eq_some {s : State} {x : Nat × Fibre} (h : s.selected? = some x) :
    x ∈ s.readyFibres ∧ ∀ g ∈ s.readyFibres, g.2.ctx.pri ≤ x.2.ctx.pri := by
  unfold State.selected? at h
  dsimp only at h
  split at h
  · cases h
  · next c hc =>
    split at h
    · cases h
    · next y l hl =>
      obtain rfl := Option.some.inj h
      have hx := foldl_better_mem (fun b a => s.before b.2 a.2) l y
      rw [← hl, List.mem_filter, beq_iff_eq] at hx
      refine ⟨hx.1, fun g hg => ?_⟩
      rw [hx.2]
      exact (List.max?_eq_some_iff.1 hc).2 _ (List.mem_map_of_mem hg)

/-! ### Dispatch and displacement -/

theorem exec_dispatch_none {s : State}
    (h : s.core.halted = true ∨ s.core.saved = true ∨ s.core.freeSlot? s.coreCycles = none ∨ s.selected? = none) :
    exec .dispatch s = .next s := by
  change execDispatch s = _
  unfold execDispatch
  rcases h with h | h | h | h
  · simp [h]
  · simp [h]
  · simp [h]
  · rw [h]
    split
    · contradiction
    · rfl

theorem exec_dispatch_some {s : State} {i : Fin 8} {e : Nat} {f : Fibre} (hh : s.core.halted = false) (hs : s.core.saved = false)
    (hi : s.core.freeSlot? s.coreCycles = some i) (hf : s.selected? = some (e, f)) : exec .dispatch s = .next (s.swapIn i e f) := by
  change execDispatch s = _
  simp [execDispatch, hh, hs, hi, hf]

theorem State.displaced?_eq_none {s : State} (h : ∀ i : Fin 8, i.val < 6 → s.qualifies s.core.slots[i] = false) : s.displaced? = none := by
  have hnone : ordinary.filter (fun i => s.qualifies s.core.slots[i]) = [] :=
    List.filter_eq_nil_iff.2 fun i hi => Bool.eq_false_iff.1 (h i ((mem_ordinary_iff i).1 hi))
  simp only [State.displaced?, hnone]

/-- Only a resident that qualifies is displaced. -/
theorem State.displaced?_qualifies {s : State} {i : Fin 8} (h : s.displaced? = some i) : s.qualifies s.core.slots[i] = true := by
  unfold State.displaced? at h
  dsimp only at h
  split at h
  · cases h
  · next j l hl =>
    obtain rfl := Option.some.inj h
    have hmem := foldl_better_mem (fun b a => decide (s.core.slots[b].fib.ctx.pri < s.core.slots[a].fib.ctx.pri) ||
      (s.core.slots[b].fib.ctx.pri == s.core.slots[a].fib.ctx.pri && decide (s.core.slots[b].ran < s.core.slots[a].ran))) l j
    rw [← hl] at hmem
    exact (List.mem_filter.1 hmem).2

theorem exec_displacement_none {s : State} (h : s.displaced? = none) : exec .displacement s = .next s := by
  change execDisplacement s = _
  simp only [execDisplacement, h]

theorem exec_displacement_some {s : State} {i : Fin 8} (h : s.displaced? = some i) :
    exec .displacement s = .next { ({ s with sid := i } : State).displace with sid := s.sid } := by
  change execDisplacement s = _
  simp only [execDisplacement, h]

/-! ### Dead-letter probes -/

section
variable {s : State} {n : Nat} {x : Nat × Nat × Nat} {w : Wait}

theorem exec_deadLetterProbe_idle (h : s.core.channelWait n = none) : exec (.deadLetterProbe n) s = .next s := by
  change execDeadLetterProbe n s = _
  simp only [execDeadLetterProbe, h]

variable (hx : s.core.channelWait n = some x) (hw : ((s.core.fibre? n).bind fun f => f.wait) = some w)
include hx hw

theorem exec_deadLetterProbe_early
    (h : w.probed = true ∨ w.thr = 0 ∨ s.now ≤ w.since + w.thr ∨ (s.dies[Fin.ofNat 8 s.die]).dlprobe = 0) :
    exec (.deadLetterProbe n) s = .next s := by
  change execDeadLetterProbe n s = _
  simp only [execDeadLetterProbe, hx, hw]
  rw [if_pos h]

theorem exec_deadLetterProbe_leaves (hp : w.probed = false) (ht : w.thr ≠ 0) (hn : w.since + w.thr < s.now)
    (hd : (s.dies[Fin.ofNat 8 s.die]).dlprobe ≠ 0) :
    exec (.deadLetterProbe n) s = .next ((s.modFibre n fun f => { f with wait := some { w with probed := true } }).sendProbe
      { origin := ⟨s.cid, n⟩, op := w.op, path := [], target := 0, ep := 0 } n x) := by
  change execDeadLetterProbe n s = _
  simp only [execDeadLetterProbe, hx, hw]
  rw [if_neg]
  rintro (h | h | h | h)
  · simp [hp] at h
  · exact ht h
  · omega
  · exact hd h

end

/-- A probe that arrives, by the wait of the fibre that owns its entry. -/
theorem exec_deadLetterProbeArrival_idle {s : State} {p : Probe} (h : s.core.channelWait (s.core.endpoint p.ep).ownerIx = none) :
    exec (.deadLetterProbeArrival p) s = .next s := by
  change execDeadLetterProbeArrival p s = _
  simp only [execDeadLetterProbeArrival, h]

theorem exec_deadLetterProbeArrival_waiting {s : State} {p : Probe} {e : Nat} {x : Nat × Nat × Nat} (he : (s.core.endpoint p.ep).ownerIx = e)
    (h : s.core.channelWait e = some x) :
    exec (.deadLetterProbeArrival p) s = .next (if (⟨s.cid, e⟩ : Who) = p.origin then (if x.1 = p.op then s.fileCycle p else s)
      else if p.path.any (fun y => y.1 = ⟨s.cid, e⟩) then s else s.sendProbe p e x) := by
  subst he
  change execDeadLetterProbeArrival p s = _
  simp only [execDeadLetterProbeArrival, h]

/-- Settles O30: the dispatcher by what its two searches find, the probes by the wait of the fibre that they reach. -/
theorem dispatchAndDeadLetters : Obligations.DispatchAndDeadLetters := by
  unfold Obligations.DispatchAndDeadLetters
  refine ⟨fun s => ⟨exec_dispatch_none, fun i e f hh hs hi hf => ?dispatch, fun h => exec_displacement_none (State.displaced?_eq_none h),
      fun i h => ⟨State.displaced?_qualifies h, exec_displacement_some h⟩⟩,
    fun s n x w hx hw => ⟨exec_deadLetterProbe_early hx hw, exec_deadLetterProbe_leaves hx hw⟩,
    fun s n => exec_deadLetterProbe_idle, fun s p => ⟨exec_deadLetterProbeArrival_idle, fun x hx => ?arrival⟩⟩
  case dispatch =>
    obtain ⟨hi6, hent, hready, hlow⟩ := Core.freeSlot?_eq_some hi
    obtain ⟨hmem, hmax⟩ := State.selected?_eq_some hf
    obtain ⟨hrun, hstate, hcycle⟩ := State.mem_readyFibres hmem
    exact ⟨exec_dispatch_some hh hs hi hf, hi6, hent, hready, hlow, hrun, hstate, hcycle, hmax⟩
  case arrival =>
    rw [exec_deadLetterProbeArrival_waiting rfl hx]
    exact ⟨fun ho hop => by rw [if_pos ho, if_pos hop], fun ho hop => by rw [if_pos ho, if_neg hop],
      fun ho hseen => by rw [if_neg ho, if_pos (by simpa only [List.any_eq_true, decide_eq_true_eq] using hseen)],
      fun ho hnew => by
        rw [if_neg ho, if_neg (by simpa only [List.any_eq_true, decide_eq_true_eq, not_exists, not_and] using hnew)]⟩

end Sys2Proof.Machine
end

section
/-! ## What arrives at an endpoint entry (06 R193 to R196, R199, R205) -/

namespace Sys2Proof.Machine

/-! ### Messages -/

theorem exec_messageArrival (s : State) (m : ChanMsg) : exec (.messageArrival m) s =
    .next (if s.liveDiscard m then s else if s.arrivalWaits s.cid m then s.send s.cid (.messageArrival m) else s.arrive m) := rfl

section
variable {s : State} {m : ChanMsg}

theorem exec_messageArrival_discarded (h : s.liveDiscard m = true) : exec (.messageArrival m) s = .next s := by
  rw [exec_messageArrival, if_pos h]

theorem exec_messageArrival_waits (h : s.liveDiscard m = false) (hw : s.arrivalWaits s.cid m = true) :
    exec (.messageArrival m) s = .next (s.send s.cid (.messageArrival m)) := by
  rw [exec_messageArrival, if_neg (Bool.eq_false_iff.1 h), if_pos hw]

theorem exec_messageArrival_arrives (h : s.liveDiscard m = false) (hw : s.arrivalWaits s.cid m = false) :
    exec (.messageArrival m) s = .next (s.arrive m) := by
  rw [exec_messageArrival, if_neg (Bool.eq_false_iff.1 h), if_neg (Bool.eq_false_iff.1 hw)]

theorem State.arrive_refusedOffer (hr : (s.core.endpoint m.dst).refuses m = true) (ho : m.offer = true) :
    s.arrive m = (s.replySender m.who m.op 0x14).countConsume m.job s.die := by
  simp only [State.arrive, hr, ho, if_true]
  rfl

theorem State.arrive_misdelivered {c ep : Nat} (hr : (s.core.endpoint m.dst).refuses m = true) (ho : m.offer = false) (hs : m.src = .core c ep) :
    s.arrive m = (s.countConsume m.job s.die).misdelivery m.job (some (m.who, ep)) m.dst := by
  simp only [State.arrive, hr, ho, hs, if_true, Bool.false_eq_true, if_false]

theorem State.arrive_offer (hr : (s.core.endpoint m.dst).refuses m = false) (ho : m.offer = true) :
    s.arrive m = (({ s with core := s.core.modEndpoint m.dst fun _ =>
      ({ s.core.endpoint m.dst with offers := (s.core.endpoint m.dst).offers ++ [m] } : Endpoint).setLpq } : State).resolveEntry m.dst).wakeOwner
        m.dst := by
  simp only [State.arrive, hr, ho, Bool.false_eq_true, if_true, if_false]

/-- A word from another entry stands in the next slot of a restante entry (R195). -/
theorem State.arrive_word {c ep : Nat} {v : DWord} (hr : (s.core.endpoint m.dst).refuses m = false) (ho : m.offer = false)
    (hs : m.src = .core c ep) (hb : m.body = .word v) :
    let x := s.core.endpoint m.dst
    let t := s.spWrite s.cid (x.slotAt (x.head + x.cnt)) ((leBytes v.toNat 8).take x.slotBytes)
    s.arrive m = (({ t with core := t.core.modEndpoint m.dst fun _ =>
      ({ x with kinds := x.kinds ++ [.word v], cnt := x.cnt + 1 } : Endpoint).setLpq } : State).resolveEntry m.dst).wakeOwner m.dst := by
  simp only [State.arrive, hr, ho, hs, hb, slotWrite, Bool.false_eq_true, if_true, if_false]
  rfl

end

/-! ### Credits -/

/-- One credit more at an entry of the core in turn. -/
def State.credited (s : State) (e : Nat) : State :=
  { s with core := s.core.modEndpoint e fun z => { z with cnt := Min.min (s.core.endpoint e).nslot (z.cnt + 1) } }

theorem Core.endpoint_modEndpoint (c : Core) (e : Nat) (f : Endpoint → Endpoint) (k : Nat) :
    (c.modEndpoint e f).endpoint k = if k = e then f (c.endpoint e) else c.endpoint k := by
  simp only [Core.modEndpoint, Core.endpoint, Tbl.get?_set]
  split <;> rfl

theorem exec_creditReturn_box {k : Nat} (hk : 64 ≤ k) (s : State) : exec (.creditReturn k) s =
    .next ((s.setBox (k - 64) { s.box (k - 64) with credit := (s.box (k - 64)).credit + 1 }).pumpBox (k - 64)) :=
  congrArg Host.Outcome.next (if_neg (Nat.not_lt.2 hk))

section
variable {s : State} {e : Nat} (he : e < 64)
include he

theorem exec_creditReturn_entry : exec (.creditReturn e) s = .next (s.credit e) := congrArg Host.Outcome.next (if_pos he)

theorem exec_creditReturn_unused (hs : ((s.credited e).core.userWait e fun k => sendsOn k == some e) = none)
    (ht : (s.credited e).core.userWait e (isTileOn e) = none) : exec (.creditReturn e) s = .next (s.credited e) := by
  rw [exec_creditReturn_entry he]
  unfold State.credited at hs ht
  simp only [State.credit, hs, ht]
  rfl

/-- The waiting send of an entry of another core takes the credit, and its message leaves (R195). -/
theorem exec_creditReturn_send {n : Nat} {w : Wait} (hs : ((s.credited e).core.userWait e fun k => sendsOn k == some e) = some (n, w))
    (hw : w.ep = e) (hp : (s.core.endpoint e).pkind = 0) :
    let t := s.credited e
    exec (.creditReturn e) s =
      .next ((({ t with core := t.core.modEndpoint e fun z => { z with cnt := z.cnt - 1 } } : State).endSend n w.op 0).sendMessage
        (s.core.endpoint e).peerCore
        { who := ⟨s.cid, n⟩, op := w.op, src := .core s.cid e, dst := (s.core.endpoint e).pep.toNat,
          body := keptBody (w.acc.getD noAccess), offer := false, job := s.jobOf ((t.core.fibre? n).getD Fibre.reset) }) := by
  subst hw
  have hx : (s.credited w.ep).core.endpoint w.ep =
      { s.core.endpoint w.ep with cnt := Min.min (s.core.endpoint w.ep).nslot ((s.core.endpoint w.ep).cnt + 1) } :=
    (Core.endpoint_modEndpoint ..).trans (if_pos rfl)
  have hc : s.credit w.ep = (s.credited w.ep).resumeSend n w := by
    unfold State.credited at hs ⊢
    simp only [State.credit, hs]
  have h3 : ¬ (s.core.endpoint w.ep).pkind = 3 := by rw [hp]; decide
  rw [exec_creditReturn_entry he, hc]
  simp only [State.resumeSend, hx, h3, if_false]
  rfl

end

/-! ### Replies -/

section
variable {s : State} {who : Who} {op : Nat} (hc : who.core = s.cid)
include hc

theorem exec_sendReply (code : Nat) : exec (.sendReply who op code) s = .next (s.endSend who.ent op code) :=
  congrArg Host.Outcome.next (if_pos hc)

theorem exec_sendReply_unasked (h : s.waitOf who.ent op = none) (code : Nat) : exec (.sendReply who op code) s = .next s := by
  rw [exec_sendReply hc]
  simp only [State.endSend, h]

variable {f : Fibre} {w : Wait} (h : s.waitOf who.ent op = some (f, w))
include h

theorem exec_sendReply_refused {code : Nat} (hn : code ≠ 0) : exec (.sendReply who op code) s =
    .next (({ s with core := s.core.modEndpoint w.ep fun x => { x with busyTile := false } } : State).faultWait who.ent w
      (fltAt 0x14 (BitVec.ofNat 64 w.ep))) := by
  rw [exec_sendReply hc]
  simp only [State.endSend, h, if_pos hn]
  rfl

theorem exec_sendReply_sent {u : State} (hk : w.kind = .send w.ep) (hb : (w.acc.getD noAccess).b ≠ 2)
    (hu : s.finishWait who.ent w none 0 = some u) : exec (.sendReply who op 0) s = .next u := by
  rw [exec_sendReply hc]
  simp only [State.endSend, h, hk, hb, isTile, ne_eq, not_true_eq_false, Bool.false_eq_true, if_false, hu, Option.getD_some]

end

/-! ### Time-outs -/

section
variable {s : State} {n : Nat} {f : Fibre} {w : Wait} (hf : s.core.fibre? n = some f) (hw : f.wait = some w)
include hf hw

theorem exec_timeoutExpiry_early (h : ∀ t, w.due = some t → s.now < t) : exec (.timeoutExpiry n) s = .next s := by
  have hbind : ((s.core.fibre? n).bind fun f => f.wait) = some w := by rw [hf]; exact hw
  have hexp : s.expired w.due = false := by
    cases hd : w.due with
    | none => rfl
    | some t => exact decide_eq_false (Nat.not_le.2 (h t hd))
  change Host.Outcome.next (s.expire n) = _
  simp only [State.expire, hbind, hexp, Bool.not_false, Bool.true_or, if_true]

variable {t : Nat} (hd : w.due = some t) (ht : t ≤ s.now) (he : s.expires w = true) (hr : s.recFull ⟨s.cid, n⟩ = false)
include hd ht he hr

/-- A time-out that has come, of an operation that it may end: the recorded expiry, and the end of a SENDX, a RECVX or an ALTT. -/
theorem exec_timeoutExpiry_comes
    (hs : ∀ ep d, w.kind = .sendx ep d → ((s.coreAt (s.core.endpoint w.ep).peerCore).endpoint (s.core.endpoint w.ep).pep.toNat).rsv = false ∨
      (s.core.endpoint w.ep).pkind ≠ 0 ∨ (s.core.endpoint w.ep).mode = true) :
    exec (.timeoutExpiry n) s = .next (
      let u := (s.eraseOp ⟨s.cid, n⟩ w).record n kExpiry (match w.kind with
        | .alt _ _ _ => 0xFF
        | _ => w.ep) (BitVec.ofNat 64 s.now)
      match w.kind with
      | .sendx _ d => ((u.unpop n w).finishWait n w (some d) 1).getD s
      | .recvx _ _ a => (u.finishWait n w (some a) 1).getD s
      | .alt _ d (some b) => (u.finishWait2 n w d 64 b 1).getD s
      | _ => s) := by
  have hbind : ((s.core.fibre? n).bind fun f => f.wait) = some w := by rw [hf]; exact hw
  have hexp : s.expired w.due = true := by rw [hd]; exact decide_eq_true ht
  change Host.Outcome.next (s.expire n) = _
  simp only [State.expire, hbind, hexp, he, hr]
  cases hk : w.kind with
  | sendx ep d =>
    rcases hs ep d hk with h | h | h
    · simp [h]
    · have h0 : ¬ (s.core.endpoint w.ep).pkind = 0#3 := h
      simp [h0]
    · simp [h]
  | _ => rfl

end

/-- Settles O25: each arrival by the branch of its meaning that the entry, the wait or the time-out chooses. -/
theorem channelArrivals : Obligations.ChannelArrivals := by
  unfold Obligations.ChannelArrivals
  intro s m x
  refine ⟨exec_messageArrival_discarded, exec_messageArrival_waits, fun hd hw => ⟨fun hr => ⟨fun ho => ?_, fun c ep ho hs => ?_⟩,
      fun hr => ⟨fun ho => ?_, fun c ep v ho hs hb => ?_⟩⟩, fun ep on => rfl,
    fun e he => ⟨exec_creditReturn_unused he, fun n w => exec_creditReturn_send he⟩, fun k hk => exec_creditReturn_box hk s,
    fun who op code hc => ⟨fun h => exec_sendReply_unasked hc h code, fun f w h => ⟨exec_sendReply_refused hc h, ?_⟩⟩,
    fun n f w hf hw => ⟨exec_timeoutExpiry_early hf hw, fun t hd ht he hr => ⟨fun ep r d u hk hu => ?_, fun ep d u hk hs hu => ?_,
      fun k d b u hk hu => ?_⟩⟩⟩
  · rw [exec_messageArrival_arrives hd hw, State.arrive_refusedOffer hr ho]
  · rw [exec_messageArrival_arrives hd hw, State.arrive_misdelivered hr ho hs]
  · rw [exec_messageArrival_arrives hd hw, State.arrive_offer hr ho]
  · rw [exec_messageArrival_arrives hd hw, State.arrive_word hr ho hs hb]
  · rintro u rfl hk hb hu
    exact exec_sendReply_sent hc h hk hb hu
  · have hu' := exec_timeoutExpiry_comes hf hw hd ht he hr (by simp [hk])
    simp only [hk] at hu'
    rw [hu', show kExpiry = 4 from rfl, hu, Option.getD_some]
  · have hu' := exec_timeoutExpiry_comes hf hw hd ht he hr fun _ _ _ => hs
    simp only [hk] at hu'
    rw [hu', show kExpiry = 4 from rfl, hu, Option.getD_some]
  · have hu' := exec_timeoutExpiry_comes hf hw hd ht he hr (by simp [hk])
    simp only [hk] at hu'
    rw [hu', show kExpiry = 4 from rfl, hu, Option.getD_some]

end Sys2Proof.Machine
end

section
/-! ## Receives, PROBE and choices (06 R194, R196, R199 to R202) -/

namespace Sys2Proof.Machine

/-! ### What a send or receive asks of its entry and of its time-out -/

theorem State.fieldFault_none {s : State} {o : Opnds} (h : s.gateFault o = none) : s.fieldFault o = none := by rw [State.fieldFault, h]; rfl

/-- A send or receive on an entry that may not take it, or is closed, is refused before any operand (R192). -/
theorem chanIssue_refused {s : State} {e : Nat} {op : ChanOp} {o : Opnds} {k : List DWord → State → State} {time : Option Reg}
    (hf : s.fieldFault o = none) (hb : s.entryBad (s.core.endpoint e) (some op) = true ∨ (s.core.endpoint e).closed = true) :
    s.chanIssue o e op time k = .next (s.raiseOf o (fltAt 0x14 (BitVec.ofNat 64 e))) := by
  simp only [State.chanIssue, hf, Bool.or_eq_true]
  rw [if_pos hb]
  rfl

/-- A time-out of 2^40 or more is refused before any operand (R199). -/
theorem chanIssue_badTime {s : State} {e : Nat} {op : ChanOp} {o : Opnds} {k : List DWord → State → State} {r : Reg}
    (hf : s.fieldFault o = none) (hb : s.entryBad (s.core.endpoint e) (some op) = false) (hc : (s.core.endpoint e).closed = false)
    (ht : s.badTime r = true) : s.chanIssue o e op (some r) k = .next (s.raise (flt 0x02)) := by
  simp only [State.chanIssue, hf, hb, hc, Option.any_some, ht, Bool.or_self, Bool.false_eq_true, if_true, if_false]
  rfl

/-- Outside replay a time-out counts from the first issue. -/
theorem State.dueOf_live {s : State} (h : s.recMode s.fib ≠ 2) (e n : Nat) : s.dueOf e (some n) = some (s.me.stall.getD s.now + n) := if_neg h

/-! ### RECV and RECVX -/

/-- The end of a receive that finds a message b: the value in d, a status in its time-out register, and the message consumed. -/
def State.received (s t : State) (d : Reg) (e : Nat) (b : Body) (status : State → State) : State :=
  (((status (t.writeReg d (recvValue (s.core.endpoint e).type b))).advance).takeMessage e).consumed e b (s.jobOf s.fib)

section
variable {s t : State} {d : Reg} {e : BitVec 6} {b : Body}

section
variable (h : s.OnEntry e.toNat .recv ⟨[], some d, false, false⟩ [] t)
include h

theorem exec_recv_poisoned {x : DWord} (hx : t.headBad e.toNat = some x) : exec (.recv d e) s = .next (s.raise (accessFlt 0x0E x)) := by
  change execRecv d e s = _
  rw [execRecv, chanIssue_go h rfl]
  simp only [hx]
  rfl

theorem exec_recv_takes (hx : t.headBad e.toNat = none) (hb : t.headMessage e.toNat = some b)
    (hd : t.dstCheck d (recvValue (s.core.endpoint e.toNat).type b) = .ok) :
    exec (.recv d e) s = .next (s.received t d e.toNat b id) := by
  change execRecv d e s = _
  rw [execRecv, chanIssue_go h rfl]
  simp only [hx, hb, hd]
  rfl

theorem exec_recv_waits (hx : t.headBad e.toNat = none) (hb : t.headMessage e.toNat = none) :
    exec (.recv d e) s = .next ((t.block (t.newWait (.recv e.toNat d) 2 none e.toNat none)).sendNotice e.toNat) := by
  change execRecv d e s = _
  rw [execRecv, chanIssue_go h rfl]
  simp only [hx, hb]

end

variable {a : Reg} {w : DWord} (h : s.OnEntry e.toNat .recv ⟨[a], some d, false, false⟩ [w] t) (ha : s.badTime a = false)
  (hm : s.recMode s.fib ≠ 2) (hx : t.headBad e.toNat = none)
include h ha hm hx

theorem exec_recvx_takes (hb : t.headMessage e.toNat = some b) (hd : t.dstCheck d (recvValue (s.core.endpoint e.toNat).type b) = .ok) :
    exec (.recvx d e a) s = .next (s.received t d e.toNat b fun u => u.writeReg a (if isLast b then 2 else 0)) := by
  change execRecvx d e a s = _
  rw [execRecvx, chanIssue_go h (by simpa using ha)]
  simp only [beq_eq_false_iff_ne.2 hm, Bool.false_and, Bool.false_eq_true, if_false, hx, hb, hd]
  rfl

theorem exec_recvx_none (hb : t.headMessage e.toNat = none) :
    exec (.recvx d e a) s = .next (if s.expired (some (s.me.stall.getD s.now + w.toNat)) then s.timesOut t e.toNat a
      else (t.block (t.newWait (.recvx e.toNat d a) 2 (some (s.me.stall.getD s.now + w.toNat)) e.toNat none)).sendNotice e.toNat) := by
  change execRecvx d e a s = _
  rw [execRecvx, chanIssue_go h (by simpa using ha)]
  simp only [beq_eq_false_iff_ne.2 hm, Bool.false_and, Bool.false_eq_true, if_false, hx, hb, arg_zero, State.dueOf_live hm]

end

theorem State.timesOut_now {s : State} (h : s.recStall = false) (u : State) (e : Nat) (r : Reg) :
    s.timesOut u e r = ((u.record s.self.ent 4 e (BitVec.ofNat 64 s.now)).writeReg r 1).advance := if_neg (Bool.eq_false_iff.1 h)

theorem isLast_iff (b : Body) : isLast b = true ↔ b = .last := by cases b <;> simp [isLast]

theorem exec_recvx_badTime {s : State} {d a : Reg} {e : BitVec 6} (hf : s.fieldFault ⟨[a], some d, false, false⟩ = none)
    (hb : s.entryBad (s.core.endpoint e.toNat) (some .recv) = false) (hc : (s.core.endpoint e.toNat).closed = false) (ha : s.badTime a = true) :
    exec (.recvx d e a) s = .next (s.raise (flt 0x02)) := by
  change execRecvx d e a s = _
  rw [execRecvx, chanIssue_badTime hf hb hc ha]

/-! ### PROBE -/

theorem exec_probe {s : State} {d : Reg} {e : BitVec 6} (h : s.Ready ⟨[], some d, false, false⟩ [] s)
    (hd : (s.clearRsv none).dstCheck d (BitVec.ofNat 64 (s.core.endpoint e.toNat).low) = .ok) :
    exec (.probe d e) s = .next (((s.clearRsv none).writeReg d (BitVec.ofNat 64 (s.core.endpoint e.toNat).low)).advance) := by
  change execProbe d e s = _
  rw [execProbe, issue_go h, done_ok hd]

/-! ### The guards of a choice (R201) -/

/-- The lowest number below n that fits. -/
theorem find?_range_eq_some {n i : Nat} {p : Nat → Bool} (hi : i < n) (hp : p i = true) (hlow : ∀ k < i, p k = false) :
    (List.range n).find? p = some i :=
  List.find?_range_eq_some.2 ⟨hp, List.mem_range.2 hi, fun k hk => by simp [hlow k hk]⟩

/-- The entries that a mask names, in their order. -/
def namedEntries (mask : DWord) : List Nat := (List.range 64).filter fun i => mask.getLsbD i

theorem mem_namedEntries {mask : DWord} {i : Nat} : i ∈ namedEntries mask ↔ i < 64 ∧ mask.getLsbD i = true := by
  rw [namedEntries, List.mem_filter, List.mem_range]

section
variable {s : State} {mask : DWord}

/-- The lowest entry named that the fibre may not receive from. -/
theorem State.maskFault_unfit {i : Nat} (hi : i < 64) (hm : mask.getLsbD i = true) (hbad : s.entryBad (s.core.endpoint i) none ≠ false)
    (hlow : ∀ k < i, mask.getLsbD k = true → s.entryBad (s.core.endpoint k) none = false) :
    s.maskFault mask = some (fltAt 0x14 (BitVec.ofNat 64 i)) := by
  have hfind : (namedEntries mask).find? (fun i => s.entryBad (s.core.endpoint i) none) = some i := by
    rw [namedEntries, List.find?_filter]
    refine find?_range_eq_some hi (by simpa [hm] using hbad) fun k hk => ?_
    cases hb : mask.getLsbD k with
    | false => simp
    | true => simp [hlow k hk hb]
  unfold namedEntries at hfind
  simp only [State.maskFault, hfind]
  rfl

theorem State.maskFault_fit (h : ∀ i < 64, mask.getLsbD i = true → s.entryBad (s.core.endpoint i) none = false) :
    s.maskFault mask = if (namedEntries mask).all (fun i => (s.core.endpoint i).closed) then
      some (fltAt 0x14 (BitVec.ofNat 64 ((namedEntries mask).headD 0)))
      else none := by
  have hfind : (namedEntries mask).find? (fun i => s.entryBad (s.core.endpoint i) none) = none :=
    List.find?_eq_none.2 fun i hi => by
      obtain ⟨hi64, hb⟩ := mem_namedEntries.1 hi
      exact Bool.eq_false_iff.1 (h i hi64 hb)
  unfold namedEntries at hfind ⊢
  simp only [State.maskFault, hfind]
  rfl

/-- A mask of fit entries is taken where one of them is open. -/
theorem State.maskFault_eq_none_iff (h : ∀ i < 64, mask.getLsbD i = true → s.entryBad (s.core.endpoint i) none = false) :
    s.maskFault mask = none ↔ ∃ i < 64, mask.getLsbD i = true ∧ (s.core.endpoint i).closed = false := by
  rw [State.maskFault_fit h]
  constructor
  · intro hn
    split at hn
    · cases hn
    · next hall =>
      obtain ⟨i, hi, hopen⟩ := List.all_eq_false.1 (Bool.eq_false_iff.2 hall)
      obtain ⟨hi64, hb⟩ := mem_namedEntries.1 hi
      exact ⟨i, hi64, hb, Bool.eq_false_iff.2 hopen⟩
  · rintro ⟨i, hi, hb, hopen⟩
    refine if_neg fun hall => ?_
    have hclosed := List.all_eq_true.1 hall i (mem_namedEntries.2 ⟨hi, hb⟩)
    rw [hopen] at hclosed
    cases hclosed

theorem State.maskFault_zero (s : State) : s.maskFault 0 = some (fltAt 0x14 0) := by
  have hnamed : namedEntries 0 = [] := List.filter_eq_nil_iff.2 fun i _ => by simp
  rw [State.maskFault_fit (by simp), hnamed]
  rfl

end

/-! ### ALT and ALTT -/

theorem exec_alt {s t : State} {d a : Reg} {mask : DWord} (h : s.Ready ⟨[a], some d, false, false⟩ [mask] t) :
    exec (.alt d a) s = .next (s.altOn t (queueWords [a] [mask]) d mask none) := issue_go h

theorem exec_altt {s t : State} {d a b : Reg} {mask w : DWord} (h : s.Ready ⟨[a, b], some d, false, false⟩ [mask, w] t)
    (hb : s.badTime b = false) : exec (.altt d a b) s = .next (s.altOn t (queueWords [a, b] [mask, w]) d mask (some (b, w.toNat))) := by
  have hstall : (s.gate ⟨[a, b], some d, false, false⟩).isStall = false := by
    simp only [State.gate, h.1, h.2]
    rfl
  change execAltt d a b s = _
  simp only [execAltt, hb, hstall, Bool.and_false, Bool.false_eq_true, false_and, if_false]
  exact issue_go h

theorem exec_altt_badTime {s : State} {d a b : Reg} (h : s.fieldFault ⟨[a, b], some d, false, false⟩ = none) (hb : s.badTime b = true) :
    exec (.altt d a b) s = .next (s.raise (flt 0x02)) := by
  change execAltt d a b s = _
  simp only [execAltt, h, hb, Option.isNone_none, Bool.and_self, if_true]
  rfl

theorem State.altOn_fault {s : State} {mask : DWord} {f : Flt} (h : s.maskFault mask = some f) (t : State) (ws : List (Reg × DWord)) (d : Reg)
    (b : Option (Reg × Nat)) : s.altOn t ws d mask b = s.raise f := by
  simp only [State.altOn, h]

/-- A choice of a fibre that is neither recorded nor replayed, with a mask that may be taken: u is the state after the pops, its RSV bits clear. -/
structure State.Chooses (s t u : State) (mask : DWord) : Prop where
  mask : s.maskFault mask = none
  live : s.recMode s.fib = 0
  room : s.recStall = false
  replayed : s.replayed s.self.ent = none
  popped : t.replayed s.self.ent = none
  cleared : u.replayed s.self.ent = none
  eq : u = t.clearRsv none

section
variable {s t u : State} {mask : DWord} (h : s.Chooses t u mask) (ws : List (Reg × DWord)) {d : Reg}
include h

theorem State.Chooses.chooseGuard : u.chooseGuard s.self.ent mask = (List.range 64).find? fun i => mask.getLsbD i && (u.core.endpoint i).ready := by
  simp only [State.chooseGuard, h.cleared]

/-- Its time-out counts from the first issue. -/
theorem State.Chooses.dueOf (n : Nat) : s.dueOf 0xFF (some n) = some (s.me.stall.getD s.now + n) := State.dueOf_live (by simp [h.live]) _ _

theorem State.Chooses.replayArrivals : (State.replayArrivals 64 t s.self.ent).clearRsv none = u := by
  rw [h.eq]
  simp only [State.replayArrivals, h.popped]

section
variable {i : Nat} (hi : i < 64) (hm : mask.getLsbD i = true) (hr : (u.core.endpoint i).ready = true)
  (hlow : ∀ j < i, mask.getLsbD j = true → (u.core.endpoint j).ready = false)
include hi hm hr hlow

/-- The lowest ready guard is taken. -/
theorem State.Chooses.guard : u.chooseGuard s.self.ent mask = some i := by
  rw [h.chooseGuard]
  refine find?_range_eq_some hi (by simp [hm, hr]) fun k hk => ?_
  cases hb : mask.getLsbD k with
  | false => rfl
  | true => exact hlow k hk hb

variable (hd : u.dstCheck d (BitVec.ofNat 64 i) = .ok)
include hd

theorem State.Chooses.takes : s.altOn t ws d mask none = ((u.writeReg d (BitVec.ofNat 64 i)).decideAlt s.self.ent i).advance := by
  simp only [State.altOn, h.mask, h.room, h.replayArrivals, h.replayed, h.guard hi hm hr hlow, hd, Bool.false_eq_true, if_false]

theorem State.Chooses.takes_in_time (b : Reg) (n : Nat) :
    s.altOn t ws d mask (some (b, n)) = (((u.writeReg d (BitVec.ofNat 64 i)).writeReg b 0).decideAlt s.self.ent i).advance := by
  simp only [State.altOn, h.mask, h.room, h.replayArrivals, h.replayed, h.guard hi hm hr hlow, hd, Bool.false_eq_true, if_false]

end

section
variable (hn : ∀ i < 64, mask.getLsbD i = true → (u.core.endpoint i).ready = false)
include hn

theorem State.Chooses.noGuard : u.chooseGuard s.self.ent mask = none := by
  rw [h.chooseGuard]
  refine List.find?_eq_none.2 fun i hi => ?_
  cases hb : mask.getLsbD i with
  | false => simp
  | true => simp [hn i (List.mem_range.1 hi) hb]

theorem State.Chooses.waits : s.altOn t ws d mask none = u.block ((u.newWait (.alt mask d none) 3 none 0 none).keeps ws) := by
  simp only [State.altOn, h.mask, h.room, h.replayArrivals, h.replayed, h.noGuard hn, Bool.false_eq_true, if_false]

theorem State.Chooses.waits_until {b : Reg} {n : Nat} (he : s.expired (some (s.me.stall.getD s.now + n)) = false) :
    s.altOn t ws d mask (some (b, n)) = u.block ((u.newWait (.alt mask d (some b)) 3 (some (s.me.stall.getD s.now + n)) 0 none).keeps ws) := by
  simp only [State.altOn, h.mask, h.room, h.replayArrivals, h.replayed, h.noGuard hn, Option.map_some, h.dueOf, he, Bool.false_eq_true, if_false]

theorem State.Chooses.timesOut {b : Reg} {n : Nat} (he : s.expired (some (s.me.stall.getD s.now + n)) = true) (hd : u.dstCheck d 64 = .ok) :
    s.altOn t ws d mask (some (b, n)) =
      (((u.record s.self.ent 4 0xFF (BitVec.ofNat 64 s.now)).writeReg d 64).writeReg b 1).advance := by
  simp only [State.altOn, h.mask, h.room, h.replayArrivals, h.replayed, h.noGuard hn, Option.map_some, h.dueOf, he, State.altTimesOut, hd,
    Bool.false_eq_true, if_true, if_false]
  rfl

end

end

/-- Settles O23: the receives by the head of their entry, the guards by the entries that their mask names, the choices by the guard that
is ready. -/
theorem receivesAndChoices : Obligations.ReceivesAndChoices := by
  unfold Obligations.ReceivesAndChoices
  refine ⟨fun e d a s t w => ?receives, fun s mask => ⟨fun i => State.maskFault_unfit, State.maskFault_eq_none_iff⟩,
    fun d a b s t mask w => ⟨fun f hf => ⟨fun h => ?_, fun h hb => ?_⟩, exec_altt_badTime⟩,
    fun d a b s t mask w hlive hrep hroom => ?choices⟩
  case receives =>
    intro x value notice
    have hvalue (b : Body) : value b = recvValue x.type b := by cases b <;> rfl
    refine ⟨fun h => ⟨fun y hy => exec_recv_poisoned h hy, fun b hx hb hd => ?_, exec_recv_waits h⟩,
      fun h ha hm hx => ⟨fun b hb hd => ?_, fun hb he => ?_, fun hb he hr => ?_⟩,
      exec_recvx_badTime, exec_probe, rfl⟩
    · rw [hvalue] at hd ⊢
      exact exec_recv_takes h hx hb hd
    · rw [hvalue] at hd ⊢
      refine (exec_recvx_takes h ha hm hx hb hd).trans ?_
      simp only [State.received, isLast_iff]
      rfl
    · rw [exec_recvx_none h ha hm hx hb, he, if_neg Bool.false_ne_true]
      rfl
    · rw [exec_recvx_none h ha hm hx hb, he, if_pos rfl, State.timesOut_now hr]
  · rw [exec_alt h, State.altOn_fault hf]
  · rw [exec_altt h hb, State.altOn_fault hf]
  case choices =>
    intro u hcl hpop
    have chooses (hm : s.maskFault mask = none) : s.Chooses t u mask := ⟨hm, hlive, hroom, hrep, hpop, hcl, rfl⟩
    refine ⟨fun h => ⟨?_, fun hm => ⟨fun i hi hb hr hlow hd => ?_, fun hn => ?_⟩⟩,
      fun h hm hb => ⟨fun i hi hi' hr hlow hd => ?_, fun hn => ⟨fun he hd => ?_, fun he => ?_⟩⟩⟩
    · rintro rfl
      rw [exec_alt h, State.altOn_fault s.maskFault_zero]
    · rw [exec_alt h, (chooses hm).takes _ hi hb hr hlow hd]
    · rw [exec_alt h, (chooses hm).waits _ hn]
    · rw [exec_altt h hb, (chooses hm).takes_in_time _ hi hi' hr hlow hd]
    · rw [exec_altt h hb, (chooses hm).timesOut _ hn he hd]
    · rw [exec_altt h hb, (chooses hm).waits_until _ hn he]

end Sys2Proof.Machine
end

section
/-! ## Sends (06 R193 to R196, R199, R206; 07 R240; 15 R410, R422; 16 R441) -/

namespace Sys2Proof.Machine

/-! ### What a send reads, and the kind of its peer -/

theorem State.sendReads_word {s : State} {e : Nat} (h : (s.core.endpoint e).type = 0) (a : Reg) : s.sendReads e a = [a] := by
  rw [State.sendReads, if_neg (by rw [h]; decide)]

theorem State.sendReads_token {s : State} {e : Nat} (h : (s.core.endpoint e).type = 2) (a : Reg) : s.sendReads e a = [] := if_pos h

section
variable {s : State} {e : Nat} (t : State) (ws : List (Reg × DWord)) (b : Body) (tm : Timed)

theorem State.sendOn_entry (h : (s.core.endpoint e).pkind = 0) :
    s.sendOn t ws e b tm = s.sendEntry t ws e b tm (s.dueOf e (tm.map fun p => p.2)) := by
  simp only [State.sendOn, h]
  rfl

theorem State.sendOn_port (h : (s.core.endpoint e).pkind = 1) (hb : isLast b = false) : s.sendOn t ws e b tm =
    s.postTo t ws (sendKind e tm) (s.dueOf e (tm.map fun p => p.2)) e (s.core.endpoint e).peerCore
      ((s.core.endpoint e).pep.toNat % 32) (unitWord b) := by
  simp only [State.sendOn, h, hb]
  rfl

theorem State.sendOn_box (h : (s.core.endpoint e).pkind = 2) :
    s.sendOn t ws e b tm = s.sendBox t ws e b tm (s.dueOf e (tm.map fun p => p.2)) := by
  simp only [State.sendOn, h]
  rfl

theorem State.sendOn_stream (h : (s.core.endpoint e).pkind = 3) :
    s.sendOn t ws e b tm = s.sendStream t ws e b tm (s.dueOf e (tm.map fun p => p.2)) := by
  simp only [State.sendOn, h]
  rfl

theorem State.sendOn_recorder (h : (s.core.endpoint e).pkind = 5) :
    s.sendOn t ws e b tm = s.sendRecorder t ws e b tm (s.dueOf e (tm.map fun p => p.2)) := by
  simp only [State.sendOn, h]
  rfl

end

theorem State.dueOf_none (s : State) (e : Nat) : s.dueOf e none = none := rfl

theorem State.OnEntry.notReplayed {s t : State} {e : Nat} {op : ChanOp} {o : Opnds} {vs : List DWord} (h : s.OnEntry e op o vs t) :
    s.replayed s.self.ent = none := by
  obtain ⟨-, -, -, hr, -⟩ := h
  exact hr

/-! ### The instructions behind the checks of their entry -/

section
variable {s t : State} {e : BitVec 6} {d a : Reg} {v w : DWord}

theorem exec_send_word (hx : (s.core.endpoint e.toNat).type = 0) (h : s.OnEntry e.toNat .send ⟨[a], none, false, false⟩ [v] t) :
    exec (.send e a) s = .next (s.sendOn t (queueWords [a] [v]) e.toNat (.word v) none) := by
  change execSend e a s = _
  rw [execSend, State.sendReads_word hx, chanIssue_go h rfl, hx]
  rfl

theorem exec_send_token (hx : (s.core.endpoint e.toNat).type = 2) (h : s.OnEntry e.toNat .send ⟨[], none, false, false⟩ [] t) :
    exec (.send e a) s = .next (s.sendOn t [] e.toNat .token none) := by
  change execSend e a s = _
  rw [execSend, State.sendReads_token hx, chanIssue_go h rfl, hx]
  rfl

theorem exec_eos (h : s.OnEntry e.toNat .eos ⟨[], none, false, false⟩ [] t) : exec (.eos e) s = .next (s.sendOn t [] e.toNat .last none) := by
  change execEos e s = _
  rw [execEos, chanIssue_go h rfl]

theorem exec_sendx_word (hd : s.badTime d = false) (hx : (s.core.endpoint e.toNat).type = 0)
    (h : s.OnEntry e.toNat .send ⟨[d, a], some d, false, false⟩ [w, v] t) :
    exec (.sendx d e a) s = .next (s.sendOn t (queueWords [d, a] [w, v]) e.toNat (.word v) (some (d, w.toNat))) := by
  change execSendx d e a s = _
  rw [execSendx, State.sendReads_word hx, chanIssue_go h (by simpa using hd), hx]
  rfl

theorem exec_sendx_token (hd : s.badTime d = false) (hx : (s.core.endpoint e.toNat).type = 2)
    (h : s.OnEntry e.toNat .send ⟨[d], some d, false, false⟩ [w] t) :
    exec (.sendx d e a) s = .next (s.sendOn t (queueWords [d] [w]) e.toNat .token (some (d, w.toNat))) := by
  change execSendx d e a s = _
  rw [execSendx, State.sendReads_token hx, chanIssue_go h (by simpa using hd), hx]
  rfl

theorem exec_sendx_badTime (hf : s.fieldFault ⟨d :: s.sendReads e.toNat a, some d, false, false⟩ = none)
    (hb : s.entryBad (s.core.endpoint e.toNat) (some .send) = false) (hc : (s.core.endpoint e.toNat).closed = false) (hd : s.badTime d = true) :
    exec (.sendx d e a) s = .next (s.raise (flt 0x02)) := by
  change execSendx d e a s = _
  rw [execSendx, chanIssue_badTime hf hb hc hd]

end

/-- A SENDX whose time-out has come ends with status 1, its words back in their queues (R199). -/
theorem State.expireOrStall_comes {s : State} {due : Option Nat} (he : s.expired due = true) (hr : s.recStall = false) (t : State)
    (ws : List (Reg × DWord)) (e : Nat) (d : Reg) : s.expireOrStall t ws (.sendx e d) due =
      (((t.putBack ws).record s.self.ent 4 e (BitVec.ofNat 64 s.now)).writeReg d 1).advance :=
  (if_pos he).trans (State.timesOut_now hr _ _ _)

/-! ### To an entry -/

/-- The sender on entry e without one credit, its message counted. -/
def State.spent (t : State) (e : Nat) (b : Body) (die : Nat) : State :=
  ({ t with core := t.core.modEndpoint e fun y => { y with cnt := y.cnt - 1 }, nextId := t.nextId + 1 } : State).countSend (t.messageOn e b).job die

/-- The sender that waits on entry e, its message counted. -/
def State.heldSend (t : State) (ws : List (Reg × DWord)) (e : Nat) (b : Body) (tm : Timed) (due : Option Nat) (die : Nat) : State :=
  (t.block (t.sendWait ws e b tm due (t.messageOn e b).job)).countSend (t.messageOn e b).job die

section
variable {s t : State} {ws : List (Reg × DWord)} {e : Nat} {b : Body} {tm : Timed} {due : Option Nat}

section
variable (hm : (t.core.endpoint e).mode = true)
include hm

theorem State.sendEntry_leaves (hc : (t.core.endpoint e).cnt ≠ 0)
    (hd : s.direct (t.core.endpoint e).peerCore (t.core.endpoint e).pep.toNat = false) :
    s.sendEntry t ws e b tm due = ((t.spent e b s.die).sendMessage (t.core.endpoint e).peerCore (t.messageOn e b)).sendDone e b tm := by
  rw [State.sendEntry, if_pos hm, if_neg hc]
  exact if_neg (Bool.eq_false_iff.1 hd)

theorem State.sendEntry_arrives (hc : (t.core.endpoint e).cnt ≠ 0)
    (hd : s.direct (t.core.endpoint e).peerCore (t.core.endpoint e).pep.toNat = true) :
    s.sendEntry t ws e b tm due = ((t.spent e b s.die).sendDone e b tm).arrive (t.messageOn e b) := by
  rw [State.sendEntry, if_pos hm, if_neg hc]
  exact if_pos hd

theorem State.sendEntry_noCredit (hc : (t.core.endpoint e).cnt = 0) : s.sendEntry t ws e b tm due =
    if s.expired due then s.expireOrStall t ws (sendKind e tm) due else t.heldSend ws e b tm due s.die := by
  rw [State.sendEntry, if_pos hm, if_pos hc]
  rfl

end

variable (hm : (t.core.endpoint e).mode = false)
include hm

theorem State.sendEntry_offers (hd : s.direct (t.core.endpoint e).peerCore (t.core.endpoint e).pep.toNat = false) : s.sendEntry t ws e b tm due =
    if s.expired due = true ∧ (t.core.endpoint e).notice = false then s.expireOrStall t ws (sendKind e tm) due
    else (t.heldSend ws e b tm due s.die).sendMessage (t.core.endpoint e).peerCore (t.messageOn e b) := by
  rw [State.sendEntry, if_neg (Bool.eq_false_iff.1 hm)]
  exact if_neg (Bool.eq_false_iff.1 hd)

variable (hd : s.direct (t.core.endpoint e).peerCore (t.core.endpoint e).pep.toNat = true)
include hd

/-- An offer to an entry of the own core is handed over in this step (R193). -/
theorem State.sendEntry_direct : s.sendEntry t ws e b tm due =
    let dst := (t.core.endpoint e).pep.toNat
    let m := t.messageOn e b
    if (t.core.endpoint dst).refuses m then s.raise (fltAt 0x14 (BitVec.ofNat 64 e))
    else
      match t.core.userWait dst fun k => recvsOn k == some dst with
      | some (n, k) =>
        if (t.core.endpoint dst).offers.isEmpty then
          let u := (t.countSend m.job s.die).sendDone e b tm
          match (u.consumed dst b (u.jobOf ((u.core.fibre? n).getD Fibre.reset))).giveTo n k dst b with
          | some r => r
          | none => (t.heldSend ws e b tm due s.die).arrive m
        else (t.heldSend ws e b tm due s.die).arrive m
      | none =>
        if s.expired due then s.expireOrStall t ws (sendKind e tm) due else (t.heldSend ws e b tm due s.die).arrive m := by
  have hd' : s.direct (t.core.endpoint e).peerCore (t.messageOn e b).dst = true := hd
  rw [State.sendEntry, if_neg (Bool.eq_false_iff.1 hm), if_pos hd']
  rfl

theorem State.sendEntry_refused (hr : (t.core.endpoint (t.core.endpoint e).pep.toNat).refuses (t.messageOn e b) = true) :
    s.sendEntry t ws e b tm due = s.raise (fltAt 0x14 (BitVec.ofNat 64 e)) := by
  rw [State.sendEntry_direct hm hd]
  exact if_pos hr

variable (hr : (t.core.endpoint (t.core.endpoint e).pep.toNat).refuses (t.messageOn e b) = false)
include hr

/-- An offer to the own core that nobody waits for. -/
theorem State.sendEntry_unmet
    (hn : (t.core.userWait (t.core.endpoint e).pep.toNat fun k => recvsOn k == some (t.core.endpoint e).pep.toNat) = none) :
    s.sendEntry t ws e b tm due =
      if s.expired due then s.expireOrStall t ws (sendKind e tm) due else (t.heldSend ws e b tm due s.die).arrive (t.messageOn e b) := by
  rw [State.sendEntry_direct hm hd]
  refine (if_neg (Bool.eq_false_iff.1 hr)).trans ?_
  simp only [hn]

/-- An offer to the own core that a waiting receiver takes at once. -/
theorem State.sendEntry_met {n : Nat} {k : Wait} {r : State}
    (hn : (t.core.userWait (t.core.endpoint e).pep.toNat fun k => recvsOn k == some (t.core.endpoint e).pep.toNat) = some (n, k))
    (ho : (t.core.endpoint (t.core.endpoint e).pep.toNat).offers = [])
    (hg : (let u := (t.countSend (t.messageOn e b).job s.die).sendDone e b tm
      (u.consumed (t.core.endpoint e).pep.toNat b (u.jobOf ((u.core.fibre? n).getD Fibre.reset))).giveTo n k
        (t.core.endpoint e).pep.toNat b) = some r) :
    s.sendEntry t ws e b tm due = r := by
  rw [State.sendEntry_direct hm hd]
  refine (if_neg (Bool.eq_false_iff.1 hr)).trans ?_
  simp only [hn, ho, List.isEmpty_nil, if_true, hg]

end

/-! ### To parties outside, and to ports -/

section
variable {s t : State} {ws : List (Reg × DWord)} {e : Nat} {v : DWord}

theorem State.postTo_away {k : WaitKind} {ep core port : Nat} (hc : core ≠ s.cid) :
    let j := t.jobOf t.fib
    s.postTo t ws k none ep core port v =
      ((t.block (((t.newWait k 7 none ep none).keeps ws).counted j)).countSend j s.die).sendFrom s.cid core (some s.self) s.outstanding
        (some (portPlace core port))
        (.postArrival { who := t.self, op := t.nextId, port := port, word := v, wait := true, job := j, srcDie := s.die }) := by
  simp only [State.postTo, if_neg hc]
  rfl

theorem State.postTo_accepted {ep port : Nat} {u : State} (hout : s.outstanding = [])
    (hu : t.offerPost { who := t.self, op := t.nextId, port := port, word := v, wait := true, job := t.jobOf t.fib, srcDie := s.die } = .accepted u) :
    s.postTo t ws (.send e) none ep s.cid port v = (u.countSend (t.jobOf t.fib) s.die).advance := by
  simp only [State.postTo, if_true, hout, List.isEmpty_nil, Bool.not_true, Bool.false_eq_true, if_false, State.myJob, hu]

/-- Without a time-out, what must wait for earlier accesses stalls. -/
theorem State.expireOrStall_send (s t : State) (ws : List (Reg × DWord)) (e : Nat) (due : Option Nat) :
    s.expireOrStall t ws (.send e) due = s.stall := rfl

theorem not_isEmpty_of_ne_nil {α : Type} {l : List α} (h : l ≠ []) : (!l.isEmpty) = true := by simpa using h

section
variable (hout : s.outstanding ≠ [])
include hout

theorem State.sendBox_held : s.sendBox t ws e (.word v) none none = s.stall := if_pos (not_isEmpty_of_ne_nil hout)
theorem State.sendStream_held : s.sendStream t ws e (.word v) none none = s.stall := if_pos (not_isEmpty_of_ne_nil hout)
theorem State.sendRecorder_held : s.sendRecorder t ws e (.word v) none none = s.stall :=
  if_pos (by rw [not_isEmpty_of_ne_nil hout, Bool.or_true])

end

variable (hout : s.outstanding = [])
include hout

theorem State.sendBox_room (hr : (s.box (bits (s.core.endpoint e).ext 0 8)).outq.length < 256) :
    s.sendBox t ws e (.word v) none none =
      ((((t.countSend (t.jobOf t.fib) s.die).countConsume (t.jobOf t.fib) s.die).outPush (bits (s.core.endpoint e).ext 0 8) 0
        [(v, .word v)])).advance := by
  have hroom : s.boxRoom (bits (s.core.endpoint e).ext 0 8) 1 = true := decide_eq_true hr
  simp only [State.sendBox, hout, List.isEmpty_nil, Bool.not_true, Bool.false_eq_true, if_false, hroom, if_true]
  rfl

theorem State.sendBox_full (hr : 256 ≤ (s.box (bits (s.core.endpoint e).ext 0 8)).outq.length) :
    let j := t.jobOf t.fib
    let u := (t.block (((t.newWait (.send e) 1 none e (some (keepBody (.word v)))).keeps ws).counted j)).countSend j s.die
    s.sendBox t ws e (.word v) none none =
      { u with host := { u.host with waiting := u.host.waiting ++ [(bits (s.core.endpoint e).ext 0 8, ⟨t.self, t.nextId, .wait, j⟩)] } } := by
  have hroom : s.boxRoom (bits (s.core.endpoint e).ext 0 8) 1 = false := decide_eq_false (by omega)
  simp only [State.sendBox, hout, List.isEmpty_nil, Bool.not_true, Bool.false_eq_true, if_false, hroom, State.expired]
  rfl

theorem State.sendStream_credit (hc : (s.core.endpoint e).cnt ≠ 0) :
    s.sendStream t ws e (.word v) none none =
      (((({ t with core := t.core.modEndpoint e fun y => { y with cnt := y.cnt - 1 } } : State).countSend (t.jobOf t.fib) s.die).countConsume
        (t.jobOf t.fib) s.die).outFrame (streamFrame (s.core.endpoint e) (.word v) [])).advance := by
  simp only [State.sendStream, hout, List.isEmpty_nil, Bool.not_true, Bool.false_eq_true, if_false, Nat.pos_of_ne_zero hc, if_true]
  rfl

theorem State.sendStream_noCredit (hc : (s.core.endpoint e).cnt = 0) :
    s.sendStream t ws e (.word v) none none =
      (t.block (((t.newWait (.send e) 1 none e (some (keepBody (.word v)))).keeps ws).counted (t.jobOf t.fib))).countSend (t.jobOf t.fib) s.die := by
  simp only [State.sendStream, hout, List.isEmpty_nil, Bool.not_true, Bool.false_eq_true, if_false, hc, gt_iff_lt, lt_irrefl, State.expired]
  rfl

theorem State.sendRecorder_live (hr : s.recStall = false) (hp : s.replayed s.self.ent = none) :
    s.sendRecorder t ws e (.word v) none none =
      ((((t.countSend (t.jobOf t.fib) s.die).countConsume (t.jobOf t.fib) s.die).record s.self.ent 7 e v)).advance := by
  simp only [State.sendRecorder, hout, hr, hp, List.isEmpty_nil, Bool.not_true, Bool.or_self, Bool.false_eq_true, if_false]
  rfl

end

/-! ### The statement -/

/-- Settles O22: each send by the kind of its peer, towards an entry by its mode, its credits and who waits there. -/
theorem sends : Obligations.Sends := by
  unfold Obligations.Sends
  refine ⟨?toEntry, ?outside⟩
  case toEntry =>
    intro e d a s t v w x y z j m paid waits closes sends
    -- What sendEntry can do, in the words of the statement; then without a time-out and with one.
    have sent {i : Instr} {b : Body} {ws : List (Reg × DWord)} {tm : Timed} {due : Option Nat} {fin : State → State} {wait : State} {late : Bool}
        {gone : State} (hi : exec i s = .next (s.sendEntry t ws e.toNat b tm due)) (hfin : ∀ u : State, u.sendDone e.toNat b tm = fin u)
        (hwait : t.heldSend ws e.toNat b tm due s.die = wait) (hlate : s.expired due = late)
        (hgone : late = true → s.expireOrStall t ws (sendKind e.toNat tm) due = gone) : sends i b fin wait late gone := by
      subst hwait
      have ends {α : State} : (if s.expired due then s.expireOrStall t ws (sendKind e.toNat tm) due else α) = if late then gone else α := by
        subst hlate
        split
        · next h => exact hgone h
        · rfl
      refine ⟨fun hm hc => ⟨fun hd => ?_, fun hd => ?_⟩, fun hm hc => ?_, fun hm hd => ?_, fun hm hd => ⟨fun hr => ?_, fun hr hn => ?_,
        fun n k r hr hn ho hg => ?_⟩⟩
      · rw [hi, State.sendEntry_leaves hm hc hd, hfin]
        rfl
      · rw [hi, State.sendEntry_arrives hm hc hd, hfin]
        rfl
      · rw [hi, State.sendEntry_noCredit hm hc, ends]
      · rw [hi, State.sendEntry_offers hm hd]
        subst hlate
        by_cases hl : s.expired due = true ∧ y.notice = false
        · rw [if_pos hl, hgone hl.1, hl.1, hl.2]
          rfl
        · rw [if_neg hl, if_neg (by simpa using hl)]
          rfl
      · rw [hi, State.sendEntry_refused hm hd hr]
      · rw [hi, State.sendEntry_unmet hm hd hr hn, ends]
        rfl
      · rw [hi, State.sendEntry_met hm hd hr hn ho (by simp only [hfin]; exact hg)]
    have plainSent {i : Instr} {b : Body} {ws : List (Reg × DWord)} {fin : State → State} (hi : exec i s = .next (s.sendOn t ws e.toNat b none))
        (hp : x.pkind = 0) (hfin : ∀ u : State, u.sendDone e.toNat b none = fin u) : sends i b fin (waits ws (.send e.toNat) none b) false s := by
      rw [State.sendOn_entry _ _ _ _ hp, Option.map_none, State.dueOf_none] at hi
      exact sent (fin := fin) (late := false) (gone := s) hi hfin (rfl : _ = waits ws (.send e.toNat) none b) rfl nofun
    refine ⟨fun hp hx h => plainSent (fin := State.advance) (exec_send_word hx h) hp fun _ => rfl,
      fun hp hx h => plainSent (fin := State.advance) (exec_send_token hx h) hp fun _ => rfl,
      fun hp h => plainSent (fin := fun u => (closes u).advance) (exec_eos h) hp fun _ => rfl, ?timed, exec_sendx_badTime⟩
    intro due timed hd hm hr hp
    have hdue : s.dueOf e.toNat (some w.toNat) = due := State.dueOf_live hm _ _
    have timedSent {b : Body} {ws : List (Reg × DWord)} (hi : exec (.sendx d e a) s = .next (s.sendOn t ws e.toNat b (some (d, w.toNat))))
        (hb : isLast b = false) : sends (.sendx d e a) b (fun u => (u.writeReg d 0).advance) (waits ws (.sendx e.toNat d) due b) (s.expired due)
          (((t.putBack ws).record s.self.ent 4 e.toNat (BitVec.ofNat 64 s.now)).writeReg d 1).advance := by
      rw [State.sendOn_entry _ _ _ _ hp, Option.map_some, hdue] at hi
      refine sent (fin := fun u => (u.writeReg d 0).advance) hi (fun u => ?done) (?held : _ = waits ws (.sendx e.toNat d) due b) rfl
        fun hl => State.expireOrStall_comes hl hr _ _ _ _
      case done =>
        rw [State.sendDone, hb]
        rfl
      case held => rfl
    exact ⟨fun hx h => timedSent (exec_sendx_word hd hx h) rfl, fun hx h => timedSent (exec_sendx_token hd hx h) rfl⟩
  case outside =>
    intro e a s t v x j u ws hx h
    have hi := exec_send_word hx h
    have hbox : bits x.ext 0 8 = x.ext.toNat % 256 := bits_zero _ _
    refine ⟨fun hp hc => ?_, fun hout => ⟨fun hp hc u hu => ?_, fun hp hl => ?_, fun hp hl => ?_, fun hp hc => ?_, fun hp hc => ?_,
        fun hp hr => ?_⟩,
      fun hout hp => ?_⟩
    · rw [hi, State.sendOn_port _ _ _ _ hp rfl]
      exact congrArg _ (State.postTo_away hc)
    · rw [hi, State.sendOn_port _ _ _ _ hp rfl, hc]
      exact congrArg _ (State.postTo_accepted hout hu)
    · rw [hi, State.sendOn_box _ _ _ _ hp]
      rw [← hbox] at hl ⊢
      exact congrArg _ (State.sendBox_room hout hl)
    · rw [hi, State.sendOn_box _ _ _ _ hp]
      rw [← hbox] at hl ⊢
      exact congrArg _ (State.sendBox_full hout hl)
    · rw [hi, State.sendOn_stream _ _ _ _ hp]
      exact congrArg _ (State.sendStream_credit hout hc)
    · rw [hi, State.sendOn_stream _ _ _ _ hp]
      exact congrArg _ (State.sendStream_noCredit hout hc)
    · rw [hi, State.sendOn_recorder _ _ _ _ hp]
      exact congrArg _ (State.sendRecorder_live hout hr h.notReplayed)
    · rw [hi]
      rcases hp with hp | hp | hp
      · rw [State.sendOn_box _ _ _ _ hp]
        exact congrArg _ (State.sendBox_held hout)
      · rw [State.sendOn_stream _ _ _ _ hp]
        exact congrArg _ (State.sendStream_held hout)
      · rw [State.sendOn_recorder _ _ _ _ hp]
        exact congrArg _ (State.sendRecorder_held hout)

end Sys2Proof.Machine
end

section
/-! ## The checks of an entry, and its binding (06 R192, R203, R204) -/

namespace Sys2Proof.Machine

/-- What of R192 is wrong with an entry for one operation, by Table 6-2's direction and type. -/
def ChanOp.Misfits (x : Endpoint) : ChanOp → Prop
  | .send => x.dir = true ∨ x.type = 1
  | .eos => x.dir = true
  | .sendTile => x.dir = true ∨ x.type ≠ 1
  | .recv => x.dir = false ∨ x.type = 1
  | .recvTile => x.dir = false ∨ x.type ≠ 1

theorem State.entryBad_iff (s : State) (x : Endpoint) (op : ChanOp) : s.entryBad x (some op) = true ↔
    x.valid = false ∨ s.sid = 6 ∨ (s.sid ≠ 7 ∧ x.ownerIx ≠ s.self.ent) ∨ op.Misfits x := by
  have h6 : s.sid.val = 6 ↔ s.sid = 6 := ⟨fun h => Fin.ext h, congrArg Fin.val⟩
  have h7 : s.sid.val = 7 ↔ s.sid = 7 := ⟨fun h => Fin.ext h, congrArg Fin.val⟩
  cases op <;> simp only [State.entryBad, ChanOp.Misfits, Bool.or_eq_true, Bool.and_eq_true, Bool.not_eq_true', beq_iff_eq, bne_iff_ne,
    ne_eq, h6, h7, or_assoc]

/-- A channel instruction on an entry that fails a check of R192 raises CHANNEL_STATE with the entry's number. -/
theorem chanIssue_misfit {s : State} {e : Nat} {op : ChanOp} {o : Opnds} {k : List DWord → State → State} {time : Option Reg}
    (hf : s.fieldFault o = none)
    (hb : ((s.core.endpoint e).valid = false ∨ (s.core.endpoint e).closed = true ∨ s.sid = 6 ∨
      (s.sid ≠ 7 ∧ (s.core.endpoint e).ownerIx ≠ s.self.ent)) ∨ op.Misfits (s.core.endpoint e)) :
    s.chanIssue o e op time k = .next (s.raiseOf o (fltAt 0x14 (BitVec.ofNat 64 e))) :=
  by
  refine chanIssue_refused hf ?_
  rw [State.entryBad_iff]
  obtain (hv | hc | h6 | ho) | hm := hb
  · exact .inl (.inl hv)
  · exact .inr hc
  · exact .inl (.inr (.inl h6))
  · exact .inl (.inr (.inr (.inl ho)))
  · exact .inl (.inr (.inr (.inr hm)))

theorem State.pumpBox_core (s : State) (m : Nat) : (s.pumpBox m).core = s.core := by
  have hr : ∀ k, (s.readBoxFifo k).2.core = s.core := fun k => by
    unfold State.readBoxFifo
    split <;> rfl
  unfold State.pumpBox
  dsimp only
  split
  case h_1 =>
    split
    · rfl
    · split
      · exact hr _
      · exact State.sendRange_core ..
  case h_2 => rfl

theorem State.unbindExt_core (s : State) (c e : Nat) (x : Endpoint) : (s.unbindExt c e x).core = s.core := by
  unfold State.unbindExt
  (repeat' split) <;> rfl

theorem State.bindExt_core (s : State) (c e : Nat) (x : Endpoint) : (s.bindExt c e x).core = s.core := by
  unfold State.bindExt
  split
  · rfl
  split
  · dsimp only
    split <;> rfl
  split
  · rfl
  split
  · exact foldl_keeps (fun u : State => u.core) _ (fun u _ => u.pumpBox_core _) _ _
  · rfl

/-- Writing an entry changes that entry and no other. -/
theorem State.endpoint_putEntry (s : State) (e : Nat) (x : Endpoint) (k : Nat) :
    (s.putEntry e x).core.endpoint k = if k = e then x else s.core.endpoint k := by
  simp only [State.putEntry, State.bindExt_core, State.unbindExt_core, Core.endpoint, Tbl.get?_set]
  split <;> rfl

theorem State.endpoint_advance (s : State) (k : Nat) : s.advance.core.endpoint k = s.core.endpoint k := by
  rw [State.advance_eq]
  rfl

/-- An entry that is written as the instruction completes holds what was written, and no byte of memory changes. -/
theorem State.putEntry_advance_holds (t : State) (e : Nat) (x : Endpoint) :
    (t.putEntry e x).advance.core.endpoint e = x ∧ (t.putEntry e x).advance.mem = t.mem := by
  simp [State.endpoint_advance, State.endpoint_putEntry]

section Unbind
variable {s : State} {e : BitVec 6}

theorem exec_unbind_busy (h : s.Ready ⟨[], none, true, false⟩ [] s) (hi : (s.core.endpoint e.toNat).idle = false) :
    exec (.unbind e) s = .next (s.raise (fltAt 0x14 (BitVec.ofNat 64 e.toNat))) := by
  change execUnbind e s = _
  rw [execUnbind, issue_go h, hi]
  rfl

/-- An idle entry becomes invalid, and the others stay (R203). -/
theorem exec_unbind_idle (h : s.Ready ⟨[], none, true, false⟩ [] s) (hi : (s.core.endpoint e.toNat).idle = true) :
    ∃ u, exec (.unbind e) s = .next u ∧ u.core.endpoint e.toNat = Endpoint.reset ∧
      (∀ k, k ≠ e.toNat → u.core.endpoint k = s.core.endpoint k) ∧ u.mem = s.mem := by
  have hrun : exec (.unbind e) s = _ := issue_go h
  rw [hi] at hrun
  refine ⟨_, hrun, ?_, fun k hk => ?_, ?_⟩
  · rw [Bool.not_true, if_neg Bool.false_ne_true, State.endpoint_advance]
    simp only [Core.endpoint, Tbl.get?_erase, if_true, Option.getD_none]
  · rw [Bool.not_true, if_neg Bool.false_ne_true, State.endpoint_advance]
    have hput := s.endpoint_putEntry e.toNat Endpoint.reset k
    rw [if_neg hk] at hput
    simpa only [Core.endpoint, Tbl.get?_erase, if_neg hk] using hput
  · simp

end Unbind

section Chmode
variable {s t : State} {e : BitVec 6} {a : Reg} {v : DWord}

/-- The entry with the mode and the buffer of a mode word (Table 6-5). -/
def Endpoint.withMode (x : Endpoint) (v : DWord) : Endpoint :=
  { x with mode := v.getLsbD 0, nslotm1 := v.extractLsb' 1 4, buf := v.extractLsb' 5 16, slotb := v.extractLsb' 21 14 }

theorem exec_chmode (h : s.Ready ⟨[a], none, true, false⟩ [v] t) :
    exec (.chmode e a) s = .next (
      if bits v 35 29 ≠ 0 ∨ badSlotb ((s.core.endpoint e.toNat).withMode v) = true then s.raise (flt 0x02)
      else if !(s.core.endpoint e.toNat).valid || !(s.core.endpoint e.toNat).idle then
        s.raise (fltAt 0x14 (BitVec.ofNat 64 e.toNat))
      else match s.bufferFault ((s.core.endpoint e.toNat).withMode v) with
        | some f => s.raise f
        | none => (t.putEntry e.toNat { ((s.core.endpoint e.toNat).withMode v).fresh with
            orphan := (s.core.endpoint e.toNat).orphan }).advance) := by
  have hb : ∀ lo len, BitVec.ofNat len (bits v lo len) = v.extractLsb' lo len := fun _ _ => by
    rw [bits_eq_extractLsb', BitVec.ofNat_toNat, BitVec.setWidth_eq]
  change execChmode e a s = _
  rw [execChmode, issue_go h]
  simp only [arg_zero, hb]
  rfl

theorem exec_chmode_reserved (h : s.Ready ⟨[a], none, true, false⟩ [v] t)
    (hr : 2 ^ 35 ≤ v.toNat ∨ badSlotb ((s.core.endpoint e.toNat).withMode v) = true) :
    exec (.chmode e a) s = .next (s.raise (flt 0x02)) := by
  rw [exec_chmode h, if_pos (hr.imp_left (bits_top_ne_zero_iff v rfl).2)]

theorem exec_chmode_busy (h : s.Ready ⟨[a], none, true, false⟩ [v] t) (hv : v.toNat < 2 ^ 35)
    (hs : badSlotb ((s.core.endpoint e.toNat).withMode v) = false)
    (hb : (s.core.endpoint e.toNat).valid = false ∨ (s.core.endpoint e.toNat).idle = false) :
    exec (.chmode e a) s = .next (s.raise (fltAt 0x14 (BitVec.ofNat 64 e.toNat))) := by
  rw [exec_chmode h, if_neg (not_or.2 ⟨bits_top_zero rfl hv, Bool.not_eq_true _ ▸ hs⟩), if_pos (by simpa using hb)]

theorem exec_chmode_idle (h : s.Ready ⟨[a], none, true, false⟩ [v] t) (hv : v.toNat < 2 ^ 35)
    (hs : badSlotb ((s.core.endpoint e.toNat).withMode v) = false)
    (hx : (s.core.endpoint e.toNat).valid = true) (hi : (s.core.endpoint e.toNat).idle = true) :
    exec (.chmode e a) s = .next (match s.bufferFault ((s.core.endpoint e.toNat).withMode v) with
      | some f => s.raise f
      | none => (t.putEntry e.toNat { ((s.core.endpoint e.toNat).withMode v).fresh with
          orphan := (s.core.endpoint e.toNat).orphan }).advance) := by
  rw [exec_chmode h, if_neg (not_or.2 ⟨bits_top_zero rfl hv, Bool.not_eq_true _ ▸ hs⟩), if_neg (by simp [hx, hi])]

end Chmode

theorem mem_eachSlot : ∀ i : Fin 8, i ∈ eachSlot := by decide

section Bind
variable {s t : State} {e : BitVec 6} {a : Reg} {v : DWord}

/-- The image's bytes at an offset of the own scratchpad. -/
def State.imageAt (s : State) (off : Nat) : List Byte := memBytes s.mem (spHome s.cid off) 16

theorem exec_bind_badAddress {f : Flt} (h : s.Ready ⟨[a], none, true, false⟩ [v] t) (hc : s.checkOwn v 16 8 = .error f) :
    exec (.bind e a) s = .next (s.raise f) := by
  change execBind e a s = _
  rw [execBind, issue_go h, arg_zero, hc]

/-- BIND behind its address: the wait for the image's bytes, then the checks in the order of R203. -/
theorem exec_bind {off : Nat} (h : s.Ready ⟨[a], none, true, false⟩ [v] t) (hc : s.checkOwn v 16 8 = .ok off) :
    exec (.bind e a) s = .next (
      if s.heldByAcquire || s.core.rangeStall s.cid off 16 then s.stall
      else if imageReserved (s.imageAt off) || badSlotb (Endpoint.ofImage (s.imageAt off)) then s.raise (flt 0x02)
      else if s.extRefuses s.cid e.toNat (Endpoint.ofImage (s.imageAt off)) || s.core.inUse e.toNat ||
          eachSlot.any (fun i => s.stallsOn i e.toNat) then s.raise (fltAt 0x14 (BitVec.ofNat 64 e.toNat))
      else if (s.core.endpoint e.toNat).repoints (Endpoint.ofImage (s.imageAt off)) then
        (t.putEntry e.toNat { s.core.endpoint e.toNat with
          pdie := (Endpoint.ofImage (s.imageAt off)).pdie, pcore := (Endpoint.ofImage (s.imageAt off)).pcore,
          pep := (Endpoint.ofImage (s.imageAt off)).pep, ext := (Endpoint.ofImage (s.imageAt off)).ext, orphan := false }).advance
      else if !(s.core.endpoint e.toNat).idle then s.raise (fltAt 0x14 (BitVec.ofNat 64 e.toNat))
      else match s.bufferFault (Endpoint.ofImage (s.imageAt off)) with
        | some f => s.raise f
        | none => (t.putEntry e.toNat (Endpoint.ofImage (s.imageAt off)).fresh).advance) := by
  change execBind e a s = _
  rw [execBind, issue_go h, arg_zero, hc]
  rfl

theorem exec_bind_waits {off : Nat} (h : s.Ready ⟨[a], none, true, false⟩ [v] t) (hc : s.checkOwn v 16 8 = .ok off)
    (hw : s.heldByAcquire = true ∨ s.core.rangeStall s.cid off 16 = true) : exec (.bind e a) s = .next s.stall := by
  rw [exec_bind h hc, if_pos (by simpa using hw)]

variable {off : Nat} (h : s.Ready ⟨[a], none, true, false⟩ [v] t) (hc : s.checkOwn v 16 8 = .ok off)
  (ha : s.heldByAcquire = false) (hst : s.core.rangeStall s.cid off 16 = false)
include h hc ha hst

theorem exec_bind_reserved
    (hr : imageReserved (s.imageAt off) = true ∨ badSlotb (Endpoint.ofImage (s.imageAt off)) = true) :
    exec (.bind e a) s = .next (s.raise (flt 0x02)) := by
  rw [exec_bind h hc, if_neg (by simp [ha, hst]), if_pos (by simpa using hr)]

variable (hi : imageReserved (s.imageAt off) = false) (hb : badSlotb (Endpoint.ofImage (s.imageAt off)) = false)
include hi hb

/-- An entry in use, by a stalled instruction too, or refused by the external tables, cannot be bound (R203, R206). -/
theorem exec_bind_inUse
    (hu : s.extRefuses s.cid e.toNat (Endpoint.ofImage (s.imageAt off)) = true ∨ s.core.inUse e.toNat = true ∨
      ∃ i : Fin 8, s.stallsOn i e.toNat = true) :
    exec (.bind e a) s = .next (s.raise (fltAt 0x14 (BitVec.ofNat 64 e.toNat))) := by
  rw [exec_bind h hc, if_neg (by simp [ha, hst]), if_neg (by simp [hi, hb]),
    if_pos (by simpa [mem_eachSlot, or_assoc] using hu)]

variable (hx : s.extRefuses s.cid e.toNat (Endpoint.ofImage (s.imageAt off)) = false)
  (hu : s.core.inUse e.toNat = false) (hs : ∀ i : Fin 8, s.stallsOn i e.toNat = false)
include hx hu hs

/-- A free entry is pointed elsewhere, or must be idle to take the image, whose buffer is checked last (R203). -/
theorem exec_bind_free : exec (.bind e a) s = .next (
      if (s.core.endpoint e.toNat).repoints (Endpoint.ofImage (s.imageAt off)) then
        (t.putEntry e.toNat { s.core.endpoint e.toNat with
          pdie := (Endpoint.ofImage (s.imageAt off)).pdie, pcore := (Endpoint.ofImage (s.imageAt off)).pcore,
          pep := (Endpoint.ofImage (s.imageAt off)).pep, ext := (Endpoint.ofImage (s.imageAt off)).ext, orphan := false }).advance
      else if !(s.core.endpoint e.toNat).idle then s.raise (fltAt 0x14 (BitVec.ofNat 64 e.toNat))
      else match s.bufferFault (Endpoint.ofImage (s.imageAt off)) with
        | some f => s.raise f
        | none => (t.putEntry e.toNat (Endpoint.ofImage (s.imageAt off)).fresh).advance) := by
  rw [exec_bind h hc, if_neg (by simp [ha, hst]), if_neg (by simp [hi, hb]), if_neg (by simp [hx, hu, hs])]

theorem exec_bind_repoints (hr : (s.core.endpoint e.toNat).repoints (Endpoint.ofImage (s.imageAt off)) = true) :
    ∃ u, exec (.bind e a) s = .next u ∧ u.core.endpoint e.toNat = { s.core.endpoint e.toNat with
      pdie := (Endpoint.ofImage (s.imageAt off)).pdie, pcore := (Endpoint.ofImage (s.imageAt off)).pcore,
      pep := (Endpoint.ofImage (s.imageAt off)).pep, ext := (Endpoint.ofImage (s.imageAt off)).ext, orphan := false } ∧
      u.mem = s.mem := by
  rw [exec_bind_free h hc ha hst hi hb hx hu hs, if_pos hr]
  exact ⟨_, rfl, (t.putEntry_advance_holds ..).1, (t.putEntry_advance_holds ..).2.trans h.mem⟩

variable (hr : (s.core.endpoint e.toNat).repoints (Endpoint.ofImage (s.imageAt off)) = false)
include hr

theorem exec_bind_notIdle (hd : (s.core.endpoint e.toNat).idle = false) :
    exec (.bind e a) s = .next (s.raise (fltAt 0x14 (BitVec.ofNat 64 e.toNat))) := by
  rw [exec_bind_free h hc ha hst hi hb hx hu hs, if_neg (Bool.eq_false_iff.1 hr), if_pos (by rw [hd]; rfl)]

variable (hd : (s.core.endpoint e.toNat).idle = true)
include hd

theorem exec_bind_badBuffer {f : Flt} (hf : s.bufferFault (Endpoint.ofImage (s.imageAt off)) = some f) :
    exec (.bind e a) s = .next (s.raise f) := by
  rw [exec_bind_free h hc ha hst hi hb hx hu hs, if_neg (Bool.eq_false_iff.1 hr), if_neg (by rw [hd]; decide), hf]

theorem exec_bind_fresh (hn : s.bufferFault (Endpoint.ofImage (s.imageAt off)) = none) :
    ∃ u, exec (.bind e a) s = .next u ∧ u.core.endpoint e.toNat = (Endpoint.ofImage (s.imageAt off)).fresh ∧ u.mem = s.mem := by
  rw [exec_bind_free h hc ha hst hi hb hx hu hs, if_neg (Bool.eq_false_iff.1 hr), if_neg (by rw [hd]; decide), hn]
  exact ⟨_, rfl, (t.putEntry_advance_holds ..).1, (t.putEntry_advance_holds ..).2.trans h.mem⟩

end Bind

/-- Settles O21: the checks of an entry come before the gate of every channel instruction; UNBIND, CHMODE and BIND write one entry behind
their checks. -/
theorem channelChecksAndBinding : Obligations.ChannelChecksAndBinding := by
  unfold Obligations.ChannelChecksAndBinding
  refine ⟨fun e d a s => ?_, fun e a s t v => ?_⟩
  · intro x common bad badTile
    exact ⟨fun hf hb => show execSend e a s = .next (s.raiseOf ⟨s.sendReads e.toNat a, none, false, false⟩ _) from
        chanIssue_misfit (op := .send) hf hb,
      fun hf hb => show execEos e s = .next (s.raiseOf ⟨[], none, false, false⟩ _) from chanIssue_misfit (op := .eos) hf hb,
      fun hf hb => show execSendx d e a s = .next (s.raiseOf ⟨d :: s.sendReads e.toNat a, some d, false, false⟩ _) from
        chanIssue_misfit (op := .send) hf hb,
      fun hf hb => show execRecv d e s = .next (s.raiseOf ⟨[], some d, false, false⟩ _) from chanIssue_misfit (op := .recv) hf hb,
      fun hf hb => show execRecvx d e a s = .next (s.raiseOf ⟨[a], some d, false, false⟩ _) from chanIssue_misfit (op := .recv) hf hb,
      fun hf hb => show execSendt e a s = .next (s.raiseOf ⟨[a], none, false, true⟩ _) from chanIssue_misfit (op := .sendTile) hf hb,
      fun hf hb => show execRecvt d e a s = .next (s.raiseOf ⟨[a], some d, false, true⟩ _) from
        chanIssue_misfit (op := .recvTile) hf hb⟩
  · intro x busy
    refine ⟨fun h => ⟨exec_unbind_busy h, exec_unbind_idle h⟩, fun h => ⟨exec_chmode_reserved h, fun hv hs => ?chmode, ?bind⟩⟩
    case chmode =>
      refine ⟨exec_chmode_busy h hv hs, fun hx hi => ⟨fun f hf => ?_, fun hn => ?_⟩⟩
      · have hrun := exec_chmode_idle h hv hs hx hi
        rwa [show s.bufferFault ((s.core.endpoint e.toNat).withMode v) = some f from hf] at hrun
      · have hrun := exec_chmode_idle h hv hs hx hi
        rw [show s.bufferFault ((s.core.endpoint e.toNat).withMode v) = none from hn] at hrun
        obtain ⟨hent, hmem⟩ := t.putEntry_advance_holds e.toNat
          { (x.withMode v).fresh with orphan := x.orphan }
        exact ⟨_, _, hrun, hent, rfl, rfl, rfl, rfl, rfl, rfl, hx, rfl, rfl, rfl, rfl, rfl, rfl, rfl, rfl, rfl, hmem.trans h.mem⟩
    case bind =>
      refine ⟨fun f hc => exec_bind_badAddress h hc, fun off hc hw => exec_bind_waits h hc hw, fun off hc ha hst => ?_⟩
      intro y
      refine ⟨exec_bind_reserved h hc ha hst, fun hi hb => ⟨exec_bind_inUse h hc ha hst hi hb, fun hx hu hs => ?_⟩⟩
      exact ⟨exec_bind_repoints h hc ha hst hi hb hx hu hs, exec_bind_notIdle h hc ha hst hi hb hx hu hs, fun hr hd =>
        ⟨fun f => exec_bind_badBuffer h hc ha hst hi hb hx hu hs hr hd, exec_bind_fresh h hc ha hst hi hb hx hu hs hr hd⟩⟩

end Sys2Proof.Machine
end

section
/-! ## Forks, joins and launches (06 R207 to R213; 12 R345, R347, R349) -/

namespace Sys2Proof.Machine

theorem State.gate_go {s t : State} {o : Opnds} {vs : List DWord} (h : s.Ready o vs t) : s.gate o = .go vs t := by
  simp [State.gate, h.1, h.2]

/-! FORK (R207 to R210). -/

/-- FORK in slot 7 is refused before any operand is read. -/
theorem exec_fork_supervisor {s : State} {d a b : Reg} (hf : s.fieldFault ⟨[a, b], some d, false, false⟩ = none) (h7 : s.sid = 7) :
    exec (.fork d a b) s = .next (s.raise (flt 0x14)) := by
  change execFork d a b s = _
  rw [execFork, hf, h7]
  rfl

/-- The name of the next child of a frame (R208). -/
def State.nextChildId (s : State) (off : Nat) (j : Job) : DWord :=
  s.ctx.id ||| BitVec.ofNat 64 ((frSpawn (s.spWord s.cid off) + 1) * 2 ^ (j.w + 6 * pathDepth s.ctx.id j.w))

/-- The full slot of the next child of a frame (Table 6-7). -/
def State.nextSlot (s : State) (off : Nat) : Nat :=
  off + 96 + 8 * (frSpawn (s.spWord s.cid off) % frNcw (s.spWord s.cid off))

/-- The state as a FORK spawns: SPAWN one more, the child's slot empty, the free choice of its core used. -/
def State.spawning (s t : State) (off : Nat) : State :=
  let w := (t.clearRsv none).spWrite s.cid off (leBytes (s.spWord s.cid off + 1).toNat 8)
  State.retest 33 { w with core := w.core.setFull (s.nextSlot off) false, free := w.free + 1 } (s.nextSlot off)

/-- The child that a FORK names (Table 6-8). -/
def State.childOf (s w : State) (off : Nat) (j : Job) (entry x : DWord) : Child :=
  { who := w.self, op := w.nextId, job := w.fib.job, entry := entry.setWidth 48, arg := x,
    slot := BitVec.ofNat 64 (if s.forkTarget j (s.nextChildId off j) = s.cid then s.nextSlot off else spHome s.cid (s.nextSlot off)),
    cid := s.nextChildId off j, dl := w.ctx.dl, status := childStatus w.ctx.status }

/-- FORK with its frame and its job in hand (R209). -/
def State.forkFrom (s t : State) (d : Reg) (off : Nat) (j : Job) (entry x : DWord) : State :=
  let h := s.spWord s.cid off
  let tgt := s.forkTarget j (s.nextChildId off j)
  let w := s.spawning t off
  let c := s.childOf w off j entry x
  let u := w.countSend w.fib.job s.die
  let v := u.countConsume w.fib.job s.die
  if entry.toNat % 4 ≠ 0 then s.raise (fltAt 0x04 entry)
  else if h.getLsbD 24 = true ∨ (frSpawn h + 64 - frJoin h) % 64 = frNcw h ∨ frSpawn h = 63 then s.raise (flt 0x14)
  else if pathDepth s.ctx.id j.w = 7 ∨ 64 < j.w + 6 * (pathDepth s.ctx.id j.w + 1) then s.raise (flt 0x14)
  else if (s.core.rangeStall s.cid (s.nextSlot off) 8 || (tgt == s.cid && !s.outstanding.isEmpty)) = true then s.stall
  else if tgt = s.cid then
    match v.core.freeEntry? with
    | some e => ((v.createChild e c).writeReg d (s.nextChildId off j)).advance
    | none => (v.goInline off d c (s.ctx.pc + 4)).complete
  else
    (u.block ((u.newWait (.fork d) 7 none off none).counted w.fib.job)).sendFrom s.cid tgt (some s.self) s.outstanding none
      (.forkChildCreate c)

/-- FORK behind its gate checks the frame, then the job (R207, R209). -/
theorem exec_fork {s t : State} {d a b : Reg} {entry x : DWord} (h : s.Ready ⟨[a, b], some d, false, false⟩ [entry, x] t)
    (h7 : s.sid ≠ 7) : exec (.fork d a b) s = .next (if s.frameWaits then s.stall
      else match s.frameCheck s.ctx.p[6], s.job? with
        | .error f, _ => s.raise f
        | .ok _, none => s.raise (flt 0x14)
        | .ok off, some j => s.forkFrom t d off j entry x) := by
  have hv : ¬ s.sid.val = 7 := fun hv => h7 (Fin.ext hv)
  change execFork d a b s = _
  rw [execFork, State.fieldFault_none h.1]
  simp only [if_neg hv, State.gate_go h, arg_zero, arg_one, childId, Nat.shiftLeft_eq, beq_iff_eq]
  rfl

section ForkFrom
variable {s t : State} {d : Reg} {off : Nat} {j : Job} {entry x : DWord}

theorem State.forkFrom_misaligned (he : entry.toNat % 4 ≠ 0) : s.forkFrom t d off j entry x = s.raise (fltAt 0x04 entry) := if_pos he

variable (he : entry.toNat % 4 = 0)
include he

/-- An inline child, a full window, 63 children and a path without a further level keep a frame from a child more (R208, R209). -/
theorem State.forkFrom_refused
    (hr : (s.spWord s.cid off).getLsbD 24 = true ∨
      (frSpawn (s.spWord s.cid off) + 64 - frJoin (s.spWord s.cid off)) % 64 = frNcw (s.spWord s.cid off) ∨
      frSpawn (s.spWord s.cid off) = 63 ∨ pathDepth s.ctx.id j.w = 7 ∨ 64 < j.w + 6 * (pathDepth s.ctx.id j.w + 1)) :
    s.forkFrom t d off j entry x = s.raise (flt 0x14) := by
  rw [State.forkFrom, if_neg (not_not.2 he), ← ite_or, if_pos (by simpa only [or_assoc] using hr)]

/-- A frame with room for one more child. -/
structure State.HasRoom (s : State) (off : Nat) (j : Job) : Prop where
  notInline : (s.spWord s.cid off).getLsbD 24 = false
  window : (frSpawn (s.spWord s.cid off) + 64 - frJoin (s.spWord s.cid off)) % 64 ≠ frNcw (s.spWord s.cid off)
  spawn : frSpawn (s.spWord s.cid off) ≠ 63
  depth : pathDepth s.ctx.id j.w ≠ 7
  width : j.w + 6 * (pathDepth s.ctx.id j.w + 1) ≤ 64

variable (hr : s.HasRoom off j)
include hr

theorem State.forkFrom_of_hasRoom : s.forkFrom t d off j entry x =
    let tgt := s.forkTarget j (s.nextChildId off j)
    let w := s.spawning t off
    let c := s.childOf w off j entry x
    let u := w.countSend w.fib.job s.die
    let v := u.countConsume w.fib.job s.die
    if (s.core.rangeStall s.cid (s.nextSlot off) 8 || (tgt == s.cid && !s.outstanding.isEmpty)) = true then s.stall
    else if tgt = s.cid then
      match v.core.freeEntry? with
      | some e => ((v.createChild e c).writeReg d (s.nextChildId off j)).advance
      | none => (v.goInline off d c (s.ctx.pc + 4)).complete
    else
      (u.block ((u.newWait (.fork d) 7 none off none).counted w.fib.job)).sendFrom s.cid tgt (some s.self) s.outstanding none
        (.forkChildCreate c) := by
  have h1 : ¬ ((s.spWord s.cid off).getLsbD 24 = true ∨
      (frSpawn (s.spWord s.cid off) + 64 - frJoin (s.spWord s.cid off)) % 64 = frNcw (s.spWord s.cid off) ∨
      frSpawn (s.spWord s.cid off) = 63) :=
    not_or.2 ⟨Bool.eq_false_iff.1 hr.notInline, not_or.2 ⟨hr.window, hr.spawn⟩⟩
  have h2 : ¬ (pathDepth s.ctx.id j.w = 7 ∨ 64 < j.w + 6 * (pathDepth s.ctx.id j.w + 1)) :=
    not_or.2 ⟨hr.depth, Nat.not_lt.2 hr.width⟩
  rw [State.forkFrom, if_neg (not_not.2 he), if_neg h1, if_neg h2]

/-- A spawn waits for a copy over the child's slot, and on its own core for what the fibre has under way. -/
theorem State.forkFrom_waits (hw : s.core.rangeStall s.cid (s.nextSlot off) 8 = true ∨
    (s.forkTarget j (s.nextChildId off j) = s.cid ∧ s.outstanding ≠ [])) : s.forkFrom t d off j entry x = s.stall := by
  rw [State.forkFrom_of_hasRoom he hr]
  exact if_pos (by simpa using hw)

variable (hs : s.core.rangeStall s.cid (s.nextSlot off) 8 = false)
include hs

/-- On its own core a child takes a free entry (R209). -/
theorem State.forkFrom_child (ht : s.forkTarget j (s.nextChildId off j) = s.cid) (ho : s.outstanding = []) {e : Nat}
    (hf : (((s.spawning t off).countSend (s.spawning t off).fib.job s.die).countConsume (s.spawning t off).fib.job
      s.die).core.freeEntry? = some e) :
    s.forkFrom t d off j entry x =
      let w := s.spawning t off
      let v := (w.countSend w.fib.job s.die).countConsume w.fib.job s.die
      ((v.createChild e (s.childOf w off j entry x)).writeReg d (s.nextChildId off j)).advance := by
  rw [State.forkFrom_of_hasRoom he hr]
  dsimp only
  rw [if_neg (by simp [hs, ho]), if_pos ht, hf]

/-- Without a free entry the child runs in its parent's slot (R209). -/
theorem State.forkFrom_inline (ht : s.forkTarget j (s.nextChildId off j) = s.cid) (ho : s.outstanding = [])
    (hf : (((s.spawning t off).countSend (s.spawning t off).fib.job s.die).countConsume (s.spawning t off).fib.job
      s.die).core.freeEntry? = none) :
    s.forkFrom t d off j entry x =
      let w := s.spawning t off
      let v := (w.countSend w.fib.job s.die).countConsume w.fib.job s.die
      (v.goInline off d (s.childOf w off j entry x) (s.ctx.pc + 4)).complete := by
  rw [State.forkFrom_of_hasRoom he hr]
  dsimp only
  rw [if_neg (by simp [hs, ho]), if_pos ht, hf]

/-- To another core a child leaves as a message, and the parent waits for its answer (R209). -/
theorem State.forkFrom_elsewhere (ht : s.forkTarget j (s.nextChildId off j) ≠ s.cid) :
    s.forkFrom t d off j entry x =
      let w := s.spawning t off
      let u := w.countSend w.fib.job s.die
      (u.block ((u.newWait (.fork d) 7 none off none).counted w.fib.job)).sendFrom s.cid (s.forkTarget j (s.nextChildId off j))
        (some s.self) s.outstanding none (.forkChildCreate (s.childOf w off j entry x)) := by
  rw [State.forkFrom_of_hasRoom he hr]
  dsimp only
  rw [if_neg (by simp [hs, ht]), if_neg ht]

end ForkFrom

theorem State.forkTarget_det {s : State} {j : Job} (hd : j.det = true) (cid : DWord) :
    s.forkTarget j cid = j.core (placeHash cid j.count) := by
  rw [State.forkTarget, if_pos hd]

/-- Without det a child goes to a core of the partition that has a free entry, while there is one (R210). -/
theorem State.forkTarget_open {s : State} {j : Job} (hd : j.det = false) (cid : DWord)
    (ho : ∃ k ∈ j.cores, (s.coreAt k).freeEntry? ≠ none) :
    s.forkTarget j cid ∈ j.cores ∧ (s.coreAt (s.forkTarget j cid)).freeEntry? ≠ none := by
  have hmem : s.forkTarget j cid ∈ j.cores.filter fun c => (s.coreAt c).freeEntry?.isSome := by
    obtain ⟨k, hk, hf⟩ := ho
    have hlen : 0 < (j.cores.filter fun c => (s.coreAt c).freeEntry?.isSome).length :=
      List.length_pos_of_mem (List.mem_filter.2 ⟨hk, Option.isSome_iff_ne_none.2 hf⟩)
    rw [State.forkTarget, if_neg (by simp [hd])]
    dsimp only
    rw [List.getD_eq_getElem _ _ (Nat.mod_lt _ hlen)]
    exact List.getElem_mem _
  obtain ⟨hj, hf⟩ := List.mem_filter.1 hmem
  exact ⟨hj, Option.isSome_iff_ne_none.1 hf⟩

theorem State.spWrite_ctx (s : State) (off : Nat) (l : List Byte) : (s.spWrite s.cid off l).ctx = s.ctx := by
  rw [State.spWrite_own rfl]
  rfl

/-! JOINC (R212). -/

section Joinc
variable {s : State} {d : Reg} (h : s.Ready ⟨[], some d, false, false⟩ [] s)
include h

theorem exec_joinc_waits (hw : s.frameWaits = true) : exec (.joinc d) s = .next s.stall := by
  change execJoinc d s = _
  rw [execJoinc, issue_go h, hw]
  rfl

variable (hw : s.frameWaits = false)
include hw

theorem exec_joinc_badFrame {f : Flt} (hf : s.frameCheck s.ctx.p[6] = .error f) : exec (.joinc d) s = .next (s.raise f) := by
  change execJoinc d s = _
  rw [execJoinc, issue_go h, hw, hf]
  rfl

/-- The full slot of the oldest child of a frame that is not joined (R212). -/
def State.joinSlot (s : State) (off : Nat) : Nat :=
  off + 96 + 8 * (frJoin (s.spWord s.cid off) % frNcw (s.spWord s.cid off))

/-- The access that takes it. -/
def State.joinLoad (s : State) (off : Nat) : Access := { noAccess with kind := .ldfe, addr := BitVec.ofNat 64 (s.joinSlot off) }

variable {off : Nat} (hf : s.frameCheck s.ctx.p[6] = .ok off)
include hf

theorem exec_joinc_none (hj : frJoin (s.spWord s.cid off) = frSpawn (s.spWord s.cid off)) :
    exec (.joinc d) s = .next (s.raise (flt 0x14)) := by
  change execJoinc d s = _
  rw [execJoinc, issue_go h, hw, hf, if_neg Bool.false_ne_true]
  exact congrArg Host.Outcome.next (if_pos hj)

variable (hj : frJoin (s.spWord s.cid off) ≠ frSpawn (s.spWord s.cid off))
include hj

theorem exec_joinc_slotWaits (hs : s.core.rangeStall s.cid (s.joinSlot off) 8 = true) : exec (.joinc d) s = .next s.stall := by
  change execJoinc d s = _
  rw [execJoinc, issue_go h, hw, hf, if_neg Bool.false_ne_true]
  exact congrArg Host.Outcome.next ((if_neg hj).trans (if_pos hs))

variable (hs : s.core.rangeStall s.cid (s.joinSlot off) 8 = false)
include hs

/-- JOINC takes its slot as a full/empty load does (R212). -/
theorem exec_joinc : exec (.joinc d) s = .next (
    let u := s.clearRsv none
    match u.atBank s.cid (s.joinSlot off) (s.joinLoad off) with
    | .refuse c => s.raise (accessFlt c (s.joinLoad off).addr)
    | .done ws v _ => s.bankDone v (.joinc d off) ws (s.joinSlot off)
    | .wait => (u.block (u.newWait (.joinc d off) 8 none 0 (some (s.joinLoad off)))).recordWaiter
        ⟨u.self, u.nextId, .wait, u.myJob⟩ (s.joinLoad off)) := by
  change execJoinc d s = _
  rw [execJoinc, issue_go h, hw, hf, if_neg Bool.false_ne_true]
  exact congrArg Host.Outcome.next ((if_neg hj).trans (if_neg (Bool.eq_false_iff.1 hs)))

/-- A full slot's word goes to d, and JOIN of the frame counts it. -/
theorem exec_joinc_full {v : State} {x : DWord} {b : Bool}
    (hb : (s.clearRsv none).atBank s.cid (s.joinSlot off) (s.joinLoad off) = .done [x] v b)
    (hd : (v.spWrite v.cid off (leBytes (v.spWord v.cid off + 0x100).toNat 8)).dstCheck d x = .ok) :
    exec (.joinc d) s = .next (State.retest 33
      ((v.spWrite v.cid off (leBytes (v.spWord v.cid off + 0x100).toNat 8)).writeReg d x).advance (s.joinSlot off)) := by
  rw [exec_joinc h hw hf hj hs]
  simp only [hb, State.bankDone, State.sideResult, resultOf, List.headD_cons, hd]

/-- At an empty slot JOINC waits with reason 8. -/
theorem exec_joinc_empty (hb : (s.clearRsv none).atBank s.cid (s.joinSlot off) (s.joinLoad off) = .wait) :
    exec (.joinc d) s = .next (
      let u := s.clearRsv none
      (u.block (u.newWait (.joinc d off) 8 none 0 (some (s.joinLoad off)))).recordWaiter ⟨u.self, u.nextId, .wait, u.myJob⟩
        (s.joinLoad off)) := by
  rw [exec_joinc h hw hf hj hs]
  simp only [hb]

end Joinc

/-! LNCH (R213). -/

/-- The depth of the pool's reserve that a launch may use (12 R345): 0 in slot 7 and without a job. -/
def State.launchDepth (s : State) : Nat :=
  match s.job? with
  | some j => if s.sid.val = 7 then 0 else pathDepth s.ctx.id j.w
  | none => 0

theorem State.admitRecord_fib {s v : State} {die depth i : Nat} {r : Addr} {job : Option Nat}
    (h : s.admitRecord die depth r job = some (i, v)) : v.fib = s.fib := by
  simp only [State.admitRecord, Option.map_eq_some_iff] at h
  obtain ⟨k, -, hk⟩ := h
  cases hk
  rfl

theorem State.busySeen_of_admitted (s : State) (i : Nat) : s.busySeen (BitVec.ofNat 64 (i % 4096 * 2 ^ 16)) = s := by
  have hb : bits (BitVec.ofNat 64 (i % 4096 * 2 ^ 16)) 0 2 ≠ 1 := by
    rw [bits_zero, BitVec.toNat_ofNat]
    omega
  rw [State.busySeen, if_neg hb]

section Launch
variable {s t : State} {d a : Reg} {r : DWord} (h : s.Ready ⟨[a], some d, false, false⟩ [r] t)
include h

theorem exec_lnch_misaligned (hr : r.toNat % 64 ≠ 0) : exec (.lnch d a) s = .next (s.raise (fltAt 0x04 r)) := by
  change execLnch d a s = _
  rw [execLnch, issue_go h, arg_zero]
  exact congrArg Host.Outcome.next (if_pos hr)

variable (hr : r.toNat % 64 = 0)
include hr

theorem exec_lnch_outside (hd : inDram r.toNat = false) : exec (.lnch d a) s = .next (s.raise (fltAt 0x13 r)) := by
  change execLnch d a s = _
  rw [execLnch, issue_go h, arg_zero]
  exact congrArg Host.Outcome.next ((if_neg (not_not.2 hr)).trans (if_pos (by rw [hd]; rfl)))

variable (hd : inDram r.toNat = true)
include hd

theorem exec_lnch_waits (hw : s.recStall = true ∨ s.outstanding ≠ []) : exec (.lnch d a) s = .next s.stall := by
  change execLnch d a s = _
  rw [execLnch, issue_go h, arg_zero]
  have hin : ¬ (!inDram r.toNat) = true := by rw [hd]; decide
  exact congrArg Host.Outcome.next ((if_neg (not_not.2 hr)).trans ((if_neg hin).trans (if_pos (by simpa using hw))))

variable (hs : s.recStall = false) (ho : s.outstanding = [])
include hs ho

/-- LNCH submits its record to the pool of its die; in replay it writes what was recorded (R213; 16 R442). -/
theorem exec_lnch : exec (.lnch d a) s = .next (
    let u := t.clearRsv none
    let x := u.admitRecord s.die s.launchDepth (r.setWidth 48) u.fib.job
    let s1 := (x.map Prod.snd).getD u
    match s.replayed s.self.ent with
    | some (k, _, val) =>
      if k ≠ kLaunch then s.raise (fltAt channelState 0xFF)
      else s.done ((s1.busySeen val).record s.self.ent 6 0xFF val) d val
    | none => s.done ((s1.busySeen (lnchWord (x.map Prod.fst))).record s.self.ent 6 0xFF (lnchWord (x.map Prod.fst))) d
        (lnchWord (x.map Prod.fst))) := by
  change execLnch d a s = _
  rw [execLnch, issue_go h, arg_zero]
  have hin : ¬ (!inDram r.toNat) = true := by rw [hd]; decide
  have hgo : ¬ (s.recStall || !s.outstanding.isEmpty) = true := by simp [hs, ho]
  dsimp only
  rw [if_neg (not_not.2 hr), if_neg hin, if_neg hgo]
  simp only [State.launchDepth]
  cases s.job? <;> (dsimp only; generalize State.admitRecord _ _ _ _ _ = y; cases y <;> rfl)

/-- An admitted record's index stands in bits 27:16 of d (R213). -/
theorem exec_lnch_admitted (hrep : s.replayed s.self.ent = none) {i : Nat} {v : State}
    (ha : (t.clearRsv none).admitRecord s.die s.launchDepth (r.setWidth 48) (t.clearRsv none).fib.job = some (i, v))
    (hok : (v.record s.self.ent 6 0xFF (BitVec.ofNat 64 (i % 4096 * 2 ^ 16))).dstCheck d (BitVec.ofNat 64 (i % 4096 * 2 ^ 16)) = .ok) :
    exec (.lnch d a) s = .next ((v.record s.self.ent 6 0xFF (BitVec.ofNat 64 (i % 4096 * 2 ^ 16))).writeReg d
      (BitVec.ofNat 64 (i % 4096 * 2 ^ 16))).advance := by
  rw [exec_lnch h hr hd hs ho]
  dsimp only
  rw [ha, hrep]
  simp only [Option.map_some, Option.getD_some, lnchWord, State.busySeen_of_admitted, done_ok hok]

/-- A full pool is BUSY, which a job with det notes (R213; 12 R360). -/
theorem exec_lnch_full (hrep : s.replayed s.self.ent = none)
    (ha : (t.clearRsv none).admitRecord s.die s.launchDepth (r.setWidth 48) (t.clearRsv none).fib.job = none)
    (hok : ((((t.clearRsv none).modJob (t.clearRsv none).fib.job fun j => if j.det then { j with orf := j.orf ||| 2 } else j).record
      s.self.ent 6 0xFF 1).dstCheck d 1) = .ok) :
    exec (.lnch d a) s = .next ((((t.clearRsv none).modJob (t.clearRsv none).fib.job fun j =>
      if j.det then { j with orf := j.orf ||| 2 } else j).record s.self.ent 6 0xFF 1).writeReg d 1).advance := by
  rw [exec_lnch h hr hd hs ho]
  dsimp only
  rw [ha, hrep]
  exact congrArg _ (done_ok hok)

/-- In replay d takes the recorded word; a recorded BUSY is noted as well (16 R442). -/
theorem exec_lnch_replayed {ep : Nat} {x : DWord} (hrep : s.replayed s.self.ent = some (6, ep, x)) :
    let u := t.clearRsv none
    let v := ((u.admitRecord s.die s.launchDepth (r.setWidth 48) u.fib.job).map Prod.snd).getD u
    let y := if x.toNat % 4 = 1 then v.modJob u.fib.job fun j => if j.det then { j with orf := j.orf ||| 2 } else j else v
    (y.record s.self.ent 6 0xFF x).dstCheck d x = .ok →
      exec (.lnch d a) s = .next ((y.record s.self.ent 6 0xFF x).writeReg d x).advance := by
  intro u v y hok
  have hfib : v.fib = u.fib := by
    simp only [v]
    cases ha : u.admitRecord s.die s.launchDepth (r.setWidth 48) u.fib.job with
    | none => rfl
    | some p => exact State.admitRecord_fib ha
  have hy : v.busySeen x = y := by
    rw [State.busySeen, hfib, bits_zero]
    rfl
  rw [exec_lnch h hr hd hs ho, hrep, ← done_ok (s := s) hok, ← hy]
  rfl

end Launch

/-- Settles O31: FORK, its inline child, JOINC, the child of another core, and LNCH, in the order of their checks. -/
theorem forkAndLaunch : Obligations.ForkAndLaunch := by
  unfold Obligations.ForkAndLaunch
  refine ⟨⟨fun d a b s hf h7 => exec_fork_supervisor hf h7, ?fork, ?inline, ?joinc, ?create⟩, ?lnch⟩
  case fork =>
    intro d a b s t entry x off h h7
    refine ⟨fun hw => ?_, fun hw => ?_⟩
    · rw [exec_fork h h7, hw]
      rfl
    · have hrun := exec_fork h h7
      rw [hw, if_neg Bool.false_ne_true] at hrun
      refine ⟨fun f hf => ?_, fun hf hj => ?_, fun j hf hj => ?_⟩
      · rwa [hf] at hrun
      · rwa [hf, hj] at hrun
      rw [hf, hj] at hrun
      refine ⟨fun he => ?_, fun he hr => ?_, fun he h1 h2 h3 h4 h5 => ?_⟩
      · exact hrun.trans (congrArg _ (State.forkFrom_misaligned he))
      · exact hrun.trans (congrArg _ (State.forkFrom_refused he hr))
      have room : s.HasRoom off j := ⟨h1, h2, h3, h4, h5⟩
      refine ⟨fun hd => State.forkTarget_det hd _, fun hd => State.forkTarget_open hd _, fun hw => ?_, fun hs ht ho => ?_,
        fun hs ht => ?_⟩
      · exact hrun.trans (congrArg _ (State.forkFrom_waits he room hw))
      · exact ⟨fun e hfree => hrun.trans (congrArg _ (State.forkFrom_child he room hs ht ho hfree)),
          fun hfree => hrun.trans (congrArg _ (State.forkFrom_inline he room hs ht ho hfree))⟩
      · exact hrun.trans (congrArg _ (State.forkFrom_elsewhere he room hs ht))
  case inline =>
    intro s off d c back
    simp [State.goInline, State.spWrite_ctx]
  case joinc =>
    intro d s h
    refine ⟨exec_joinc_waits h, fun f hw => exec_joinc_badFrame h hw, fun off hw hf => ⟨exec_joinc_none h hw hf, fun hj => ?_⟩⟩
    refine ⟨exec_joinc_slotWaits h hw hf hj, fun hs => ?_⟩
    refine ⟨fun v z x b hb hz hd => ?_, fun hb => exec_joinc_empty h hw hf hj hs hb⟩
    subst hz
    exact exec_joinc_full h hw hf hj hs hb hd
  case create =>
    intro s c
    refine ⟨fun e he => ?_, fun he => ?_⟩ <;> (change execForkChildCreate c s = _; rw [execForkChildCreate, he]; rfl)
  case lnch =>
    intro d a s t r h
    refine ⟨exec_lnch_misaligned h, exec_lnch_outside h, exec_lnch_waits h, fun hr hd hs ho hrep => ?_, fun ep x hr hd hs ho hrep => ?_⟩
    · intro u depth ends
      have hdepth : depth = s.launchDepth := by
        simp only [depth, State.launchDepth, Fin.ext_iff]
        rfl
      refine ⟨fun i v hi hok => ?_, fun hi hok => ?_⟩
      · exact exec_lnch_admitted h hr hd hs ho hrep (hdepth ▸ hi) hok
      · exact exec_lnch_full h hr hd hs ho hrep (hdepth ▸ hi) hok
    · exact exec_lnch_replayed h hr hd hs ho hrep

end Sys2Proof.Machine
end

section
/-! ## Events and barriers (06 R215 to R219; 12 R356, R357) -/

namespace Sys2Proof.Machine

/-! ### Event operations at their issue (R215 to R217) -/

section EventIssue
variable {s t : State} {d a : Reg} {x : DWord}

theorem exec_evwait (h : s.Ready ⟨[a], none, false, false⟩ [x] t) :
    exec (.evwait a) s = .next (s.eventWait t (queueWords [a] [x]) x .event .eventWaitArrival) := by
  change execEvwait a s = _
  rw [execEvwait, issue_go h, arg_zero]

theorem exec_evwaitQev (h : s.Ready ⟨[a], none, false, false⟩ [x] t) :
    exec (.evwaitQev a) s = .next (s.eventNotify t x .eventWaitArrival) := by
  change execEvwaitQev a s = _
  rw [execEvwaitQev, issue_go h, arg_zero]

theorem exec_evtst_qev (h : s.Ready ⟨[a], none, false, false⟩ [x] t) :
    exec (.evtst .qev a) s = .next (s.eventNotify t x .eventTestArrival) := by
  change execEvtst .qev a s = _
  rw [execEvtst, if_pos rfl, issue_go h, if_pos rfl, arg_zero]

theorem exec_evtst (hd : d ≠ .qev) (h : s.Ready ⟨[a], some d, false, false⟩ [x] t) :
    exec (.evtst d a) s = .next (s.eventWait t (queueWords [a] [x]) x (.evtst d) .eventTestArrival) := by
  change execEvtst d a s = _
  rw [execEvtst, if_neg hd, issue_go h, if_neg hd, arg_zero]

theorem exec_evsig_unnamed (h : s.Ready ⟨[a], none, false, false⟩ [x] t) (he : s.eventOf x = none) :
    exec (.evsig a) s = .next (s.raise (flt 0x02)) := by
  change execEvsig a s = _
  rw [execEvsig, issue_go h, arg_zero, he]
  rfl

theorem exec_evclr_unnamed (h : s.Ready ⟨[a], none, false, false⟩ [x] t) (he : s.eventOf x = none) :
    exec (.evclr a) s = .next (s.raise (flt 0x02)) := by
  change execEvclr a s = _
  rw [execEvclr, issue_go h, arg_zero, he]
  rfl

theorem State.eventWait_unnamed {ws : List (Reg × DWord)} {k : WaitKind} {ev : EvMsg → Ev} (he : s.eventOf x = none) :
    s.eventWait t ws x k ev = s.raise (flt 0x02) := by
  rw [State.eventWait, he]
  rfl

theorem State.eventNotify_unnamed {ev : EvMsg → Ev} (he : s.eventOf x = none) : s.eventNotify t x ev = s.raise (flt 0x02) := by
  rw [State.eventNotify, he]
  rfl

section Named
variable {j : Job} {n : Nat} (he : s.eventOf x = some (j, n))
include he

theorem State.eventWait_held {ws : List (Reg × DWord)} {k : WaitKind} {ev : EvMsg → Ev} (hh : s.heldByAcquire = true) :
    s.eventWait t ws x k ev = s.stall := by
  rw [State.eventWait, he]
  exact if_pos hh

/-- An event operation with an answer leaves for the home of its event and waits with reason 5. -/
theorem State.eventWait_sends {ws : List (Reg × DWord)} {k : WaitKind} {ev : EvMsg → Ev} (hh : s.heldByAcquire = false) :
    s.eventWait t ws x k ev = ((t.block (((t.newWait k 5 none 0 none).keeps ws).counted (some j.num))).countSend (some j.num) s.die).sendTo
      (dieDst (j.eventHome n)) (some (2 ^ 46 + n)) (ev (t.eventMsg j n false)) := by
  rw [State.eventWait, he]
  exact if_neg (Bool.eq_false_iff.1 hh)

theorem State.eventNotify_held {ev : EvMsg → Ev} (hh : s.heldByAcquire = true ∨ 4 ≤ s.fib.qev.length + s.fib.qevPend.length) :
    s.eventNotify t x ev = s.stall := by
  rw [State.eventNotify, he]
  exact if_pos hh

/-- A notification form reserves an entry of qev and completes (R217). -/
theorem State.eventNotify_sends {ev : EvMsg → Ev} (hh : s.heldByAcquire = false)
    (hq : s.fib.qev.length + s.fib.qevPend.length < 4) :
    s.eventNotify t x ev =
      (({ (t.setFib { t.fib with qevPend := t.fib.qevPend ++ [t.nextId] }) with nextId := t.nextId + 1 } : State).advance.countSend
        (some j.num) s.die).sendTo (dieDst (j.eventHome n)) (some (2 ^ 46 + n)) (ev (t.eventMsg j n true)) := by
  rw [State.eventNotify, he]
  exact if_neg (not_or.2 ⟨Bool.eq_false_iff.1 hh, Nat.not_le.2 hq⟩)

theorem exec_evclr_held (h : s.Ready ⟨[a], none, false, false⟩ [x] t) (hh : s.heldByAcquire = true) :
    exec (.evclr a) s = .next s.stall := by
  change execEvclr a s = _
  rw [execEvclr, issue_go h, arg_zero, he]
  exact congrArg _ (if_pos hh)

theorem exec_evclr (h : s.Ready ⟨[a], none, false, false⟩ [x] t) (hh : s.heldByAcquire = false) :
    exec (.evclr a) s = .next (({ (t.advance.countSend (some j.num) s.die) with nextId := t.nextId + 1 } : State).sendFrom s.cid
      (dieDst (j.eventHome n)) (some s.self) [] (some (2 ^ 46 + n)) (.eventClearArrival (t.eventMsg j n false))) := by
  change execEvclr a s = _
  rw [execEvclr, issue_go h, arg_zero, he]
  exact congrArg _ (if_neg (Bool.eq_false_iff.1 hh))

/-- EVSIG is a release: it waits for no acquire, and its message comes after every earlier access. -/
theorem exec_evsig (h : s.Ready ⟨[a], none, false, false⟩ [x] t) :
    exec (.evsig a) s = .next (({ (t.advance.countSend (some j.num) s.die) with nextId := t.nextId + 1 } : State).sendFrom s.cid
      (dieDst (j.eventHome n)) (some s.self) s.outstanding (some (2 ^ 46 + n)) (.eventSignalArrival (t.eventMsg j n false))) := by
  change execEvsig a s = _
  rw [execEvsig, issue_go h, arg_zero, he]
  rfl

end Named

end EventIssue

/-! ### Events at their home (Table 6-11, R356, R357) -/

section EventHome
variable {s : State} {m : EvMsg}

theorem Die.eventFor_known {d : Die} {w : Event} (h : d.event? m = some w) : d.eventFor m = w := by rw [Die.eventFor, h]

/-- A new entry of an event; it is in the overflow list where four other events take its set's ways (R356, R357). -/
theorem Die.eventFor_new {d : Die} (h : d.event? m = none) :
    (d.eventFor m).job = m.job ∧ (d.eventFor m).name = m.name ∧ (d.eventFor m).set = false ∧ (d.eventFor m).waiters = [] ∧
      (d.eventFor m).listed = 0 ∧ ((d.eventFor m).far = true ↔ 4 ≤ (d.events.filter fun x =>
        !x.far && !(x.job == m.job && x.name == m.name) && eventSet x.job x.name == eventSet m.job m.name).length) := by
  rw [Die.eventFor, h]
  exact ⟨rfl, rfl, rfl, rfl, rfl, decide_eq_true_iff⟩

/-- An event or a waiter of it in the overflow list, or a pool that is used up, sends its next waiter to the list (R357). -/
theorem Die.not_inPool {d : Die} (ho : (d.eventFor m).far = true ∨ (d.eventFor m).listed ≠ 0 ∨ 16384 ≤ d.poolUsed) :
    ¬ (!(d.eventFor m).far && (d.eventFor m).listed == 0 && decide (d.poolUsed < 16384)) = true := by
  intro h
  simp only [Bool.and_eq_true, Bool.not_eq_true', beq_iff_eq, decide_eq_true_eq] at h
  obtain ⟨⟨hf, hl⟩, hp⟩ := h
  obtain ho | ho | ho := ho
  · exact Bool.false_ne_true (hf.symm.trans ho)
  · exact ho hl
  · exact Nat.not_le.2 hp ho

/-- Whether a message's event has no entry yet and would take a node of the overflow list. -/
def Die.takesNode (d : Die) (m : EvMsg) : Bool := (d.event? m).isNone && (d.eventFor m).far

theorem State.eventWaitAt_set (hv : ((s.dieOf m.die).eventFor m).set = true) : s.eventWaitAt m = s.eventAnswer m false true := by
  rw [State.eventWaitAt]
  exact if_pos hv

section NotSet
variable (hv : ((s.dieOf m.die).eventFor m).set = false)
include hv

theorem State.eventWaitAt_pool (hf : ((s.dieOf m.die).eventFor m).far = false) (hl : ((s.dieOf m.die).eventFor m).listed = 0)
    (hp : (s.dieOf m.die).poolUsed < 16384) : s.eventWaitAt m =
      s.setDie m.die ((s.dieOf m.die).putEvent { (s.dieOf m.die).eventFor m with
        waiters := ((s.dieOf m.die).eventFor m).waiters ++ [m] }) := by
  have ha : (s.dieOf m.die).addWaiter m = some { (s.dieOf m.die).eventFor m with
      waiters := ((s.dieOf m.die).eventFor m).waiters ++ [m] } := if_pos (by simp [hf, hl, hp])
  rw [State.eventWaitAt]
  dsimp only
  rw [if_neg (Bool.eq_false_iff.1 hv), ha]

variable (ho : ((s.dieOf m.die).eventFor m).far = true ∨ ((s.dieOf m.die).eventFor m).listed ≠ 0 ∨ 16384 ≤ (s.dieOf m.die).poolUsed)
include ho

theorem State.eventWaitAt_list (hl : (s.dieOf m.die).listUsed + ((s.dieOf m.die).takesNode m).toNat < 65536) : s.eventWaitAt m =
    s.setDie m.die ((s.dieOf m.die).putEvent { (s.dieOf m.die).eventFor m with
      waiters := ((s.dieOf m.die).eventFor m).waiters ++ [m], listed := ((s.dieOf m.die).eventFor m).listed + 1 }) := by
  have ha : (s.dieOf m.die).addWaiter m = some { (s.dieOf m.die).eventFor m with
      waiters := ((s.dieOf m.die).eventFor m).waiters ++ [m], listed := ((s.dieOf m.die).eventFor m).listed + 1 } :=
    (if_neg (Die.not_inPool ho)).trans (if_pos hl)
  rw [State.eventWaitAt]
  dsimp only
  rw [if_neg (Bool.eq_false_iff.1 hv), ha]

theorem State.eventWaitAt_full (hl : 65536 ≤ (s.dieOf m.die).listUsed + ((s.dieOf m.die).takesNode m).toNat) : s.eventWaitAt m =
    s.sendFrom (dieDst m.die) (dieDst m.die) none [] none (.eventOverflowRetry m) := by
  have ha : (s.dieOf m.die).addWaiter m = none :=
    (if_neg (Die.not_inPool ho)).trans (if_neg (Nat.not_lt.2 hl))
  rw [State.eventWaitAt, if_neg (Bool.eq_false_iff.1 hv), ha]

end NotSet

theorem exec_eventSignalArrival_full (hf : (s.dieOf m.die).takesNode m = true) (hl : 65536 ≤ (s.dieOf m.die).listUsed) :
    exec (.eventSignalArrival m) s =
      .next (s.sendFrom (dieDst m.die) (dieDst m.die) none [] (some (2 ^ 46 + m.name)) (.eventSignalArrival m)) := by
  have hn : (s.dieOf m.die).noEntry m = true := Bool.and_eq_true_iff.2 ⟨hf, decide_eq_true hl⟩
  exact congrArg _ (if_pos hn)

theorem exec_eventSignalArrival (h : (s.dieOf m.die).takesNode m = false ∨ (s.dieOf m.die).listUsed < 65536) :
    exec (.eventSignalArrival m) s = .next (((s.dieOf m.die).eventFor m).waiters.foldl (fun t w => t.eventAnswer w false true)
      ((s.setDie m.die ((s.dieOf m.die).putEvent { (s.dieOf m.die).eventFor m with set := true, waiters := [] })).countConsume
        (some m.job) m.die)) := by
  have hn : ¬ (s.dieOf m.die).noEntry m = true := by
    rintro hn
    obtain ⟨hf, hl⟩ := Bool.and_eq_true_iff.1 hn
    obtain h | h := h
    · exact Bool.false_ne_true (h.symm.trans hf)
    · exact Nat.not_le.2 h (of_decide_eq_true hl)
  exact congrArg _ (if_neg hn)

theorem exec_eventClearArrival_known {w : Event} (h : (s.dieOf m.die).event? m = some w) : exec (.eventClearArrival m) s =
    .next ((s.setDie m.die ((s.dieOf m.die).putEvent { w with set := false })).countConsume (some m.job) m.die) := by
  change execEventClearArrival m s = _
  unfold execEventClearArrival
  dsimp only
  rw [h]

theorem exec_eventClearArrival_new (h : (s.dieOf m.die).event? m = none) : exec (.eventClearArrival m) s =
    .next (s.countConsume (some m.job) m.die) := by
  change execEventClearArrival m s = _
  unfold execEventClearArrival
  dsimp only
  rw [h]

theorem exec_eventTestArrival : exec (.eventTestArrival m) s = .next (s.eventAnswer m true ((s.dieOf m.die).eventFor m).set) := by
  change execEventTestArrival m s = _
  rw [execEventTestArrival, Die.eventFor]
  cases (s.dieOf m.die).event? m <;> rfl

end EventHome

/-! ### The answer at the issuer (R217) -/

section EventReply
variable {s : State} {m : EvMsg} {test value : Bool} (hc : m.who.core = s.cid)
include hc

theorem exec_eventReply : exec (.eventReply m test value) s = .next (s.eventReplyAt m test value) := congrArg _ (if_pos hc)

theorem exec_eventReply_notify {f : Fibre} {i : Fin 8} (hn : m.notify = true) (hf : s.core.fibre? m.who.ent = some f)
    (hi : s.core.slotOf? m.who.ent = some i) (hp : m.op ∈ f.qevPend) :
    exec (.eventReply m test value) s = .next ((s.modFibre m.who.ent fun x =>
      { x with qev := x.qev ++ [qevWord m.name test value], qevPend := x.qevPend.filter fun o => o != m.op }).countConsume
        (some m.job) s.die) := by
  rw [exec_eventReply hc, State.eventReplyAt, hf]
  simp [hn, hp, hi]

variable (hn : m.notify = false)
include hn

theorem exec_eventReply_late (hw : s.waitOf m.who.ent m.op = none) : exec (.eventReply m test value) s = .next s := by
  rw [exec_eventReply hc, State.eventReplyAt, hn]
  cases s.core.fibre? m.who.ent with
  | none => rfl
  | some f => simp [hw]

/-- The answer of an EVWAIT ends its wait. -/
theorem exec_eventReply_evwait {f : Fibre} {w : Wait} {t : State} (hw : s.waitOf m.who.ent m.op = some (f, w)) (hk : w.kind = .event)
    (ht : s.finishWait m.who.ent w none (if value then 1 else 0) = some t) :
    exec (.eventReply m test value) s = .next (t.countConsume (some m.job) s.die) := by
  rw [exec_eventReply hc, State.eventReplyAt, hn]
  cases hf : s.core.fibre? m.who.ent with
  | none => simp [State.waitOf, hf] at hw
  | some f => simp only [hw, hk, ht, Bool.false_eq_true, if_false]

/-- The answer of an EVTST ends its wait with the state in its register. -/
theorem exec_eventReply_evtst {f : Fibre} {w : Wait} {r : Reg} {t : State} (hw : s.waitOf m.who.ent m.op = some (f, w))
    (hk : w.kind = .evtst r) (ht : s.finishWait m.who.ent w (some r) (if value then 1 else 0) = some t) :
    exec (.eventReply m test value) s = .next (t.countConsume (some m.job) s.die) := by
  rw [exec_eventReply hc, State.eventReplyAt, hn]
  cases hf : s.core.fibre? m.who.ent with
  | none => simp [State.waitOf, hf] at hw
  | some f => simp only [hw, hk, ht, Bool.false_eq_true, if_false]

end EventReply

/-! ### Barriers (R218, R219) -/

theorem bits_gang (x : DWord) : bits x 0 8 = x.toNat % 256 := bits_zero x 8
theorem bits_tag (x : DWord) : bits x 8 6 = x.toNat / 256 % 64 := bits_eq_div_mod x 8 6

section Bar
variable {s t : State} {d a : Reg} {x : DWord} (h : s.Ready ⟨[a], some d, false, false⟩ [x] t)
include h

theorem exec_bar_reserved (hx : 2 ^ 15 ≤ x.toNat) : exec (.bar d a) s = .next (s.raise (flt 0x02)) := by
  have hb : bits x 15 49 ≠ 0 := (bits_top_ne_zero_iff x rfl).2 hx
  change execBar d a s = _
  rw [execBar, issue_go h, arg_zero]
  dsimp only
  cases s.job? with
  | none => simp only [if_pos hb]; rfl
  | some j => simp only [if_pos hb]; rfl

variable (hx : x.toNat < 2 ^ 15)
include hx

/-- Only a member of the gang in an ordinary slot takes part in a barrier. -/
theorem exec_bar_outsider (ho : s.job? = none ∨ 6 ≤ s.sid.val ∨ x.toNat % 256 ∉ s.fib.gangs) :
    exec (.bar d a) s = .next (s.raise (flt 0x14)) := by
  have hb : ¬ bits x 15 49 ≠ 0 := bits_top_zero rfl hx
  change execBar d a s = _
  rw [execBar, issue_go h, arg_zero]
  dsimp only
  cases hj : s.job? with
  | none => simp only [if_neg hb]; rfl
  | some j =>
    have hg : 6 ≤ s.sid.val ∨ s.fib.gangs.contains (x.toNat % 256) = false := by simpa [hj] using ho
    simp only [if_neg hb, bits_gang]
    exact congrArg _ (if_pos hg)

variable {j : Job} (hj : s.job? = some j) (h6 : s.sid.val < 6) (hg : x.toNat % 256 ∈ s.fib.gangs)
include hj h6 hg

theorem exec_bar_waits (ho : s.outstanding ≠ []) : exec (.bar d a) s = .next s.stall := by
  have hb : ¬ bits x 15 49 ≠ 0 := bits_top_zero rfl hx
  have hin : ¬ (6 ≤ s.sid.val ∨ s.fib.gangs.contains (x.toNat % 256) = false) := by simp [hg, h6]
  change execBar d a s = _
  rw [execBar, issue_go h, arg_zero, hj]
  simp only [if_neg hb, bits_gang]
  exact congrArg _ ((if_neg hin).trans (if_pos (by simp [ho])))

/-- A member's arrival leaves, or first waits for the tag it is bound to (R218). -/
theorem exec_bar (ho : s.outstanding = []) {held : Bool}
    (hh : (x.getLsbD 14 && !s.core.tags.getLsbD (x.toNat / 256 % 64)) = held) : exec (.bar d a) s = .next (
      let k := (t.newWait (.bar d (x.toNat % 256)) 6 none (if held then 64 + x.toNat / 256 % 64 else 0) none).popped [a] [x]
      if held then t.block k else (t.block k).sendArrival t.self t.nextId j (x.toNat % 256)) := by
  have hb : ¬ bits x 15 49 ≠ 0 := bits_top_zero rfl hx
  have hin : ¬ (6 ≤ s.sid.val ∨ s.fib.gangs.contains (x.toNat % 256) = false) := by simp [hg, h6]
  subst hh
  change execBar d a s = _
  rw [execBar, issue_go h, arg_zero, hj]
  simp only [if_neg hb, bits_gang, bits_tag]
  exact congrArg _ ((if_neg hin).trans (if_neg (by simp [ho])))

end Bar

theorem getLsbD_of_lt_two_pow {x : DWord} {i : Nat} (h : x.toNat < 2 ^ i) : x.getLsbD i = false := Nat.testBit_lt_two_pow h

theorem getLsbD_fourteen {x : DWord} (h1 : 2 ^ 14 ≤ x.toNat) (h2 : x.toNat < 2 ^ 15) : x.getLsbD 14 = true := by
  change x.toNat.testBit 14 = true
  rw [Nat.testBit_eq_decide_div_mod_eq, decide_eq_true_eq]
  omega

/-! ### BAR.brk (R219) -/

/-- What BAR.brk does for one waiting member: its wait is bound to no tag, and its completion leaves. -/
def State.breakMember (home : Nat) (u : State) (w : Who × Nat) : State :=
  (u.onFibre w.1 fun f => { f with wait := f.wait.map fun k => { k with ep := 0 } }).sendFrom home w.1.core none [] none
    (.barrierCompletion w.1 w.2 true)

/-- Sending adds the packet itself, and at most a clock update before it. -/
theorem State.sendRange_net (s : State) (src dst : Nat) (who : Option Who) (after : List Nat) (order : List (Nat × Nat)) (ev : Ev) :
    ∃ l, (s.sendRange src dst who after order ev).net = s.net ++ l ∧ (∀ p ∈ l, p.ev = ev ∨ ∃ k c, p.ev = .clockUpdate k c) ∧
      ∃ p ∈ l, p.dst = dst ∧ p.ev = ev := by
  unfold State.sendRange
  dsimp only
  split
  · exact ⟨[_], rfl, List.forall_mem_singleton.2 (.inl rfl), _, List.mem_singleton_self _, rfl, rfl⟩
  · split
    · exact ⟨[_], rfl, List.forall_mem_singleton.2 (.inl rfl), _, List.mem_singleton_self _, rfl, rfl⟩
    · refine ⟨_ ++ [_], List.append_assoc .., List.forall_mem_append.2 ⟨fun p hp => .inr ?_, List.forall_mem_singleton.2 (.inl rfl)⟩,
        _, List.mem_append_right _ (List.mem_singleton_self _), rfl, rfl⟩
      split at hp
      · exact absurd hp List.not_mem_nil
      · exact ⟨_, _, congrArg Packet.ev (List.mem_singleton.1 hp)⟩

theorem State.onFibre_net (s : State) (w : Who) (f : Fibre → Fibre) : (s.onFibre w f).net = s.net := by
  unfold State.onFibre State.modCore
  split <;> rfl

theorem State.onFibre_jobs (s : State) (w : Who) (f : Fibre → Fibre) : (s.onFibre w f).jobs = s.jobs := by
  unfold State.onFibre State.modCore
  split <;> rfl

theorem State.sendRange_jobs (s : State) (src dst : Nat) (who : Option Who) (after : List Nat) (order : List (Nat × Nat)) (ev : Ev) :
    (s.sendRange src dst who after order ev).jobs = s.jobs := by
  unfold State.sendRange
  dsimp only
  split
  · rfl
  · split <;> rfl

theorem State.breakMember_net (home : Nat) (u : State) (w : Who × Nat) :
    ∃ l, (u.breakMember home w).net = u.net ++ l ∧
      (∀ p ∈ l, p.ev = .barrierCompletion w.1 w.2 true ∨ ∃ k c, p.ev = .clockUpdate k c) ∧
      ∃ p ∈ l, p.dst = w.1.core ∧ p.ev = .barrierCompletion w.1 w.2 true := by
  obtain ⟨l, hl⟩ := State.sendRange_net (u.onFibre w.1 fun f => { f with wait := f.wait.map fun k => { k with ep := 0 } }) home w.1.core
    none [] [] (.barrierCompletion w.1 w.2 true)
  rw [State.onFibre_net] at hl
  exact ⟨l, hl⟩

theorem State.breakMember_jobs (home : Nat) (u : State) (w : Who × Nat) : (u.breakMember home w).jobs = u.jobs :=
  (State.sendRange_jobs ..).trans (State.onFibre_jobs ..)

/-- Breaking a phase adds a completion for each waiting member, and no arrival. -/
theorem State.breakMembers_net (home : Nat) (ws : List (Who × Nat)) (u : State) :
    ∃ l, (ws.foldl (State.breakMember home) u).net = u.net ++ l ∧
      (∀ p ∈ l, ∀ w o n k, p.ev ≠ .barrierArrival w o n k) ∧
      (∀ w ∈ ws, ∃ p ∈ l, p.dst = w.1.core ∧ p.ev = .barrierCompletion w.1 w.2 true) := by
  induction ws generalizing u with
  | nil => exact ⟨[], (List.append_nil _).symm, by simp, by simp⟩
  | cons w ws ih =>
    obtain ⟨l, hl, hev, p, hp, hto⟩ := State.breakMember_net home u w
    obtain ⟨ls, hls, hevs, htos⟩ := ih (u.breakMember home w)
    refine ⟨l ++ ls, by rw [List.foldl_cons, hls, hl, List.append_assoc], List.forall_mem_append.2 ⟨fun q hq => ?_, hevs⟩,
      List.forall_mem_cons.2 ⟨⟨p, List.mem_append_left _ hp, hto⟩, fun v hv => ?_⟩⟩
    · intro v o n k hq'
      obtain h | ⟨i, c, h⟩ := hev q hq
      · exact Ev.noConfusion (h.symm.trans hq')
      · exact Ev.noConfusion (h.symm.trans hq')
    · obtain ⟨q, hq, hv⟩ := htos v hv
      exact ⟨q, List.mem_append_right _ hq, hv⟩

/-- An arrival at a gang's barrier. -/
def Packet.arrivesAt (job gang : Nat) (p : Packet) : Bool :=
  match p.ev with
  | .barrierArrival _ _ n k => n == job && k == gang
  | _ => false

/-- No arrival at a barrier stays behind its drop. -/
theorem State.cull_arrivals (u : State) (job gang : Nat) :
    ∀ p ∈ (u.cull (Packet.arrivesAt job gang)).net, ∀ w o, p.ev ≠ .barrierArrival w o job gang := by
  intro p hp w o hev
  obtain ⟨q, -, hq⟩ := List.mem_filterMap.1 hp
  split at hq
  · next hk =>
    cases hq
    simp [Packet.arrivesAt, hev] at hk
  · split at hq
    · split at hq
      · cases hq
        exact Ev.noConfusion hev
      · cases hq
    · cases hq

/-- The waiting members of a gang, with their operations. -/
def State.gangWaits (s : State) (g : Gang) (n : Nat) : List (Who × Nat) :=
  g.members.filterMap fun m => (s.barWait m n).map fun w => (m, w.op)

/-- A job with the arrivals of a gang dropped. -/
def Job.dropArrivals (j : Job) (n : Nat) : Job :=
  { j with gangs := j.gangs.map fun y => if y.num = n then { y with arrived := [] } else y }

section BarBrk
variable {s t : State} {a : Reg} {x : DWord} (h : s.Ready ⟨[a], none, true, false⟩ [x] t)
include h

theorem exec_barBrk_reserved (hx : 256 ≤ x.toNat) : exec (.barBrk a) s = .next (s.raise (flt 0x02)) := by
  change execBarBrk a s = _
  rw [execBarBrk, issue_go h, arg_zero]
  exact congrArg _ (if_pos ((bits_top_ne_zero_iff x rfl).2 hx))

variable (hx : x.toNat < 256)
include hx

theorem exec_barBrk_noGang (hg : ∀ j, t.core.job.bind t.jobs.get? = some j → (j.gangs.find? fun y => y.num = x.toNat) = none) :
    exec (.barBrk a) s = .next t.advance := by
  have hb : ¬ bits x 8 56 ≠ 0 := bits_top_zero rfl hx
  have hn : bits x 0 8 = x.toNat := (bits_gang x).trans (Nat.mod_eq_of_lt hx)
  change execBarBrk a s = _
  rw [execBarBrk, issue_go h, arg_zero]
  simp only [if_neg hb, hn]
  cases hj : t.core.job.bind t.jobs.get? with
  | none => rfl
  | some j => simp only [hg j hj]

/-- BAR.brk drops the arrivals of its gang, under way and counted, and completes the members that wait (R219). -/
theorem exec_barBrk {j : Job} {g : Gang} (hj : t.core.job.bind t.jobs.get? = some j)
    (hg : (j.gangs.find? fun y => y.num = x.toNat) = some g) :
    exec (.barBrk a) s = .next ((s.gangWaits g x.toNat).foldl (State.breakMember (j.gangHome x.toNat))
      (({ t.advance with jobs := t.jobs.set j.num (j.dropArrivals x.toNat) } : State).cull (Packet.arrivesAt j.num x.toNat))) := by
  have hb : ¬ bits x 8 56 ≠ 0 := bits_top_zero rfl hx
  have hn : bits x 0 8 = x.toNat := (bits_gang x).trans (Nat.mod_eq_of_lt hx)
  change execBarBrk a s = _
  rw [execBarBrk, issue_go h, arg_zero]
  simp only [if_neg hb, hn, hj, hg]
  rfl

end BarBrk

/-! ### A barrier's home and its members (R218) -/

section BarrierHome
variable {s : State} {who : Who} {op e gang : Nat} {j : Job} {g : Gang} (hj : s.jobs.get? e = some j)
  (hg : (j.gangs.find? fun g => g.num = gang) = some g)
include hj hg

theorem exec_barrierArrival_counts (hm : ∃ m ∈ g.members, ∀ y ∈ g.arrived ++ [(who, op)], y.1 ≠ m) :
    exec (.barrierArrival who op e gang) s = .next { s with jobs := s.jobs.set e { j with gangs := j.gangs.map fun x =>
      if x.num = gang then { x with arrived := g.arrived ++ [(who, op)] } else x } } := by
  have hall : ¬ (g.members.all fun m => (g.arrived ++ [(who, op)]).any fun y => y.1 = m) = true := by
    obtain ⟨m, hm, hy⟩ := hm
    intro hall
    obtain ⟨y, hy', he⟩ := List.any_eq_true.1 (List.all_eq_true.1 hall m hm)
    exact hy y hy' (of_decide_eq_true he)
  change execBarrierArrival who op e gang s = _
  rw [execBarrierArrival, hj]
  dsimp only
  rw [hg]
  exact congrArg _ (if_neg hall)

/-- The last member's arrival completes the phase for each (R218). -/
theorem exec_barrierArrival_last (hm : ∀ m ∈ g.members, ∃ y ∈ g.arrived ++ [(who, op)], y.1 = m) :
    exec (.barrierArrival who op e gang) s = .next ((g.arrived ++ [(who, op)]).foldl
      (fun t y => t.sendFrom (j.gangHome gang) y.1.core none [] none (.barrierCompletion y.1 y.2 false))
      { s with jobs := s.jobs.set e { j with gangs := j.gangs.map fun x => if x.num = gang then { x with arrived := [] } else x } }) := by
  have hall : (g.members.all fun m => (g.arrived ++ [(who, op)]).any fun y => y.1 = m) = true := by
    refine List.all_eq_true.2 fun m hmem => List.any_eq_true.2 ?_
    obtain ⟨y, hy, he⟩ := hm m hmem
    exact ⟨y, hy, decide_eq_true he⟩
  change execBarrierArrival who op e gang s = _
  rw [execBarrierArrival, hj]
  dsimp only
  rw [hg]
  exact congrArg _ (if_pos hall)

end BarrierHome

section BarrierCompletion
variable {s : State} {who : Who} {op : Nat} {broken : Bool} (hc : who.core = s.cid)
include hc

theorem exec_barrierCompletion : exec (.barrierCompletion who op broken) s = .next (s.barrierDone who op broken) := congrArg _ (if_pos hc)

theorem exec_barrierCompletion_late (hw : s.waitOf who.ent op = none) : exec (.barrierCompletion who op broken) s = .next s := by
  rw [exec_barrierCompletion hc, State.barrierDone, hw]

theorem exec_barrierCompletion_wait {f : Fibre} {w : Wait} {d : Reg} {g : Nat} {t : State} (hw : s.waitOf who.ent op = some (f, w))
    (hk : w.kind = .bar d g) (ht : s.finishWait who.ent w (some d) (if broken then 1 else 0) = some t) :
    exec (.barrierCompletion who op broken) s = .next t := by
  rw [exec_barrierCompletion hc, State.barrierDone]
  simp only [hw, hk, ht]

end BarrierCompletion

/-- Settles O32: event operations at their issue, their home and their answer; barriers by arrival, completion and BAR.brk. -/
theorem eventsAndBarriers : Obligations.EventsAndBarriers := by
  unfold Obligations.EventsAndBarriers
  refine ⟨?issue, ?test, ?home, ?bar, ?brk, ?arrival, ?completion⟩
  case issue =>
    intro d a s t x h
    refine ⟨fun he => ?_, fun j n he => ⟨fun hh => ?_, fun hh => ⟨?_, fun hq => ⟨?_, ?_⟩, fun hq => ⟨?_, ?_⟩, ?_⟩,
      exec_evsig he h⟩⟩
    · simp only [List.forall_mem_cons]
      exact ⟨(exec_evwait h).trans (congrArg _ (State.eventWait_unnamed he)),
        (exec_evwaitQev h).trans (congrArg _ (State.eventNotify_unnamed he)), exec_evsig_unnamed h he, exec_evclr_unnamed h he,
        (exec_evtst_qev h).trans (congrArg _ (State.eventNotify_unnamed he)), List.forall_mem_nil _⟩
    · simp only [List.forall_mem_cons]
      exact ⟨(exec_evwait h).trans (congrArg _ (State.eventWait_held he hh)),
        (exec_evwaitQev h).trans (congrArg _ (State.eventNotify_held he (.inl hh))), exec_evclr_held he h hh,
        (exec_evtst_qev h).trans (congrArg _ (State.eventNotify_held he (.inl hh))), List.forall_mem_nil _⟩
    · exact (exec_evwait h).trans (congrArg _ (State.eventWait_sends he hh))
    · exact (exec_evwaitQev h).trans (congrArg _ (State.eventNotify_sends he hh hq))
    · exact (exec_evtst_qev h).trans (congrArg _ (State.eventNotify_sends he hh hq))
    · exact (exec_evwaitQev h).trans (congrArg _ (State.eventNotify_held he (.inr hq)))
    · exact (exec_evtst_qev h).trans (congrArg _ (State.eventNotify_held he (.inr hq)))
    · exact exec_evclr he h hh
  case test =>
    intro d a s t x hd h
    exact ⟨fun he => (exec_evtst hd h).trans (congrArg _ (State.eventWait_unnamed he)), fun j n he =>
      ⟨fun hh => (exec_evtst hd h).trans (congrArg _ (State.eventWait_held he hh)),
        fun hh => (exec_evtst hd h).trans (congrArg _ (State.eventWait_sends he hh))⟩⟩
  case home =>
    intro s m
    refine ⟨fun w => Die.eventFor_known, Die.eventFor_new, ?wait, exec_eventSignalArrival_full, exec_eventSignalArrival,
      fun w => exec_eventClearArrival_known, exec_eventClearArrival_new, exec_eventTestArrival, fun test value hc => ?reply⟩
    case wait =>
      intro i hi
      have hrun : exec i s = .next (s.eventWaitAt m) := by
        obtain rfl | rfl : i = .eventWaitArrival m ∨ i = .eventOverflowRetry m := by simpa using hi
        · rfl
        · rfl
      rw [hrun]
      exact ⟨fun hv => congrArg _ (State.eventWaitAt_set hv), fun hv hf hl hp => congrArg _ (State.eventWaitAt_pool hv hf hl hp),
        fun hv ho => ⟨fun hl => congrArg _ (State.eventWaitAt_list hv ho hl), fun hl => congrArg _ (State.eventWaitAt_full hv ho hl)⟩⟩
    case reply =>
      exact ⟨fun f i => exec_eventReply_notify hc, fun hn => ⟨exec_eventReply_late hc hn, fun f w t => exec_eventReply_evwait hc hn,
        fun f w r t => exec_eventReply_evtst hc hn⟩⟩
  case bar =>
    intro d a s t x h
    refine ⟨exec_bar_reserved h, fun hx => ⟨exec_bar_outsider h hx, fun j hj h6 hg => ⟨exec_bar_waits h hx hj h6 hg, fun ho ht => ?_,
      fun ho h14 ht => ?_⟩⟩⟩
    · have hh : (x.getLsbD 14 && !s.core.tags.getLsbD (x.toNat / 256 % 64)) = false := by
        obtain h14 | ht := ht
        · rw [getLsbD_of_lt_two_pow h14, Bool.false_and]
        · rw [ht, Bool.not_true, Bool.and_false]
      exact exec_bar h hx hj h6 hg ho hh
    · have hh : (x.getLsbD 14 && !s.core.tags.getLsbD (x.toNat / 256 % 64)) = true := by
        rw [getLsbD_fourteen h14 hx, ht]
        rfl
      exact exec_bar h hx hj h6 hg ho hh
  case brk =>
    intro a s t x h
    refine ⟨exec_barBrk_reserved h, exec_barBrk_noGang h, fun j g hx hj hg => ⟨_, exec_barBrk h hx hj hg, ?_⟩⟩
    obtain ⟨l, hnet, hfrom, hto⟩ := State.breakMembers_net (j.gangHome x.toNat) (s.gangWaits g x.toNat)
      (({ t.advance with jobs := t.jobs.set j.num (j.dropArrivals x.toNat) } : State).cull (Packet.arrivesAt j.num x.toNat))
    refine ⟨fun hno => ?_, ?_, fun p hp w o hev => ?_, fun m hm w hw => ?_⟩
    · have hnil : s.gangWaits g x.toNat = [] := List.filterMap_eq_nil_iff.2 fun m hm => by rw [hno m hm]; rfl
      rw [hnil]
      rfl
    · rw [foldl_keeps (fun u : State => u.jobs) _ (fun u w => u.breakMember_jobs _ w)]
      exact (Tbl.get?_set ..).trans (if_pos rfl)
    · rw [hnet] at hp
      obtain hp | hp := List.mem_append.1 hp
      · exact State.cull_arrivals _ _ _ p hp w o hev
      · exact hfrom p hp w o _ _ hev
    · obtain ⟨p, hp, hd, he⟩ := hto (m, w.op) (List.mem_filterMap.2 ⟨m, hm, by rw [hw]; rfl⟩)
      exact ⟨p, hnet ▸ List.mem_append_right _ hp, hd, he⟩
  case arrival =>
    intro s who op e gang j g hj hg
    exact ⟨exec_barrierArrival_counts hj hg, exec_barrierArrival_last hj hg⟩
  case completion =>
    intro s who op broken hc
    exact ⟨exec_barrierCompletion_late hc, fun f w d g t => exec_barrierCompletion_wait hc⟩

end Sys2Proof.Machine
end

section
/-! ## Tile transfers (06 R197, R198) -/

namespace Sys2Proof.Machine

/-! ### What a first issue uses -/

section FirstIssue
variable {s : State} (hk : s.kept = none)
include hk

theorem State.formats_first : s.formats = s.core.bfmt := by rw [State.formats, hk]

theorem State.peerFormats_first (e : Nat) : s.peerFormats e = (s.coreAt (s.core.endpoint e).peerCore).bfmt.toList := by
  rw [State.peerFormats, hk]
  rfl

/-- A tile operation's first issue uses the record that its handle names. -/
theorem State.tileShape_first {h : DWord} {r : Shape} (hr : s.resolve h = .ok r) (hb : isBlock r.fmt = true → r.cols % 32 = 0)
    (e : Nat) (k : Shape → State) : s.tileShape e h k = k r := by
  have hok : ¬ (isBlock r.fmt && r.cols % 32 != 0) = true := by simpa using hb
  rw [State.tileShape, hk, State.withShape, hr]
  exact if_neg hok

end FirstIssue

/-- The elements of a tile instruction on a record whose tile stands at an offset. -/
def State.tileRun (s : State) (i : Instr) (r : Shape) (off n : Nat) (ends : List TileEnd) : ElemRun :=
  { ElemRun.start i n 0 with shapes := [{ r with base := off }], bfmt := s.core.bfmt, ends := ends }

/-! ### SENDT -/

/-- SENDT with its record and its tile in hand (R197). -/
def State.sendtFrom (s t : State) (e : BitVec 6) (a : Reg) (r : Shape) (off : Nat) : State :=
  let x := s.core.endpoint e.toNat
  let j := t.jobOf t.fib
  let w := (t.newWait (.tile e.toNat) 1 none e.toNat none).counted j
  if x.pkind = 0 ∧ x.mode = false then
    let m := t.messageOn e.toNat (.tile (s.descOf r off) [])
    let u := ((t.setBusyTile e.toNat true).block w).countSend j s.die
    if s.direct x.peerCore m.dst then u.arrive m else u.sendMessage x.peerCore m
  else if x.cnt = 0 then ((t.keepTile e.toNat r).block w).countSend j s.die
  else if x.pkind = 3 then
    if !s.outstanding.isEmpty then s.stall
    else (t.countSend j s.die).sendTile e.toNat (s.tileRun (.sendt e a) r off (linkLayout r).elems [])
  else
    let p := s.sendEnds r off e.toNat s.core.bfmt.toList (s.coreAt x.peerCore).bfmt.toList
    match tileLayout r.rows r.cols p.1 p.2 with
    | .error f => s.raise f
    | .ok l =>
      if ((s.coreAt x.peerCore).endpoint x.pep.toNat).slotBytes < l.dstSpan then s.raise (fltAt 0x14 (BitVec.ofNat 64 e.toNat))
      else (t.countSend j s.die).sendTile e.toNat (s.tileRun (.sendt e a) r off l.elems [p.1, p.2])

section Sendt
variable {s t : State} {e : BitVec 6} {a : Reg} {h : DWord} {r : Shape} {off : Nat}

theorem exec_sendt (hk : s.kept = none) (hr : s.resolve h = .ok r) (hb : isBlock r.fmt = true → r.cols % 32 = 0)
    (hside : s.tileSide r.base ((r.rows - 1) * r.stride + rowBytes r.fmt r.cols) = .ok off)
    (hon : s.OnEntry e.toNat .sendTile ⟨[a], none, false, true⟩ [h] t) (hpg : s.ctx.pg = 0)
    (hbank : reservedBank (bankWords s.core.bfmt.toList off ((r.rows - 1) * r.stride + rowBytes r.fmt r.cols)) = none) :
    exec (.sendt e a) s = .next (s.sendtFrom t e a r off) := by
  change execSendt e a s = _
  rw [execSendt, chanIssue_go hon rfl, arg_zero, State.tileShape_first hk hr hb]
  simp only [State.formats_first hk, State.peerFormats_first hk, hside, hbank, State.raiseMacro_first hpg, hpg, ne_eq, not_true_eq_false,
    if_true, if_false]
  rfl

theorem State.sendtFrom_offer (hp : (s.core.endpoint e.toNat).pkind = 0) (hm : (s.core.endpoint e.toNat).mode = false) :
    s.sendtFrom t e a r off =
      let x := s.core.endpoint e.toNat
      let j := t.jobOf t.fib
      let m := t.messageOn e.toNat (.tile (s.descOf r off) [])
      let u := ((t.setBusyTile e.toNat true).block ((t.newWait (.tile e.toNat) 1 none e.toNat none).counted j)).countSend j s.die
      if s.direct x.peerCore m.dst then u.arrive m else u.sendMessage x.peerCore m := if_pos ⟨hp, hm⟩

/-- Without a credit SENDT waits and keeps its record. -/
theorem State.sendtFrom_noCredit (hp : (s.core.endpoint e.toNat).pkind = 0 → (s.core.endpoint e.toNat).mode = true)
    (hc : (s.core.endpoint e.toNat).cnt = 0) : s.sendtFrom t e a r off =
      ((t.keepTile e.toNat r).block ((t.newWait (.tile e.toNat) 1 none e.toNat none).counted (t.jobOf t.fib))).countSend
        (t.jobOf t.fib) s.die := by
  have hn : ¬ ((s.core.endpoint e.toNat).pkind = 0 ∧ (s.core.endpoint e.toNat).mode = false) :=
    fun h => Bool.false_ne_true (h.2.symm.trans (hp h.1))
  exact (if_neg hn).trans (if_pos hc)

section Link
variable (hp : (s.core.endpoint e.toNat).pkind = 3) (hc : (s.core.endpoint e.toNat).cnt ≠ 0)
include hp hc

theorem State.sendtFrom_link : s.sendtFrom t e a r off =
    if !s.outstanding.isEmpty then s.stall
    else (t.countSend (t.jobOf t.fib) s.die).sendTile e.toNat (s.tileRun (.sendt e a) r off (linkLayout r).elems []) := by
  have hn : ¬ ((s.core.endpoint e.toNat).pkind = 0 ∧ (s.core.endpoint e.toNat).mode = false) :=
    fun h => absurd (hp.symm.trans h.1) (by decide)
  exact (if_neg hn).trans ((if_neg hc).trans (if_pos hp))

theorem State.sendtFrom_link_waits (ho : s.outstanding ≠ []) : s.sendtFrom t e a r off = s.stall :=
  (State.sendtFrom_link hp hc).trans (if_pos (by simpa using ho))

theorem State.sendtFrom_link_starts (ho : s.outstanding = []) : s.sendtFrom t e a r off =
    (t.countSend (t.jobOf t.fib) s.die).sendTile e.toNat (s.tileRun (.sendt e a) r off (linkLayout r).elems []) :=
  (State.sendtFrom_link hp hc).trans (if_neg (by simp [ho]))

end Link

section Restante
variable (hp : (s.core.endpoint e.toNat).pkind = 0) (hm : (s.core.endpoint e.toNat).mode = true)
  (hc : (s.core.endpoint e.toNat).cnt ≠ 0)
include hp hm hc

theorem State.sendtFrom_restante : s.sendtFrom t e a r off =
    let x := s.core.endpoint e.toNat
    let p := s.sendEnds r off e.toNat s.core.bfmt.toList (s.coreAt x.peerCore).bfmt.toList
    match tileLayout r.rows r.cols p.1 p.2 with
    | .error f => s.raise f
    | .ok l =>
      if ((s.coreAt x.peerCore).endpoint x.pep.toNat).slotBytes < l.dstSpan then s.raise (fltAt 0x14 (BitVec.ofNat 64 e.toNat))
      else (t.countSend (t.jobOf t.fib) s.die).sendTile e.toNat (s.tileRun (.sendt e a) r off l.elems [p.1, p.2]) := by
  have hn : ¬ ((s.core.endpoint e.toNat).pkind = 0 ∧ (s.core.endpoint e.toNat).mode = false) :=
    fun h => Bool.false_ne_true (h.2.symm.trans hm)
  have h3 : ¬ (s.core.endpoint e.toNat).pkind = 3 := fun h => absurd (hp.symm.trans h) (by decide)
  exact (if_neg hn).trans ((if_neg hc).trans (if_neg h3))

theorem State.sendtFrom_badLayout {f : Flt} (hl : tileLayout r.rows r.cols
      (s.sendEnds r off e.toNat s.core.bfmt.toList (s.coreAt (s.core.endpoint e.toNat).peerCore).bfmt.toList).1
      (s.sendEnds r off e.toNat s.core.bfmt.toList (s.coreAt (s.core.endpoint e.toNat).peerCore).bfmt.toList).2 = .error f) :
    s.sendtFrom t e a r off = s.raise f := by
  rw [State.sendtFrom_restante hp hm hc]
  dsimp only
  rw [hl]

variable {l : Layout} (hl : tileLayout r.rows r.cols
      (s.sendEnds r off e.toNat s.core.bfmt.toList (s.coreAt (s.core.endpoint e.toNat).peerCore).bfmt.toList).1
      (s.sendEnds r off e.toNat s.core.bfmt.toList (s.coreAt (s.core.endpoint e.toNat).peerCore).bfmt.toList).2 = .ok l)
include hl

theorem State.sendtFrom_slotSmall
    (hs : ((s.coreAt (s.core.endpoint e.toNat).peerCore).endpoint (s.core.endpoint e.toNat).pep.toNat).slotBytes < l.dstSpan) :
    s.sendtFrom t e a r off = s.raise (fltAt 0x14 (BitVec.ofNat 64 e.toNat)) := by
  rw [State.sendtFrom_restante hp hm hc]
  dsimp only
  rw [hl]
  exact if_pos hs

/-- With a credit, and a slot that takes the tile, the elements start. -/
theorem State.sendtFrom_starts
    (hs : l.dstSpan ≤ ((s.coreAt (s.core.endpoint e.toNat).peerCore).endpoint (s.core.endpoint e.toNat).pep.toNat).slotBytes) :
    s.sendtFrom t e a r off =
      let p := s.sendEnds r off e.toNat s.core.bfmt.toList (s.coreAt (s.core.endpoint e.toNat).peerCore).bfmt.toList
      (t.countSend (t.jobOf t.fib) s.die).sendTile e.toNat (s.tileRun (.sendt e a) r off l.elems [p.1, p.2]) := by
  rw [State.sendtFrom_restante hp hm hc]
  dsimp only
  rw [hl]
  exact if_neg (Nat.not_lt.2 hs)

end Restante

end Sendt

/-! ### RECVT -/

section Recvt
variable {s t : State} {d : Reg} {e : BitVec 6} {a : Reg} {h : DWord} {r : Shape} {off : Nat}

/-- RECVT with its record and its tile in hand, by the message at the head of its entry (R197, R198). -/
def State.recvtFrom (s t : State) (d : Reg) (e : BitVec 6) (a : Reg) (r : Shape) (off : Nat) : Option Body → State
  | none => ((t.keepTile e.toNat r).block (t.newWait (.tile e.toNat) 2 none e.toNat none)).sendNotice e.toNat
  | some (.tile q _) =>
    if q.rows ≠ r.rows ∨ q.cols ≠ r.cols then s.raise (fltAt 0x14 (BitVec.ofNat 64 e.toNat))
    else
      let p := s.recvEnds e.toNat q r off s.core.bfmt.toList
      match tileLayout r.rows r.cols p.1 p.2 with
      | .error f => s.raise f
      | .ok l =>
        if p.1.core = s.cid ∧ rangesMeet p.1.off l.srcSpan p.2.off l.dstSpan = true then s.raise (flt 0x02)
        else
          ((((t.markFrom p.1.core s.cid (s.recvChan e.toNat) off (off + l.dstSpan) (l.markAfter off 0)).getD t).setBusyTile e.toNat
            true).startRun l.elems (s.tileRun (.recvt d e a) r off l.elems [p.1, p.2]) State.advance)
  | some b =>
    match t.dstCheck d 0 with
    | .stall => s.stall
    | .fault f => s.raise f
    | .ok => (((t.writeReg d 0).advance).takeMessage e.toNat).consumed e.toNat b (s.jobOf s.fib)

theorem exec_recvt (hk : s.kept = none) (hr : s.resolve h = .ok r) (hb : isBlock r.fmt = true → r.cols % 32 = 0)
    (hside : s.tileSide r.base ((r.rows - 1) * r.stride + rowBytes r.fmt r.cols) = .ok off)
    (hon : s.OnEntry e.toNat .recvTile ⟨[a], some d, false, true⟩ [h] t) (hpg : s.ctx.pg = 0) :
    exec (.recvt d e a) s = .next (s.recvtFrom t d e a r off (t.headMessage e.toNat)) := by
  have h0 : bits (0 : DWord) 0 48 = 0 := by decide
  change execRecvt d e a s = _
  rw [execRecvt, chanIssue_go hon rfl, arg_zero, State.tileShape_first hk hr hb]
  simp only [State.formats_first hk, hside, State.raiseMacro_first hpg, hpg, h0, ne_eq, not_true_eq_false, if_false]
  cases t.headMessage e.toNat with
  | none => rfl
  | some b => cases b <;> rfl

section Tile
variable {q : TileDesc} {data : List Byte}

theorem State.recvtFrom_otherSize (hq : q.rows ≠ r.rows ∨ q.cols ≠ r.cols) :
    s.recvtFrom t d e a r off (some (.tile q data)) = s.raise (fltAt 0x14 (BitVec.ofNat 64 e.toNat)) := if_pos hq

variable (hrows : q.rows = r.rows) (hcols : q.cols = r.cols) {l : Layout}
  (hl : tileLayout r.rows r.cols (s.recvEnds e.toNat q r off s.core.bfmt.toList).1
    (s.recvEnds e.toNat q r off s.core.bfmt.toList).2 = .ok l)
include hrows hcols hl

theorem State.recvtFrom_tile : s.recvtFrom t d e a r off (some (.tile q data)) =
    let p := s.recvEnds e.toNat q r off s.core.bfmt.toList
    if p.1.core = s.cid ∧ rangesMeet p.1.off l.srcSpan p.2.off l.dstSpan = true then s.raise (flt 0x02)
    else
      ((((t.markFrom p.1.core s.cid (s.recvChan e.toNat) off (off + l.dstSpan) (l.markAfter off 0)).getD t).setBusyTile e.toNat
        true).startRun l.elems (s.tileRun (.recvt d e a) r off l.elems [p.1, p.2]) State.advance) := by
  have hsize : ¬ (q.rows ≠ r.rows ∨ q.cols ≠ r.cols) := by simp [hrows, hcols]
  rw [State.recvtFrom, if_neg hsize]
  dsimp only
  rw [hl]

/-- A tile may not be received onto itself. -/
theorem State.recvtFrom_meets (hc : (s.recvEnds e.toNat q r off s.core.bfmt.toList).1.core = s.cid)
    (hm : rangesMeet (s.recvEnds e.toNat q r off s.core.bfmt.toList).1.off l.srcSpan
      (s.recvEnds e.toNat q r off s.core.bfmt.toList).2.off l.dstSpan = true) :
    s.recvtFrom t d e a r off (some (.tile q data)) = s.raise (flt 0x02) :=
  (State.recvtFrom_tile hrows hcols hl).trans (if_pos ⟨hc, hm⟩)

theorem State.recvtFrom_starts (hm : (s.recvEnds e.toNat q r off s.core.bfmt.toList).1.core = s.cid →
      rangesMeet (s.recvEnds e.toNat q r off s.core.bfmt.toList).1.off l.srcSpan
        (s.recvEnds e.toNat q r off s.core.bfmt.toList).2.off l.dstSpan = false) :
    s.recvtFrom t d e a r off (some (.tile q data)) =
      let p := s.recvEnds e.toNat q r off s.core.bfmt.toList
      ((((t.markFrom p.1.core s.cid (s.recvChan e.toNat) off (off + l.dstSpan) (l.markAfter off 0)).getD t).setBusyTile e.toNat
        true).startRun l.elems (s.tileRun (.recvt d e a) r off l.elems [p.1, p.2]) State.advance) :=
  (State.recvtFrom_tile hrows hcols hl).trans (if_neg fun h => Bool.false_ne_true ((hm h.1).symm.trans h.2))

end Tile

theorem State.recvtFrom_last (hd : t.dstCheck d 0 = .ok) : s.recvtFrom t d e a r off (some .last) =
    (((t.writeReg d 0).advance).takeMessage e.toNat).consumed e.toNat .last (s.jobOf s.fib) := by
  rw [State.recvtFrom, hd]
  exact fun _ _ => Body.noConfusion

end Recvt

/-! ### The elements (R198) -/

/-- The instruction in turn has performed its last element. -/
def State.runDone (s : State) : State := (s.setMe { s.me with run := none, fib := { s.fib with snap := none } }).setCtx { s.ctx with pg := 0 }

theorem State.stepRun_done {s : State} {r : ElemRun} (h : r.n ≤ r.k + 1) (fin : State → State) : s.stepRun r fin = fin s.runDone :=
  if_neg (Nat.not_lt.2 h)

section Elements
variable {s t u : State} {r : ElemRun} {sh : Shape} {a b : TileEnd} {l : Layout} {v : List Byte × Option Nat × Counts}
  (hsh : r.shapes = [sh]) (hends : r.ends = [a, b]) (hl : tileLayout sh.rows sh.cols a b = .ok l) (hv : s.tileElem l a r.k = some v)
include hsh hends hl hv

/-- The message of the last element of a SENDT: its rows stand in the slot in the format they were converted into (03 R85). -/
def State.tileMessage (s : State) (e : Nat) (sh : Shape) (a b : TileEnd) (l : Layout) : ChanMsg :=
  s.messageOn e (.tile { s.descOf sh sh.base with
    bf := a.bf, stride := b.stride, base := 0, fmt := (l.conv.map fun c => wordFmt c.2).getD sh.fmt } [])

/-- An element of a SENDT that may go stands at its destination, the watermark behind it. -/
theorem State.sendtElem_passes {e : BitVec 6}
    (hpass : s.mayPass s.cid b.core (bankPlace b.core (b.off + (l.elem r.k).2.2.1)) = some u)
    (hmark : u.markArrival b.core (tileChan e.toNat) b.off (b.off + l.dstSpan) (l.markAfter b.off (r.k + 1)) = some t)
    (hm : ((s.coreAt b.core).endpoint (s.core.endpoint e.toNat).pep.toNat).refuses (s.tileMessage e.toNat sh a b l) = false) :
    s.sendtElem r e.toNat = (t.putElem l b r.k v).stepRun r fun y =>
      let z := (y.modCore b.core fun c => c.dropArrival s.cid (tileChan e.toNat)).sentTile e.toNat
      (({ z with nextId := z.nextId + 1 } : State).sendMessage b.core (s.tileMessage e.toNat sh a b l)).advance := by
  rw [State.sendtElem, hsh, hends]
  dsimp only
  rw [hl]
  dsimp only
  rw [hv, hpass]
  dsimp only [Option.bind_some]
  rw [hmark]
  have hput : (if ((s.coreAt b.core).endpoint (s.core.endpoint e.toNat).pep.toNat).refuses (s.tileMessage e.toNat sh a b l) then t
      else t.putElem l b r.k v) = t.putElem l b r.k v := if_neg (Bool.eq_false_iff.1 hm)
  rw [← hput]
  rfl

variable {d : Reg} {e : BitVec 6} {q : TileDesc} {data : List Byte} (hq : s.headMessage e.toNat = some (.tile q data))
  (hpass : s.mayPass a.core s.cid (bankPlace s.cid (b.off + (l.elem r.k).2.2.1)) = some u)
  (hmark : u.markFrom a.core s.cid (s.recvChan e.toNat) b.off (b.off + l.dstSpan) (l.markAfter b.off (r.k + 1)) = some t)
include hq hpass hmark

/-- An element of a RECVT that may come stands at its destination; the last waits for room in d. -/
theorem State.recvtElem_passes (hd : ¬ (r.k + 1 = r.n ∧ s.dstCheck d (BitVec.ofNat 64 (sh.rows * l.dstRow)) = .stall)) :
    s.recvtElem r d e.toNat = (t.putElem l b r.k v).stepRun r fun y =>
      let z := ({ y with core := y.core.dropArrival a.core (s.recvChan e.toNat) } : State).setBusyTile e.toNat false
      match z.dstCheck d (BitVec.ofNat 64 (sh.rows * l.dstRow)) with
      | .fault f => z.raise f
      | _ => (((z.writeReg d (BitVec.ofNat 64 (sh.rows * l.dstRow))).advance).takeMessage e.toNat).consumed e.toNat (.tile q data)
        (s.jobOf s.fib) := by
  rw [State.recvtElem, hsh, hends, hq]
  dsimp only
  rw [hl]
  dsimp only
  rw [hv, hpass]
  dsimp only [Option.bind_some]
  rw [hmark]
  exact if_neg hd

end Elements

/-- What is done where d takes a word, unless it cannot be written. -/
theorem State.onRoom_ok {z : State} {d : Reg} {n : DWord} (h : z.dstCheck d n = .ok) (y : State) :
    (match z.dstCheck d n with
      | .fault f => z.raise f
      | _ => y) = y := by rw [h]

/-- Settles O24: SENDT and RECVT at their first issue, by the mode and the message of their entry, and their elements. -/
theorem tileTransfers : Obligations.TileTransfers := by
  unfold Obligations.TileTransfers
  refine ⟨?issue, ?elements⟩
  case issue =>
    intro e d a s t h r off hk hr hb hside
    refine ⟨fun hon hpg hbank => ?sendt, fun hon hpg => ?recvt⟩
    case sendt =>
      intro x j w run
      rw [exec_sendt hk hr hb hside hon hpg hbank]
      refine ⟨fun hp hm => congrArg _ (State.sendtFrom_offer hp hm), fun hp hc => congrArg _ (State.sendtFrom_noCredit hp hc),
        fun hp hc => ⟨fun ho => congrArg _ (State.sendtFrom_link_waits hp hc ho),
          fun ho => congrArg _ (State.sendtFrom_link_starts hp hc ho)⟩, fun hp hm hc => ?_⟩
      exact ⟨fun f hl => congrArg _ (State.sendtFrom_badLayout hp hm hc hl), fun l hl =>
        ⟨fun hs => congrArg _ (State.sendtFrom_slotSmall hp hm hc hl hs), fun hs => congrArg _ (State.sendtFrom_starts hp hm hc hl hs)⟩⟩
    case recvt =>
      rw [exec_recvt hk hr hb hside hon hpg]
      refine ⟨fun hn => ?_, fun hlast hd => ?_, fun q data hq => ⟨fun hsize => ?_, fun hrows hcols => ?_⟩⟩
      · rw [hn]
        rfl
      · rw [hlast, State.recvtFrom_last hd]
      · rw [hq, State.recvtFrom_otherSize hsize]
      · intro p l hl
        rw [hq]
        exact ⟨fun hc hm => congrArg _ (State.recvtFrom_meets hrows hcols hl hc hm),
          fun hm => congrArg _ (State.recvtFrom_starts hrows hcols hl hm)⟩
  case elements =>
    intro e s t u r sh a b l v hsh hends hl hv x done fmt m
    refine ⟨fun hpass hmark hm => ?sendt, fun d q data hq hpass hmark => ?recvt⟩
    case sendt =>
      rw [State.sendtElem_passes hsh hends hl hv hpass hmark hm]
      exact ⟨fun hmore => State.stepRun_more hmore _, fun hlast => State.stepRun_done hlast _⟩
    case recvt =>
      refine ⟨fun hmore => ?_, fun hlast hd => ?_⟩
      · rw [State.recvtElem_passes hsh hends hl hv hq hpass hmark fun h => absurd h.1 (Nat.ne_of_lt hmore)]
        exact State.stepRun_more hmore _
      · intro z hz
        rw [State.recvtElem_passes hsh hends hl hv hq hpass hmark fun h => hd h.2, State.stepRun_done (Nat.le_of_eq hlast.symm)]
        exact State.onRoom_ok hz _

end Sys2Proof.Machine
end

section
/-! ## POST and its arrival (07 R226 to R229, R240) -/

namespace Sys2Proof.Machine

/-! ### A message at its port (R227 to R229) -/

section AtPort
variable {s : State} {m : PostMsg} {p : Port}

/-- A message joins the queue of its port. -/
def State.queuePost (s : State) (m : PostMsg) (p : Port) : State :=
  { s with core := s.core.setPort m.port { p with fifo := p.fifo ++ [m.word] } }

/-- A message sets the word of its counter port, which it arms. -/
def State.countPost (s : State) (m : PostMsg) (p : Port) : State :=
  let u := s.spWrite s.cid p.woff (leBytes m.word.toNat 8)
  ({ u with core := u.core.setPort m.port { p with arm := true } } : State).countConsume m.job s.die

/-- A message enters the overflow latch, which raises PORT_OVERFLOW (R228). -/
def State.latchPost (s : State) (m : PostMsg) (p : Port) : State :=
  ({ s with core := { (s.core.setPort m.port p) with latch := some m } } : State).coreTrap 0x0B (whoHandle m.who) (BitVec.ofNat 64 m.port)
    [BitVec.ofNat 64 (m.port + bits (whoHandle m.who) 0 23 * 2 ^ 32), m.word]

/-- A message joins the wait list of its port. -/
def State.listPost (s : State) (m : PostMsg) (p : Port) : State :=
  { s with core := s.core.setPort m.port { p with waiting := p.waiting ++ [m] } }

theorem State.takePost_counter (hc : p.counter = true) : s.takePost m p = some (s.countPost m p) := if_pos hc

theorem State.takePost_room (hc : p.counter = false) (hr : p.fifo.length + p.held < p.depth) : s.takePost m p = some (s.queuePost m p) := by
  rw [State.takePost, if_neg (Bool.eq_false_iff.1 hc), if_pos hr]
  rfl

/-- At a full queue port the free overflow latch decides. -/
theorem State.takePost_full (hc : p.counter = false) (hd : p.depth ≤ p.fifo.length + p.held) : s.takePost m p =
    if p.ovf = true ∧ s.core.latch = none ∧ s.core.trapsFull = false then some (s.latchPost m p) else none := by
  rw [State.takePost, if_neg (Bool.eq_false_iff.1 hc), if_neg (Nat.not_lt.2 hd)]
  rfl

theorem State.takePost_latch (hc : p.counter = false) (hd : p.depth ≤ p.fifo.length + p.held) (ho : p.ovf = true)
    (hl : s.core.latch = none) (ht : s.core.trapsFull = false) : s.takePost m p = some (s.latchPost m p) :=
  (State.takePost_full hc hd).trans (if_pos ⟨ho, hl, ht⟩)

theorem State.takePost_none (hc : p.counter = false) (hd : p.depth ≤ p.fifo.length + p.held)
    (hw : p.ovf = false ∨ s.core.latch ≠ none ∨ s.core.trapsFull = true) : s.takePost m p = none := by
  refine (State.takePost_full hc hd).trans (if_neg fun ⟨ho, hl, ht⟩ => ?_)
  obtain h | h | h := hw
  · exact Bool.false_ne_true (h.symm.trans ho)
  · exact h hl
  · exact Bool.false_ne_true (ht.symm.trans h)

theorem State.offerPost_unconfigured (hp : s.core.ports.get? m.port = none) : s.offerPost m = .refused := by
  rw [State.offerPost, Core.port?, hp]

variable (hp : s.core.ports.get? m.port = some p)
include hp

theorem State.offerPost_behind (hw : s.core.postsWait p = true) : s.offerPost m = .waiting (s.listPost m p) := by
  rw [State.offerPost, Core.port?, hp]
  dsimp only
  rw [if_pos hw]
  rfl

theorem State.offerPost_accepted {u : State} (hw : s.core.postsWait p = false) (ht : s.takePost m p = some u) :
    s.offerPost m = .accepted u := by
  rw [State.offerPost, Core.port?, hp]
  dsimp only
  rw [if_neg (Bool.eq_false_iff.1 hw), ht]

theorem State.offerPost_waiting (hw : s.core.postsWait p = false) (ht : s.takePost m p = none) :
    s.offerPost m = .waiting (s.listPost m p) := by
  rw [State.offerPost, Core.port?, hp]
  dsimp only
  rw [if_neg (Bool.eq_false_iff.1 hw), ht]
  rfl

end AtPort

/-! ### The arrival -/

section Arrival
variable {s u : State} {m : PostMsg}

theorem exec_postArrival_refused (h : s.offerPost m = .refused) :
    exec (.postArrival m) s = .next ((s.tellSender m 0x14).countConsume m.job s.die) := by
  change execPostArrival m s = _
  rw [execPostArrival, h]
  rfl

theorem exec_postArrival_accepted (h : s.offerPost m = .accepted u) : exec (.postArrival m) s = .next (u.tellSender m 0) := by
  change execPostArrival m s = _
  rw [execPostArrival, h]

theorem exec_postArrival_waiting (h : s.offerPost m = .waiting u) : exec (.postArrival m) s = .next u := by
  change execPostArrival m s = _
  rw [execPostArrival, h]

end Arrival

/-! ### POST -/

section Post
variable {s t : State} {d a : Reg} {pt : BitVec 6} {w x : DWord}

/-- The message of a POST: s before its pops, t after them. -/
def State.postMsg (s t : State) (port : Nat) (w : DWord) : PostMsg :=
  { who := t.self, op := t.nextId, port := port, word := w, wait := true, job := t.jobOf t.fib, srcDie := s.die }

/-- The wait of a POST. -/
def State.postWait (t : State) (ws : List (Reg × DWord)) (reason : Nat) : Wait :=
  ((t.newWait .post reason none 0 none).keeps ws).counted (t.jobOf t.fib)

/-- A POST on its own core by what its message comes to at its port. -/
def State.postEnd (s : State) (m : PostMsg) (w : Wait) : PostOut → State
  | .refused => s.raise (fltAt 0x14 (BitVec.ofNat 64 m.port))
  | .accepted u => (u.countSend m.job s.die).advance
  | .waiting u => (u.countSend m.job s.die).holdSlot w

theorem State.postTo_unperformed {ws : List (Reg × DWord)} {port : Nat} (ho : s.outstanding ≠ []) :
    s.postTo t ws .post none 0 s.cid port w = s.stall := by
  rw [State.postTo, if_pos rfl, if_pos (not_isEmpty_of_ne_nil ho)]
  rfl

theorem State.postTo_own {ws : List (Reg × DWord)} {port : Nat} (ho : s.outstanding = []) :
    s.postTo t ws .post none 0 s.cid port w =
      s.postEnd (s.postMsg t port w) (t.postWait ws 0) (t.offerPost (s.postMsg t port w)) := by
  rw [State.postTo, if_pos rfl, if_neg (by simp [ho])]
  rfl

variable (h : s.Ready ⟨[a, d], none, false, false⟩ [w, x] t)
include h

/-- POST behind its gate: the checks of the handle and of the partition, then the delivery (R226). -/
theorem exec_post : exec (.post d pt a) s = .next (
    if bits x 0 8 ≠ 0 ∨ bits x 23 41 ≠ 0 ∨ bits x 8 12 > 2303 then s.raise (flt 0x02)
    else if !s.core.inPart1 (handleCore x) then s.raise (fltAt 0x06 x)
    else s.postTo t (queueWords [a, d] [w, x]) .post none 0 (handleCore x) pt.toNat w) := issue_go h

theorem exec_post_reserved (hx : x.toNat % 256 ≠ 0 ∨ 2 ^ 23 ≤ x.toNat ∨ 2303 < x.toNat / 2 ^ 8 % 4096) :
    exec (.post d pt a) s = .next (s.raise (flt 0x02)) := by
  rw [exec_post h, if_pos]
  rwa [bits_zero, bits_top_ne_zero_iff x rfl, bits_eq_div_mod]

variable (h8 : x.toNat % 256 = 0) (h23 : x.toNat < 2 ^ 23) (hcore : x.toNat / 2 ^ 8 % 4096 ≤ 2303)
include h8 h23 hcore

/-- POST with a well-formed handle. -/
theorem exec_post_handle : exec (.post d pt a) s = .next (
    if !s.core.inPart1 (handleCore x) then s.raise (fltAt 0x06 x)
    else s.postTo t (queueWords [a, d] [w, x]) .post none 0 (handleCore x) pt.toNat w) := by
  have hbits : ¬ (bits x 0 8 ≠ 0 ∨ bits x 23 41 ≠ 0 ∨ bits x 8 12 > 2303) := by
    rw [bits_zero, bits_top_ne_zero_iff x rfl, bits_eq_div_mod]
    omega
  rw [exec_post h, if_neg hbits]

theorem exec_post_outside (hp : s.core.inPart1 (handleCore x) = false) : exec (.post d pt a) s = .next (s.raise (fltAt 0x06 x)) := by
  rw [exec_post_handle h h8 h23 hcore, hp]
  rfl

variable (hp : s.core.inPart1 (handleCore x) = true)
include hp

theorem exec_post_inside : exec (.post d pt a) s =
    .next (s.postTo t (queueWords [a, d] [w, x]) .post none 0 (handleCore x) pt.toNat w) := by
  rw [exec_post_handle h h8 h23 hcore, hp]
  rfl

variable (hc : handleCore x = s.cid)
include hc

theorem exec_post_unperformed (ho : s.outstanding ≠ []) : exec (.post d pt a) s = .next s.stall := by
  rw [exec_post_inside h h8 h23 hcore hp, hc, State.postTo_unperformed ho]

/-- POST to a port of its own core, once the earlier accesses are performed (R240). -/
theorem exec_post_own (ho : s.outstanding = []) : exec (.post d pt a) s = .next (s.postEnd (s.postMsg t pt.toNat w)
    (t.postWait (queueWords [a, d] [w, x]) 0) (t.offerPost (s.postMsg t pt.toNat w))) := by
  rw [exec_post_inside h h8 h23 hcore hp, hc, State.postTo_own ho]

end Post

theorem handleCore_eq (x : DWord) : handleCore x = x.toNat / 2 ^ 8 % 4096 + 2304 * (x.toNat / 2 ^ 20 % 8) := by
  rw [handleCore, bits_eq_div_mod, bits_eq_div_mod]
  omega

/-- Settles O26: POST by the checks of its handle and by what its message comes to at the port, and the same of an arriving message. -/
theorem posts : Obligations.Posts := by
  unfold Obligations.Posts
  refine ⟨?post, ?arrival⟩
  case post =>
    intro d a pt s t w x h core j m wait
    have hcore : core = handleCore x := (handleCore_eq x).symm
    refine ⟨exec_post_reserved h, fun h8 h23 h12 => ?_⟩
    rw [hcore]
    refine ⟨exec_post_outside h h8 h23 h12, fun hin => ⟨fun haway => ?_, fun hown => exec_post_unperformed h h8 h23 h12 hin hown,
      fun hown ho => ?_⟩⟩
    · rw [exec_post_inside h h8 h23 h12 hin]
      exact congrArg _ (State.postTo_away haway)
    · rw [exec_post_own h h8 h23 h12 hin hown ho]
      refine ⟨fun hp => ?_, fun p hp hw => ⟨fun hc hr => ?_, fun hc => ?_, fun hc hd hb => ?_⟩⟩
      · exact congrArg _ (congrArg _ (State.offerPost_unconfigured hp))
      · exact congrArg _ (congrArg _ (State.offerPost_accepted hp hw (State.takePost_room hc hr)))
      · exact congrArg _ (congrArg _ (State.offerPost_accepted hp hw (State.takePost_counter hc)))
      · exact congrArg _ (congrArg _ (State.offerPost_waiting hp hw (State.takePost_none hc hd (.inl hb))))
  case arrival =>
    intro s m
    refine ⟨fun hp => exec_postArrival_refused (State.offerPost_unconfigured hp), fun p hp => ⟨fun hw => ?_, fun hw hc => ?_,
      fun hw hc => ⟨fun hr => ?_, fun hd => ⟨fun hwait => ?_, fun ho hl ht => ?_⟩⟩⟩⟩
    · exact exec_postArrival_waiting (State.offerPost_behind hp hw)
    · exact exec_postArrival_accepted (State.offerPost_accepted hp hw (State.takePost_counter hc))
    · exact exec_postArrival_accepted (State.offerPost_accepted hp hw (State.takePost_room hc hr))
    · exact exec_postArrival_waiting (State.offerPost_waiting hp hw (State.takePost_none hc hd hwait))
    · rw [exec_postArrival_accepted (State.offerPost_accepted hp hw (State.takePost_latch hc hd ho hl ht)), State.latchPost, bits_zero]

end Sys2Proof.Machine
end

section
/-! ## PCFG and the row instructions (07 R222, R223, R230, R231) -/

namespace Sys2Proof.Machine

/-! ### What the gate and a completion leave of the ports and rows -/

@[simp] theorem State.advance_ports (s : State) : s.advance.core.ports = s.core.ports := by
  rw [State.advance_eq]
  rfl

@[simp] theorem State.advance_rows (s : State) : s.advance.core.rows = s.core.rows := by
  rw [State.advance_eq]
  rfl

theorem State.popReg_ports {s t : State} {r : Reg} {v : DWord} (h : s.popReg r = some (v, t)) : t.core.ports = s.core.ports := by
  cases r <;> simp only [State.popReg] at h <;> (repeat' split at h) <;> simp at h <;> (obtain ⟨-, rfl⟩ := h; simp)

theorem State.popAll_ports {s t : State} {rs : List Reg} {vs : List DWord} (h : s.popAll rs = some (vs, t)) : t.core.ports = s.core.ports := by
  induction rs generalizing s vs with
  | nil =>
    simp only [State.popAll] at h
    grind
  | cons r rs ih =>
    simp only [State.popAll] at h
    grind [State.popReg_ports]

/-! ### The fields of a port descriptor (Table 7-1) -/

theorem leWord_leBytes (n : Nat) : leWord (leBytes n 8) = BitVec.ofNat 64 n := by
  apply BitVec.eq_of_toNat_eq
  rw [leWord, leNat_leBytes, BitVec.toNat_ofNat, BitVec.toNat_ofNat]
  omega

theorem bits_ofNat {n : Nat} (h : n < 2 ^ 64) (lo len : Nat) : bits (BitVec.ofNat 64 n) lo len = n / 2 ^ lo % 2 ^ len := by
  rw [bits_eq_div_mod, BitVec.toNat_ofNat, Nat.mod_eq_of_lt h]

theorem getLsbD_ofNat_of_lt (n : Nat) {i : Nat} (h : i < 64) : (BitVec.ofNat 64 n).getLsbD i = decide (n / 2 ^ i % 2 = 1) := by
  rw [BitVec.getLsbD_ofNat, decide_eq_true h, Bool.true_and, Nat.testBit_eq_decide_div_mod_eq]

/-- The descriptor of a queue port. -/
def queueDescriptor (ovf : Bool) (depth : Nat) : DWord := BitVec.ofNat 64 (1 + ovf.toNat * 4 + depth * 8)

/-- The descriptor of a counter port. -/
def counterDescriptor (arm : Bool) (w : Nat) : DWord := BitVec.ofNat 64 (3 + arm.toNat * 2 ^ 9 + w * 2 ^ 16)

/-- A descriptor with its reserved fields 0 asks for a queue port of depth + 1 slots. -/
structure DescribesQueue (d : DWord) (ovf : Bool) (depth : Nat) : Prop where
  en : d.getLsbD 0 = true
  kind : d.getLsbD 1 = false
  ovf : d.getLsbD 2 = ovf
  depth : bits d 3 6 = depth
  fields : portReserved d = false

/-- A descriptor with its reserved fields 0 asks for a counter port bound to the word at w. -/
structure DescribesCounter (d : DWord) (arm : Bool) (w : Nat) : Prop where
  en : d.getLsbD 0 = true
  kind : d.getLsbD 1 = true
  arm : d.getLsbD 9 = arm
  woff : bits d 16 16 = w
  fields : portReserved d = false

theorem queueDescriptor_describes (ovf : Bool) {depth : Nat} (h : depth < 64) : DescribesQueue (queueDescriptor ovf depth) ovf depth := by
  have ho := Bool.toNat_le ovf
  have hlt : 1 + ovf.toNat * 4 + depth * 8 < 2 ^ 64 := by omega
  have h0 : (queueDescriptor ovf depth).getLsbD 0 = true := (getLsbD_ofNat_of_lt _ (by decide)).trans (decide_eq_true (by omega))
  have h1 : (queueDescriptor ovf depth).getLsbD 1 = false := (getLsbD_ofNat_of_lt _ (by decide)).trans (decide_eq_false (by omega))
  have h9 : (queueDescriptor ovf depth).getLsbD 9 = false := (getLsbD_ofNat_of_lt _ (by decide)).trans (decide_eq_false (by omega))
  have hb (lo len : Nat) : bits (queueDescriptor ovf depth) lo len = (1 + ovf.toNat * 4 + depth * 8) / 2 ^ lo % 2 ^ len := bits_ofNat hlt lo len
  refine ⟨h0, h1, (getLsbD_ofNat_of_lt _ (by decide)).trans ?_, ?_, ?_⟩
  · cases ovf <;> simp <;> omega
  · rw [hb]
    omega
  · simp only [portReserved, hb, h0, h1, h9]
    simp
    omega

theorem counterDescriptor_describes (arm : Bool) {w : Nat} (h : w < 2 ^ 16) : DescribesCounter (counterDescriptor arm w) arm w := by
  have ha := Bool.toNat_le arm
  have hlt : 3 + arm.toNat * 2 ^ 9 + w * 2 ^ 16 < 2 ^ 64 := by omega
  have h0 : (counterDescriptor arm w).getLsbD 0 = true := (getLsbD_ofNat_of_lt _ (by decide)).trans (decide_eq_true (by omega))
  have h1 : (counterDescriptor arm w).getLsbD 1 = true := (getLsbD_ofNat_of_lt _ (by decide)).trans (decide_eq_true (by omega))
  have h2 : (counterDescriptor arm w).getLsbD 2 = false := (getLsbD_ofNat_of_lt _ (by decide)).trans (decide_eq_false (by omega))
  have hb (lo len : Nat) : bits (counterDescriptor arm w) lo len = (3 + arm.toNat * 2 ^ 9 + w * 2 ^ 16) / 2 ^ lo % 2 ^ len := bits_ofNat hlt lo len
  refine ⟨h0, h1, (getLsbD_ofNat_of_lt _ (by decide)).trans ?_, ?_, ?_⟩
  · cases arm <;> simp <;> omega
  · rw [hb]
    omega
  · simp only [portReserved, hb, h0, h1, h2]
    simp
    omega

/-! ### PCFG (R223) -/

section Pcfg
variable {s t : State} {pt : BitVec 6} {a : Reg} {ea : DWord} {off : Nat}

/-- The queue port and the counter port of a descriptor. -/
def queuePort (d : DWord) : Port :=
  { counter := false, ovf := d.getLsbD 2, depth := bits d 3 6 + 1, arm := false, woff := 0, fifo := [], held := 0, waiting := [] }
def counterPort (d : DWord) : Port :=
  { counter := true, ovf := false, depth := 0, arm := d.getLsbD 9, woff := bits d 16 16, fifo := [], held := 0, waiting := [] }

/-- The core with a port unconfigured. -/
def Core.freePort (c : Core) (i : Nat) : Core := { c with ports := c.ports.erase i }

/-- A counter port is bound to its word unless another port is (R223). -/
def State.bindCounter (s t : State) (i : Nat) (d : DWord) : State :=
  match s.checkScratch (BitVec.ofNat 64 (bits d 16 16)) 8 with
  | .error f => s.raise f
  | .ok _ =>
    if (t.core.freePort i).ports.any fun p => p.2.counter && p.2.woff == bits d 16 16 then s.raise (fltAt 0x14 (BitVec.ofNat 64 i))
    else ({ t with core := (t.core.freePort i).setPort i (counterPort d) } : State).advance

/-- PCFG of port i with its descriptor read: s before the pops, t after them. -/
def State.configure (s t : State) (i : Nat) (d : DWord) : State :=
  if portReserved d then s.raise (flt 0x02)
  else if s.core.namedByRow i || !s.portIdle i then s.raise (fltAt 0x14 (BitVec.ofNat 64 i))
  else if !d.getLsbD 0 then ({ t with core := t.core.freePort i } : State).advance
  else if !d.getLsbD 1 then
    if s.core.slotsUsed i + bits d 3 6 + 1 > 256 then s.raise (fltAt 0x14 (BitVec.ofNat 64 i))
    else ({ t with core := (t.core.freePort i).setPort i (queuePort d) } : State).advance
  else s.bindCounter t i d

section Checked
variable {i : Nat} {d : DWord}

theorem State.configure_reserved (hr : portReserved d = true) : s.configure t i d = s.raise (flt 0x02) := if_pos hr

variable (hr : portReserved d = false)
include hr

theorem State.configure_inUse (hu : s.core.namedByRow i = true ∨ s.portIdle i = false) :
    s.configure t i d = s.raise (fltAt 0x14 (BitVec.ofNat 64 i)) := by
  rw [State.configure, if_neg (Bool.eq_false_iff.1 hr), if_pos (by simpa using hu)]

variable (hn : s.core.namedByRow i = false) (hi : s.portIdle i = true)
include hn hi

/-- An idle port that no enabled row names takes what its descriptor says. -/
theorem State.configure_idle : s.configure t i d =
    if !d.getLsbD 0 then ({ t with core := t.core.freePort i } : State).advance
    else if !d.getLsbD 1 then
      if s.core.slotsUsed i + bits d 3 6 + 1 > 256 then s.raise (fltAt 0x14 (BitVec.ofNat 64 i))
      else ({ t with core := (t.core.freePort i).setPort i (queuePort d) } : State).advance
    else s.bindCounter t i d := by
  rw [State.configure, if_neg (Bool.eq_false_iff.1 hr), if_neg (by simp [hn, hi])]

theorem State.configure_removes (h0 : d.getLsbD 0 = false) :
    s.configure t i d = ({ t with core := t.core.freePort i } : State).advance := by
  rw [State.configure_idle hr hn hi, h0]
  rfl

theorem State.configure_queue (h0 : d.getLsbD 0 = true) (h1 : d.getLsbD 1 = false) (hroom : s.core.slotsUsed i + bits d 3 6 + 1 ≤ 256) :
    s.configure t i d = ({ t with core := (t.core.freePort i).setPort i (queuePort d) } : State).advance := by
  rw [State.configure_idle hr hn hi, h0, h1]
  exact if_neg (Nat.not_lt.2 hroom)

theorem State.configure_counter (h0 : d.getLsbD 0 = true) (h1 : d.getLsbD 1 = true) {o : Nat}
    (hc : s.checkScratch (BitVec.ofNat 64 (bits d 16 16)) 8 = .ok o)
    (hfree : ∀ q ∈ t.core.ports, q.1 ≠ i → q.2.counter = true → q.2.woff ≠ bits d 16 16) :
    s.configure t i d = ({ t with core := (t.core.freePort i).setPort i (counterPort d) } : State).advance := by
  rw [State.configure_idle hr hn hi, h0, h1]
  change s.bindCounter t i d = _
  rw [State.bindCounter, hc]
  refine if_neg fun hany => ?_
  obtain ⟨q, hq, hbound⟩ := List.any_eq_true.1 hany
  obtain ⟨hmem, hne⟩ := List.mem_filter.1 hq
  obtain ⟨hcount, hw⟩ := Bool.and_eq_true_iff.1 hbound
  exact hfree q hmem (by simpa using hne) hcount (eq_of_beq hw)

end Checked

theorem Core.get?_setPort (c : Core) (i : Nat) (p : Port) : (c.setPort i p).ports.get? i = some p :=
  (Tbl.get?_set ..).trans (if_pos rfl)

theorem Core.get?_freePort (c : Core) (i : Nat) : (c.freePort i).ports.get? i = none :=
  (Tbl.get?_erase ..).trans (if_pos rfl)

/-- A port that is configured, or taken away, as the instruction completes. -/
theorem State.advance_setPort (t : State) (c : Core) (i : Nat) (p : Port) :
    ({ t with core := c.setPort i p } : State).advance.core.ports.get? i = some p := by
  rw [State.advance_ports]
  exact c.get?_setPort i p

theorem State.advance_freePort (t : State) (c : Core) (i : Nat) :
    ({ t with core := c.freePort i } : State).advance.core.ports.get? i = none := by
  rw [State.advance_ports]
  exact c.get?_freePort i

variable (h : s.Ready ⟨[a], none, false, false⟩ [ea] t) (hc : s.checkScratch ea 8 = .ok off)
include h hc

theorem exec_pcfg_waits (hw : s.heldByAcquire = true ∨ s.core.rangeStall s.cid off 8 = true) : exec (.pcfg pt a) s = .next s.stall := by
  change execPcfg pt a s = _
  rw [execPcfg, issue_go h, arg_zero, hc]
  exact congrArg _ (if_pos (by simpa using hw))

theorem exec_pcfg (ha : s.heldByAcquire = false) (hst : s.core.rangeStall s.cid off 8 = false) (hp : s.core.poisoned off 8 = false) :
    exec (.pcfg pt a) s = .next (s.configure t pt.toNat (leWord (memBytes s.mem (spHome s.cid off) 8))) := by
  change execPcfg pt a s = _
  rw [execPcfg, issue_go h, arg_zero, hc]
  simp only [ha, hst, hp, Bool.or_false, Bool.false_eq_true, if_false]
  rfl

end Pcfg

/-! ### JPAT (R230, R231) -/

section Jpat
variable {s t : State} {n : BitVec 6} {a : Reg} {ea : DWord} {off mask entry k : Nat}

/-- The row that a record asks for, disabled. -/
def State.newRow (s : State) (l : List Byte) : Row :=
  { mask := BitVec.ofNat 32 (bytesField l 0 4), entry := BitVec.ofNat 48 (bytesField l 4 6),
    pri := BitVec.ofNat 3 ((l.getD 10 0).toNat % 8), rearm := (l.getD 10 0).toNat / 8 % 2 == 1,
    rotate := (l.getD 10 0).toNat / 16 % 2 == 1, en := false, sat := false, seq := 0, id := s.ctx.id,
    frm := BitVec.ofNat 3 s.ctx.frm, wlc := BitVec.ofNat 8 (bits s.ctx.status 20 8), wlu := BitVec.ofNat 2 (bits s.ctx.status 28 2) }

/-- Whether a row of the core is enabled. -/
def Core.rowOn (c : Core) (n : Nat) : Bool :=
  match c.rows.get? n with
  | some r => r.en
  | none => false

/-- A core with a row installed. -/
def Core.setRow (c : Core) (n : Nat) (r : Row) : Core := { c with rows := c.rows.set n r }

/-- JPAT of row n with its record read: s before the pops, t after them. -/
def State.install (s t : State) (n : Nat) (l : List Byte) : State :=
  if BitVec.ofNat 32 (bytesField l 0 4) = 0 ∨ (l.getD 10 0).toNat ≥ 32 ∨ (l.drop 11).any (· != 0) then s.raise (flt 0x02)
  else if bytesField l 4 6 % 4 ≠ 0 then s.raise (fltAt 0x04 (BitVec.ofNat 64 (bytesField l 4 6)))
  else if s.sid.val ≠ 7 ∧ (l.getD 10 0).toNat % 8 > s.launchPri then s.raise (flt 0x03)
  else if s.core.rowOn n then s.raise (fltAt 0x14 (BitVec.ofNat 64 n))
  else ({ t with core := t.core.setRow n (s.newRow l) } : State).advance

/-- The record of a row with its reserved bytes 0. -/
def rowRecord (mask entry k : Nat) : List Byte := leBytes mask 4 ++ (leBytes entry 6 ++ (leBytes k 1 ++ [0, 0, 0, 0, 0]))

theorem rowRecord_mask (h : mask < 2 ^ 32) : bytesField (rowRecord mask entry k) 0 4 = mask := bytesField_head _ h

theorem rowRecord_entry (h : entry < 2 ^ 48) : bytesField (rowRecord mask entry k) 4 6 = entry := by
  rw [rowRecord, bytesField_tail _ _ _ (by decide)]
  exact bytesField_head _ h

theorem rowRecord_byte (h : k < 256) : ((rowRecord mask entry k).getD 10 0).toNat = k := by
  have hk : (rowRecord mask entry k).getD 10 0 = BitVec.ofNat 8 k := rfl
  rw [hk, BitVec.toNat_ofNat, Nat.mod_eq_of_lt h]

theorem rowRecord_tail : ((rowRecord mask entry k).drop 11).any (· != 0) = false := rfl

section Record
variable (hmask : mask < 2 ^ 32) (hentry : entry < 2 ^ 48) (hk : k < 256)
include hmask hentry hk

/-- The row of a record whose fields are these. -/
theorem State.newRow_rowRecord : s.newRow (rowRecord mask entry k) =
    { mask := BitVec.ofNat 32 mask, entry := BitVec.ofNat 48 entry, pri := BitVec.ofNat 3 k, rearm := k / 8 % 2 == 1,
      rotate := k / 16 % 2 == 1, en := false, sat := false, seq := 0, id := s.ctx.id, frm := BitVec.ofNat 3 s.ctx.frm,
      wlc := BitVec.ofNat 8 (bits s.ctx.status 20 8), wlu := BitVec.ofNat 2 (bits s.ctx.status 28 2) } := by
  have hpri : BitVec.ofNat 3 (k % 8) = BitVec.ofNat 3 k := BitVec.eq_of_toNat_eq (by simp)
  rw [State.newRow, rowRecord_mask hmask, rowRecord_entry hentry, rowRecord_byte hk, hpri]

/-- The checks of JPAT in their order (log entry 167). -/
theorem State.install_rowRecord (i : Nat) : s.install t i (rowRecord mask entry k) =
    if mask = 0 ∨ 32 ≤ k then s.raise (flt 0x02)
    else if entry % 4 ≠ 0 then s.raise (fltAt 0x04 (BitVec.ofNat 64 entry))
    else if s.sid.val ≠ 7 ∧ k % 8 > s.launchPri then s.raise (flt 0x03)
    else if s.core.rowOn i then s.raise (fltAt 0x14 (BitVec.ofNat 64 i))
    else ({ t with core := t.core.setRow i (s.newRow (rowRecord mask entry k)) } : State).advance := by
  have hzero : BitVec.ofNat 32 mask = 0 ↔ mask = 0 := by
    rw [← BitVec.toNat_inj, BitVec.toNat_ofNat, Nat.mod_eq_of_lt hmask]
    rfl
  rw [State.install, rowRecord_mask hmask, rowRecord_entry hentry, rowRecord_byte hk, rowRecord_tail]
  simp only [hzero, Bool.false_eq_true, or_false, ge_iff_le]

variable {i : Nat}

theorem State.install_reserved (h : mask = 0 ∨ 32 ≤ k) : s.install t i (rowRecord mask entry k) = s.raise (flt 0x02) :=
  (State.install_rowRecord hmask hentry hk i).trans (if_pos h)

variable (hm0 : mask ≠ 0) (hk32 : k < 32)
include hm0 hk32

theorem State.install_misaligned (h : entry % 4 ≠ 0) :
    s.install t i (rowRecord mask entry k) = s.raise (fltAt 0x04 (BitVec.ofNat 64 entry)) := by
  rw [State.install_rowRecord hmask hentry hk, if_neg (by omega), if_pos h]

variable (h4 : entry % 4 = 0)
include h4

theorem State.install_privilege (h7 : s.sid ≠ 7) (hpri : s.launchPri < k % 8) :
    s.install t i (rowRecord mask entry k) = s.raise (flt 0x03) := by
  have h7v : s.sid.val ≠ 7 := fun h => h7 (Fin.ext h)
  rw [State.install_rowRecord hmask hentry hk, if_neg (by omega), if_neg (not_not_intro h4), if_pos ⟨h7v, hpri⟩]

variable (hpri : s.sid = 7 ∨ k % 8 ≤ s.launchPri)
include hpri

/-- A record that passes the checks of its fields goes into a disabled row. -/
theorem State.install_checked : s.install t i (rowRecord mask entry k) =
    if s.core.rowOn i then s.raise (fltAt 0x14 (BitVec.ofNat 64 i))
    else ({ t with core := t.core.setRow i (s.newRow (rowRecord mask entry k)) } : State).advance := by
  have hok : ¬ (s.sid.val ≠ 7 ∧ k % 8 > s.launchPri) := fun ⟨h7, hgt⟩ =>
    hpri.elim (fun h => h7 (congrArg Fin.val h)) fun h => Nat.not_lt.2 h hgt
  rw [State.install_rowRecord hmask hentry hk, if_neg (by omega), if_neg (not_not_intro h4), if_neg hok]

theorem State.install_on {r : Row} (hr : s.core.rows.get? i = some r) (hen : r.en = true) :
    s.install t i (rowRecord mask entry k) = s.raise (fltAt 0x14 (BitVec.ofNat 64 i)) := by
  rw [State.install_checked hmask hentry hk hm0 hk32 h4 hpri, if_pos (by rw [Core.rowOn, hr]; exact hen)]

theorem State.install_off (hoff : ∀ r, s.core.rows.get? i = some r → r.en = false) :
    s.install t i (rowRecord mask entry k) = ({ t with core := t.core.setRow i (s.newRow (rowRecord mask entry k)) } : State).advance := by
  have hon : s.core.rowOn i = false := by
    rw [Core.rowOn]
    cases hr : s.core.rows.get? i with
    | none => rfl
    | some r => exact hoff r hr
  rw [State.install_checked hmask hentry hk hm0 hk32 h4 hpri, hon]
  rfl

end Record

theorem Core.get?_setRow (c : Core) (i : Nat) (r : Row) : (c.setRow i r).rows.get? i = some r :=
  (Tbl.get?_set ..).trans (if_pos rfl)

/-- A row that is installed as the instruction completes. -/
theorem State.advance_setRow (t : State) (c : Core) (i : Nat) (r : Row) :
    ({ t with core := c.setRow i r } : State).advance.core.rows.get? i = some r := by
  rw [State.advance_rows]
  exact c.get?_setRow i r

variable (h : s.Ready ⟨[a], none, false, false⟩ [ea] t) (hc : s.checkScratch ea 8 = .ok off)
include h hc

theorem exec_jpat_waits (hw : s.heldByAcquire = true ∨ s.core.rangeStall s.cid off 16 = true) : exec (.jpat n a) s = .next s.stall := by
  change execJpat n a s = _
  rw [execJpat, issue_go h, arg_zero, hc]
  exact congrArg _ (if_pos (by simpa using hw))

theorem exec_jpat (ha : s.heldByAcquire = false) (hst : s.core.rangeStall s.cid off 16 = false) (hp : s.core.poisoned off 16 = false) :
    exec (.jpat n a) s = .next (s.install t n.toNat (s.spBytes s.cid off 16)) := by
  change execJpat n a s = _
  rw [execJpat, issue_go h, arg_zero, hc]
  simp only [ha, hst, hp, Bool.or_false, Bool.false_eq_true, if_false]
  generalize s.spBytes s.cid off 16 = l
  rfl

end Jpat

/-! ### JARM, JDIS, JRD (R231) -/

section Rows
variable {s : State} {n : BitVec 6} {d : Reg} {r : Row}

theorem mem_maskPorts_iff (mask : BitVec 32) (i : Nat) : i ∈ maskPorts mask ↔ i < 32 ∧ mask.getLsbD i = true := by
  rw [maskPorts, List.mem_filter, List.mem_range]

section Installed
variable (hr : s.core.rows.get? n.toNat = some r) (h : s.Ready ⟨[], none, false, false⟩ [] s)
include hr h

/-- JARM of an installed row asks for its ports. -/
theorem exec_jarm : exec (.jarm n) s = .next (
    if (maskPorts r.mask).any fun i => (s.core.ports.get? i).isNone then s.raise (fltAt 0x14 (BitVec.ofNat 64 n.toNat))
    else ({ s with core := s.core.setRow n.toNat { r with en := true } } : State).advance) := by
  change execJarm n s = _
  rw [execJarm, issue_go h]
  simp only [hr]
  rfl

theorem exec_jarm_unconfigured (hp : ∃ i < 32, r.mask.getLsbD i = true ∧ s.core.ports.get? i = none) :
    exec (.jarm n) s = .next (s.raise (fltAt 0x14 (BitVec.ofNat 64 n.toNat))) := by
  obtain ⟨i, hi, hm, hnone⟩ := hp
  rw [exec_jarm hr h, if_pos (List.any_eq_true.2 ⟨i, (mem_maskPorts_iff ..).2 ⟨hi, hm⟩, by rw [hnone]; rfl⟩)]

theorem exec_jarm_enables (hp : ∀ i < 32, r.mask.getLsbD i = true → (s.core.ports.get? i).isSome = true) :
    exec (.jarm n) s = .next ({ s with core := s.core.setRow n.toNat { r with en := true } } : State).advance := by
  have hall : ¬ ((maskPorts r.mask).any fun i => (s.core.ports.get? i).isNone) = true := fun hany => by
    obtain ⟨i, hi, hnone⟩ := List.any_eq_true.1 hany
    obtain ⟨hlt, hm⟩ := (mem_maskPorts_iff ..).1 hi
    have hsome := hp i hlt hm
    rw [Option.isNone_iff_eq_none.1 hnone] at hsome
    exact Bool.false_ne_true hsome
  rw [exec_jarm hr h, if_neg hall]

theorem exec_jdis : exec (.jdis n) s = .next ({ s with core := s.core.setRow n.toNat { r with en := false } } : State).advance := by
  change execJdis n s = _
  rw [execJdis, issue_go h]
  simp only [hr]
  rfl

end Installed

section NotInstalled
variable (hr : s.core.rows.get? n.toNat = none) (h : s.Ready ⟨[], none, false, false⟩ [] s)
include hr h

theorem exec_jarm_absent : exec (.jarm n) s = .next (s.raise (fltAt 0x14 (BitVec.ofNat 64 n.toNat))) := by
  change execJarm n s = _
  rw [execJarm, issue_go h]
  simp only [hr]
  rfl

theorem exec_jdis_absent : exec (.jdis n) s = .next s.advance := by
  change execJdis n s = _
  rw [execJdis, issue_go h]
  simp only [hr]

end NotInstalled

/-- JRD gives the status word of its row, that of an empty row where none is installed. -/
theorem exec_jrd {w : DWord} (hw : ((s.core.rows.get? n.toNat).getD Row.reset).word = w) (h : s.Ready ⟨[], some d, false, false⟩ [] s)
    (hd : s.dstCheck d w = .ok) : exec (.jrd d n) s = .next ((s.writeReg d w).advance) := by
  subst hw
  exact compute_next h hd

end Rows

end Sys2Proof.Machine
end

section
/-! ## The pattern unit and its firings (07 R232 to R238) -/

namespace Sys2Proof.Machine

/-! ### The arguments of a firing (R235) -/

/-- A word of a FIFO that is read, and told to slot 7 where its parity is bad, changes no slot and no row. -/
theorem State.readFifo_keeps (s : State) (k i : Nat) :
    (if (s.readFifo k).1 then (s.readFifo k).2.parityTrap i else (s.readFifo k).2).core.slots = s.core.slots ∧
    (if (s.readFifo k).1 then (s.readFifo k).2.parityTrap i else (s.readFifo k).2).core.rows = s.core.rows := by
  split <;> exact ⟨rfl, rfl⟩

/-- To take an argument changes no slot and no row. -/
theorem State.takeArg_keeps (s : State) (i : Nat) :
    (s.takeArg i).1.core.slots = s.core.slots ∧ (s.takeArg i).1.core.rows = s.core.rows := by
  unfold State.takeArg
  split
  · exact ⟨rfl, rfl⟩
  · split
    · exact ⟨rfl, rfl⟩
    · split
      · exact ⟨rfl, rfl⟩
      · dsimp only
        rw [State.countConsume_core]
        exact s.readFifo_keeps (4 + i) i

theorem State.takeArgs_keeps (s : State) (l : List Nat) :
    (s.takeArgs l).1.core.slots = s.core.slots ∧ (s.takeArgs l).1.core.rows = s.core.rows := by
  induction l generalizing s with
  | nil => exact ⟨rfl, rfl⟩
  | cons i l ih =>
    obtain ⟨hs, hr⟩ := s.takeArg_keeps i
    obtain ⟨hs', hr'⟩ := ih (s.takeArg i).1
    exact ⟨hs'.trans hs, hr'.trans hr⟩

/-! ### A fibre of the run queue becomes READY -/

theorem Core.slotOf?_congr {c c' : Core} (h : c'.slots = c.slots) (e : Nat) : c'.slotOf? e = c.slotOf? e := by
  simp only [Core.slotOf?, h]

theorem testBit_bits {n : Nat} (w : BitVec n) (lo len i : Nat) : (bits w lo len).testBit i = (decide (i < len) && w.getLsbD (lo + i)) := by
  rw [bits, Nat.testBit_mod_two_pow, Nat.testBit_shiftRight]
  rfl

theorem bits_putBits_same {n : Nat} (w : BitVec n) {lo len : Nat} (v : Nat) (h : lo + len ≤ n) : bits (putBits w lo len v) lo len = v % 2 ^ len := by
  refine Nat.eq_of_testBit_eq fun i => ?_
  rw [testBit_bits, getLsbD_putBits, Nat.testBit_mod_two_pow]
  by_cases hi : i < len
  · rw [if_pos (by omega), decide_eq_true (p := lo + i < n) (by omega), Nat.add_sub_cancel_left, Bool.true_and]
  · simp [hi]

theorem bits_putBits_below {n : Nat} (w : BitVec n) {lo len lo' len' : Nat} (v : Nat) (h : lo' + len' ≤ lo) :
    bits (putBits w lo len v) lo' len' = bits w lo' len' := by
  refine Nat.eq_of_testBit_eq fun i => ?_
  rw [testBit_bits, testBit_bits, getLsbD_putBits]
  by_cases hi : i < len'
  · rw [if_neg (by omega)]
  · simp [hi]

theorem Ctx.inState_state (c : Ctx) (st reason : Nat) : (c.inState st reason).state = st % 2 ^ 3 := by
  rw [Ctx.state, Ctx.inState, bits_putBits_below _ _ (by decide), bits_putBits_same _ _ (by decide)]

/-- What makeReady makes of a fibre of the run queue. -/
def State.readied (s : State) (f : Fibre) : Fibre :=
  { f.inState stReady 0 with stamp := s.core.stampCount + 1, readySince := s.now, readyAt := max f.readyAt (s.coreCycles + 1) }

theorem State.makeReady_queued {s : State} {e : Nat} {f : Fibre} (hs : s.core.slotOf? e = none) (hf : s.core.runq.get? e = some f) :
    s.makeReady e = { s with core := { s.core with runq := s.core.runq.set e (s.readied f), stampCount := s.core.stampCount + 1 } } := by
  have hfib : s.core.fibre? e = some f := by rw [Core.fibre?, hs]; exact hf
  simp only [State.makeReady, hfib, Core.setFibre, hs]
  rfl

/-! ### The firing (R235, R237, R238) -/

section Fire
variable {s : State} {n e : Nat} {r : Row}

/-- The handler fibre of a firing of row n in entry e, in the state u after its arguments are taken. -/
def State.handler (u : State) (n : Nat) (r : Row) (args : List (Nat × Option DWord)) (e : Nat) : Fibre :=
  let old := (u.core.runq.get? e).getD Fibre.reset
  { old with ctx := handlerCtx n r, job := u.core.job, row := some n, args := args, wait := none, live := none, liveSince := u.coreCycles,
             gangs := [], pend := old.pend }

/-- A firing but for the handler's place among the READY fibres. -/
def State.fired (s : State) (n : Nat) (r : Row) (e : Nat) : State :=
  let t := s.takeArgs (maskPorts r.mask)
  let lf := if r.rotate then t.1.core.lastfire.set (Fin.ofNat 8 r.pri.toNat) (BitVec.ofNat 4 n) else t.1.core.lastfire
  { t.1 with core := { t.1.core.disown e with runq := t.1.core.runq.set e (t.1.handler n r t.2 e),
                                              rows := t.1.core.rows.set n { r with seq := r.seq + 1, en := r.rearm }, lastfire := lf } }

theorem State.fire_eq (he : s.core.handlerEntry? n = some e) : s.fire n r = (s.fired n r e).makeReady e := by
  simp only [State.fire, he]
  rfl

theorem State.fired_slotOf? (hs : s.core.slotOf? e = none) : (s.fired n r e).core.slotOf? e = none :=
  (Core.slotOf?_congr (s.takeArgs_keeps (maskPorts r.mask)).1 e).trans hs

theorem State.fired_runq : (s.fired n r e).core.runq.get? e =
    some ((s.takeArgs (maskPorts r.mask)).1.handler n r (s.takeArgs (maskPorts r.mask)).2 e) :=
  (Tbl.get?_set ..).trans (if_pos rfl)

/-- After a firing the handler stands READY in its entry with its arguments, and the row has counted the firing. -/
theorem State.fire_holds (he : s.core.handlerEntry? n = some e) (hs : s.core.slotOf? e = none) :
    (s.fire n r).core.runq.get? e =
      some ((s.fired n r e).readied ((s.takeArgs (maskPorts r.mask)).1.handler n r (s.takeArgs (maskPorts r.mask)).2 e)) ∧
    (s.fire n r).core.rows.get? n = some { r with seq := r.seq + 1, en := r.rearm } := by
  rw [State.fire_eq he, State.makeReady_queued (State.fired_slotOf? hs) State.fired_runq]
  exact ⟨(Tbl.get?_set ..).trans (if_pos rfl), (Tbl.get?_set ..).trans (if_pos rfl)⟩

end Fire

/-! ### The evaluation (R232 to R234) -/

section Evaluation
variable {s : State}

/-- The state with the SAT of every enabled row renewed. -/
def State.resat (s : State) : State :=
  { s with core := { s.core with rows := s.core.rows.map fun r => (r.1, if r.2.en then { r.2 with sat := s.rowSat r.2 } else r.2) } }

/-- The row that was chosen fires. -/
def State.fireChosen (s : State) : Option (Nat × Row) → State
  | some r => s.fire r.1 r.2
  | none => s

theorem exec_patternFire : exec .patternFire s = .next (s.resat.fireChosen s.resat.firing?) := rfl

theorem exec_patternFire_none (h : s.resat.firing? = none) : exec .patternFire s = .next s.resat := by
  rw [exec_patternFire, h]
  rfl

theorem exec_patternFire_fires {n : Nat} {r : Row} (h : s.resat.firing? = some (n, r)) : exec .patternFire s = .next (s.resat.fire n r) := by
  rw [exec_patternFire, h]
  rfl

end Evaluation

/-! ### The statement -/

/-- Settles O27: PCFG and JPAT by their descriptors, JARM, JDIS and JRD by their row, an evaluation by the row that fires. -/
theorem portsAndPatterns : Obligations.PortsAndPatterns := by
  unfold Obligations.PortsAndPatterns
  refine ⟨⟨?pcfg, ?jpat, ?installed, ?absent⟩, ?fire⟩
  case pcfg =>
    intro pt a s t ea off depth ovf h hc
    refine ⟨exec_pcfg_waits h hc, fun ha hst hpo => ?_⟩
    rw [exec_pcfg h hc ha hst hpo]
    refine ⟨fun hr => congrArg _ (State.configure_reserved hr), fun hr hu => congrArg _ (State.configure_inUse hr hu),
      fun hl hdepth hn hi hroom => ?queue, fun hn hi => ⟨fun hl => ?remove, fun w o arm hl hw ho hfree => ?counter⟩⟩
    case queue =>
      obtain ⟨h0, h1, hovf, hd, hr⟩ := queueDescriptor_describes ovf hdepth
      rw [hl, leWord_leBytes]
      change ∃ u, Host.Outcome.next (s.configure t pt.toNat (queueDescriptor ovf depth)) = _ ∧ _
      rw [State.configure_queue hr hn hi h0 h1 (by rwa [hd])]
      exact ⟨_, rfl, (State.advance_mem _).trans h.mem, queuePort (queueDescriptor ovf depth),
        State.advance_setPort .., rfl, hovf, congrArg (· + 1) hd, rfl, rfl, rfl⟩
    case remove =>
      rw [hl, leWord_leBytes, State.configure_removes (by decide) hn hi (by decide)]
      exact ⟨_, rfl, (State.advance_mem _).trans h.mem, State.advance_freePort ..⟩
    case counter =>
      obtain ⟨h0, h1, harm, hwoff, hr⟩ := counterDescriptor_describes arm hw
      rw [hl, leWord_leBytes]
      change ∃ u p, Host.Outcome.next (s.configure t pt.toNat (counterDescriptor arm w)) = _ ∧ _
      rw [State.configure_counter hr hn hi h0 h1 (by rwa [hwoff]) (by rwa [hwoff, State.popAll_ports h.2])]
      exact ⟨_, counterPort (counterDescriptor arm w), rfl, (State.advance_mem _).trans h.mem,
        State.advance_setPort .., rfl, hwoff, harm, rfl⟩
  case jpat =>
    intro n a s t ea off mask entry k h hc
    refine ⟨exec_jpat_waits h hc, fun ha hst hpo hl hmask hentry hk => ?_⟩
    have hrec : s.spBytes s.cid off 16 = rowRecord mask entry k := by
      rw [State.spBytes, hl, rowRecord, List.append_assoc, List.append_assoc]
    rw [exec_jpat h hc ha hst hpo, hrec]
    refine ⟨fun hbad => congrArg _ (State.install_reserved hmask hentry hk hbad),
      fun hm0 hk32 h4 => congrArg _ (State.install_misaligned hmask hentry hk hm0 hk32 h4),
      fun hm0 hk32 h4 h7 hpri => congrArg _ (State.install_privilege hmask hentry hk hm0 hk32 h4 h7 hpri),
      fun hm0 hk32 h4 hpri r hr hen => congrArg _ (State.install_on hmask hentry hk hm0 hk32 h4 hpri hr hen),
      fun hm0 hk32 h4 hpri hoff => ?_⟩
    rw [State.install_off hmask hentry hk hm0 hk32 h4 hpri hoff, State.newRow_rowRecord hmask hentry hk]
    exact ⟨_, _, rfl, (State.advance_mem _).trans h.mem, State.advance_setRow ..,
      rfl, rfl, rfl, rfl, rfl, rfl, rfl, rfl, rfl⟩
  case installed =>
    intro n d s r hr
    exact ⟨fun h => ⟨exec_jarm_unconfigured hr h, exec_jarm_enables hr h, exec_jdis hr h⟩,
      fun h hd => exec_jrd (by rw [hr]; rfl) h hd⟩
  case absent =>
    intro n d s hr
    exact ⟨fun h => ⟨exec_jarm_absent hr h, exec_jdis_absent hr h⟩, fun h hd => exec_jrd (by rw [hr]; decide) h hd⟩
  case fire =>
    intro s rows s1
    refine ⟨exec_patternFire_none, fun n r e hf he _ hs => ⟨exec_patternFire_fires hf, ?_⟩⟩
    obtain ⟨hrun, hrow⟩ := State.fire_holds (r := r) he hs
    exact ⟨_, hrun, rfl, rfl, rfl, rfl, rfl, Ctx.inState_state .., rfl, rfl, hrow⟩

end Sys2Proof.Machine
end
